-- ==== Sys2Proof/Word.lean ====
section
/-!
DEFINITION. The word types of the CDC-2 model: bytes, 32-bit register words, byte strings, and the sparse
table that holds every array of the block (a list of key and value pairs).
-/

namespace Sys2Proof

/-- One byte. -/
abbrev Byte := BitVec 8

/-- One 32-bit register word (R12). -/
abbrev Word := BitVec 32

/-- A byte string in memory or on a wire, first byte first. -/
abbrev Bytes := List Byte

/-- A sparse table: keys strictly rising, no entry equal to what an unlisted key reads as. Its operations stand in
`Machine/Table.lean`. -/
abbrev Table (α : Type) := List (Nat × α)

end Sys2Proof
end

