-- ==== Sys2Proof/Syntax.lean ====
section
/-!
DEFINITION. The commands of the block: one constructor of `Instr` for each row of spec/opcode_table.json, with the
operands the row takes. What a port or a memory outside the boundary delivers is an operand.
-/

namespace Sys2Proof

/-- Who makes a register access (R15, R85): the classes OPERATOR and SEALED, the driver of berth b through its window,
an MGMT access inside secured session i, and an unsecured Denkan access (R143). OPERATOR and BERTH arrive in the IDE stream of their
function; `plain` is a TLP outside any IDE stream, to PF0 or to the VF of a berth (R64). -/
inductive Master where
  | operator
  | sealed
  | berth (b : Fin 32)
  | session (i : Fin 16)
  | unsecured
  | plain (b : Option (Fin 32))
deriving DecidableEq, Repr

/-- A port with a reset of its own (R56, R58). -/
inductive Port where
  | landing (n : Fin 64)
  | engineA (k : Fin 4)
  | attach (a : Fin 16)
  | hif
deriving DecidableEq, Repr

/-- A management transport (R55, R68): the two of the management port and the PF0 DOE mailbox. -/
inductive Transport where
  | i3c
  | oob
  | doe
deriving DecidableEq, Repr

/-- The test inputs of R73. -/
inductive TestPin where
  | scanEn
  | freeze
  | mbist
deriving DecidableEq, Repr

/-- The status codes of R18. -/
inductive Status where
  | ok | pending | busy | notYet
  | denied | lost | staleHandle | absent
  | tagFail | poison | counterExhausted
  | uncorrectable | fetchTrap
  | lifecycle
deriving DecidableEq, Repr

/-- An error that a page records in the handshake of another access (R14, R95). -/
structure ErrEvent where
  code  : Status
  berth : Option (Fin 32)
deriving DecidableEq, Repr

/-- A stage register that only its holder writes (R128, R139). -/
inductive StageReg where
  | target
  | kcv
  | wrapKid
deriving DecidableEq, Repr

/-- The GSE commands of R176. -/
inductive GseOp where
  | sealOpen | sealRun | sealClose | unsealOpen | unsealRun | unsealClose | rewrap
deriving DecidableEq, Repr

/-- A GSE descriptor (R176), its fields read from the 64 bytes; `clean` says that its OP is defined and every
reserved field is 0. -/
structure GseDesc where
  op      : GseOp
  berth   : Fin 32
  masked  : Bool
  tag     : Word
  kidA    : Nat
  kidB    : Nat
  first   : Nat
  count   : Nat
  buffer  : Word
  record  : Word
  bufOff  : Nat
  recOff  : Nat
  clean   : Bool
deriving DecidableEq, Repr

/-- Why a queue is scanned (R288): a scan window starts, the WAKE fence changed, or room came free. -/
inductive ScanCause where
  | window
  | wake
  | room
deriving DecidableEq, Repr

/-- Where an upset of an SRAM lies: the SITE codes of R414, with what R407 to R409 need to know of the unit. -/
inductive EccSite where
  | hold
  | core (c : Fin 4)
  | keyCache (kid : Fin 2048)
  | rootTable (r : Fin 256)
  | ctCache (way : Fin 16) (region : Fin 256) (level : Nat) (index : Nat)
  | contextTable (c : Fin 4096)
  | commandStore (c : Fin 4096) (i : Nat)
  | crossing (n : Fin 64) (x : Fin 32)
  | barrier (e : Fin 256)
  | sueStore (b : Fin 32)
  | gseStore (b : Fin 32)
  | traceBuffer (buf : Fin 64)
deriving DecidableEq, Repr

/-- The transaction whose reply a PORT watch waited for (R421). -/
inductive PortWait where
  | cxl (k : Fin 4)
  | hifLoad
  | hifSector (b : Fin 32)
  | hifScan (c : Fin 4096)
  | internal (g : Fin 8) (tid : BitVec 10)
deriving DecidableEq, Repr

/-- Why a Ferrymen core faults (R427, DETAIL0 of CORE_FAULT). -/
inductive CoreCause where
  | fetchTrap
  | watchdog
  | illegal
deriving DecidableEq, Repr

/-- Where a Denkan request came from (R443, R446): inside secured session `sess`, or outside any, on transport `via`. -/
structure MgmtSrc where
  sess : Option (Fin 16)
  via  : Transport
deriving DecidableEq, Repr

/-- The TDISP messages that move a TDI (R65). -/
inductive TdiLock where
  | lock
  | start (nonce : BitVec 256)
  | stop
deriving DecidableEq, Repr

/-- The TDISP messages that report (R65). -/
inductive TdiQuery where
  | report
  | state
  | version
  | capabilities
deriving DecidableEq, Repr

/-- The algorithms of R68, as a requester may offer them. -/
inductive SpdmAlg where
  | ecdsaP384
  | sha384
  | dheSecp384r1
  | aes256Gcm
deriving DecidableEq, Repr

/-- The header fields of a Denkan request that the block checks or echoes (R443). -/
structure DenkanHdr where
  ver : Byte
  tag : BitVec 16
  len : Nat
deriving DecidableEq, Repr

/-- A command read by a queue scan: its 64 bytes, and whether the fetch met poison or an uncorrectable word (R411). -/
structure FetchedCmd where
  raw : Bytes
  bad : Bool
deriving DecidableEq, Repr

/-- Bits of one 32-bit word of a memory path that arrive inverted (R403): data bits in 31:0, check bits in 38:32. -/
structure WordErr where
  word  : Nat
  flips : BitVec 39
deriving DecidableEq, Repr

/-- An error on the path of a COPY's line from the Hold to engine A (R410): the line, and whether it meets the first reading or the
second. -/
structure LineErr where
  line  : Nat
  again : Bool
  err   : WordErr
deriving DecidableEq, Repr

/-- Stored bits of a Hold byte that have flipped since it was written (R402): data bits and check bits. -/
structure Upset where
  addr  : Nat
  data  : Byte
  check : BitVec 5
deriving DecidableEq, Repr

/-- One step of the block's table of operations and events. A row that reads a register takes the page offset and the size of the
read (R100). -/
inductive Instr where
  -- register access
  | registerWrite (m : Master) (off size val : Nat)
  | setAliasWrite (m : Master) (off : Nat) (val : Word)
  | clrAliasWrite (m : Master) (off : Nat) (val : Word)
  | pageErrClear (m : Master) (page : Nat) (ev : Option ErrEvent)
  | pageIrqClrWrite (m : Master) (page : Nat) (val ev : Word)
  | glbTickLoRead (m : Master) (off size : Nat)
  | unitEnable (m : Master) (page : Nat)
  | unitDrain (m : Master) (page : Nat)
  | unitSquash (m : Master) (page : Nat)
  | unitDrainComplete (page : Nat)
  | unitScrubComplete (page : Nat)
  -- resets, pins and the Slipway
  | powerOnReset
  | warmReset
  | resetRelease
  | startComplete
  | portReset (p : Port)
  | portResetRelease (p : Port)
  | phyDown (n : Fin 64)
  | testInput (t : TestPin) (level : Bool)
  | slipPfFall
  | slipPulse
  | slipAccept
  | slipStopComplete
  | slipDrainComplete
  | slipClearComplete
  -- memory fabric, compute engines, wake wires, CXL, OTP
  | hbmFabricRequest (g : Fin 8) (slice : Fin 32) (addr : BitVec 40) (b : Fin 32) (tid : BitVec 10)
      (wdata : Option Bytes)
  | hbmMcResponse (g : Fin 8) (slice : Fin 32) (tid : BitVec 10) (rdata : Bytes) (poison : Bool)
      (errs : List WordErr)
  | ceCommandIssue (a : Fin 16)
  | ceCompletion (a : Fin 16) (status : Byte) (ctx gen : BitVec 12)
  | operandTransfer (a : Fin 16) (b : Fin 32) (index : BitVec 16) (line : Nat) (wdata : Option Bytes) (ups : List Upset)
  | ceScrubAckChange (a : Fin 16) (level : Bool)
  | wakeAckChange (w : Fin 64) (level : Bool)
  | cxlDrsResponse (k : Fin 4) (tag : Nat) (gen : BitVec 12) (line : Bytes) (poison : Bool)
      (errs : List WordErr)
  | cxlNdrResponse (k : Fin 4) (tag : Nat) (gen : BitVec 12)
  | otpProgramDone (readback : BitVec 39)
  -- life cycle
  | lcsClearComplete
  | lcsRequest (m : Master) (val : Word)
  | lcsNonceRead (m : Master) (off size : Nat)
  | lcsDataWrite (m : Master) (i : Fin 8) (val : Word)
  -- keys
  | keyRangeCmd (m : Master) (val : Word)
  | keyRangeComplete
  | tideSlotStart (b : Fin 32)
  | derivationComplete (kid : Fin 2048)
  | retireDrainComplete (kid : Fin 2048)
  | kstgClaim (m : Master)
  | kstgUnwrap (m : Master)
  | kstgUnwrapComplete
  | kstgVerify (m : Master)
  | kstgVerifyComplete
  | kstgCommit (m : Master)
  | kstgAbort (m : Master)
  | kstgRelease (m : Master)
  | kstgKeyWrite (m : Master) (i : Fin 8) (val : Word)
  | kstgBlobWrite (m : Master) (i : Fin 10) (val : Word)
  | kstgSetupWrite (m : Master) (r : StageReg) (val : Word)
  | kstgIdleTimeout
  -- GSE
  | gseSubmit (m : Master) (val : Word)
  | gseCplPop (m : Master) (off size : Nat)
  | sealOpen (d : GseDesc)
  | sealSectors (d : GseDesc)
  | sealClose (d : GseDesc)
  | unsealOpen (gen : BitVec 12) (record : Bytes)
  | unsealSectors
  | unsealClose
  | rewrap (d : GseDesc) (gen : BitVec 12) (record : Bytes)
  | restoreStageTimeout
  | gseSectorDone (b : Fin 32) (i : Nat) (gen : BitVec 12) (data : Bytes) (err : Option Status)
  | gseKeyOpComplete (b : Fin 32)
  | drbgReseed (healthy : Bool)
  -- Landings
  | roundStart (n : Fin 64)
  | markerReceive (n : Fin 64) (words : List Bytes)
  | frameTransmit (n : Fin 64) (slot : Fin 62) (errs : List WordErr) (ups : List Upset)
  | frameReceive (n : Fin 64) (slot : Fin 62) (raw : Bytes) (errs : List WordErr)
  | dataFrame (n : Fin 64) (slot : Fin 62) (raw : Bytes)
  | gradFrame (n : Fin 64) (slot : Fin 62) (raw : Bytes)
  | syncFrame (n : Fin 64) (slot : Fin 62) (raw : Bytes)
  | hello (n : Fin 64) (slot : Fin 62) (raw : Bytes)
  | prove (n : Fin 64) (slot : Fin 62) (raw : Bytes)
  | ack (n : Fin 64) (slot : Fin 62) (raw : Bytes)
  | nak (n : Fin 64) (slot : Fin 62) (raw : Bytes)
  | toll (n : Fin 64) (slot : Fin 62) (raw : Bytes)
  | fail (n : Fin 64) (slot : Fin 62) (raw : Bytes)
  | idle (n : Fin 64) (slot : Fin 62) (raw : Bytes)
  | retransmitTimeout (n : Fin 64) (x : Fin 32)
  | landingEnterFord (n : Fin 64)
  | fordTimeout (n : Fin 64)
  | proveTimeout (n : Fin 64) (x : Fin 32)
  | landingDrainComplete (n : Fin 64)
  | landingDrainTimeout (n : Fin 64)
  -- the Hold
  | holdRangeCmd (m : Master) (val : Word)
  | bankSetComplete (bad : List Nat)
  | holdReadResume (w : Nat)
  | pinWaitResume (n : Fin 64) (x : Fin 32)
  | recycleDeferredComplete (i : Nat)
  -- memory protection engines
  | mixKeyLoaded (b : Fin 32)
  | mixKeyUnload (b : Fin 32)
  | memsRegionWrite (m : Master) (val : Word)
  | memaRegionCreate (m : Master) (val : Word)
  | memaRegionDestroy (m : Master) (val : Word)
  | memaRoll (m : Master) (val : Word)
  | rollComplete (r : Fin 256)
  | memaWayCmd (m : Master) (val : Word)
  | memaWayComplete
  | debugRead (m : Master) (val : Word)
  -- contexts, queues, objects
  | queueScan (c : Fin 4096) (cause : ScanCause) (gen : BitVec 12) (desc : Bytes) (bad : Bool) (cmds : List FetchedCmd)
  | commandStart (c : Fin 4096)
  | commandRetire (c : Fin 4096) (i : Nat)
  | nop (c : Fin 4096) (i : Nat)
  | fenceNew (c : Fin 4096) (i : Nat)
  | fenceReset (c : Fin 4096) (i : Nat)
  | bufferNew (c : Fin 4096) (i : Nat)
  | objFree (c : Fin 4096) (i : Nat)
  | objFreeDeferredComplete (fence : Bool) (index : Nat)
  | recycle (c : Fin 4096) (i : Nat)
  | copy (c : Fin 4096) (i : Nat) (errs : List LineErr) (ups : List Upset)
  | send (c : Fin 4096) (i : Nat)
  -- berths and scheduling
  | create (m : Master) (b : Fin 32)
  | load (m : Master) (b : Fin 32)
  | loadComplete (gen : BitVec 12) (container : Bytes) (bad : Bool)
  | resize (m : Master) (b : Fin 32)
  | reclaim (m : Master) (b : Fin 32)
  | sealMsExpiry (b : Fin 32)
  | berthQuiesced (b : Fin 32)
  | berthScrubComplete (b : Fin 32)
  | sliceEnd (c : Fin 4096)
  | contextSwapComplete (c : Fin 4096)
  | npCapExpiry (c : Fin 4096)
  -- synchronisation
  | syncArm (b : Fin 32) (val : Word)
  | syncDisarm (b : Fin 32) (val : Word)
  | syncWireWrite (m : Master) (w : Fin 64) (val : Word)
  | arrive (n : Fin 64) (x : Fin 32) (msg : Bytes)
  | release (n : Fin 64) (x : Fin 32) (msg : Bytes)
  | abort (n : Fin 64) (x : Fin 32) (msg : Bytes)
  -- SUE
  | sueLaneCmd (m : Master) (val : Word)
  | sueLaneComplete
  | wait (b : Fin 32) (op : Nat)
  | signal (b : Fin 32) (op : Nat)
  | sendGrad (b : Fin 32) (op : Nat)
  | reduce (b : Fin 32) (op : Nat) (ups : List Upset)
  | programArrive (b : Fin 32) (op : Nat)
  | apply (b : Fin 32) (op : Nat)
  | programRecycle (b : Fin 32) (op : Nat)
  | sueOpComplete (b : Fin 32) (op : Nat)
  | layerScale (c : Fin 4096) (i : Nat)
  | stepInfo (c : Fin 4096) (i : Nat)
  | commit (m : Master) (val : Word)
  | clear (m : Master) (val : Word)
  -- ECC
  | patrolRead (site : EccSite) (addr : Nat) (flipData : Byte) (flipCheck : BitVec 5)
  | eccLogPop (m : Master) (off size : Nat)
  | eccDmaHaltWrite (m : Master) (val : Word)
  | eccRetireCmd (m : Master) (val : Word)
  | eccInjCtrl (m : Master) (val : Word)
  | eccInjComplete
  -- watches, cores, recovery
  | portWatchExpiry (w : PortWait)
  | attachWatchExpiry (a : Fin 16)
  | holdWatchExpiry (w : Nat)
  | xingWatchExpiry (n : Fin 64) (x : Fin 32)
  | barrierWatchExpiry (e : Fin 256)
  | quiesceWatchExpiry (b : Fin 32)
  | cescrubWatchExpiry (b : Fin 32)
  | drainWatchExpiry (page : Nat)
  | coreWatchExpiry (c : Fin 4) (pc : Word)
  | recvRecPop (m : Master) (off size : Nat)
  | recvKick (m : Master) (c : Fin 4) (val : Word)
  | coreFault (c : Fin 4) (cause : CoreCause) (pc : Word) (page : Option Nat)
  | coreRestartComplete (c : Fin 4) (patchGood : Bool)
  | recoveryNotice
  -- SPDM, IDE, TDISP
  | getVersion (t : Transport)
  | getCapabilities (t : Transport)
  | negotiateAlgorithms (t : Transport) (offer : List SpdmAlg)
  | getDigests (t : Transport)
  | getCertificate (t : Transport) (slot : Fin 8)
  | challenge (t : Transport) (slot : Fin 8) (nonce : BitVec 256)
  | getMeasurements (src : MgmtSrc) (index : Byte)
  | keyExchange (t : Transport) (eid : Byte) (slot : Fin 8) (reqId : BitVec 16) (point : Bytes)
  | finish (src : MgmtSrc) (transcript : Bytes) (good : Bool)
  | keyUpdate (src : MgmtSrc)
  | heartbeat (src : MgmtSrc)
  | endSession (src : MgmtSrc)
  | ideKm (src : MgmtSrc) (stream : Fin 33) (keySet : Fin 2) (key : Option (BitVec 256))
  | lockInterface (b : Fin 32) (req : TdiLock)
  -- Denkan
  | realmAuth (src : MgmtSrc) (h : DenkanHdr) (point sig : Bytes)
  | regRead (src : MgmtSrc) (h : DenkanHdr) (off count : Nat)
  | regWrite (src : MgmtSrc) (h : DenkanHdr) (off : Nat) (words : List Word)
  | enroll (src : MgmtSrc) (h : DenkanHdr) (digest : Bytes) (rights : Word)
  | revoke (src : MgmtSrc) (h : DenkanHdr) (r : Nat)
  | patchBegin (src : MgmtSrc) (h : DenkanHdr) (length : Nat)
  | patchData (src : MgmtSrc) (h : DenkanHdr) (off : Nat) (image : Bytes)
  | patchEnd (src : MgmtSrc) (h : DenkanHdr) (activate floor : Bool)
  | patchActivate
  | denkanRewrap (src : MgmtSrc) (h : DenkanHdr) (record : Word) (recOff kidA kidB : Nat)
  | slotBind (m : Master) (val : Word)
  | slotRelease (m : Master) (val : Word)
  -- debug and trace
  | dbgOpenWrite (m : Master) (val : Word)
  | halt (m : Master) (val : Word)
  | resume (m : Master) (val : Word)
  | step (m : Master) (val : Word)
  | breakpointHit (c : Fin 4) (pc : Word)
  | dbgMemDataRead (m : Master) (off size : Nat)
  | counterWindowEnd (b : Option (Fin 32))
  | assign (m : Master) (val : Word)
  | unassign (m : Master) (val : Word)
  | traceDrain (b : Fin 32)
  -- I3C and TDISP reports
  | entdaa (addr : BitVec 7)
  | setdasa (addr : BitVec 7)
  | interfaceReport (b : Fin 32) (query : TdiQuery)
deriving DecidableEq, Repr

end Sys2Proof
end

