-- ==== Sys2Proof/Decode.lean ====
section
/-!
DEFINITION. The commands a word spells. The block takes steps at its ports and decodes no instruction words: every row of
spec/opcode_table.json gives no bits (98_reader.md), so no word spells a command.
-/

namespace Sys2Proof

/-- The command whose row the word w of nbits bits spells: none, since no row of the table gives bits. -/
def decodeTableWord (_nbits _w : Nat) : Option Instr := none

end Sys2Proof
end

