-- ==== Sys2Proof/Machine/Table.lean ====
section
/-!
DEFINITION. The operations of the sparse tables (`Table`, Word.lean) and of byte strings. A table holds the entries that
differ from what an unlisted key reads as, keys strictly rising, so that equal contents are equal data.
-/

namespace Sys2Proof.Machine

/-- The entry at key k; d is what an unlisted key reads as. -/
def tget {α : Type} (d : α) : Table α → Nat → α
  | [], _ => d
  | (j, a) :: t, k => if j = k then a else tget d t k

/-- Writes the entry at key k, keeping the keys rising; writing d removes the entry. -/
def tset {α : Type} [DecidableEq α] (d : α) : Table α → Nat → α → Table α
  | [], k, v => if v = d then [] else [(k, v)]
  | (j, a) :: t, k, v =>
    if k < j then (if v = d then (j, a) :: t else (k, v) :: (j, a) :: t)
    else if k = j then (if v = d then t else (k, v) :: t)
    else (j, a) :: tset d t k v

/-- Changes the entry at key k. -/
def tmod {α : Type} [DecidableEq α] (d : α) (t : Table α) (k : Nat) (f : α → α) : Table α :=
  tset d t k (f (tget d t k))

/-- The keys of a table whose entry satisfies p (p is false of what an unlisted key reads as). -/
def tfind {α : Type} (t : Table α) (p : Nat → α → Bool) : List Nat :=
  (t.filter fun e => p e.1 e.2).map Prod.fst

/-- The canonical form: keys strictly rising, and no entry equal to d. -/
def tcanon {α : Type} [DecidableEq α] (d : α) : Table α → Bool
  | [] => true
  | [(_, a)] => a ≠ d
  | (j, a) :: (k, b) :: t => a ≠ d && j < k && tcanon d ((k, b) :: t)

/-- Writes a run of entries from key k on. -/
def tsets {α : Type} [DecidableEq α] (d : α) (t : Table α) (k : Nat) : List α → Table α
  | [] => t
  | v :: vs => tsets d (tset d t k v) (k + 1) vs

/-- A run of n entries from key k on. -/
def tgets {α : Type} (d : α) (t : Table α) (k n : Nat) : List α :=
  (List.range n).map fun i => tget d t (k + i)

/-! ### Byte strings: little-endian numbers (R7) -/

/-- The number a byte string spells, byte 0 least significant. -/
def leNat : Bytes → Nat
  | [] => 0
  | b :: bs => b.toNat + 256 * leNat bs

/-- n bytes of a number, least significant first. -/
def leBytes : Nat → Nat → Bytes
  | 0, _ => []
  | n + 1, v => BitVec.ofNat 8 v :: leBytes n (v / 256)

/-- The number a byte string spells, byte 0 most significant. -/
def beNat (bs : Bytes) : Nat := leNat bs.reverse

/-- n bytes of a number, most significant first. -/
def beBytes (n v : Nat) : Bytes := (leBytes n v).reverse

/-- n bytes of a string from offset o on; bytes past its end read 0. -/
def slice (bs : Bytes) (o n : Nat) : Bytes :=
  let r := (bs.drop o).take n
  r ++ List.replicate (n - r.length) 0

/-- An unsigned field of a structure in memory: n bytes at offset o. -/
def fieldLE (bs : Bytes) (o n : Nat) : Nat := leNat (slice bs o n)

/-- Bits hi to lo of a number. -/
def bits (v hi lo : Nat) : Nat := (v >>> lo) % 2 ^ (hi - lo + 1)

/-- Bit i of a number. -/
def bit (v i : Nat) : Bool := v.testBit i

/-- 1 or 0. -/
def b2n (p : Bool) : Nat := if p then 1 else 0

/-- A 256-bit key as the 32-byte string of R462. -/
def keyBytes (k : BitVec 256) : Bytes := leBytes 32 k.toNat

/-- A 32-byte string as the 256-bit key of R462. -/
def bytesKey (bs : Bytes) : BitVec 256 := BitVec.ofNat 256 (leNat bs)

/-- Bytewise exclusive or. -/
def xorBytes (a b : Bytes) : Bytes := List.zipWith (· ^^^ ·) a b

/-- Puts an element into a list sorted by le, behind those it does not precede. -/
def insertBy {α : Type} (le : α → α → Bool) (a : α) : List α → List α
  | [] => [a]
  | c :: cs => if le c a then c :: insertBy le a cs else a :: c :: cs

/-- A list sorted by le; equal elements keep their order. -/
def sortBy {α : Type} (le : α → α → Bool) (l : List α) : List α := l.foldl (fun s a => insertBy le a s) []

/-- Cuts a byte string into pieces of n bytes (fuel: its length). -/
def chunksGo (n : Nat) : Nat → Bytes → List Bytes
  | 0, _ => []
  | f + 1, bs => match bs with
    | [] => []
    | _ => bs.take n :: chunksGo n f (bs.drop n)

def chunks (n : Nat) (bs : Bytes) : List Bytes := chunksGo n bs.length bs

end Sys2Proof.Machine
end

