-- ==== Sys2Proof/Machine/Crypto.lean ====
section
/-!
DEFINITION. The cryptographic functions the manual names: AES-256 (FIPS 197), CMAC, the KDF of R120, AES-KW (RFC 3394),
GCM, XTS, CRC-32C, SHA-384 and ECDSA P-384 verification. Bytes stand in the order of their standards; the key order is
R462's.
-/

namespace Sys2Proof.Machine

/-- The S-box of FIPS 197, entry i in bits 8i + 7 to 8i. -/
def aesSbox : Nat :=
  0x16BB54B00F2D99416842E6BF0D89A18CDF2855CEE9871E9B948ED9691198F8E19E1DC186B95735610EF6034866B53E708A8BBD4B1F74DDE8C6B4A61C2E2578BA08AE7A65EAF4566CA94ED58D6D37C8E779E4959162ACD3C25C2406490A3A32E0DB0B5EDE14B8EE4688902A22DC4F816073195D643D7EA7C41744975FEC130CCDD2F3FF1021DAB6BCF5389D928F40A351A89F3C507F02F94585334D43FBAAEFD0CF584C4A39BECB6A5BB1FC20ED00D153842FE329B3D63B52A05A6E1B1A2C830975B227EBE28012079A059618C323C7041531D871F1E5A534CCF73F362693FDB7C072A49CAFA2D4ADF04759FA7DC982CA76ABD7FE2B670130C56F6BF27B777C63

/-- The inverse S-box. -/
def aesInvSbox : Nat :=
  0x7D0C2155631469E126D677BA7E042B17619953833CBBEBC8B0F52AAE4D3BE0A0EF9CC9939F7AE52D0D4AB519A97F51605FEC8027591012B131C7078833A8DD1FF45ACD78FEC0DB9A2079D2C64B3E56FC1BBE18AA0E62B76F89C5291D711AF1476EDF751CE837F9E28535ADE72274AC9673E6B4F0CECFF297EADC674F4111913A6B8A130103BDAFC1020F3FCA8F1E2CD00645B3B80558E4F70AD3BC8C00ABD890849D8DA75746155EDAB9EDFD5048706C92B6655DCC5CA4D41698688664F6F87225D18B6D49A25B76B224D92866A12E084EC3FA420B954CEE3D23C2A632947B54CBE9DEC444438E3487FF2F9B8239E37CFBD7F3819EA340BF38A53630D56A0952

def aesSub (x : Byte) : Byte := BitVec.ofNat 8 (aesSbox >>> (8 * x.toNat))
def aesInvSub (x : Byte) : Byte := BitVec.ofNat 8 (aesInvSbox >>> (8 * x.toNat))

/-- Multiplication by x in GF(2^8). -/
def xtime (x : Byte) : Byte := (x <<< 1) ^^^ (if x.msb then 0x1B else 0)

/-- xtime on each byte of a 16-byte state read as one number. -/
def xtimeState (n : Nat) : Nat :=
  ((n &&& 0x7F7F7F7F7F7F7F7F7F7F7F7F7F7F7F7F) <<< 1) ^^^ (((n >>> 7) &&& 0x01010101010101010101010101010101) * 0x1B)

/-- Each byte of a state times a constant of GF(2^8) below 16. -/
def timesState (c n : Nat) : Nat :=
  let n2 := xtimeState n
  let n4 := xtimeState n2
  (if c.testBit 0 then n else 0) ^^^ (if c.testBit 1 then n2 else 0) ^^^ (if c.testBit 2 then n4 else 0) ^^^
    (if c.testBit 3 then xtimeState n4 else 0)

/-- Each column of a state turned up by one row. -/
def turnColumns (n : Nat) : Nat :=
  ((n &&& 0x00FFFFFF00FFFFFF00FFFFFF00FFFFFF) <<< 8) ||| ((n >>> 24) &&& 0x000000FF000000FF000000FF000000FF)

/-- One step of the AES-256 key schedule: the last eight words (newest first) give the next word. -/
def aesNextWord (i : Nat) (rcon : Byte) (ws : List Bytes) : Bytes :=
  let last := ws.headD []
  let t :=
    if i % 8 = 0 then
      let r := (last.drop 1 ++ last.take 1).map aesSub
      xorBytes r [rcon, 0, 0, 0]
    else if i % 8 = 4 then last.map aesSub
    else last
  xorBytes t (ws.getD 7 [])

/-- The words of the key schedule, newest first: n words more. -/
def aesSchedule : Nat → Nat → Byte → List Bytes → List Bytes
  | 0, _, _, ws => ws
  | n + 1, i, rcon, ws =>
    aesSchedule n (i + 1) (if i % 8 = 0 then xtime rcon else rcon) (aesNextWord i rcon ws :: ws)

/-- The 15 round keys of a 32-byte key. -/
def aesRoundKeys (key : Bytes) : List Bytes :=
  chunks 16 (aesSchedule 52 8 1 (chunks 4 (slice key 0 32)).reverse).reverse.flatten

/-- ShiftRows on the 16 bytes of the state, column by column. -/
def shiftRows (s : Bytes) : Bytes := (List.range 16).map fun i => s.getD ((i + 4 * (i % 4)) % 16) 0
def invShiftRows (s : Bytes) : Bytes := (List.range 16).map fun i => s.getD ((i + 12 * (i % 4)) % 16) 0

/-- MixColumns: each column times the circulant matrix whose first row is m. -/
def mixColumns (m : List Nat) (s : Bytes) : Bytes :=
  let n := beNat s
  let rows := [n, turnColumns n, turnColumns (turnColumns n), turnColumns (turnColumns (turnColumns n))]
  beBytes 16 ((List.zipWith timesState m rows).foldl (· ^^^ ·) 0)

def aesRounds : List Bytes → Bytes → Bytes
  | [], s => s
  | [k], s => xorBytes (shiftRows (s.map aesSub)) k
  | k :: k' :: ks, s => aesRounds (k' :: ks) (xorBytes (mixColumns [2, 3, 1, 1] (shiftRows (s.map aesSub))) k)

/-- AES-256 of one 16-byte block. -/
def aesEnc (key block : Bytes) : Bytes :=
  match aesRoundKeys key with
  | [] => []
  | k :: ks => aesRounds ks (xorBytes (slice block 0 16) k)

def aesInvRounds : List Bytes → Bytes → Bytes
  | [], s => s
  | [k], s => xorBytes ((invShiftRows s).map aesInvSub) k
  | k :: k' :: ks, s =>
    aesInvRounds (k' :: ks) (mixColumns [14, 11, 13, 9] (xorBytes ((invShiftRows s).map aesInvSub) k))

/-- The inverse cipher. -/
def aesDec (key block : Bytes) : Bytes :=
  match (aesRoundKeys key).reverse with
  | [] => []
  | k :: ks => aesInvRounds ks (xorBytes (slice block 0 16) k)

/-- Doubling in GF(2^128) as CMAC uses it (byte 0 most significant). -/
def dbl (b : Bytes) : Bytes :=
  let v := beNat b
  beBytes 16 ((2 * v % 2 ^ 128) ^^^ (if v.testBit 127 then 0x87 else 0))

/-- CMAC-AES-256 (SP 800-38B). -/
def cmac (key msg : Bytes) : Bytes :=
  let k1 := dbl (aesEnc key (List.replicate 16 0))
  let bl := if msg = [] then [[]] else chunks 16 msg
  let last := bl.getLastD []
  let fin :=
    if last.length = 16 then xorBytes last k1
    else xorBytes (slice (last ++ [0x80]) 0 16) (dbl k1)
  let c := bl.dropLast.foldl (fun x m => aesEnc key (xorBytes x m)) (List.replicate 16 0)
  aesEnc key (xorBytes c fin)

/-- The check value of a key (R129 item 5, R462): the leftmost 32 bits of its CMAC over 16 zero bytes. -/
def kcv (key : BitVec 256) : Word :=
  BitVec.ofNat 32 (leNat ((cmac (keyBytes key) (List.replicate 16 0)).take 4))

/-- The seal of a 256-bit value (R113): CMAC over the bytes 0x53 0x45 0x41 0x4C. -/
def sealWord (key : BitVec 256) : Word :=
  BitVec.ofNat 32 (leNat ((cmac (keyBytes key) [0x53, 0x45, 0x41, 0x4C]).take 4))

/-- The derivation of R120. -/
def kdf (parent : BitVec 256) (label ctx : Bytes) : BitVec 256 :=
  let t (i : Byte) := cmac (keyBytes parent) ([i] ++ label ++ [0] ++ slice ctx 0 48 ++ [0x01, 0x00])
  bytesKey (t 1 ++ t 2)

/-- The conditioning of R112: CMAC-AES-256 under the all-zero key over 512 bits of source output. R112 keeps 256 bits and one CMAC
gives 128: the second half is the CMAC, under the same key, of the first half and the sample (DESIGN CHOICE, log entry 45). -/
def condition (sample : BitVec 512) : BitVec 256 :=
  let z := List.replicate 32 (0 : Byte)
  let s := leBytes 64 sample.toNat
  let h := cmac z s
  bytesKey (h ++ cmac z (h ++ s))

/-- AES key wrap (RFC 3394), one pass over the semiblocks; state A and R. -/
def kwWrapPass (key : Bytes) (j n : Nat) : Nat → List Bytes → Bytes → List Bytes → Bytes × List Bytes
  | _, [], a, done => (a, done.reverse)
  | i, r :: rs, a, done =>
    let b := aesEnc key (a ++ r)
    kwWrapPass key j n (i + 1) rs (xorBytes (b.take 8) (beBytes 8 (n * j + i))) (b.drop 8 :: done)

def kwWrap (key data : Bytes) : Bytes :=
  let r := chunks 8 data
  let n := r.length
  let (a, r) := (List.range 6).foldl (fun (p : Bytes × List Bytes) j => kwWrapPass key j n 1 p.2 p.1 [])
    (List.replicate 8 0xA6, r)
  a ++ r.flatten

/-- One inverse pass, semiblocks from the last to the first. -/
def kwUnwrapPass (key : Bytes) (j n : Nat) : Nat → List Bytes → Bytes → List Bytes → Bytes × List Bytes
  | _, [], a, done => (a, done)
  | i, r :: rs, a, done =>
    let b := aesDec key (xorBytes a (beBytes 8 (n * j + i)) ++ r)
    kwUnwrapPass key j n (i - 1) rs (b.take 8) (b.drop 8 :: done)

/-- AES key unwrap: none on an integrity failure. -/
def kwUnwrap (key blob : Bytes) : Option Bytes :=
  let r := chunks 8 (blob.drop 8)
  let n := r.length
  let (a, r) := (List.range 6).reverse.foldl
    (fun (p : Bytes × List Bytes) j => kwUnwrapPass key j n n p.2.reverse p.1 []) (blob.take 8, r)
  if a = List.replicate 8 0xA6 then some r.flatten else none

/-- Multiplication in the GF(2^128) of GCM: the leftmost bit of a block is the coefficient of x^0. -/
def ghashMul : Nat → Nat → Nat → Nat → Nat
  | 0, _, _, z => z
  | i + 1, x, v, z =>
    ghashMul i x ((v >>> 1) ^^^ (if v.testBit 0 then 0xE1 <<< 120 else 0)) (if x.testBit i then z ^^^ v else z)

def ghash (h : Bytes) (bs : List Bytes) : Bytes :=
  beBytes 16 (bs.foldl (fun y b => ghashMul 128 (y ^^^ beNat (slice b 0 16)) (beNat h) 0) 0)

/-- Counter-mode keystream blocks from a 12-byte IV: blocks c, c + 1, ... -/
def ctrBlocks (key iv : Bytes) (c n : Nat) : Bytes :=
  ((List.range n).map fun i => aesEnc key (iv ++ beBytes 4 (c + i))).flatten

def gcmCtr (key iv data : Bytes) : Bytes := xorBytes data (ctrBlocks key iv 2 ((data.length + 15) / 16))

def gcmTag (key iv aad ct : Bytes) : Bytes :=
  let h := aesEnc key (List.replicate 16 0)
  let lens := beBytes 8 (8 * aad.length) ++ beBytes 8 (8 * ct.length)
  xorBytes (ghash h (chunks 16 aad ++ chunks 16 ct ++ [lens])) (aesEnc key (iv ++ beBytes 4 1))

/-- Doubling of an XTS tweak: byte 0 least significant. -/
def xtsDbl (t : Bytes) : Bytes :=
  let v := leNat t
  leBytes 16 ((2 * v % 2 ^ 128) ^^^ (if v.testBit 127 then 0x87 else 0))

/-- XTS-AES-256 over whole blocks, from tweak t on. -/
def xtsGo (cipher : Bytes → Bytes) : Bytes → List Bytes → Bytes
  | _, [] => []
  | t, b :: bs => xorBytes (cipher (xorBytes b t)) t ++ xtsGo cipher (xtsDbl t) bs

def xtsEnc (key tweakKey tweak data : Bytes) : Bytes := xtsGo (aesEnc key) (aesEnc tweakKey tweak) (chunks 16 data)
def xtsDec (key tweakKey tweak data : Bytes) : Bytes := xtsGo (aesDec key) (aesEnc tweakKey tweak) (chunks 16 data)

/-- One bit of the reflected CRC-32C (polynomial 0x1EDC6F41). -/
def crcBits : Nat → Word → Word
  | 0, c => c
  | n + 1, c => crcBits n ((c >>> 1) ^^^ (if c.getLsbD 0 then 0x82F63B78 else 0))

/-- CRC-32C of a byte string. -/
def crc32c (bs : Bytes) : Word := ~~~(bs.foldl (fun c b => crcBits 8 (c ^^^ b.setWidth 32)) 0xFFFFFFFF)

/-! ### SHA-384 (FIPS 180-4) -/

def sha512K : Nat :=
  0x6C44198C4A4758175FCB6FAB3AD6FAEC597F299CFC657E2A4CC5D4BECB3E42B6431D67C49C100D4C3C9EBE0A15C9BEBC32CAAB7B40C7249328DB77F523047D841B710B35131C471B113F9804BEF90DAE0A637DC5A2C898A606F067AA72176FBAF57D4F7FEE6ED178EADA7DD6CDE0EB1ED186B8C721C0C207CA273ECEEA26619CC67178F2E372532BBEF9A3F7B2C67915A4506CEBDE82BDE990BEFFFA23631E288CC702081A6439EC84C87814A1F0AB7278A5636F43172F60748F82EE5DEFB2FC682E6FF3D6B2B8A35B9CCA4F7763E3734ED8AA4AE3418ACB391C0CB3C5C95A6334B0BCB5E19B48A82748774CDF8EEB991E376C085141AB5319A4C116B8D2D0C8106AA07032BBD1B8F40E35855771202AD69906245565A910D192E819D6EF5218C76C51A30654BE30C24B8B70D0F89791A81A664BBC423001A2BFE8A14CF1036492722C851482353B81C2C92E47EDAEE6766A0ABB3C77B2A8650A73548BAF63DE53380D139D95B3DF4D2C6DFC5AC42AED2E1B21385C26C92627B70A8546D22FFC142929670A0E6E7006CA6351E003826FD5A79147930AA725C6E00BF33DA88FC2BF597FC7BEEF0EE4B00327C898FB213FA831C66D2DB43210983E5152EE66DFAB76F988DA831153B55CB0A9DCBD41FBD44A7484AA6EA6E4832DE92C6F592B0275240CA1CC77AC9C650FC19DC68B8CD5B5EFBE4786384F25E3E49B69C19EF14AD2C19BF174CF6926949BDC06A725C7123580DEB1FE3B1696B172BE5D74F27B896F550C7DC3D5FFB4E2243185BE4EE4B28C12835B0145706FBED807AA98A3030242AB1C5ED5DA6D8118923F82A4AF194F9B59F111F1B605D0193956C25BF348B538E9B5DBA58189DBBCB5C0FBCFEC4D3B2F7137449123EF65CD428A2F98D728AE22

def sha384H : Nat :=
  0x47B5481DBEFA4FA4DB0C2E0D64F98FA78EB44A876858151167332667FFC00B31152FECD8F70E59399159015A3070DD17629A292A367CD507CBBB9D5DC1059ED8

def shaWord (t i : Nat) : BitVec 64 := BitVec.ofNat 64 (t >>> (64 * i))

def shaS (x : BitVec 64) (a b c : Nat) : BitVec 64 := x.rotateRight a ^^^ x.rotateRight b ^^^ x.rotateRight c
def shaT (x : BitVec 64) (a b c : Nat) : BitVec 64 := x.rotateRight a ^^^ x.rotateRight b ^^^ (x >>> c)

/-- The message schedule, newest word first. -/
def shaSched : Nat → List (BitVec 64) → List (BitVec 64)
  | 0, ws => ws
  | n + 1, ws =>
    shaSched n ((shaT (ws.getD 1 0) 19 61 6 + ws.getD 6 0 + shaT (ws.getD 14 0) 1 8 7 + ws.getD 15 0) :: ws)

def shaRound (v : List (BitVec 64)) (kw : BitVec 64) : List (BitVec 64) :=
  match v with
  | [a, b, c, d, e, f, g, h] =>
    let t1 := h + shaS e 14 18 41 + ((e &&& f) ^^^ (~~~e &&& g)) + kw
    let t2 := shaS a 28 34 39 + ((a &&& b) ^^^ (a &&& c) ^^^ (b &&& c))
    [t1 + t2, a, b, c, d + t1, e, f, g]
  | _ => v

def shaBlock (h : List (BitVec 64)) (block : Bytes) : List (BitVec 64) :=
  let w := (shaSched 64 ((chunks 8 block).map fun x => BitVec.ofNat 64 (beNat x)).reverse).reverse
  let kw := w.zipIdx.map fun p => p.1 + shaWord sha512K p.2
  List.zipWith (· + ·) h (kw.foldl shaRound h)

/-- SHA-384 of a byte string. -/
def sha384 (msg : Bytes) : Bytes :=
  let pad := List.replicate ((239 - msg.length % 128) % 128) (0 : Byte)
  let m := msg ++ [0x80] ++ pad ++ beBytes 16 (8 * msg.length)
  let h := (chunks 128 m).foldl shaBlock ((List.range 8).map (shaWord sha384H))
  ((h.take 6).map fun w => beBytes 8 w.toNat).flatten

/-! ### ECDSA over P-384 (FIPS 186-5): the verification only -/

def p384P : Nat := 2 ^ 384 - 2 ^ 128 - 2 ^ 96 + 2 ^ 32 - 1
def p384N : Nat := 0xFFFFFFFFFFFFFFFFFFFFFFFFFFFFFFFFFFFFFFFFFFFFFFFFC7634D81F4372DDF581A0DB248B0A77AECEC196ACCC52973
def p384B : Nat := 0xB3312FA7E23EE7E4988E056BE3F82D19181D9C6EFE8141120314088F5013875AC656398D8A2ED19D2A85C8EDD3EC2AEF
def p384Gx : Nat := 0xAA87CA22BE8B05378EB1C71EF320AD746E1D3B628BA79B9859F741E082542A385502F25DBF55296C3A545E3872760AB7
def p384Gy : Nat := 0x3617DE4A96262C6F5D9E98BF9292DC29F8F41DBD289A147CE9DA3113B5F0B8C00A60B1CE1D7E819D7A431D7C90EA0E5F

/-- Exponentiation mod m by squaring, bits of e from i - 1 down. -/
def powMod (m a e : Nat) : Nat → Nat → Nat
  | 0, r => r
  | i + 1, r => powMod m a e i (let q := r * r % m; if e.testBit i then q * a % m else q)

/-- The inverse mod a prime m. -/
def invMod (m a : Nat) : Nat := powMod m (a % m) (m - 2) 384 1

/-- A point of P-384 in affine form; none is the point at infinity. -/
abbrev P384 := Option (Nat × Nat)

/-- A point in Jacobian form: x = X / Z², y = Y / Z³, and Z = 0 at infinity. -/
structure JPoint where
  x : Nat
  y : Nat
  z : Nat
deriving DecidableEq, Repr

/-- Twice a point. -/
def jDouble (p : JPoint) : JPoint :=
  let q := p384P
  let d := p.z * p.z % q
  let g := p.y * p.y % q
  let t := p.x * g % q
  let a := 3 * (p.x + q - d) * (p.x + d) % q
  let x := (a * a + 8 * q - 8 * t) % q
  { x := x, y := (a * (4 * t + q - x) + 8 * (q * q - g * g)) % q, z := 2 * p.y * p.z % q }

/-- The sum of two points. -/
def jAdd (p r : JPoint) : JPoint :=
  if p.z = 0 then r
  else if r.z = 0 then p
  else
    let q := p384P
    let pz := p.z * p.z % q
    let rz := r.z * r.z % q
    let u := p.x * rz % q
    let s := p.y * r.z * rz % q
    let h := (r.x * pz + q - u) % q
    let d := (r.y * p.z * pz + q - s) % q
    if h = 0 then (if d = 0 then jDouble p else { x := 1, y := 1, z := 0 })
    else
      let h2 := h * h % q
      let h3 := h * h2 % q
      let v := u * h2 % q
      let x := (d * d + 3 * q - h3 - 2 * v) % q
      { x := x, y := (d * (v + q - x) + q * q - s * h3) % q, z := h * p.z * r.z % q }

/-- k times a point added to what the higher bits gave, bits of k from i - 1 down. -/
def jMul (k : Nat) (p : JPoint) : Nat → JPoint → JPoint
  | 0, r => r
  | i + 1, r => jMul k p i (let d := jDouble r; if k.testBit i then jAdd d p else d)

/-- k times an affine point. -/
def jTimes (k : Nat) (x y : Nat) : JPoint := jMul k { x := x, y := y, z := 1 } 384 { x := 1, y := 1, z := 0 }

/-- A point in affine form. -/
def affine (p : JPoint) : P384 :=
  if p.z = 0 then none
  else
    let i := invMod p384P p.z
    let j := i * i % p384P
    some (p.x * j % p384P, p.y * i * j % p384P)

/-- k times an affine point, in affine form. -/
def p384Mul (k x y : Nat) : P384 := affine (jTimes k x y)

/-- ECDSA P-384 with SHA-384: the public key is x ‖ y (96 bytes), the signature r ‖ s (96 bytes), both big-endian. -/
def ecdsaVerify (pub msg sig : Bytes) : Bool :=
  let x := beNat (pub.take 48)
  let y := beNat (pub.drop 48)
  let r := beNat (sig.take 48)
  let s := beNat (sig.drop 48)
  let q := p384P
  let n := p384N
  pub.length = 96 && sig.length = 96 && x < q && y < q && (y * y) % q = (x * x * x + (q - 3) * x + p384B) % q
    && 0 < r && r < n && 0 < s && s < n &&
    (let w := invMod n s
     let u1 := beNat (sha384 msg) * w % n
     let u2 := r * w % n
     match affine (jAdd (jTimes u1 p384Gx p384Gy) (jTimes u2 x y)) with
     | none => false
     | some (px, _) => px % n = r)

end Sys2Proof.Machine
end

