-- ==== Sys2Proof/Machine/Codes.lean ====
section
/-!
DEFINITION. The two error codes of the block: the (13,8) code of the SRAMs (R402) and the (39,32) code of the memory
paths and of the OTP words (R403), their syndromes (R404) and what they correct.
-/

namespace Sys2Proof.Machine

/-- The H-matrix columns of the (13,8) code (R402). -/
def col13 : List Nat := [0x07, 0x0B, 0x0D, 0x0E, 0x13, 0x15, 0x16, 0x19]

/-- The H-matrix columns of the (39,32) code: the first 32 seven-bit values of weight 3 in ascending order (R403). -/
def col39 : List Nat :=
  [0x07, 0x0B, 0x0D, 0x0E, 0x13, 0x15, 0x16, 0x19, 0x1A, 0x1C, 0x23, 0x25, 0x26, 0x29, 0x2A, 0x2C] ++
  [0x31, 0x32, 0x34, 0x38, 0x43, 0x45, 0x46, 0x49, 0x4A, 0x4C, 0x51, 0x52, 0x54, 0x58, 0x61, 0x62]

/-- The check bits of a number under the given columns: the exclusive or of the columns of its set bits. -/
def checkBits (cols : List Nat) (v : Nat) : Nat :=
  cols.zipIdx.foldl (fun c p => if v.testBit p.2 then c ^^^ p.1 else c) 0

/-- What a syndrome says of a word (R404). -/
inductive Decoded where
  | clean
  | checkBit
  | dataBit (j : Nat)
  | uncorrectable
deriving DecidableEq, Repr

def classify (cols : List Nat) (syn : Nat) : Decoded :=
  if syn = 0 then .clean
  else if [1, 2, 4, 8, 16, 32, 64].contains syn then .checkBit
  else match cols.findIdx? (· = syn) with
    | some j => .dataBit j
    | none => .uncorrectable

/-- The value after correction; none when the word is uncorrectable. -/
def corrected (cols : List Nat) (syn v : Nat) : Option Nat :=
  match classify cols syn with
  | .clean => some v
  | .checkBit => some v
  | .dataBit j => some (v ^^^ (1 <<< j))
  | .uncorrectable => none

/-- A 39-bit OTP word: data in bits 31:0, check bits in bits 38:32. -/
def otpEncode (v : Word) : BitVec 39 := BitVec.ofNat 39 (v.toNat + (checkBits col39 v.toNat) * 2 ^ 32)

def otpSyndrome (w : BitVec 39) : Nat := checkBits col39 (bits w.toNat 31 0) ^^^ bits w.toNat 38 32

/-- The value of an OTP word that passes its check bits (R463); none when it fails them. -/
def otpDecode (w : BitVec 39) : Option Word :=
  (corrected col39 (otpSyndrome w) (bits w.toNat 31 0)).map (BitVec.ofNat 32)

/-- The data bits of an OTP word that carries no check bits (R141). -/
def otpData (w : BitVec 39) : Word := w.setWidth 32

/-- A word of all ones in all 39 bits (R114). -/
def otpOnes : BitVec 39 := BitVec.allOnes 39

end Sys2Proof.Machine
end

