-- ==== Sys2Proof/Config.lean ====
section
/-!
DEFINITION. The free values: what the manual leaves open and the block nevertheless produces. None has a body, so no
proof can rest on a particular value (log entries 1, 5 to 8, 16, 18, 20, 45, 89, 140).
-/

namespace Sys2Proof.Config

/-- The n-th random draw of the block: the entropy source of R112 and the DRBG of R159 (nonces R145 R210, berth seed
bytes R123, CKPT pairs R135, the V of PROVE R193). Log entry 1. -/
opaque draw : Nat → BitVec 512

/-- Whether the entropy source's health tests pass on the n-th draw (R112). Log entry 45. -/
opaque drawHealthy : Nat → Bool

/-- The mix of engine S (R238): for a slice group, a line address and a key, some permutation of the 64 B line. R238
leaves the function open and fixes its round trip, which the inverse of a permutation gives. Log entry 5. -/
opaque mix : Nat → BitVec 40 → BitVec 256 → Equiv (BitVec 512) (BitVec 512)

/-- The set of the counter and tag cache that a line of a region falls into (R252 names 4,096 sets, and no index
function). Log entry 6. -/
opaque cacheSet : Nat → Nat → Nat

/-- A Ferrymen core's program counter where it halts, faults or has stepped (R429, R458; the manual gives no
instruction set), the n-th such value. Log entry 7. -/
opaque corePc : Nat → BitVec 32

/-- A word of a halted core's SRAM that nothing has told (R460), the n-th such value. Log entry 7. -/
opaque coreStore : Nat → BitVec 32

/-- The n-th signature the block makes with a key of R448 (the nonce of an ECDSA signature is open). Log entry 8. -/
opaque signature : Nat → BitVec 768

/-- The Ferrymen core that serves a berth, modulo 4 (R431 names the cores that serve berths, and no assignment). Log entry 18. -/
opaque servingCore : Nat → Nat

/-- The berth that a Ferrymen SRAM page serves while that berth is not FREE (R415, R429; the manual gives no assignment); the
page is core × 64 + page. Log entry 18. -/
opaque pageOwner : Nat → Option Nat

/-- The CODE of a recovery record whose event has no status code in the manual (R427: PORT_RESET, CORE_DEAD, WARM_RESET), by
its KIND. Log entry 16. -/
opaque recordCode : Nat → BitVec 8

/-- SHA-384 of the Ferrymen ROM (R449, R451; the manual gives no ROM image). Log entry 20. -/
opaque romDigest : Bytes

/-- The digest of Aselcen's patch public key that the ROM holds (R452). Log entry 20. -/
opaque patchKeyDigest : Bytes

/-- Which of the berth's STAGE lines takes a line that the stream unit reads, modulo their number, the n-th such value (R366 names
no order). Log entry 89. -/
opaque stagePlace : Nat → Nat

/-- The generate requests that the GSE's n-th sector or key operation makes for its dummy work, shuffling and masks (R158, R159, R160
leave their number open). Log entry 140. -/
opaque gseDraws : Nat → Nat

end Sys2Proof.Config
end

