-- ==== Sys2Proof/Machine/State.lean ====
section
/-!
DEFINITION. The state of the block: every register, table, queue, buffer, counter, mode and pin the spec gives it, as plain
data, the queue of waiting commands, and the state after reset. Field defaults are the reset values (R11, R13); a table
lists only the entries that differ from their reset value.
-/

namespace Sys2Proof.Machine

/-! ### Build, phase, pins, pages -/

/-- The build constants (R43, R53, R91, R104); no step changes them. Log entry 2. `patchKey` is the digest of the patch public key that
the ROM holds (R452), log entry 20. -/
structure Build where
  minor     : Byte := 0
  stepping  : Byte := 1
  buildId   : Word := 0
  attach    : Nat := 16
  groups    : Nat := 8
  memaPorts : Nat := 4
  hostPort  : Option Nat := some 3
  landings  : Nat := 64
  gseSerial : Bool := false
  gseMasked : Bool := true
  sue       : Bool := true
  mema      : Bool := true
  trc       : Bool := true
  mgmtMhz   : Nat := 200
  patchKey  : Bytes := Config.patchKeyDigest
deriving DecidableEq, Repr

/-- Where the block stands between reset and service (R52, R62). -/
inductive Phase where
  | inReset
  | starting
  | running
  | inactive
deriving DecidableEq, Repr

/-- Pins of the block that no unit below holds (R47, R52, R61 to R63, R73); the test inputs at their levels. -/
structure Pins where
  cdcReady  : Bool := false
  slipBusy  : Bool := false
  slipDone  : Bool := false
  slipPf    : Bool := true
  otpVppEn  : Bool := false
  tstScanEn : Bool := false
  tstFreeze : Bool := false
  tstMbist  : Bool := false
  hifUp     : Bool := true
deriving DecidableEq, Repr

/-- PAGE_STAT.STATE (R93, R324). -/
inductive UnitState where
  | off
  | on
  | draining
  | enablePending
  | scrubbing
deriving DecidableEq, Repr

/-- The common header of one page or one view (R92 to R97, R102); `since` is the tick at which a drain began (R421). -/
structure Page where
  ctrl       : Word := 0
  lastStatus : Byte := 0
  unit       : UnitState := .off
  errValid   : Bool := false
  errCode    : Byte := 0
  errCount   : Nat := 0
  errBerth   : Option Nat := none
  irqRaw     : Word := 0
  irqEn      : Word := 0
  gen        : BitVec 12 := 0
  since      : Nat := 0
deriving DecidableEq, Repr

/-- Whose operation an access, a frame or a wait belongs to. -/
inductive OpRef where
  | cmd (c i : Nat)
  | prog (b op : Nat)
  | gse (b id line : Nat)
  | gseOut (b id : Nat)
  | gseRec (b line : Nat)
  | dbg
  | opd (a b index line : Nat)
  | load (b : Nat)
  | sweep (r : Nat)
  | queue (c : Nat)
  | tensor (b op slot line : Nat)
  | port (k tag : Nat)
  | none
deriving DecidableEq, Repr

/-! ### What the block gives its ports, in order -/

/-- A certificate's fields that the manual states (R449): the public points of subject and issuer as X and Y, the subject's
serialNumber, the TcbInfo layer, fwid, SVN, vendor, model, vendorInfo and debug flag, the validity. -/
structure Cert where
  subject    : Bytes
  issuer     : Bytes
  serial     : Bytes := []
  layer      : Nat
  fwid       : Bytes
  svn        : Option Nat := none
  vendor     : String := "Aselcen"
  model      : String := "Vrelner CDC-2"
  notBefore  : String := "20000101000000Z"
  notAfter   : String := "99991231235959Z"
  vendorInfo : Option Bytes := none
  debug      : Option Bool := none
  sig        : Bytes
deriving DecidableEq, Repr

/-- What the responder can do, one for each group of requests that R68 lists. -/
inductive SpdmCap where
  | cert
  | chal
  | meas
  | keyEx
  | encrypt
  | mac
  | hbeat
  | keyUpd
deriving DecidableEq, Repr

/-- What the SPDM responder answers (R68, R449, R451): `version` as major and minor, `keyExchangeRsp` with the responder's ephemeral
point, `refused` with a status code where the life cycle permits no request (R143, R153). -/
inductive SpdmMsg where
  | version (versions : List (Nat × Nat))
  | capabilities (caps : List SpdmCap)
  | algorithms (selected : List SpdmAlg)
  | digests (slots : List Nat)
  | certificate (slot : Nat) (chain : List Cert)
  | challengeAuth (slot : Nat) (nonce : BitVec 256) (sig : Bytes)
  | measurements (blocks : List (Nat × Bytes))
  | keyExchangeRsp (sess : Nat) (sid : BitVec 32) (point sig : Bytes)
  | finishRsp (sess : Nat)
  | keyUpdateAck (sess : Nat)
  | heartbeatAck (sess : Nat)
  | endSessionAck (sess : Nat)
  | ideKmAck (stream keySet : Nat)
  | busy
  | invalid
  | decryptError
  | refused (status : Byte)
deriving DecidableEq, Repr

/-- The states of a TDI (R65). -/
inductive TdiState where
  | unlocked
  | locked
  | run
  | error
deriving DecidableEq, Repr

/-- What a TDI answers to a TDISP message (R65). -/
inductive TdispMsg where
  | lockRsp (nonce : BitVec 256)
  | startRsp
  | stopRsp
  | report (ranges : List (Nat × Nat))
  | state (st : TdiState)
  | version (versions : List (Nat × Nat))
  | capabilities
  | error
deriving DecidableEq, Repr

/-- One thing put on a port. Words of a Landing carry the index j of their first word in the round (R186). -/
inductive Output where
  | readData (w : Word)
  | unsupported
  | msix (vf : Option Nat)
  | coreIrq (key : Nat)
  | i3cIrq
  | marker (n round : Nat) (words : List Bytes)
  | control (n j : Nat) (word : Bytes)
  | frame (n j : Nat) (raw : Bytes)
  | idleWords (n j count : Nat)
  | hostRead (addr len : Nat) (op : OpRef)
  | hostWrite (addr : Nat) (data : Bytes) (op : OpRef)
  | cxlRead (k addr tag : Nat)
  | cxlWrite (k addr tag : Nat) (line : Bytes)
  | mcRead (g slice addr tid : Nat)
  | mcWrite (g slice addr tid : Nat) (line : Bytes)
  | fabricRsp (g slice tid : Nat) (rdata : Bytes) (poison : Bool)
  | ceCommand (a b ctx : Nat) (gen : BitVec 12) (raw : Bytes)
  | operand (a b index line : Nat) (data : Bytes)
  | otpProgram (addr : Nat) (word : BitVec 39)
  | mgmt (src : MgmtSrc) (msg : Bytes)
  | spdm (t : Transport) (msg : SpdmMsg)
  | notice (sess : Nat) (msg : Bytes)
  | ideKey (stream keySet : Nat)
  | ideSwitch (stream keySet : Nat)
  | tdisp (b : Nat) (msg : TdispMsg)
  | i3cAddr (a : Nat)
deriving DecidableEq, Repr

/-! ### Work the block settles inside one step -/

/-- Something one step of the block brings about beyond its own unit; settled before the step ends. -/
inductive Work where
  | ctxLost (c : Nat) (code : Byte)
  | fenceChanged (f : Nat)
  | fenceError (f : Nat)
  | barrierEval (e : Nat)
  | released (b e : Nat) (epoch : BitVec 64) (skip : BitVec 64)
  | edgeFailed (n x : Nat) (code : Byte)
  | syncMsg (n x : Nat) (msg : Bytes)
  | opDone (op : OpRef) (code : Byte)
  | opLost (op : OpRef) (code : Byte)
  | opHurt (op : OpRef) (code : Byte)
  | opLine (op : OpRef) (data : Bytes)
  | progFail (b : Nat) (code : Byte)
  | keyLive (kid : Nat)
  | keyFree (kid : Nat)
  | berthCheck (b : Nat)
  | enterSealing (b : Nat) (lost : Bool)
  | fenceFreed (f : Nat)
  | sched (b : Nat)
  | engineA
  | ckptDone (b : Nat)
  | denkanDone (src : MgmtSrc) (tag : BitVec 16) (code : Byte)
  | stageFree
  | restoreEnds (b : Nat) (code : Byte)
deriving DecidableEq, Repr

/-! ### Life cycle and OTP -/

/-- The life-cycle states (R140). -/
inductive LcState where
  | blank
  | manufactured
  | provisioned
  | deployed
  | analysis
  | terminated
deriving DecidableEq, Repr

/-- What a run of OTP words serves, and so what follows its last word; an ENROLL that finds no BLANK record names record 16. -/
inductive OtpJob where
  | lcsRecord
  | lcsVoid
  | lcsStep
  | lcsNibble
  | lcsAbandon
  | enroll (src : MgmtSrc) (tag : BitVec 16) (record : Nat)
  | revoke (src : MgmtSrc) (tag : BitVec 16) (record : Nat)
  | floor
deriving DecidableEq, Repr

/-- OTP words to program in order: (address, bits that must read 1), the attempts made on the first (R63, R154), and
whether the first word is being programmed now. -/
structure OtpRun where
  words : List (Nat × BitVec 39)
  tries : Nat := 0
  busy  : Bool := false
  job   : OtpJob
deriving DecidableEq, Repr

/-- A running life-cycle move (R147 to R155); `data` is the test root or the root secret that its step 1 programs. -/
structure Move where
  target   : LcState
  source   : LcState
  record   : Option Nat
  resumed  : Bool
  step     : Nat := 0
  clearing : Bool := false
  data     : BitVec 256 := 0
  paused   : Bool := false
deriving DecidableEq, Repr

structure Lcs where
  st       : LcState := .blank
  invalid  : Bool := false
  nonce    : BitVec 128 := 0
  nonceOk  : Bool := false
  token    : Table Word := []
  data     : Table Word := []
  res      : Byte := 0
  move     : Option Move := none
deriving DecidableEq, Repr

/-! ### Keys -/

/-- The states of a key-cache entry (R111). -/
inductive KeyState where
  | free
  | pending
  | derivation
  | live
  | retiring
deriving DecidableEq, Repr

/-- A parent of a derivation (R118, R125). -/
inductive KeyParent where
  | root
  | testRoot
  | kid (k : Nat)
deriving DecidableEq, Repr

/-- One entry of the key cache (R111, R138). `again` marks a re-derivation after an error (R137). -/
structure KeyEntry where
  st      : KeyState := .free
  source  : Nat := 0
  purpose : Nat := 0
  owner   : Nat := 0
  berth   : Option Nat := none
  epoch   : Byte := 0
  key     : BitVec 256 := 0
  ctx     : Bytes := []
  parent  : KeyParent := .root
  again   : Bool := false
deriving DecidableEq, Repr

/-- A running KEY_RANGE_CMD or HOLD_RANGE_CMD; `old` is the range before a HOLD_RANGE_CMD (R235). -/
structure RangeCmd where
  base  : Nat
  count : Nat
  berth : Nat
  code  : Byte := 0
  old   : Nat × Nat := (0, 0)
deriving DecidableEq, Repr

/-- The key cache, the ranges and the roots (R108 to R118). `engine` holds the derivations that run (R122): the KID, and the value of
its parent that it read. -/
structure Keys where
  cache    : Table KeyEntry := []
  ranges   : Table (Nat × Nat) := []
  cmd      : Option RangeCmd := none
  status   : Byte := 0
  root     : Option (BitVec 256) := none
  rootSlot : Nat := 7
  slotVoid : Nat := 0
  testRoot : Option (BitVec 256) := none
  seedLost : List Nat := []
  engine   : List (Nat × BitVec 256) := []
deriving DecidableEq, Repr

/-- The stage's running step (R128). -/
inductive StageRun where
  | unwrap
  | verify
deriving DecidableEq, Repr

/-- KEY_STAGE (R128, R139): `st` 0 IDLE, 1 CLAIMED, 2 LOADED, 3 VERIFIED; the setup registers stand in `Block.regs`. `rest` is the
berth whose restore unwrap the firmware runs here, `pair` the wrapped pair, then the pair (R174). -/
structure Kstg where
  st     : Nat := 0
  holder : Nat := 0
  last   : Byte := 0
  key    : Table Word := []
  keySet : Nat := 0
  blob   : Table Word := []
  blobSet : Nat := 0
  run    : Option StageRun := none
  tick   : Nat := 0
  rest   : Option Nat := none
  pair   : Bytes := []
deriving DecidableEq, Repr

/-! ### GSE -/

inductive SessState where
  | none
  | sealSt
  | unsealSt
  | closed
  | restored
  | failed
deriving DecidableEq, Repr

/-- The GSE session of a berth (R170), with the record fields it holds. -/
structure Sess where
  st         : SessState := .none
  incomplete : Bool := false
  device     : Bool := false
  masked     : Bool := false
  next       : Nat := 0
  total      : Nat := 0
  km         : BitVec 256 := 0
  h          : Bytes := []
  d          : Bytes := []
  record     : Bytes := []
deriving DecidableEq, Repr

/-- A GSE command in the queues or in work: who submitted it, its descriptor and raw OP, the sectors its cores took and those
done, their digest or the record it works on, and the Denkan request it serves. `lines` are the lines of its record read so far
while it is `reading`, `left` the writes of its record not yet acknowledged. -/
structure GseCmd where
  d     : GseDesc
  fw    : Bool
  rawOp : Nat := 0
  got   : List Nat := []
  took  : Nat := 0
  since : Nat := 0
  data  : Bytes := []
  via   : Option (MgmtSrc × BitVec 16) := none
  reading : Bool := false
  lines : Table Bytes := []
  left  : Nat := 0
deriving DecidableEq, Repr

structure GseCpl where
  code  : Byte
  op    : Nat
  berth : Nat
  tag   : Word
deriving DecidableEq, Repr

/-- A sector in work (R179) since a tick: the lines of it that have been read; `out` once its core is done, and then the writes of it
that are not yet acknowledged. -/
structure GseSec where
  id     : Nat
  berth  : Nat
  sector : Nat
  lines  : Table Bytes := []
  out    : Bool := false
  left   : Nat := 0
  since  : Nat := 0
deriving DecidableEq, Repr

/-- The GSE's queues, work and DRBG (R159, R178): `held` are completions that wait for room in the completion queue, `drbgUses` the
generate requests since the last reseed. -/
structure Gse where
  desc      : Table Word := []
  submitRes : Byte := 0
  opq       : List GseCmd := []
  cplq      : List GseCpl := []
  held      : List GseCpl := []
  lastTag   : Word := 0
  fwq       : List GseCmd := []
  fwCpl     : List GseCpl := []
  run       : List GseCmd := []
  keyOps    : List GseCmd := []
  secs      : List GseSec := []
  nextId    : Nat := 0
  sess      : Table Sess := []
  drbgUses  : Nat := 0
  pieces    : Nat := 0
  reseeds   : Nat := 0
  drbgTries : Nat := 0
  drbgFail  : Bool := false
deriving DecidableEq, Repr

/-! ### Landings -/

inductive LndState where
  | down
  | ford
  | opened
deriving DecidableEq, Repr

inductive XState where
  | closed
  | proving
  | opened
  | failed
deriving DecidableEq, Repr

/-- What a frame of a crossing carries (R194): lines of the Hold, or one barrier message. -/
structure TxItem where
  type   : Nat
  owner  : Nat := 0
  handle : Nat := 0
  line   : Nat := 0
  lines  : List Nat := []
  msg    : Bytes := []
  op     : OpRef := .none
  pinned : Bool := false
deriving DecidableEq, Repr

/-- A frame sent and not yet acknowledged (R203, R204). -/
structure Unacked where
  seq   : Nat
  item  : TxItem
  kph   : Bool
  gph   : Bool
  sends : Nat
deriving DecidableEq, Repr

/-- A crossing's state beside its registers (R197, R214 to R217). `rxBase` is the RX_NEXT its PROVEs declare, `oldPh` the phase
whose frames are duplicates, `pinItem` the frame whose egress read waits for a pin. -/
structure Xing where
  st       : XState := .closed
  fail     : Byte := 0
  kphTx    : Bool := false
  kphRx    : Bool := false
  stateful : Bool := false
  nextSeq  : Nat := 0
  expSeq   : Nat := 0
  unacked  : List Unacked := []
  resend   : List Nat := []
  sendq    : List TxItem := []
  notBefore : Nat := 0
  useTx    : Table Nat := []
  useRx    : Table Nat := []
  integ    : Nat := 0
  gapSent  : Bool := false
  proved   : Bool := false
  openAck  : Option Nat := none
  proveDue : Nat := 0
  heldProve : Bool := false
  proveHold : Nat := 0
  since    : Nat := 0
  stalled  : Bool := false
  progress : Nat := 0
  switching : Bool := false
  switched : Bool := false
  waitTick : Nat := 0
  rxBase   : Nat := 0
  oldPh    : Option Bool := none
  pinItem  : Option TxItem := none
deriving DecidableEq, Repr

/-- A Landing (R187 to R191, R207 to R210, R219). `txSlot` is the slot it transmits next, 62 once the round is complete; `rxSlot`
is the received slot in progress, with the words of its frame area and its control words so far; `fordSlot` is the received slot
in which the Landing reached OPEN (R207); `urgent` are sealed frames that the next shared slot sends first. -/
structure Landing where
  st       : LndState := .down
  inRst    : Bool := false
  phyUp    : Bool := false
  aligned  : Bool := false
  linked   : Bool := false
  peerGen  : BitVec 12 := 0
  peerLcs  : Nat := 0
  peerOk   : Bool := false
  nonce    : Bytes := []
  peerNonce : Bytes := []
  peerReady : Nat := 0
  helloStop : Bool := false
  helloDue : Nat := 0
  heldHello : Bool := false
  helloOnce : Bool := false
  helloHold : Nat := 0
  tokens   : Nat := 32240
  txTokens : Nat := 32240
  notYet   : Nat := 0
  roundTx  : Nat := 0
  started  : Bool := false
  roundRx  : Nat := 0
  rxRounds : Nat := 0
  goodMark : Nat := 0
  badMark  : Nat := 0
  errLine  : Nat := 0
  errInteg : Nat := 0
  errLate  : Nat := 0
  errDeny  : Nat := 0
  lineErrs : List Nat := []
  txMap    : Table Nat := []
  rxMap    : Table Nat := []
  ctl      : List Bytes := []
  dropSlot : Option Nat := none
  rotate   : Nat := 0
  fordTick : Nat := 0
  fordStall : Bool := false
  drainRound : Option Nat := none
  txSlot   : Nat := 62
  rxSlot   : Nat := 0
  rxUsed   : Nat := 0
  rxCtl    : Nat := 0
  fordSlot : Option Nat := none
  urgent   : List (Nat × Bytes) := []
deriving DecidableEq, Repr

/-! ### The Hold -/

inductive LineState where
  | empty
  | held
  | released
  | spoiled
  | poisoned
deriving DecidableEq, Repr

/-- A line tag (R222). -/
structure LineTag where
  st   : LineState := .empty
  lnd  : Option Nat := none
  xing : Nat := 0
  pins : Nat := 0
deriving DecidableEq, Repr

inductive BankState where
  | free
  | owned (b : Nat)
  | transit
  | faulted
deriving DecidableEq, Repr

/-- Why a bank set runs (R231, R150, R329). -/
inductive SetCause where
  | range
  | scrub (b : Nat)
  | lifeCycle
  | slipway
deriving DecidableEq, Repr

structure BankSet where
  banks : List Nat
  cause : SetCause
deriving DecidableEq, Repr

/-- A consumer read waiting on a HELD or SPOILED line (R227), or on a bank that is being cleared (R235); `ready` once what it
waits for has happened. -/
structure WaitRead where
  id    : Nat
  line  : Nat
  op    : OpRef
  since : Nat
  ready : Bool := false
deriving DecidableEq, Repr

/-- The signal a deferred command performs when its work ends (R297): its context, fence handle and value. -/
structure Deferred where
  ctx    : Nat
  fence  : Option Nat
  value  : BitVec 64
deriving DecidableEq, Repr

/-- A recycle waiting on pins or verdicts (R229). -/
structure Recycle where
  id    : Nat
  lines : List Nat
  sig   : Option Deferred
  op    : OpRef
deriving DecidableEq, Repr

structure Hold where
  mem      : List Host.Cell := []
  tags     : Table LineTag := []
  banks    : Table BankState := []
  ranges   : Table (Nat × Nat) := []
  cmd      : Option RangeCmd := none
  status   : Byte := 0
  sets     : List BankSet := []
  waits    : List WaitRead := []
  recycles : List Recycle := []
  pinWaits : List (Nat × Nat) := []
  nextId   : Nat := 0
  upsets   : Table (Byte × BitVec 5) := []
deriving DecidableEq, Repr

/-! ### The memory protection engines -/

/-- One of the 8 × 32 region entries of engine S (R240, R271), keyed 32 × group + entry. -/
structure SRegion where
  base  : Word := 0
  limit : Word := 0
  cfg   : Word := 0
  valid : Bool := false
deriving DecidableEq, Repr

/-- A write of the internal path, to bytes of one line, that waits for its turn. -/
structure SWrite where
  berth : Nat
  group : Nat
  addr  : Nat
  off   : Nat
  data  : Bytes
  op    : OpRef
deriving DecidableEq, Repr

/-- A request inside a slice or at its controller (R237, R48), by the tag it carries toward the controller; `ftid` is a fabric
request's own tag. `fetch` counts the fetches made (R410); `patch` holds the bytes that a write of part of the line puts into
it. -/
structure SReq where
  group  : Nat
  slice  : Nat
  tid    : Nat
  addr   : Nat
  berth  : Nat
  fabric : Bool
  write  : Bool
  op     : OpRef := .none
  fetch  : Nat := 1
  since  : Nat := 0
  ftid   : Nat := 0
  patch  : List (Nat × Bytes) := []
deriving DecidableEq, Repr

/-- The MIX key engine S holds for a berth (R239). -/
structure SKey where
  kid    : Nat := 0
  key    : BitVec 256 := 0
  loaded : Bool := false
deriving DecidableEq, Repr

structure Mems where
  regions : Table SRegion := []
  keys    : Table SKey := []
  reqs    : List SReq := []
  wq      : List SWrite := []
  deny    : Nat := 0
deriving DecidableEq, Repr

/-- The states of an engine A region (R266). -/
inductive RgnState where
  | free
  | live
  | rolling
  | lost
  | draining
deriving DecidableEq, Repr

/-- One of the 256 region entries of engine A (R244, R250, R259, R272): its registers, its root and its counts. -/
structure ARegion where
  st     : RgnState := .free
  cfg    : Word := 0
  baseLo : Word := 0
  baseHi : Word := 0
  kid0   : Word := 0
  kid1   : Word := 0
  phase  : Bool := false
  use0   : Nat := 0
  use1   : Nat := 0
  root   : Table Nat := []
  sweep  : Nat := 0
  fault  : Byte := 0
  level  : Nat := 0
  findex : Nat := 0
deriving DecidableEq, Repr

/-- A line of the counter and tag cache (R252): level 0 to 10 a tree node, 15 a tag line. -/
structure CacheLine where
  way    : Nat
  region : Nat
  level  : Nat
  index  : Nat
  data   : Bytes
  dirty  : Bool
  stamp  : Nat
deriving DecidableEq, Repr

/-- What an engine A operation does (R253 to R255, R261, R268). -/
inductive AKind where
  | read (dest : Option Nat)
  | write (data : Bytes)
  | part (mask : Nat) (data : Bytes)
  | conv
deriving DecidableEq, Repr

/-- An operation in engine A, in arrival order (R256). `got` holds the data lines that have arrived, `bad` the lines that
arrived poisoned; `seen` counts its lookups in the cache, 1 its leaf's path and 2 its tag line too; `holds` says that its Hold
line is HELD for it. -/
structure AOp where
  id     : Nat
  region : Nat
  index  : Nat
  kind   : AKind
  op     : OpRef
  got    : Table Bytes := []
  bad    : List Nat := []
  seen   : Nat := 0
  holds  : Bool := false
deriving DecidableEq, Repr

/-- What a port read of engine A fetches. -/
inductive AFetch where
  | node (region level index : Nat)
  | data (op : Nat)
  | raw (op : OpRef)
deriving DecidableEq, Repr

structure ARead where
  port  : Nat
  tag   : Nat
  addr  : Nat
  fetch : AFetch
  tries : Nat := 1
  sent  : Bool := true
  since : Nat := 0
deriving DecidableEq, Repr

/-- A write whose ciphertext engine A holds until the port acknowledges it (R254). -/
structure AWrite where
  port   : Nat
  tag    : Nat
  addr   : Nat
  line   : Bytes
  region : Nat
  sent   : Bool := true
  since  : Nat := 0
  op     : OpRef := .none
deriving DecidableEq, Repr

structure APort where
  inRst : Bool := false
  gen   : BitVec 12 := 0
deriving DecidableEq, Repr

structure WayCmd where
  ways  : Nat
  berth : Nat
deriving DecidableEq, Repr

structure Mema where
  regions : Table ARegion := []
  cache   : List CacheLine := []
  ops     : List AOp := []
  reads   : List ARead := []
  writes  : List AWrite := []
  ports   : Table APort := []
  ways    : Table Nat := []
  cmd     : Option WayCmd := none
  status  : Byte := 0
  rollRes : Byte := 0
  hit     : Nat := 0
  miss    : Nat := 0
  nextId  : Nat := 0
  nextTag : Nat := 0
  stamp   : Nat := 0
deriving DecidableEq, Repr

/-! ### Objects, fences, contexts -/

inductive ObjState where
  | free
  | live
  | freeing
deriving DecidableEq, Repr

/-- What a handle of the object table names (R280). A region is named by its memory and index: an HBM region of the tide
table, an engine A region entry, or a HIF checkpoint window. -/
inductive ObjKind where
  | buffer (first width row lines : Nat)
  | hbm (group base len : Nat)
  | engA (region : Nat)
  | window (log2 base : Nat)
  | crossing (n x : Nat)
  | sueBuffer (first width row lines kind owner : Nat)
deriving DecidableEq, Repr

/-- One entry of the object table; `lines` are the Hold lines of a buffer that is FREEING, `sig` the signal its deferred free
performs (R297). -/
structure Obj where
  st    : ObjState := .free
  gen   : BitVec 16 := 1
  berth : Nat := 0
  kind  : ObjKind := .crossing 0 0
  sig   : Option Deferred := none
  lines : List Nat := []
deriving DecidableEq, Repr

inductive FenceState where
  | unsignalled
  | signalled
  | error
deriving DecidableEq, Repr

structure Fence where
  st     : ObjState := .free
  gen    : BitVec 16 := 1
  berth  : Nat := 0
  value  : BitVec 64 := 0
  state  : FenceState := .unsignalled
  low    : Nat := 0
  mirror : Option (Nat × Nat) := none
  sig    : Option Deferred := none
deriving DecidableEq, Repr

inductive CtxState where
  | disabled
  | active
  | lost
deriving DecidableEq, Repr

/-- A command in the command store: its fetch count, its 64 bytes, whether it has started and when, the references it holds
(fence or object, index), its signal fence, and, once its work is done, its status and DETAIL. `need` counts the parts of its
work still out; `fault` marks the command whose fault lost the context; `order` is its place among all that were accepted
(R283). -/
structure Cmd where
  idx     : Nat
  raw     : Bytes
  started : Bool := false
  issued  : Bool := false
  tick    : Nat := 0
  done    : Option Byte := none
  detail  : Word := 0
  need    : Nat := 0
  refs    : List (Bool × Nat) := []
  sig     : Option Nat := none
  fault   : Bool := false
  order   : Nat := 0
deriving DecidableEq, Repr

/-- A context (R274, R285, R286, R315 to R320). -/
structure Ctx where
  st       : CtxState := .disabled
  cause    : Byte := 0
  berth    : Option Nat := none
  queue    : Option (Nat × Nat) := none
  scan     : Nat := 0
  lastScan : Option Nat := none
  k        : Nat := 0
  ring     : Nat := 0
  cpl      : Nat := 0
  wake     : Nat := 0
  head     : Word := 0
  cplTail  : Word := 0
  cmds     : List Cmd := []
  waiting  : Bool := false
  rescan   : Bool := false
  room     : Bool := false
  resident : Bool := false
  swapping : Bool := false
  start    : Nat := 0
  stop     : Nat := 0
  join     : Option Nat := none
  since    : Option Nat := none
deriving DecidableEq, Repr

/-- A COPY on a DMA channel (R292, R412): the line under way, and the errors its lines will meet on their path to engine A. -/
structure CopyJob where
  chan  : Nat
  ctx   : Nat
  idx   : Nat
  line  : Nat := 0
  count : Nat
  errs  : List LineErr := []
deriving DecidableEq, Repr

/-! ### Berths -/

inductive BerthState where
  | free
  | created
  | loaded
  | joined
  | running
  | sealSt
  | scrubSt
deriving DecidableEq, Repr

structure OwnerRec where
  index  : Nat
  flags  : Nat
  digest : Bytes
deriving DecidableEq, Repr

/-- A label entry of the Manifest (R125). -/
structure Label where
  kid      : Nat
  purpose  : Nat
  parent   : Nat
  activate : Nat
  retire   : Nat
  ctx      : Bytes
deriving DecidableEq, Repr

/-- A region list entry as loaded (R312): its fields, the object index of its handle and where it was created. -/
structure RgnEnt where
  kind  : Nat
  port  : Nat
  log2  : Nat
  extra : Nat
  base  : Nat
  obj   : Nat := 0
  entry : Nat := 0
deriving DecidableEq, Repr

structure XingEnt where
  n     : Nat
  x     : Nat
  peer  : Nat
  kid0  : Nat
  kid1  : Nat
  round : Nat
  obj   : Nat := 0
deriving DecidableEq, Repr

structure BufEnt where
  first : Nat
  width : Nat
  row   : Nat
  lines : Nat
  obj   : Nat := 0
deriving DecidableEq, Repr

structure CtxEnt where
  slot   : Nat
  region : Nat
  scan   : Nat
  off    : Nat
deriving DecidableEq, Repr

structure FenceEnt where
  init    : BitVec 64
  mregion : Nat
  mslot   : Nat
  index   : Nat := 0
deriving DecidableEq, Repr

/-- An extent of the checkpoint map (R161), by region list index. -/
structure Extent where
  region : Nat
  count  : Nat
  off    : Nat
deriving DecidableEq, Repr

structure Rekey where
  at_  : Nat
  kind : Nat
  idx  : Nat
  kidA : Nat
  kidB : Nat
  done : Bool := false
deriving DecidableEq, Repr

structure SlotMap where
  n  : Nat
  tx : List Nat
  rx : List Nat
deriving DecidableEq, Repr

/-- A barrier entry of the tide table (R335); participants as (slot, arrival fence entry), none for the SUE. -/
structure BarEnt where
  id      : Nat
  node    : Bool
  parent  : Nat
  kids    : List Nat
  release : Nat
  subtree : Nat
  parts   : List (Option (Nat × Nat))
deriving DecidableEq, Repr

/-- The tide table as loaded (R311, R312); the step programs stand with the SUE. -/
structure Tide where
  job      : Nat := 0
  device   : Nat := 0
  restore  : Bool := false
  ticks    : Nat := 1
  setId    : Nat := 0
  prevSet  : Nat := 0
  owners   : List OwnerRec := []
  labels   : List Label := []
  regions  : List RgnEnt := []
  xings    : List XingEnt := []
  maps     : List SlotMap := []
  gkm      : List (Nat × Nat × Nat) := []
  bufs     : List BufEnt := []
  ctxs     : List CtxEnt := []
  fences   : List FenceEnt := []
  dir      : Nat := 0
  dirOff   : Nat := 0
  extents  : List Extent := []
  expRgn   : List Nat := []
  expXing  : List Nat := []
  rekey    : List Rekey := []
  bars     : List BarEnt := []
deriving DecidableEq, Repr

/-- A berth scrub (R329): its place in the order of entries, its step, the attachments that acknowledged, and its watch. -/
structure Scrub where
  order    : Nat := 0
  quiesced : Bool := false
  hold     : Bool := false
  acked    : List Nat := []
  since    : Nat := 0
  hung     : Bool := false
deriving DecidableEq, Repr

structure Berth where
  st       : BerthState := .free
  cause    : Bool := false
  job      : BitVec 64 := 0
  cbase    : Nat := 0
  ccount   : Nat := 0
  run      : Nat := 0
  weight   : Nat := 0
  cmdq     : Nat := 0
  slice    : Nat := 0
  npFault  : Nat := 0
  overrun  : Nat := 0
  loadRes  : Byte := 0
  loadStep : Nat := 0
  ckptRes  : Byte := 0
  ckptInc  : Bool := false
  noKey    : Bool := false
  meas     : Bytes := []
  tide     : Option Tide := none
  loadTick : Nat := 0
  slot     : Nat := 0
  round    : Table Nat := []
  sealTick : Nat := 0
  sealOver : Bool := false
  scrub    : Scrub := {}
  confid   : Bool := false
deriving DecidableEq, Repr

/-- A running SCHED_CMD (R331); a LOAD holds the length it may read. -/
structure SchedCmd where
  op    : Nat
  berth : Nat
  len   : Nat := 0
  since : Nat := 0
deriving DecidableEq, Repr

/-- A compute-engine attachment (R51, R322, R323): its commands outstanding as (context, fetch count, tick), oldest first. `gone` are
the commands that the block has given up while their completions are still to come, and to be dropped (R320, R424): the context, and
how many of its commands outstanding are ahead. -/
structure Attach where
  inRst    : Bool := false
  gen      : BitVec 12 := 0
  out      : List (Nat × Nat × Nat) := []
  gone     : List (Nat × Nat) := []
  turn     : Nat := 0
  taken    : Nat := 0
  scrubReq : Bool := false
  scrubBerth : Nat := 0
  scrubAck : Bool := false
deriving DecidableEq, Repr

structure Sched where
  cmd    : Option SchedCmd := none
  status : Byte := 0
  op     : Nat := 0
  berth  : Nat := 0
  atts   : Table Attach := []
  order  : Nat := 0
deriving DecidableEq, Repr

/-! ### Synchronisation -/

/-- A wake wire (R60, R333): its four-phase cycle and its watch. -/
structure Wire where
  reg    : Word := 0
  armed  : Bool := false
  mode   : Bool := false
  fired  : Bool := false
  err    : Bool := false
  fence  : Nat := 0
  value  : BitVec 64 := 0
  req    : Bool := false
  ack    : Bool := false
deriving DecidableEq, Repr

inductive BarState where
  | free
  | gather
  | waitRelease
  | failed
deriving DecidableEq, Repr

/-- What an ARRIVE of a child carried (R338). -/
structure Arrived where
  edge  : Nat
  count : Nat
  lost  : Nat
  skip  : BitVec 64
deriving DecidableEq, Repr

/-- A participant of a barrier (R335, R337): a context by its slot and arrival fence, or the step program. -/
structure Part where
  slot  : Nat
  fence : Option Nat
  excl  : Bool := false
deriving DecidableEq, Repr

/-- One of the 256 barrier entries (R337 to R341); edges are keyed 32 × Landing + crossing. -/
structure Bar where
  st      : BarState := .free
  node    : Bool := false
  berth   : Nat := 0
  id      : Nat := 0
  epoch   : BitVec 64 := 0
  parent  : Nat := 0
  kids    : List Nat := []
  release : Nat := 0
  subtree : Nat := 0
  parts   : List Part := []
  got     : List Arrived := []
  mask    : Option (BitVec 64) := none
  skip    : BitVec 64 := 0
  lost    : Nat := 0
  fail    : Byte := 0
  tick    : Nat := 0
deriving DecidableEq, Repr

structure Sync where
  wires  : Table Wire := []
  bars   : Table Bar := []
  wakes  : Nat := 0
  wakesOf : Table Nat := []
  fails  : Nat := 0
  failsOf : Table Nat := []
  armRes : Table Byte := []
deriving DecidableEq, Repr

/-! ### The Sealed Update Engine -/

/-- The states of a step program (R360). -/
inductive ProgState where
  | none
  | ready
  | gather
  | waitRelease
  | apply
  | stopped
  | failed
deriving DecidableEq, Repr

/-- A group entry and its constant record (R355, R384); tensor slots as (region list index, offset). -/
structure SGroup where
  kind     : Nat
  sparse   : Bool
  nfmt     : Nat
  block    : Nat
  gfmt     : Nat
  sr       : Bool
  cdc1     : Bool
  sched    : Nat
  layer    : Nat
  rowWidth : Nat
  params   : Nat
  slots    : List (Nat × Nat)
  beta1    : Nat
  beta2    : Nat
  eps      : Nat
  lambda   : Nat
  mu       : Nat
  eInit    : Int
  eMin     : Int
  eMax     : Int
  grow     : Nat
  seed     : Nat
  points   : List (Nat × Nat)
deriving DecidableEq, Repr

/-- A buffer declaration (R357), with the object entry of its buffer. -/
structure SDecl where
  plan   : Nat
  cls    : Nat
  owners : Nat
  obj    : Nat := 0
deriving DecidableEq, Repr

/-- Parameters of a schedule engine (R394). -/
structure SParams where
  shape : Nat := 0
  amax  : Nat := 0
  amin  : Nat := 0
  warm  : Nat := 0
  decay : Nat := 0
  cycle : Nat := 0
deriving DecidableEq, Repr

/-- A schedule engine (R394, R395, R401). -/
structure SEngine where
  shadow : SParams := {}
  active : SParams := {}
  valid  : Bool := false
  last   : Byte := 0
  alpha  : Nat := 0
deriving DecidableEq, Repr

/-- A pending LAYER_SCALE (R369) and the place of its command among all that were accepted. -/
structure SScale where
  layer : Nat
  step  : Nat
  scale : Nat
  order : Nat
deriving DecidableEq, Repr

/-- A tensor line that an APPLY reads: the operation, the slot, the line of the slot's region, and its bytes once they are there. -/
structure SueRead where
  op   : Nat
  slot : Nat
  line : Nat
  data : Option Bytes := none
deriving DecidableEq, Repr

/-- What the SUE holds for a berth: its program, its registers and its schedule state (R354 to R369, R390 to R397). `next` is
the first operation of the step not yet started, `fin` those complete, `need` the answers each still waits for, `reads` the
tensor lines of the running APPLYs; `ks`, `alphas` and `scalesNow` are what the latch of the running APPLY gave each group. -/
structure SueBerth where
  st       : ProgState := .none
  code     : Byte := 0
  groups   : List SGroup := []
  clusters : Nat := 0
  decls    : List SDecl := []
  sealed_  : List Nat := []
  ops      : List Bytes := []
  barrier  : Nat := 0
  s        : Nat := 0
  applied  : Nat := 0
  mask     : BitVec 64 := 0
  skip     : BitVec 64 := 0
  next     : Nat := 0
  fin      : List Nat := []
  need     : Table Nat := []
  gexp     : List Int := []
  streak   : List Nat := []
  ks       : List Int := []
  alphas   : List (Option Nat) := []
  scalesNow : List Nat := []
  layers   : Table Nat := []
  pend     : List SScale := []
  engines  : Table SEngine := []
  skips    : Nat := 0
  noSched  : Nat := 0
  wnf      : Nat := 0
  peers    : Table Word := []
  reads    : List SueRead := []
deriving DecidableEq, Repr

structure Sue where
  clusters : Table Nat := []
  cmd      : Option (Nat × Nat) := none
  status   : Byte := 0
  berths   : Table SueBerth := []
deriving DecidableEq, Repr

/-! ### Management sessions -/

/-- A secured session (R68, R445, R446); `eid` is the MCTP endpoint that opened it (R432). `secret` is what the Diffie-Hellman exchange of KEY_EXCHANGE agreed on, `keys` counts the
KEY_UPDATEs of the keys that SPDM derives from it. -/
structure Session where
  up         : Bool := false
  fin        : Bool := false
  sid        : BitVec 32 := 0
  via        : Transport := .doe
  eid        : Byte := 0
  slot       : Nat := 0
  digest     : Option Bytes := none
  transcript : Bytes := []
  secret     : Bytes := []
  keys       : Nat := 0
deriving DecidableEq, Repr

/-- The delivery of a patch image (R453). -/
inductive Deliv where
  | idle
  | receiving
  | verified
deriving DecidableEq, Repr

/-- What the management unit holds beside its sessions: the patch stage and store, an activation asked for and not yet done
(its FLOOR bit), the I3C address, the IDE key sets (keyed 2 × stream + set) with the set in use, and the TDIs with the nonce that each
gave when it locked. -/
structure Mgmt where
  slotRes  : Byte := 0
  deliv    : Deliv := .idle
  dsess    : Nat := 0
  length   : Nat := 0
  stage    : Bytes := []
  last     : Byte := 0
  act      : Option Bool := none
  store    : Bytes := []
  i3c      : Option Nat := none
  ide      : Table (Option (BitVec 256)) := []
  ideSet   : Table (Option Nat) := []
  tdis     : Table TdiState := []
  nonces   : Table (BitVec 256) := []
deriving DecidableEq, Repr

/-! ### The Slipway -/

/-- The states of the Slipway (R433). -/
inductive SlipState where
  | idle
  | stopping
  | sealSt
  | draining
  | clearing
  | done
deriving DecidableEq, Repr

/-- The Slipway (R433 to R440): its latched controls, the berths still to seal with the one under way first, its outcomes, and
the resets that wait for the end of sealing (R57) or of the OTP word under way (R155). `warmGone`, and the flag beside a port, say that
the input has been released meanwhile. -/
structure Slip where
  st      : SlipState := .idle
  cores   : Nat := 64
  en      : Word := 0
  budget  : Nat := 0
  tick    : Nat := 0
  pulses  : Nat := 0
  queue   : List Nat := []
  since   : Nat := 0
  sealed_ : List Nat := []
  skipped : List Nat := []
  failed  : List Nat := []
  warm    : Bool := false
  warmGone : Bool := false
  resets  : List (Port × Bool) := []
deriving DecidableEq, Repr

/-! ### Error log and recovery -/

/-- A check-bit test under way (R416): its request word and operands. -/
structure InjTest where
  ctrl : Word
  data : Word
  lo   : Word
  hi   : Word
deriving DecidableEq, Repr

structure Ecc where
  log     : List (List Word) := []
  dropped : Nat := 0
  ce      : Table Nat := []
  ue      : Table Nat := []
  halted  : Word := 0
  status  : Byte := 0
  retired : List Nat := []
  fpages  : List Nat := []
  ways    : Nat := 0
  test    : Option InjTest := none
  injRes  : Word := 0
  injOut  : Word := 0
deriving DecidableEq, Repr

/-- The run states of a Ferrymen core (R429 to R431, R439, R458). -/
inductive CoreState where
  | running
  | restarting
  | halted
  | dead
deriving DecidableEq, Repr

/-- A Ferrymen core (R429 to R431, R458). `zeroed` are the pages of its SRAM that were cleared and not written since (R30, R150). -/
structure Core where
  st     : CoreState := .running
  gen    : BitVec 12 := 0
  faults : List Nat := []
  cause  : Nat := 0
  pc     : Word := 0
  kick   : Nat := 0
  patch  : Bool := false
  sram   : Table (Option Word) := []
  bps    : Table Word := []
  since  : Nat := 0
  zeroed : List Nat := []
deriving DecidableEq, Repr

structure Recv where
  ring     : List (List Word) := []
  seq      : Nat := 0
  dropped  : Nat := 0
  ndropped : Nat := 0
  hangs    : Nat := 0
  notices  : List (List Word) := []
  hifGen   : BitVec 12 := 0
  cores    : Table Core := []
  lostTags : List (Nat × Nat) := []
  deadFeet : List (Nat × Nat × Nat) := []
deriving DecidableEq, Repr

/-! ### Debug and trace -/

/-- Eight counters (R455): the counts of the running window, those of the last complete one, the windows' origin, and the lane
operations that do not yet make up 1,024. -/
structure Counters where
  run    : Table Nat := []
  shown  : Table Nat := []
  origin : Nat := 0
  part   : Nat := 0
deriving DecidableEq, Repr

/-- The DBG page's state beside its registers (R455, R458, R460); `maBerth` is the berth of the last DEBUG read. -/
structure Dbg where
  used   : Bool := false
  drain  : Bool := false
  res    : Byte := 0
  maRes  : Byte := 0
  maData : Bytes := []
  maWait : Bool := false
  maBerth : Option Nat := none
  glob   : Counters := {}
  per    : Table Counters := []
deriving DecidableEq, Repr

/-- The trace unit (R456, R457): who holds each buffer, and each berth's records in event order with the buffer they lie in. -/
structure Trc where
  owner   : Table (Option Nat) := []
  recs    : Table (List (Nat × Bytes)) := []
  tail    : Table Nat := []
  dropped : Table Nat := []
  res     : Byte := 0
deriving DecidableEq, Repr

/-! ### The block and the state -/

/-- Everything the block holds, but for the queue of waiting commands. -/
structure Block where
  build   : Build := {}
  phase   : Phase := .inReset
  porN    : Bool := false
  pins    : Pins := {}
  tick    : BitVec 64 := 0
  draws   : Nat := 0
  out     : List Output := []
  work    : List Work := []
  errSeen : Option Byte := none
  pages   : Table Page := []
  regs    : Table Word := []
  latches : Table Word := []
  otp     : Table (BitVec 39) := []
  otpRuns : List OtpRun := []
  lcs     : Lcs := {}
  keys    : Keys := {}
  kstg    : Kstg := {}
  gse     : Gse := {}
  lnds    : Table Landing := []
  xings   : Table Xing := []
  hold    : Hold := {}
  mems    : Mems := {}
  mema    : Mema := {}
  objs    : Table Obj := []
  fences  : Table Fence := []
  ctxs    : Table Ctx := []
  copies  : List CopyJob := []
  berths  : Table Berth := []
  sched   : Sched := {}
  sync    : Sync := {}
  sue     : Sue := {}
  ecc     : Ecc := {}
  recv    : Recv := {}
  sess    : Table Session := []
  dbg     : Dbg := {}
  trc     : Trc := {}
  certs   : Table (Option Nat) := []
  mgmt    : Mgmt := {}
  slip    : Slip := {}
deriving DecidableEq, Repr

/-- The ways a step can stop. No command of this block stops it: every row of the table has an effect. -/
inductive Fault where
  /-- Raised by no step; the type is closed and the constructor stands so that it is inhabited. Safe. -/
  | none
deriving DecidableEq, Repr

/-- The ways a step can refuse a command. -/
inductive Refusal where
  /-- Raised by an arm of `exec` whose command has no meaning yet, under its mnemonic. Safe. -/
  | notModelled (mnemonic : String)
deriving DecidableEq, Repr

/-- The state: the block, and the commands that wait, first in first out. -/
structure State where
  blk     : Block
  pending : List Instr
deriving DecidableEq, Repr

/-- The state right after reset: `rst_por_n` asserted, every field at its reset value, nothing waiting. -/
def State.reset : State := { blk := {}, pending := [] }

end Sys2Proof.Machine
end

