-- ==== Sys2Proof/Machine/Flags.lean ====
section
/-!
DEFINITION. The flags every page shares: status codes, PAGE_ERR, PAGE_IRQ_RAW and the pending interrupts with their MSI-X
signals (R18, R94 to R96, R102, R105), and what goes to the ports.
-/

namespace Sys2Proof.Machine

/-- The 8-bit codes of R18. -/
def code : Status → Byte
  | .ok => 0x00 | .pending => 0x01 | .busy => 0x02 | .notYet => 0x03
  | .denied => 0x10 | .lost => 0x11 | .staleHandle => 0x12 | .absent => 0x13
  | .tagFail => 0x20 | .poison => 0x21 | .counterExhausted => 0x22
  | .uncorrectable => 0x30 | .fetchTrap => 0x31
  | .lifecycle => 0x40

abbrev cOk : Byte := 0x00
abbrev cPending : Byte := 0x01
abbrev cBusy : Byte := 0x02
abbrev cDenied : Byte := 0x10
abbrev cLost : Byte := 0x11
abbrev cStale : Byte := 0x12
abbrev cAbsent : Byte := 0x13
abbrev cTagFail : Byte := 0x20
abbrev cPoison : Byte := 0x21
abbrev cExhausted : Byte := 0x22
abbrev cUncorr : Byte := 0x30
abbrev cFetchTrap : Byte := 0x31
abbrev cLifecycle : Byte := 0x40

/-- Puts something on a port. -/
def emit (o : Output) (b : Block) : Block := { b with out := b.out ++ [o] }

/-- Leaves something for the settling of this step. -/
def later (w : Work) (b : Block) : Block := { b with work := b.work ++ [w] }

/-- One draw of the block's random source, and the block after it. Log entry 1. -/
def draw (b : Block) : BitVec 512 × Block := (Config.draw b.draws, { b with draws := b.draws + 1 })

/-- The timebase tick as a number (R79). -/
def now (b : Block) : Nat := b.tick.toNat

/-- n milliseconds in ticks (R79, GLB_TIMEBASE). -/
def msTicks (b : Block) (n : Nat) : Nat := n * 1000 * b.build.mgmtMhz

/-! ### Page keys -/

/-- The key of the view in slot s of berth w's window; page p of the map has key p (R101, R102). -/
def viewKey (w s : Nat) : Nat := 0x100 + 16 * w + s

/-- The window slot that shows page p to berth w, if one does. -/
def slotOf (p : Nat) : Option Nat :=
  match p with
  | 0x00 => some 0 | 0x15 => some 2 | 0x18 => some 3 | 0x19 => some 4 | 0x1F => some 5
  | _ => none

/-- Where an error or event of page p caused by berth w's access is recorded: the view, or the shared page. -/
def viewOf (p w : Nat) : Nat :=
  match slotOf p with
  | some s => viewKey w s
  | none => p

def pageAt (b : Block) (k : Nat) : Page := tget {} b.pages k

/-- Bit i of a word, set. -/
def setBitW (w : Word) (i : Nat) : Word := w ||| BitVec.ofNat 32 (1 <<< i)

/-- PAGE_IRQ_RAW as it reads (R96): bit 0 copies PAGE_ERR.VALID. -/
def rawOf (p : Page) : Word := (p.irqRaw &&& 0xFFFFFFFE) ||| (if p.errValid then 1 else 0)

/-- A page has an interrupt pending (R96). -/
def irqPending (p : Page) : Bool := (rawOf p &&& p.irqEn) ≠ 0

/-- GLB_CTRL.IRQ_EN (R104). -/
def glbIrqEn (b : Block) : Bool := (tget 0 b.regs 0x0058).getLsbD 0

/-- The berth whose window shows the page of key k: a view, or a BERTH page. -/
def windowOf (k : Nat) : Option Nat :=
  if k ≥ 0x100 then some ((k - 0x100) / 16) else if 0x20 ≤ k ∧ k < 0x40 then some (k - 0x20) else none

/-- The signals of a page that gains a pending interrupt: the Ferrymen get every page's, the HIF MSI-X (R105). -/
def signalIrq (k : Nat) (b : Block) : Block :=
  let b := if k < 0x100 then emit (.coreIrq k) b else b
  let b := if k < 0x100 ∧ glbIrqEn b then emit (.msix none) b else b
  match windowOf k with
  | some w => emit (.msix (some w)) b
  | none => b

/-- Changes a page, signalling an interrupt it gains. -/
def setPage (k : Nat) (p : Page) (b : Block) : Block :=
  let gained := irqPending p && !irqPending (pageAt b k)
  let b := { b with pages := tset {} b.pages k p }
  if gained then signalIrq k b else b

/-- Changes a page; a LND page that gains a pending interrupt sets LNKC PAGE_IRQ_RAW.LANDING (R220). -/
def modPage (k : Nat) (f : Page → Page) (b : Block) : Block :=
  let p := f (pageAt b k)
  let gained := irqPending p && !irqPending (pageAt b k)
  let b := setPage k p b
  if gained ∧ 0x40 ≤ k ∧ k < 0x80 then
    setPage 0x08 { pageAt b 0x08 with irqRaw := setBitW (pageAt b 0x08).irqRaw 1 } b
  else b

/-- PAGE_IRQ_RAW bit i of page k is set by its event (R96). -/
def raise (k i : Nat) (b : Block) : Block := modPage k (fun p => { p with irqRaw := setBitW p.irqRaw i }) b

/-- Records an error (R94, R95): the first since the last clear fills the record, every one counts, up to 255. -/
def noteErr (c : Byte) (w : Option Nat) (p : Page) : Page :=
  if p.errValid then { p with errCount := min 255 (p.errCount + 1) }
  else { p with errValid := true, errCode := c, errCount := 1, errBerth := w }

def recordErr (k : Nat) (c : Byte) (w : Option Nat) (b : Block) : Block :=
  { modPage k (noteErr c w) b with errSeen := some c }

/-- Writing 1 to PAGE_ERR.VALID (R94). -/
def clearErr (p : Page) : Page := { p with errValid := false, errCode := 0, errCount := 0, errBerth := none }

/-- Saturating counters of 32 bits. -/
def inc32 (n : Nat) : Nat := min 0xFFFFFFFF (n + 1)

end Sys2Proof.Machine
end

