-- ==== Sys2Proof/Machine/Operands.lean ====
section
/-!
DEFINITION. The operands of a register access: which page and register an offset names for a master, which classes may
read or write it, and which of its bits are RW (R4, R5, R15 to R17, R85 to R91, R98 to R103, and the register tables of the
units' chapters).
-/

namespace Sys2Proof.Machine

/-! ### Pages -/

/-- PAGE_ID.KIND of a page that is not reserved (R86, R88). -/
def kindOf (p : Nat) : Option Nat :=
  if p ≤ 0x04 then some (p + 1)
  else if 0x20 ≤ p ∧ p < 0x40 then some 0x20
  else if 0x40 ≤ p ∧ p < 0x80 then some 0x09
  else if [0x08, 0x10, 0x11, 0x12, 0x14, 0x15, 0x18, 0x19, 0x1A, 0x1B, 0x1C, 0x1D, 0x1E, 0x1F].contains p then some p
  else none

/-- PAGE_CAP.PRESENT (R90, R91). -/
def present (bd : Build) (p : Nat) : Bool :=
  (kindOf p).isSome &&
  (if p = 0x12 then bd.mema else if p = 0x18 ∨ p = 0x19 then bd.sue else if p = 0x1F then bd.trc
   else if 0x40 ≤ p then p - 0x40 < bd.landings else true)

/-- PAGE_CAP.OPTIONAL (R91). -/
def optional (p : Nat) : Bool := [0x12, 0x18, 0x19, 0x1F].contains p || (0x50 ≤ p && p < 0x80)

/-- Pages whose unit has an enable (R92). -/
def hasEnable (p : Nat) : Bool :=
  [0x08, 0x10, 0x11, 0x12, 0x14, 0x15, 0x18, 0x1F].contains p || p = 0x04 || (0x40 ≤ p && p < 0x80)

/-- PAGE_CAP.INSTANCES and UNIT (R91, R183). -/
def capFields (bd : Build) (p : Nat) : Nat × Nat :=
  match p with
  | 0x08 => (bd.landings, 8)
  | 0x04 => (64, b2n bd.gseSerial + 2 * b2n bd.gseMasked + 10 * 2 ^ 8)
  | 0x11 => (bd.groups, 32)
  | 0x12 => (bd.memaPorts, match bd.hostPort with | some k => 2 ^ k | none => 0)
  | 0x10 => (1, 1536)
  | 0x02 => (1, 2048)
  | 0x14 => (1, 32)
  | 0x15 => (1, 64)
  | 0x18 => (1, 512)
  | 0x1F => (64, 0)
  | _ => (1, 0)

def pageCap (bd : Build) (p : Nat) : Word :=
  let opt := 2 * b2n (optional p)
  if present bd p then
    BitVec.ofNat 32 ((capFields bd p).2 * 2 ^ 16 + (capFields bd p).1 * 2 ^ 8 + opt + 1)
  else BitVec.ofNat 32 opt

def pageId (p : Nat) (view : Bool) : Word :=
  BitVec.ofNat 32 (0xCD02 * 2 ^ 16 + p * 2 ^ 8 + b2n view * 2 ^ 7 + (kindOf p).getD 0)

/-! ### Masters -/

/-- The number a per-master latch or selection is keyed by. -/
def masterKey : Master → Nat
  | .operator => 0
  | .sealed => 1
  | .unsecured => 2
  | .berth w => 32 + w.val
  | .session i => 64 + i.val
  | .plain _ => 3

/-- The active key set of IDE stream s has its key (R64): stream 0 is PF0's, stream w + 1 that of berth w's VF. -/
def ideUp (b : Block) (s : Nat) : Bool :=
  (tget none b.mgmt.ideSet s).any fun k => (tget none b.mgmt.ide (2 * s + k)).isSome

/-- An access reaches the block: over the HIF only inside the IDE stream of its function (R64). -/
def arrives (b : Block) : Master → Bool
  | .operator => ideUp b 0
  | .berth w => ideUp b (w.val + 1)
  | .plain _ => false
  | _ => true

/-- A per-master latch (GLB_TICK_HI, the popped words of ECC and RECV) or selection, number i. -/
def latch (b : Block) (m : Master) (i : Nat) : Word := tget 0 b.latches (masterKey m * 64 + i)
def setLatch (m : Master) (i : Nat) (v : Word) (b : Block) : Block :=
  { b with latches := tset 0 b.latches (masterKey m * 64 + i) v }

/-! ### Realm records and the rights of a session -/

def otpWord (b : Block) (a : Nat) : BitVec 39 := tget 0 b.otp a

/-- The classes of a root slot, the test root or a realm record (R114, R442). -/
inductive OtpClass where
  | blank
  | void
  | whole
  | torn
deriving DecidableEq, Repr

/-- Blank, void, or every word passing its check bits; torn otherwise. The seal of a root is checked beside it. -/
def otpClass (ws : List (BitVec 39)) : OtpClass :=
  if ws.all (· = 0) then .blank
  else if ws.any (· = otpOnes) then .void
  else if ws.all fun w => (otpDecode w).isSome then .whole
  else .torn

/-- Realm record r (R441): 16 words at 0x100 + 16 r. -/
def realmWords (b : Block) (r : Nat) : List (BitVec 39) := tgets 0 b.otp (0x100 + 16 * r) 16
def realmClass (b : Block) (r : Nat) : OtpClass := otpClass (realmWords b r)
def realmData (b : Block) (r : Nat) : List Word := (realmWords b r).map fun w => (otpDecode w).getD 0
def realmDigest (b : Block) (r : Nat) : Bytes := (((realmData b r).take 12).map fun w => leBytes 4 w.toNat).flatten
def realmRights (b : Block) (r : Nat) : Nat := ((realmData b r).getD 12 0).toNat % 16

/-- The LIVE record whose digest is d. -/
def realmOf (b : Block) (d : Bytes) : Option Nat :=
  (List.range 16).find? fun r => realmClass b r = .whole && realmDigest b r = d

/-- RIGHTS of a session on slot 0 (R446): bit 0 LCS, bit 1 PATCH, bit 2 REGS, bit 3 ENROLL. -/
def sessRights (b : Block) (i : Nat) : Nat :=
  let s := tget {} b.sess i
  if s.up ∧ s.slot = 0 then
    match s.digest with
    | some d => match realmOf b d with
      | some r => realmRights b r
      | none => 0
    | none => 0
  else 0

def berthAt (b : Block) (w : Nat) : Berth := tget {} b.berths w

/-- The owner rights of a session (R446): its berth and its owner record. -/
def sessOwner (b : Block) (i : Nat) : Option (Nat × OwnerRec) :=
  let s := tget {} b.sess i
  if s.up ∧ s.slot ≠ 0 then
    match s.digest, tget none b.certs s.slot with
    | some d, some w => match (berthAt b w).tide with
      | some t => (t.owners.find? fun o => o.digest = d).map fun o => (w, o)
      | none => none
    | _, _ => none
  else none

/-! ### Registers -/

/-- A row of the register tables: the page kind, the offset and count of its registers, the classes that read and write
it (bit 0 OPERATOR, bit 1 MGMT, bit 2 BERTH; SEALED reaches every register), and its RW bits. -/
structure RegRow where
  kind : Nat
  off  : Nat
  n    : Nat
  rd   : Nat
  wr   : Nat
  rw   : Nat := 0

abbrev all32 : Nat := 0xFFFFFFFF

/-- The page-specific registers of chapters 04 to 12 (R104, R138, R139, R156, R184, R220, R221, R236, R271, R272, R331,
R332). -/
def regRowsA : List RegRow :=
  [⟨0x01, 0x040, 1, 7, 1, 0⟩, ⟨0x01, 0x044, 1, 3, 1, 0⟩, ⟨0x01, 0x048, 4, 7, 1, 0⟩,
   ⟨0x01, 0x058, 1, 1, 1, all32⟩, ⟨0x01, 0x060, 8, 3, 1, 0⟩, ⟨0x01, 0x080, 8, 1, 1, 0⟩,
   ⟨0x02, 0x040, 6, 3, 2, 0⟩, ⟨0x02, 0x060, 4, 3, 2, 0⟩, ⟨0x02, 0x070, 1, 2, 2, 0⟩, ⟨0x02, 0x074, 1, 3, 2, 0⟩,
   ⟨0x02, 0x080, 4, 2, 2, 0⟩, ⟨0x02, 0x0A0, 8, 2, 2, 0⟩,
   ⟨0x03, 0x040, 2, 3, 3, 0⟩, ⟨0x03, 0x048, 1, 3, 3, all32⟩, ⟨0x03, 0x04C, 1, 3, 3, 0⟩, ⟨0x03, 0x050, 1, 2, 2, 0⟩,
   ⟨0x03, 0x054, 1, 1, 1, 0⟩, ⟨0x03, 0x058, 1, 3, 3, 0⟩, ⟨0x03, 0x100, 32, 3, 3, 0⟩,
   ⟨0x04, 0x040, 2, 2, 2, 0⟩, ⟨0x04, 0x048, 3, 2, 2, all32⟩, ⟨0x04, 0x060, 8, 2, 2, 0⟩, ⟨0x04, 0x080, 10, 2, 2, 0⟩,
   ⟨0x05, 0x040, 2, 1, 1, 0⟩, ⟨0x05, 0x080, 16, 1, 1, 0⟩, ⟨0x05, 0x0C0, 4, 1, 1, 0⟩, ⟨0x05, 0x100, 64, 1, 1, 0⟩] ++
  [⟨0x08, 0x040, 1, 1, 0, 0⟩, ⟨0x08, 0x044, 2, 1, 1, all32⟩, ⟨0x08, 0x04C, 2, 1, 0, all32⟩,
   ⟨0x08, 0x080, 32, 1, 0, all32⟩,
   ⟨0x09, 0x040, 9, 1, 0, 0⟩, ⟨0x09, 0x064, 3, 1, 0, all32⟩, ⟨0x09, 0x080, 32, 1, 0, all32⟩,
   ⟨0x09, 0x100, 32, 1, 0, 0xFF⟩, ⟨0x09, 0x180, 32, 1, 0, all32⟩, ⟨0x09, 0x200, 32, 1, 0, all32⟩,
   ⟨0x09, 0x280, 32, 1, 0, all32⟩, ⟨0x09, 0x300, 64, 1, 0, 0⟩,
   ⟨0x10, 0x040, 3, 1, 1, 0⟩, ⟨0x10, 0x04C, 1, 1, 1, all32⟩, ⟨0x10, 0x050, 2, 1, 1, 0⟩, ⟨0x10, 0x100, 64, 1, 1, 0⟩,
   ⟨0x11, 0x040, 2, 1, 0, 0⟩, ⟨0x11, 0x048, 1, 1, 1, all32⟩, ⟨0x11, 0x04C, 3, 1, 0, all32⟩,
   ⟨0x11, 0x058, 1, 1, 1, all32⟩, ⟨0x11, 0x100, 32, 1, 0, 0⟩] ++
  [⟨0x12, 0x040, 3, 1, 0, 0⟩, ⟨0x12, 0x050, 4, 1, 0, 0⟩, ⟨0x12, 0x060, 1, 1, 1, all32⟩,
   ⟨0x12, 0x064, 1, 1, 0, 0xFFF0FFFF⟩, ⟨0x12, 0x068, 4, 1, 0, all32⟩, ⟨0x12, 0x078, 4, 1, 0, 0⟩,
   ⟨0x12, 0x088, 1, 0, 0, 0⟩, ⟨0x12, 0x08C, 1, 1, 0, 0⟩, ⟨0x12, 0x090, 1, 1, 1, all32⟩, ⟨0x12, 0x094, 1, 1, 1, 0⟩,
   ⟨0x12, 0x098, 1, 1, 0, 0⟩, ⟨0x12, 0x100, 32, 1, 0, 0⟩,
   ⟨0x14, 0x040, 3, 1, 1, 0⟩, ⟨0x14, 0x04C, 9, 1, 1, all32⟩, ⟨0x14, 0x080, 16, 1, 1, 0⟩,
   ⟨0x20, 0x040, 13, 5, 5, 0⟩, ⟨0x20, 0x080, 12, 5, 5, 0⟩, ⟨0x20, 0x0C0, 1, 5, 5, all32⟩, ⟨0x20, 0x0C4, 1, 5, 5, 0⟩]

/-- The page-specific registers of chapters 13 to 18 (R345, R371, R400, R401, R418, R439, R440, R459, R460, R461). The
SYNC_ARM and SUE_PEER registers exist in a berth view only, and for SEALED where their table says so. -/
def regRowsB : List RegRow :=
  [⟨0x15, 0x040, 3, 5, 0, 0⟩, ⟨0x15, 0x04C, 1, 5, 5, all32⟩, ⟨0x15, 0x050, 6, 5, 0, 0⟩, ⟨0x15, 0x070, 3, 4, 4, all32⟩,
   ⟨0x15, 0x07C, 2, 4, 4, 0⟩, ⟨0x15, 0x100, 64, 5, 1, 0xFF⟩,
   ⟨0x18, 0x040, 1, 1, 1, 0⟩, ⟨0x18, 0x044, 1, 1, 1, 0⟩, ⟨0x18, 0x048, 1, 5, 1, 0⟩, ⟨0x18, 0x04C, 1, 5, 5, all32⟩,
   ⟨0x18, 0x050, 8, 5, 5, 0⟩, ⟨0x18, 0x070, 2, 4, 4, all32⟩, ⟨0x18, 0x100, 32, 5, 5, 0⟩,
   ⟨0x19, 0x040, 1, 6, 6, all32⟩, ⟨0x19, 0x044, 1, 6, 6, 0xFF⟩, ⟨0x19, 0x048, 5, 6, 6, all32⟩, ⟨0x19, 0x05C, 1, 6, 6, 0⟩,
   ⟨0x19, 0x060, 3, 6, 6, 0⟩, ⟨0x19, 0x100, 16, 6, 6, 0⟩] ++
  [⟨0x1A, 0x040, 6, 3, 1, 0⟩, ⟨0x1A, 0x058, 2, 3, 1, 0⟩, ⟨0x1A, 0x060, 1, 3, 1, 0⟩, ⟨0x1A, 0x064, 1, 3, 1, 0x7FFFFFFF⟩,
   ⟨0x1A, 0x068, 3, 3, 1, all32⟩, ⟨0x1A, 0x074, 2, 3, 1, 0⟩, ⟨0x1A, 0x080, 32, 3, 1, 0⟩, ⟨0x1A, 0x100, 57, 3, 1, 0⟩,
   ⟨0x1B, 0x040, 20, 3, 0, 0⟩, ⟨0x1B, 0x090, 2, 3, 3, all32⟩, ⟨0x1B, 0x0C0, 9, 3, 3, all32⟩, ⟨0x1B, 0x100, 4, 3, 0, 0⟩,
   ⟨0x1B, 0x120, 4, 0, 0, 0⟩, ⟨0x1B, 0x140, 4, 3, 0, 0⟩,
   ⟨0x1C, 0x040, 1, 1, 1, 0⟩, ⟨0x1C, 0x044, 3, 1, 1, all32⟩, ⟨0x1C, 0x050, 7, 1, 1, 0⟩] ++
  [⟨0x1D, 0x040, 1, 2, 2, 0⟩, ⟨0x1D, 0x044, 1, 2, 2, all32⟩, ⟨0x1D, 0x048, 1, 2, 2, 0⟩, ⟨0x1D, 0x04C, 4, 2, 2, 0⟩,
   ⟨0x1D, 0x05C, 1, 2, 2, all32⟩, ⟨0x1D, 0x060, 20, 2, 2, 0⟩, ⟨0x1D, 0x0C0, 12, 2, 2, 0⟩,
   ⟨0x1E, 0x040, 1, 1, 1, 0⟩, ⟨0x1E, 0x044, 6, 1, 1, all32⟩, ⟨0x1E, 0x05C, 3, 1, 1, 0⟩, ⟨0x1E, 0x068, 1, 1, 1, all32⟩,
   ⟨0x1E, 0x06C, 1, 1, 1, 0⟩, ⟨0x1E, 0x070, 2, 1, 1, all32⟩, ⟨0x1E, 0x078, 18, 1, 1, 0⟩, ⟨0x1E, 0x0C0, 2, 1, 1, all32⟩,
   ⟨0x1E, 0x0E0, 8, 1, 1, 0⟩,
   ⟨0x1F, 0x040, 1, 1, 1, 0⟩, ⟨0x1F, 0x044, 1, 5, 1, 0⟩, ⟨0x1F, 0x048, 1, 5, 5, all32⟩, ⟨0x1F, 0x050, 2, 5, 5, 0⟩,
   ⟨0x1F, 0x058, 9, 5, 5, all32⟩, ⟨0x1F, 0x07C, 1, 5, 5, 0⟩, ⟨0x1F, 0x080, 1, 5, 5, all32⟩, ⟨0x1F, 0x084, 1, 5, 5, 0⟩,
   ⟨0x1F, 0x088, 2, 5, 5, all32⟩, ⟨0x1F, 0x0A0, 8, 5, 5, 0⟩]

/-- The classes that write a page's header: LNKC, the LND pages, MEMS, MEMA and RECV list every write that SEALED alone does not
make, and MGMT only reads ECC (R220, R221, R271, R272, R418, R439). -/
def headerWr (kind : Nat) : Nat := if [0x08, 0x09, 0x11, 0x12, 0x1B].contains kind then 0 else if kind = 0x1A then 1 else 7

/-- The rows of the common header (R92 to R97); 7 stands for the page's own classes. -/
def headerRow (kind off : Nat) : Option RegRow :=
  if off ∈ [0x000, 0x004, 0x008, 0x010, 0x014, 0x018, 0x020, 0x024] then some ⟨kind, off, 1, 7, headerWr kind, 0⟩
  else if off = 0x00C then some ⟨kind, off, 1, 7, headerWr kind, all32⟩
  else if off = 0x01C then some ⟨kind, off, 1, 7, headerWr kind, all32⟩
  else none

/-- The row of a register of a page; none is a reserved offset. -/
def regRow (kind off : Nat) : Option RegRow :=
  if off < 0x40 then headerRow kind off
  else (regRowsA ++ regRowsB).find? fun r => r.kind = kind && r.off ≤ off && off < r.off + 4 * r.n

/-- The classes of a page (R86): bit 0 OPERATOR, bit 1 MGMT, bit 2 BERTH through a view, for reads and for writes. -/
def pageClass (p : Nat) (wr : Bool) : Nat :=
  if 0x20 ≤ p ∧ p < 0x40 then 5
  else if 0x40 ≤ p ∧ p < 0x80 then 1
  else match p with
  | 0x00 => if wr then 5 else 7
  | 0x01 => if wr then 2 else 3
  | 0x02 => 3
  | 0x03 => 2
  | 0x15 => 5 | 0x18 => 5 | 0x1F => 5
  | 0x19 => 6
  | 0x1A => 3 | 0x1B => 3
  | 0x1D => 2
  | _ => 1

/-- The class bit of a master. -/
def classBit : Master → Nat
  | .operator => 0
  | .plain _ => 0
  | .berth _ => 2
  | _ => 1

/-- What a session or an unsecured request may reach beyond the class bits (R446): every page with REGS, GLB reads for
all sessions, LCS with the LCS right, KSTG and SUES for an owner; an unsecured request GLB and LCS in BLANK, MANUFACTURED and
ANALYSIS alone (R143). -/
def mgmtMay (b : Block) (m : Master) (p : Nat) (wr : Bool) : Bool :=
  match m with
  | .session i =>
    (sessRights b i.val).testBit 2 || (p = 0x00 && !wr) || (p = 0x01 && (sessRights b i.val).testBit 0) ||
      ((p = 0x03 || p = 0x19) && (sessOwner b i.val).isSome)
  | .unsecured => (b.lcs.st = .blank || b.lcs.st = .manufactured || b.lcs.st = .analysis) && (p = 0x00 || p = 0x01)
  | _ => true

/-- May the master's class read or write the register (R15 to R17, R86, R87)? -/
def mayAccess (b : Block) (m : Master) (p : Nat) (r : RegRow) (wr : Bool) : Bool :=
  match m with
  | .sealed => true
  | _ => (pageClass p wr).testBit (classBit m) && (if wr then r.wr else r.rd).testBit (classBit m) && mgmtMay b m p wr

/-! ### Where an offset lands -/

/-- The page an offset names for a master, and whether through a view slot (R85, R101). -/
def pageFor (m : Master) (off : Nat) : Option (Nat × Bool) :=
  match m with
  | .berth w =>
    match off / 0x1000 with
    | 0 => some (0x00, true)
    | 1 => some (0x20 + w.val, false)
    | 2 => some (0x15, true)
    | 3 => some (0x18, true)
    | 4 => some (0x19, true)
    | 5 => some (0x1F, true)
    | _ => none
  | _ => if off < 0x100000 ∧ (kindOf (off / 0x1000)).isSome then some (off / 0x1000, false) else none

/-- The offset a master uses for register r of page p: its window slot for a berth, the 1 MiB window otherwise. -/
def offsetFor (m : Master) (p r : Nat) : Nat :=
  match m with
  | .berth w => (if p = 0x20 + w.val then 1 else (slotOf p).getD 6) * 0x1000 + r
  | _ => p * 0x1000 + r

/-- The page whose PAGE_ERR an access of the master to page p records in. -/
def errKey (m : Master) (p : Nat) : Nat :=
  match m with
  | .berth w => viewOf p w.val
  | _ => p

/-- The berth an access is made for, as PAGE_ERR.BERTH records it. -/
def errBerthOf : Master → Option Nat
  | .berth w => some w.val
  | _ => none

/-- Splits a page offset into the register and the alias (R98): none plain, some true SET, some false CLR. -/
def aliasOf (o : Nat) : Nat × Option Bool :=
  if o ≥ 0xC00 then (o - 0xC00, some false) else if o ≥ 0x800 then (o - 0x800, some true) else (o, none)

/-- What an access meets before it reaches its register; `unsupported` is PCIe's Unsupported Request (R64). -/
inductive Gate where
  | pass (page reg : Nat) (al : Option Bool)
  | quiet
  | unsupported
  | refuse (key : Nat) (code : Byte)
deriving DecidableEq, Repr

/-- The window is published: the block runs (R52). -/
def published (b : Block) : Bool := b.phase ≠ .inReset && b.phase ≠ .starting

/-- A resumed move lets only reads of the GLB and LCS pages through (R153); LCS_REQ judges its own GO (R146). Log entry 152. -/
def resumeHolds (b : Block) (p r : Nat) (wr : Bool) : Bool :=
  (b.lcs.move.any (·.resumed)) && !((p = 0x00 && !wr) || (p = 0x01 && (!wr || r = 0x070)))

/-- The checks of one aligned 32-bit access (R4, R5, R17, R62, R64, R86, R87, R103, R143, R153). A write to the header of an absent
unit's page is ignored, whatever its register: R4 speaks of the other offsets, R92 of PAGE_CTRL alone (DESIGN CHOICE, log entry
144). -/
def gate (b : Block) (m : Master) (off : Nat) (wr : Bool) : Gate :=
  if !published b then .quiet
  else if !arrives b m then (if b.pins.hifUp then .unsupported else .quiet)
  else match pageFor m off with
  | none => .quiet
  | some (p, _) =>
    let (r, al) := aliasOf (off % 0x1000)
    let reaches : Option Gate :=
      match m with
      | .berth w =>
        match (berthAt b w.val).st with
        | .free | .scrubSt => some .quiet
        | .sealSt => if wr then some (.refuse (0x20 + w.val) cLifecycle) else none
        | _ => none
      | _ => none
    match reaches with
    | some g => g
    | none =>
      if b.lcs.st = .terminated ∧ p ≠ 0x00 ∧ p ≠ 0x01 then .quiet
      else if wr ∧ b.phase = .inactive then .quiet
      else if resumeHolds b p r wr then .refuse (errKey m p) cLifecycle
      else match regRow ((kindOf p).getD 0) r with
      | none => .quiet
      | some row =>
        if al.isSome ∧ row.rw = 0 then .quiet
        else if !present b.build p ∧ (r ≥ 0x40 ∨ wr) then .quiet
        else if mayAccess b m p row wr then .pass p r al
        else .refuse (errKey m p) cDenied

end Sys2Proof.Machine
end

