-- ==== Sys2Proof/Machine/Ops.lean ====
section
/-!
DEFINITION. The named operations the units share: registers, berths, contexts, key entries, fences and objects by number,
recovery records (R426 to R428), ECC log entries (R413, R414), and the guarded register command.
-/

namespace Sys2Proof.Machine

/-! ### Plain registers -/

/-- Reset values of the RW registers that do not reset to 0 (R220, R221, R331, R421, R439, R440, R461). -/
def regReset (a : Nat) : Word :=
  let p := a / 0x1000
  let o := a % 0x1000
  if a ≥ 0x300000 then 0
  else if a ≥ 0x200000 then (if o = 0x064 ∨ o = 0x068 then 0xFFFFFFFF else if o = 0x078 then 6 else 0)
  else if a = 0x8044 then 0x03E807D0
  else if 0x40 ≤ p ∧ p < 0x80 ∧ 0x280 ≤ o ∧ o < 0x300 then 0xFFFFFFFF
  else if a = 0x1406C then 44000
  else if a = 0x1B094 then 0x0E3C
  else if 0x1B0C0 ≤ a ∧ a ≤ 0x1B0E0 then
    BitVec.ofNat 32 (([1000, 1000000, 2000000, 1000000, 60000000, 100000, 100000, 10000, 10000] : List Nat).getD
      ((a - 0x1B0C0) / 4) 0)
  else if a = 0x1C044 then 64
  else 0

/-- The stored RW bits of the register at window address a. -/
def reg (b : Block) (a : Nat) : Word := tget (regReset a) b.regs a
def setReg (a : Nat) (v : Word) (b : Block) : Block := { b with regs := tset (regReset a) b.regs a v }

/-- The key of berth w's instance of a per-berth TRC register (R461). -/
def trcKey (w o : Nat) : Nat := 0x200000 + 0x1000 * w + o

/-- The key of an entry of berth w's gradient key map (R198, R220). -/
def gkmKey (w owner : Nat) (p : Bool) : Nat := 0x300000 + 128 * w + 64 * b2n p + owner

/-- A field of a word. -/
def fld (w : Word) (hi lo : Nat) : Nat := bits w.toNat hi lo

/-! ### Numbered tables -/

def modBerth (w : Nat) (f : Berth → Berth) (b : Block) : Block := { b with berths := tmod {} b.berths w f }
def ctxAt (b : Block) (c : Nat) : Ctx := tget {} b.ctxs c
def modCtx (c : Nat) (f : Ctx → Ctx) (b : Block) : Block := { b with ctxs := tmod {} b.ctxs c f }
def keyAt (b : Block) (k : Nat) : KeyEntry := tget {} b.keys.cache k
def modKey (k : Nat) (f : KeyEntry → KeyEntry) (b : Block) : Block :=
  { b with keys := { b.keys with cache := tmod {} b.keys.cache k f } }
def fenceAt (b : Block) (f : Nat) : Fence := tget {} b.fences f
def modFence (i : Nat) (f : Fence → Fence) (b : Block) : Block := { b with fences := tmod {} b.fences i f }
def objAt (b : Block) (i : Nat) : Obj := tget {} b.objs i
def modObj (i : Nat) (f : Obj → Obj) (b : Block) : Block := { b with objs := tmod {} b.objs i f }
def lndAt (b : Block) (n : Nat) : Landing := tget {} b.lnds n
def modLnd (n : Nat) (f : Landing → Landing) (b : Block) : Block := { b with lnds := tmod {} b.lnds n f }
/-- Crossing X of Landing n stands at key 32 n + X. -/
def xingAt (b : Block) (n x : Nat) : Xing := tget {} b.xings (32 * n + x)
def modXing (n x : Nat) (f : Xing → Xing) (b : Block) : Block := { b with xings := tmod {} b.xings (32 * n + x) f }
def attAt (b : Block) (a : Nat) : Attach := tget {} b.sched.atts a
def modAtt (a : Nat) (f : Attach → Attach) (b : Block) : Block :=
  { b with sched := { b.sched with atts := tmod {} b.sched.atts a f } }
def barAt (b : Block) (e : Nat) : Bar := tget {} b.sync.bars e
def modBar (e : Nat) (f : Bar → Bar) (b : Block) : Block :=
  { b with sync := { b.sync with bars := tmod {} b.sync.bars e f } }
def wireAt (b : Block) (w : Nat) : Wire := tget {} b.sync.wires w
def modWire (w : Nat) (f : Wire → Wire) (b : Block) : Block :=
  { b with sync := { b.sync with wires := tmod {} b.sync.wires w f } }
def rgnAt (b : Block) (r : Nat) : ARegion := tget {} b.mema.regions r
def modRgn (r : Nat) (f : ARegion → ARegion) (b : Block) : Block :=
  { b with mema := { b.mema with regions := tmod {} b.mema.regions r f } }
def portAt (b : Block) (k : Nat) : APort := tget {} b.mema.ports k
def modPort (k : Nat) (f : APort → APort) (b : Block) : Block :=
  { b with mema := { b.mema with ports := tmod {} b.mema.ports k f } }
def sessAt (b : Block) (w : Nat) : Sess := tget {} b.gse.sess w
def modSess (w : Nat) (f : Sess → Sess) (b : Block) : Block :=
  { b with gse := { b.gse with sess := tmod {} b.gse.sess w f } }
def coreAt (b : Block) (c : Nat) : Core := tget {} b.recv.cores c
def modCore (c : Nat) (f : Core → Core) (b : Block) : Block :=
  { b with recv := { b.recv with cores := tmod {} b.recv.cores c f } }

def sueAt (b : Block) (w : Nat) : SueBerth := tget {} b.sue.berths w
def modSue (w : Nat) (f : SueBerth → SueBerth) (b : Block) : Block :=
  { b with sue := { b.sue with berths := tmod {} b.sue.berths w f } }

/-- The lowest number outside a list of numbers. -/
def lowestFree (used : List Nat) : Nat := ((List.range (used.length + 1)).find? fun i => !used.contains i).getD 0

def putAt (bs : Bytes) (o : Nat) (v : Bytes) : Bytes := bs.take o ++ v ++ bs.drop (o + v.length)

/-! ### Berths -/

def berthCode : BerthState → Nat
  | .free => 0 | .created => 1 | .loaded => 2 | .joined => 3 | .running => 4 | .sealSt => 5 | .scrubSt => 6

/-- Moves a berth to a state; BERTHb PAGE_IRQ_RAW.STATE is set (R39, R332). -/
def setBerthState (w : Nat) (s : BerthState) (b : Block) : Block :=
  if (berthAt b w).st = s then b else raise (0x20 + w) 1 (modBerth w (fun x => { x with st := s }) b)

/-- An event a berth's state does not list: logged as LIFECYCLE in the berth's PAGE_ERR (R39). -/
def berthLifecycle (w : Nat) (b : Block) : Block := recordErr (0x20 + w) cLifecycle (some w) b

/-- Context numbers of a berth (R308). -/
def ctxsOf (b : Block) (w : Nat) : List Nat :=
  let x := berthAt b w
  (b.ctxs.filter fun e => e.2.berth = some w && x.cbase ≤ e.1 && e.1 < x.cbase + x.ccount).map Prod.fst

def tideOf (b : Block) (w : Nat) : Option Tide := (berthAt b w).tide

/-- An entry of a berth's region list. -/
def rgnEnt (b : Block) (w i : Nat) : Option RgnEnt := (tideOf b w).bind fun t => t.regions[i]?

/-- Crossing keys (Landing, X) of a berth's tide table. -/
def xingsOf (b : Block) (w : Nat) : List (Nat × Nat) :=
  match (berthAt b w).tide with
  | some t => t.xings.map fun e => (e.n, e.x)
  | none => []

/-- The owner of a crossing and whether it is enabled (R221). -/
def xcfg (b : Block) (n x : Nat) : Word := reg b ((0x40 + n) * 0x1000 + 0x100 + 4 * x)
def xingBerth (b : Block) (n x : Nat) : Nat := fld (xcfg b n x) 4 0
def xingEn (b : Block) (n x : Nat) : Bool := (xcfg b n x).getLsbD 5

/-! ### ECC log (R413, R414) -/

/-- Writes a log entry, or drops it when the log holds 64; counts it by SITE unless TEST is set. -/
def eccLog (site : Nat) (ue test : Bool) (berth : Option Nat) (syn inst addr : Nat) (b : Block) : Block :=
  let w0 := site + 16 * b2n ue + 32 * b2n test + 64 * b2n berth.isSome + 128 + 256 * berth.getD 0 + 65536 * syn
  let e := [BitVec.ofNat 32 w0, BitVec.ofNat 32 inst, BitVec.ofNat 32 addr, b.tick.setWidth 32]
  let x := b.ecc
  let x := if x.log.length < 64 then { x with log := x.log ++ [e] } else { x with dropped := inc32 x.dropped }
  let x := if test then x else if ue then { x with ue := tmod 0 x.ue site inc32 } else { x with ce := tmod 0 x.ce site inc32 }
  let b := if x.log.length = 1 ∧ b.ecc.log.length = 0 then raise 0x1A 1 b else b
  let b := if ue then raise 0x1A 2 b else b
  { b with ecc := x }

/-! ### Recovery records (R426 to R428, R432) -/

/-- What a recovery record says beyond its tick and sequence number. -/
structure Rec where
  kind  : Nat
  code  : Byte
  berth : Option Nat := none
  ctx   : Option Nat := none
  gen   : BitVec 12 := 0
  inst  : Nat := 0
  unit  : Nat := 0
  idx   : Word := 0
  opl   : Word := 0
  tag   : Word := 0
  d0    : Nat := 0
  d1    : Nat := 0
  d2    : Nat := 0

def recWords (r : Rec) (tick seq : Nat) : List Word :=
  [BitVec.ofNat 32 (2 ^ 31 + r.kind + 256 * r.code.toNat + 65536 * r.berth.getD 0 + 2 ^ 21 * b2n r.berth.isSome
     + 2 ^ 22 * b2n r.ctx.isSome),
   BitVec.ofNat 32 (r.ctx.getD 0 + 65536 * r.gen.toNat), BitVec.ofNat 32 (r.inst % 65536 + 65536 * r.unit),
   r.idx, r.opl, r.tag, BitVec.ofNat 32 tick, BitVec.ofNat 32 (tick / 2 ^ 32), BitVec.ofNat 32 seq,
   BitVec.ofNat 32 r.d0, BitVec.ofNat 32 r.d1, BitVec.ofNat 32 r.d2, 0, 0, 0, 0]

/-- Writes a record into the ring, or counts it dropped; queues a notice if its KIND is enabled (R428, R432). -/
def record (r : Rec) (b : Block) : Block :=
  let v := b.recv
  let full := v.ring.length ≥ 64
  let ws := recWords r (now b) (v.seq + 1)
  let v :=
    if full then { v with dropped := min 0xFFFF (v.dropped + 1) }
    else { v with ring := v.ring ++ [ws], seq := v.seq + 1 }
  let notify := (reg b 0x1B094).getLsbD r.kind && !full
  let v :=
    if !notify then v
    else if v.notices.length < 64 then { v with notices := v.notices ++ [ws] }
    else { v with ndropped := min 0xFFFF (v.ndropped + 1) }
  let b := { b with recv := v }
  let b := if v.ring.length = 1 ∧ !full then raise 0x1B 1 b else b
  if r.kind = 6 then raise 0x1B 2 { b with recv := { b.recv with hangs := inc32 b.recv.hangs } } else b

/-! ### Guarded register commands -/

/-- The block at the start of an access, its note of a recorded error cleared. -/
def fresh (b : Block) : Block := { b with errSeen := none }

/-- Runs h on page p's register r when the master may access it; records what the gate refuses (R17, R103) and rejects what comes
outside its IDE stream (R64). A row's own command is an access to the register that issues it. -/
def guarded (m : Master) (p r : Nat) (wr : Bool) (h : Block → Block) (b : Block) : Block :=
  match gate (fresh b) m (offsetFor m p r) wr with
  | .pass _ _ _ => h (fresh b)
  | .quiet => b
  | .unsupported => emit .unsupported b
  | .refuse k c => recordErr k c (errBerthOf m) b

/-- Ends a command word that has a GO bit: nothing happens without it. -/
def onGo (val : Word) (h : Block → Block) (b : Block) : Block := if val.getLsbD 31 then h b else b

end Sys2Proof.Machine
end

