-- ==== Sys2Proof/Machine/Keys.lean ====
section
/-!
DEFINITION. The key cache and the Manifest (R108 to R111, R120 to R127, R130 to R133): states, derivation, activation,
retirement, the ranges, and who may use a KID.
-/

namespace Sys2Proof.Machine

/-- The four ASCII bytes of a label. -/
def ascii4 (a b c d : Byte) : Bytes := [a, b, c, d]

/-- The KDF label of a purpose; a branch takes the label of its KID (R118, R119, R121). -/
def keyLabel (purpose kid : Nat) : Bytes :=
  match purpose with
  | 0x1 => [0x58, 0x4E, 0x47, 0x32]
  | 0x2 => [0x47, 0x52, 0x44, 0x32]
  | 0x3 => [0x4D, 0x49, 0x58, 0x42]
  | 0x4 => [0x4D, 0x45, 0x41, 0x45]
  | 0x5 => [0x4D, 0x45, 0x41, 0x4D]
  | 0x6 => [0x53, 0x45, 0x54, 0x4B]
  | 0x7 => [0x57, 0x52, 0x50, 0x4B]
  | 0xD => [0x42, 0x53, 0x44, 0x32]
  | _ => match kid with
    | 0 => [0x42, 0x54, 0x53, 0x54]
    | 1 => [0x42, 0x4D, 0x47, 0x54]
    | 2 => [0x42, 0x49, 0x44, 0x54]
    | 3 => [0x42, 0x44, 0x4F, 0x4D]
    | 4 => [0x42, 0x4D, 0x49, 0x58]
    | 5 => [0x42, 0x53, 0x54, 0x4F]
    | _ => [0x46, 0x57, 0x52, 0x50]

/-- Purposes computed by derivation, brought by import, drawn by the block (R121). -/
def isDerive (p : Nat) : Bool := 1 ≤ p && p ≤ 7
def isImport (p : Nat) : Bool := 9 ≤ p && p ≤ 11

def keyLive (b : Block) (k : Nat) : Bool := (keyAt b k).st = .live

/-- The value of a derivation's parent, when it is LIVE or loaded. -/
def parentValue (b : Block) : KeyParent → Option (BitVec 256)
  | .root => b.keys.root
  | .testRoot => b.keys.testRoot
  | .kid k => if keyLive b k then some (keyAt b k).key else none

/-- KEY range of a berth. -/
def keyRange (b : Block) (w : Nat) : Nat × Nat := tget (0, 0) b.keys.ranges w
def inKeyRange (b : Block) (w k : Nat) : Bool := (keyRange b w).1 ≤ k && k < (keyRange b w).1 + (keyRange b w).2

/-- KIDs an operation for berth w may use: its range and its seed (R110). -/
def berthMayUse (b : Block) (w k : Nat) : Bool := inKeyRange b w k || k = 0x20 + w

/-- A cipher handed KID k for berth w: the key, or none where R110 refuses it. -/
def cipherKey (b : Block) (w k : Nat) : Option (BitVec 256) :=
  if keyLive b k && berthMayUse b w k then some (keyAt b k).key else none

/-- The key of an operation accepted earlier: a RETIRING entry serves what was accepted under it (R132), and so does an entry that
derives again (R137); a lost entry serves nothing. -/
def startedKey (b : Block) (k : Nat) : Option (BitVec 256) :=
  let e := keyAt b k
  if e.st = .live || e.st = .retiring || e.again then some e.key else none

/-- The same for an operation of berth w. -/
def heldKey (b : Block) (w k : Nat) : Option (BitVec 256) := if berthMayUse b w k then startedKey b k else none

/-- The refusal of R110 recorded in the KEY page. -/
def cipherRefused (w : Nat) (b : Block) : Block := recordErr 0x02 cDenied (some w) b

/-- A zeroed entry keeps only its EPOCH (R111). -/
def freedKey (e : KeyEntry) (bump : Bool) : KeyEntry := { epoch := if bump then e.epoch + 1 else e.epoch }

/-- Entries in DERIVING that no derivation runs for yet and whose parent has a value, in ascending KID order. -/
def engineNext (b : Block) : List (Nat × BitVec 256) :=
  (tfind b.keys.cache fun k e => e.st = .derivation && !b.keys.engine.any fun r => r.1 = k).filterMap fun k =>
    (startValue b (keyAt b k).parent).map fun v => (k, v)
where
  /-- A parent in RETIRING serves the derivations accepted under it (R111, R132). -/
  startValue (b : Block) : KeyParent → Option (BitVec 256)
    | .root => b.keys.root
    | .testRoot => b.keys.testRoot
    | .kid k => if (keyAt b k).st = .live ∨ (keyAt b k).st = .retiring then some (keyAt b k).key else none

/-- The derivation engine takes entries until four run (R122). -/
def fillEngine (b : Block) : Block :=
  { b with keys := { b.keys with engine := b.keys.engine ++ (engineNext b).take (4 - b.keys.engine.length) } }

/-- A derivation is over, or abandoned. -/
def leaveEngine (k : Nat) (b : Block) : Block :=
  { b with keys := { b.keys with engine := b.keys.engine.filter fun r => r.1 ≠ k } }

/-- Children in PENDING start when their parent becomes LIVE (R111). -/
def startChildren (k : Nat) (b : Block) : Block :=
  fillEngine ((tfind b.keys.cache fun _ e => e.st = .pending && e.parent = .kid k).foldl
    (fun b c => modKey c (fun e => { e with st := .derivation }) b) b)

/-- An entry becomes LIVE with a key (R111). -/
def makeLive (k : Nat) (key : BitVec 256) (b : Block) : Block :=
  let b := modKey k (fun e =>
    { e with st := .live, key := key, again := false, ctx := if e.purpose = 0xD then [] else e.ctx }) b
  later (.keyLive k) (startChildren k b)

/-- Activates a DERIVE entry from FREE (R111): DERIVING when its parent is LIVE, PENDING otherwise. -/
def activate (k purpose owner : Nat) (w : Option Nat) (ctx : Bytes) (parent : KeyParent) (b : Block) : Block :=
  if (keyAt b k).st ≠ .free then b
  else
    let st := if (parentValue b parent).isSome then KeyState.derivation else .pending
    fillEngine (modKey k (fun e =>
      { e with st := st, source := 1, purpose := purpose, owner := owner, berth := w, ctx := slice ctx 0 48,
               parent := parent }) b)

/-- Retirement of one KID (R111, R132): a LIVE entry refuses new uses, a waiting one is abandoned. -/
def retireKey (k : Nat) (b : Block) : Block :=
  match (keyAt b k).st with
  | .live => modKey k (fun e => { e with st := .retiring }) b
  | .pending => later (.keyFree k) (modKey k (fun e => freedKey e false) b)
  | .derivation => later (.keyFree k) (fillEngine (leaveEngine k (modKey k (fun e => freedKey e false) b)))
  | _ => b

/-- The set identifier a context names in bytes 0 to 7 (R125). -/
def ctxSet (c : Bytes) : Nat := fieldLE c 0 8

/-- The KID of the SETLABEL import that opens set s. -/
def setLabelKid (t : Tide) (s : Nat) : Option Nat :=
  (t.labels.find? fun l => l.purpose = 0xB && ctxSet l.ctx = s).map Label.kid

/-- The parent KID that a label names (R125). -/
def labelParent (t : Tide) (w : Nat) (l : Label) : Option Nat :=
  if l.parent < 0x40 then (t.labels.find? fun x => x.purpose = 0x9 && x.parent = l.parent).map Label.kid
  else match l.parent with
    | 0x40 => (t.labels.find? fun x => x.purpose = 0xA).map Label.kid
    | 0x41 => setLabelKid t t.setId
    | 0x42 => some (0x20 + w)
    | 0x43 => some 5
    | 0x44 => setLabelKid t t.prevSet
    | _ => none

/-- The context of a label: a SET key's is its set identifier and zeros (R134). -/
def labelCtx (l : Label) : Bytes := if l.purpose = 0x6 then l.ctx.take 8 ++ List.replicate 40 0 else l.ctx

/-- Activates a label entry of berth w's Manifest; nothing derives from a seed that an error lost (R137). -/
def activateLabel (t : Tide) (w : Nat) (l : Label) (b : Block) : Block :=
  match labelParent t w l with
  | some p =>
    if p = 0x20 + w ∧ b.keys.seedLost.contains w then b
    else activate l.kid l.purpose (if l.purpose = 0x2 then l.parent else 0) (some w) (labelCtx l) (.kid p) b
  | none => b

/-- Labels in ascending KID order (R122, R127). -/
def byKid (ls : List Label) : List Label := sortBy (fun a c => a.kid ≤ c.kid) ls

/-- Every IMPORT entry of the Manifest is LIVE: every owner has committed (R127). -/
def ownersCommitted (b : Block) (t : Tide) : Bool :=
  t.labels.all fun l => !isImport l.purpose || keyLive b l.kid

/-- The entries due before JOINED are LIVE (R127). -/
def joinReady (b : Block) (t : Tide) : Bool :=
  ownersCommitted b t && t.labels.all fun l => !(isDerive l.purpose && l.activate = 0) || keyLive b l.kid

/-- The berth's last required import has committed (R127): the ACTIVATE 0 entries whose RETIRE slot has not come derive. -/
def deriveFirst (w : Nat) (b : Block) : Block :=
  match (berthAt b w).tide with
  | some t =>
    if ownersCommitted b t then
      (byKid (t.labels.filter fun l => isDerive l.purpose && l.activate = 0 && (berthAt b w).slot < l.retire)).foldl
        (fun b l => activateLabel t w l b) b
    else b
  | none => b

/-- Every owner of berth w has committed (R127). -/
def allCommitted (b : Block) (w : Nat) : Bool := ((berthAt b w).tide).any (ownersCommitted b)

/-- KIDs that a frame not yet acknowledged holds in use (R203, R132). -/
def frameUses (b : Block) (k : Nat) : Bool :=
  b.xings.any fun e =>
    let n := e.1 / 32
    let x := e.1 % 32
    let kids := reg b ((0x40 + n) * 0x1000 + 0x200 + 4 * x)
    e.2.unacked.any fun u =>
      if u.item.type = 2 then
        let g := reg b (gkmKey (xingBerth b n x) u.item.owner u.gph)
        g.getLsbD 15 && fld g 10 0 = k
      else (if u.kph then fld kids 26 16 else fld kids 10 0) = k

/-- KIDs an engine A region holds in use: lines under way, dirty lines, a roll (R132, R263). -/
def regionUses (b : Block) (k : Nat) : Bool :=
  b.mema.regions.any fun e =>
    let r := e.1
    let a := e.2
    (fld a.cfg 8 7 = 0) && (a.st = .live || a.st = .rolling) &&
    [fld a.kid0 10 0, fld a.kid0 26 16, fld a.kid1 10 0, fld a.kid1 26 16].contains k &&
    (a.st = .rolling || b.mema.ops.any (fun o => o.region = r) || b.mema.cache.any (fun c => c.region = r && c.dirty)
      || b.mema.writes.any fun v => v.region = r)

/-- The CKPT KIDs of a berth's Manifest: the even one (R121). -/
def ckptKid (b : Block) (w : Nat) : Option Nat :=
  (tideOf b w).bind fun t => (t.labels.find? fun l => l.purpose = 8 && l.kid % 2 = 0).map Label.kid

/-- The SET KID whose context names the berth's set, or the lowest WRAP KID of a DEVICE record (R169, R173). -/
def unwrapKid (b : Block) (w : Nat) (device : Bool) : Option Nat :=
  (tideOf b w).bind fun t =>
    if device then ((t.labels.filter fun l => l.purpose = 7).map Label.kid).min?
    else (t.labels.find? fun l => l.purpose = 6 && ctxSet l.ctx = t.setId).map Label.kid

/-- The wrapping key of R169: its KID and DEVICE; none when the Manifest has neither. -/
def wrapKey (b : Block) (w : Nat) : Option (Nat × Bool) :=
  let device := (tideOf b w).any fun t => t.setId = 0
  (unwrapKid b w device).map fun k => (k, device)

/-- A GSE command works under KID k (R162, R169, R174, R175). -/
def gseUsesKey (b : Block) (k : Nat) (c : GseCmd) : Bool :=
  let w := c.d.berth.val
  if c.d.op = .rewrap then c.d.kidA = k || c.d.kidB = k
  else if c.d.op = .sealOpen then (wrapKey b w).any fun p => p.1 = k
  else if c.d.op = .unsealOpen then !c.reading && unwrapKid b w (bit (fieldLE c.data 6 2) 0) = some k
  else c.d.op ≠ .sealClose && c.d.op ≠ .unsealClose && (ckptKid b w).any fun p => k = p || k = p + 1

/-- A KEY_STAGE unwrap runs under KID k (R128, R139). -/
def stageUses (b : Block) (k : Nat) : Bool := b.kstg.run = some .unwrap && fld (reg b 0x3050) 10 0 = k

/-- Some operation accepted under KID k is still in flight (R132, R239). -/
def keyInUse (b : Block) (k : Nat) : Bool :=
  frameUses b k || regionUses b k || stageUses b k
  || b.mems.keys.any (fun e => e.2.loaded && e.2.kid = k)
  || (b.gse.run ++ b.gse.keyOps).any (gseUsesKey b k)
  || b.keys.cache.any fun e => e.2.st = .derivation && e.2.parent = .kid k

/-- Every KID of the berth's range and its seed (R133). -/
def berthKids (b : Block) (w : Nat) : List Nat :=
  (tfind b.keys.cache fun k e => e.st ≠ .free && inKeyRange b w k) ++
    (if (keyAt b (0x20 + w)).st = .free then [] else [0x20 + w])

/-- Retires every key of a berth on its entry to SCRUBBING (R133). -/
def retireBerth (w : Nat) (b : Block) : Block := (berthKids b w).foldl (fun b k => retireKey k b) b

/-! ### The range command (R109) -/

/-- The checks of KEY_RANGE_CMD. -/
def keyRangeCheck (b : Block) (base count w : Nat) : Byte :=
  let clash := b.keys.ranges.any fun e =>
    e.1 ≠ w && count ≠ 0 && e.2.2 ≠ 0 && base < e.2.1 + e.2.2 && e.2.1 < base + count
  if count ≠ 0 ∧ (base < 0x40 ∨ base + count > 0x800) then cDenied
  else if clash then cDenied
  else if b.keys.cache.any fun e => e.2.st ≠ .free && inKeyRange b w e.1 && !(base ≤ e.1 && e.1 < base + count) then cBusy
  else cOk

/-- GO on KEY_RANGE_CMD (R109, R138). -/
def keyRangeCmd (m : Master) (val : Word) (b : Block) : Block :=
  if b.keys.cmd.isSome then recordErr 0x02 cBusy (errBerthOf m) b
  else
    let base := fld val 10 0
    let count := fld val 21 11
    let w := fld val 26 22
    { b with keys := { b.keys with cmd := some { base := base, count := count, berth := w, code := keyRangeCheck b base count w } } }

/-- The range command ends: the KIDs that moved are cleared, STATUS is written and RANGE_DONE set. A KID that left FREE meanwhile
makes it BUSY, and nothing changes (log entry 137). -/
def keyRangeDone (b : Block) : Block :=
  match b.keys.cmd with
  | none => b
  | some c =>
    let code := if c.code = cOk ∧ b.keys.cache.any (fun e =>
        e.2.st ≠ .free && inKeyRange b c.berth e.1 && !(c.base ≤ e.1 && e.1 < c.base + c.count)) then cBusy else c.code
    let b :=
      if code ≠ cOk then b
      else
        let moved := tfind b.keys.cache fun k _ =>
          inKeyRange b c.berth k != (c.base ≤ k && k < c.base + c.count)
        let b := moved.foldl (fun b k => modKey k (fun e => freedKey e false) b) b
        { b with keys := { b.keys with
            ranges := tset (0, 0) b.keys.ranges c.berth (if c.count = 0 then (0, 0) else (c.base, c.count)) } }
    raise 0x02 1 { b with keys := { b.keys with cmd := none, status := code } }

/-! ### Derivations -/

/-- A derivation ends (R111, R122); one that repeats a lost entry's gives the same value (R137). -/
def derivationDone (k : Nat) (b : Block) : Block :=
  match b.keys.engine.find? fun r => r.1 = k with
  | none => b
  | some r =>
    let e := keyAt b k
    fillEngine (makeLive k (if e.again then e.key else kdf r.2 (keyLabel e.purpose k) e.ctx) (leaveEngine k b))

/-- The last operation under a RETIRING KID has completed (R132). -/
def retireDone (k : Nat) (b : Block) : Block :=
  if (keyAt b k).st = .retiring ∧ !keyInUse b k then
    later (.keyFree k) (modKey k (fun e => freedKey e true) b)
  else b

/-! ### Tide-table slots (R127, R132, R311) -/

/-- The key actions at the start of slot s: retirements, the derivations of slot s + 1, and LATE. A slot before which nothing could
have been late, slot 0, raises no LATE (DESIGN CHOICE, log entry 139). -/
def slotKeys (w s : Nat) (t : Tide) (b : Block) : Block :=
  let b := (byKid (t.labels.filter fun l => l.retire = s)).foldl (fun b l => retireKey l.kid b) b
  let b := (byKid (t.labels.filter fun l => isDerive l.purpose && l.activate = s + 1)).foldl
    (fun b l => activateLabel t w l b) b
  if s ≥ 1 ∧ t.labels.any fun l => isDerive l.purpose && l.activate = s && !keyLive b l.kid then raise 0x02 3 b else b

/-! ### Berth seeds (R123) -/

/-- A created berth's seed and engine S key start to derive. -/
def seedBerth (w : Nat) (b : Block) : Block :=
  let (r, b) := draw b
  let ctx := leBytes 1 w ++ leBytes 2 ((pageAt b (0x20 + w)).gen + 1).toNat ++ List.replicate 13 0 ++
    (leBytes 64 r.toNat).take 32
  let b := activate (0x20 + w) 0xD 0 (some w) ctx (.kid 4) b
  activate (keyRange b w).1 0x3 0 (some w) [] (.kid (0x20 + w)) b

end Sys2Proof.Machine
end

