-- ==== Sys2Proof/Machine/Hold.lean ====
section
/-!
DEFINITION. The Hold (R222 to R236): lines and their states, verdicts on frames, consumer reads and producer writes, pins and
recycles, bank ranges and bank sets.
-/

namespace Sys2Proof.Machine

def modHold (f : Hold → Hold) (b : Block) : Block := { b with hold := f b.hold }

/-! ### Lines and banks (R222) -/

def lineBank (l : Nat) : Nat := l / 512
def tagAt (b : Block) (l : Nat) : LineTag := tget {} b.hold.tags l
def modTag (l : Nat) (f : LineTag → LineTag) (b : Block) : Block :=
  modHold (fun h => { h with tags := tmod {} h.tags l f }) b

/-- The 64 bytes of a line (address 64 × line of the Hold's memory). -/
def lineBytes (b : Block) (l : Nat) : Bytes := tgets 0 b.hold.mem (64 * l) 64

/-- Writes a line; its check bits are formed anew (R404). -/
def putLine (l : Nat) (bs : Bytes) (b : Block) : Block :=
  modHold (fun h => { h with
    mem := tsets 0 h.mem (64 * l) (slice bs 0 64)
    upsets := h.upsets.filter fun e => e.1 / 64 ≠ l }) b
def zeroLine (l : Nat) : Block → Block := putLine l []
def setLineState (l : Nat) (s : LineState) : Block → Block := modTag l fun t => { t with st := s }

def bankState (b : Block) (k : Nat) : BankState := tget .free b.hold.banks k
def setBank (k : Nat) (s : BankState) (b : Block) : Block :=
  modHold (fun h => { h with banks := tset .free h.banks k s }) b

/-- Berth w's bank range (R230). -/
def holdRange (b : Block) (w : Nat) : Nat × Nat := tget (0, 0) b.hold.ranges w

/-- The Hold line of line k of a buffer of berth w (R232). -/
def bufLine (b : Block) (w first width row k : Nat) : Nat :=
  512 * ((holdRange b w).1 + first + k % width) + row + k / width

/-- The Hold lines from line k on of a buffer object. -/
def objLines (b : Block) (i k n : Nat) : List Nat :=
  let o := objAt b i
  match o.kind with
  | .buffer first width row _ => (List.range n).map fun j => bufLine b o.berth first width row (k + j)
  | .sueBuffer first width row _ _ _ => (List.range n).map fun j => bufLine b o.berth first width row (k + j)
  | _ => []

/-- The length of a buffer object in lines. -/
def bufLen (o : Obj) : Nat :=
  match o.kind with
  | .buffer _ _ _ n => n
  | .sueBuffer _ _ _ n _ _ => n
  | _ => 0

def isBuffer (o : Obj) : Bool :=
  match o.kind with
  | .buffer .. => true
  | .sueBuffer .. => true
  | _ => false

def allLines (b : Block) (i : Nat) : List Nat := objLines b i 0 (bufLen (objAt b i))

/-- The lines of a FREEING buffer that its berth still owns. -/
def freedLines (b : Block) (i : Nat) : List Nat :=
  (objAt b i).lines.filter fun l => bankState b (lineBank l) = .owned (objAt b i).berth

/-- The bank of a line is in the running set, and accepts no access (R235). -/
def clearing (b : Block) (l : Nat) : Bool := b.hold.sets.head?.any fun s => s.banks.contains (lineBank l)

/-! ### Ingress (R224, R225) -/

/-- Room for a frame: every line EMPTY or SPOILED, in a bank that is not being cleared. -/
def ingressRoom (b : Block) (ls : List Nat) : Bool :=
  ls.all fun l => ((tagAt b l).st = .empty || (tagAt b l).st = .spoiled) && !clearing b l

/-- Reads that wait on some lines may go on. -/
def wakeReads (p : Nat → Bool) : Block → Block :=
  modHold fun h => { h with waits := h.waits.map fun r => if p r.line then { r with ready := true } else r }

/-- A frame's decrypted lines are written HELD, with its Landing and crossing. -/
def ingressWrite (n x : Nat) (ls : List (Nat × Bytes)) (b : Block) : Block :=
  ls.foldl (fun b e => modTag e.1 (fun t => { t with st := .held, lnd := some n, xing := x }) (putLine e.1 e.2 b)) b

/-- The verdict that passes: every line RELEASED together. -/
def releaseLines (ls : List Nat) (b : Block) : Block :=
  wakeReads (fun l => ls.contains l) (ls.foldl (fun b l => setLineState l .released b) b)

/-- The verdict that fails: every line zeroed and SPOILED. -/
def spoilLines (ls : List Nat) (b : Block) : Block := ls.foldl (fun b l => setLineState l .spoiled (zeroLine l b)) b

def poisonLine (l : Nat) (b : Block) : Block := wakeReads (fun k => k = l) (setLineState l .poisoned (zeroLine l b))

/-- A crossing fails: its HELD and SPOILED lines become POISONED. -/
def poisonXing (n x : Nat) (b : Block) : Block :=
  (tfind b.hold.tags fun _ t => t.lnd = some n && t.xing = x && (t.st = .held || t.st = .spoiled)).foldl
    (fun b l => poisonLine l b) b

/-! ### Consumers and producers (R227, R228) -/

/-- What a consumer read of some lines meets. -/
inductive ReadState where
  | ready
  | wait (l : Nat)
  | poison
deriving DecidableEq, Repr

def readState (b : Block) : List Nat → ReadState
  | [] => .ready
  | l :: ls =>
    if clearing b l then .wait l
    else match (tagAt b l).st with
    | .poisoned => .poison
    | .held => .wait l
    | .spoiled => .wait l
    | _ => readState b ls

/-- A read begins to wait on a line (R227). -/
def addWait (l : Nat) (op : OpRef) (b : Block) : Block :=
  modHold (fun h => { h with waits := h.waits ++ [{ id := h.nextId, line := l, op := op, since := now b }], nextId := h.nextId + 1 }) b

/-- A producer write is checked against all of its lines first (R228): OK, DENIED or POISON. A bank that no berth owns, or that
is being cleared, takes none (R235). -/
def producerCheck (b : Block) (ls : List Nat) : Byte :=
  if ls.any fun l => (tagAt b l).st = .poisoned then cPoison
  else if ls.any fun l => (tagAt b l).st = .held || (tagAt b l).st = .spoiled || clearing b l then cDenied
  else cOk

/-- A producer write that passes: the lines are RELEASED afterwards. -/
def producerWrite (ls : List (Nat × Bytes)) (b : Block) : Block :=
  wakeReads (fun l => (ls.map Prod.fst).contains l)
    (ls.foldl (fun b e => modTag e.1 (fun t => { t with st := .released, lnd := none, xing := 0 }) (putLine e.1 e.2 b)) b)

/-! ### Upsets of stored bits (R402, R404) -/

/-- Stored bits of a byte flip. -/
def addUpset (u : Upset) (b : Block) : Block :=
  if 1536 * 32768 ≤ u.addr then b
  else modHold (fun h => { h with upsets := tmod (0, 0) h.upsets u.addr fun x => (x.1 ^^^ u.data, x.2 ^^^ u.check) }) b

def addUpsets (us : List Upset) (b : Block) : Block := us.foldl (fun b u => addUpset u b) b

/-- The syndrome of a byte whose stored bits are flipped so. -/
def byteSyndrome (x : Byte × BitVec 5) : Nat := checkBits col13 x.1.toNat ^^^ x.2.toNat

/-- The byte that a corrected read delivers where data and check bits are flipped so; none is uncorrectable. -/
def checkedByte (v : Byte) (x : Byte × BitVec 5) : Option Byte :=
  (corrected col13 (byteSyndrome x) (v ^^^ x.1).toNat).map (BitVec.ofNat 8)

/-! ### Pins and recycles (R229) -/

def canPin (b : Block) (ls : List Nat) : Bool := ls.all fun l => (tagAt b l).pins < 63
def pinLines (ls : List Nat) (b : Block) : Block := ls.foldl (fun b l => modTag l (fun t => { t with pins := t.pins + 1 }) b) b
def unpinLines (ls : List Nat) (b : Block) : Block := ls.foldl (fun b l => modTag l (fun t => { t with pins := t.pins - 1 }) b) b

/-- A line is zeroed and set EMPTY; its pins stay. -/
def emptyLine (l : Nat) (b : Block) : Block := modTag l (fun t => { pins := t.pins }) (zeroLine l b)

/-- A recycle of these lines can act at once: none pinned, none HELD. -/
def recycleReady (b : Block) (ls : List Nat) : Bool := ls.all fun l => (tagAt b l).pins = 0 && (tagAt b l).st ≠ .held

/-- Recycles lines: at once (OK), or when pins and verdicts allow (PENDING). -/
def recycle (ls : List Nat) (sig : Option Deferred) (op : OpRef) (b : Block) : Byte × Block :=
  if recycleReady b ls then (cOk, ls.foldl (fun b l => emptyLine l b) b)
  else (cPending, modHold (fun h => { h with recycles := h.recycles ++ [⟨h.nextId, ls, sig, op⟩], nextId := h.nextId + 1 }) b)

/-! ### Bank ranges (R230, R231) -/

/-- The LIVE and the FREEING buffers of a berth. -/
def holdBuffers (b : Block) (w : Nat) : List Nat :=
  tfind b.objs fun _ o => o.st ≠ .free && o.berth = w && isBuffer o

def liveBuffers (b : Block) (w : Nat) : List Nat := (holdBuffers b w).filter fun i => (objAt b i).st = .live

/-- Banks of a range. -/
def banksOf (r : Nat × Nat) : List Nat := (List.range r.2).map fun i => r.1 + i

/-- The checks of HOLD_RANGE_CMD in their order. -/
def holdRangeCheck (b : Block) (base count w : Nat) : Byte :=
  let old := holdRange b w
  let outside (k : Nat) : Bool := old.1 ≤ k && k < old.1 + old.2 && !(base ≤ k && k < base + count)
  if base + count > 1536 then cDenied
  else if (banksOf (base, count)).any fun k => bankState b k ≠ .free && bankState b k ≠ .transit && bankState b k ≠ .owned w
  then cDenied
  else if (liveBuffers b w).any (fun i => (allLines b i).any fun l => outside (lineBank l))
    || b.hold.tags.any (fun e => e.2.pins ≠ 0 && outside (lineBank e.1)) then cBusy
  else if base ≠ old.1 ∧ !(liveBuffers b w).isEmpty then cBusy
  else cOk

/-- Banks that leave and that enter. -/
def movedBanks (old new : Nat × Nat) : List Nat × List Nat :=
  ((banksOf old).filter fun k => !(banksOf new).contains k, (banksOf new).filter fun k => !(banksOf old).contains k)

def endRange (c : Byte) (b : Block) : Block :=
  raise 0x10 1 (modHold (fun h => { h with cmd := none, status := c }) b)

/-- The banks of two ranges that lie in both. -/
def meetRange (a c : Nat × Nat) : Nat × Nat :=
  let lo := max a.1 c.1
  let hi := min (a.1 + a.2) (c.1 + c.2)
  if lo < hi then (lo, hi - lo) else (0, 0)

/-- GO on HOLD_RANGE_CMD (R231). The banks that move belong to no berth until they are clear (R35, R230): the range is what stays
of it meanwhile. A command that moves no bank completes at once (log entry 12). -/
def holdRangeCmd (m : Master) (val : Word) (b : Block) : Block :=
  if b.hold.cmd.isSome then recordErr 0x10 cBusy (errBerthOf m) b
  else
    let base := fld val 10 0
    let count := fld val 21 11
    let w := fld val 26 22
    let c := holdRangeCheck b base count w
    if c ≠ cOk then endRange c b
    else
      let new := if count = 0 then (0, 0) else (base, count)
      let moved := movedBanks (holdRange b w) new
      let all := moved.1 ++ moved.2
      if all.isEmpty then endRange cOk (modHold (fun h => { h with ranges := tset (0, 0) h.ranges w new }) b)
      else
        let old := holdRange b w
        let b := all.foldl (fun b k => setBank k .transit b) b
        modHold (fun h => { h with
          cmd    := some { base := new.1, count := new.2, berth := w, old := old }
          ranges := tset (0, 0) h.ranges w (meetRange old new)
          sets   := h.sets ++ [⟨all, .range⟩] }) b

/-- Every line of a bank reads EMPTY, as a clear leaves it (R234); reads that waited for the set go on. -/
def clearBanks (ks : List Nat) (b : Block) : Block :=
  wakeReads (fun l => ks.contains (lineBank l)) <| modHold (fun h => { h with
    mem := h.mem.filter fun e => !ks.contains (e.1 / 32768)
    tags := h.tags.filter fun e => !ks.contains (lineBank e.1)
    upsets := h.upsets.filter fun e => !ks.contains (e.1 / 32768) }) b

/-- A bank whose second read-back failed (R235). -/
def faultBank (k : Nat) (b : Block) : Block :=
  raise 0x10 3 (eccLog 0 true false none 0 k (512 * k) (setBank k .faulted b))

/-- A range command's set has cleared (R231, R235). -/
def rangeSetDone (set bad : List Nat) (b : Block) : Block :=
  match b.hold.cmd with
  | none => b
  | some c =>
    let grows := !(movedBanks c.old (c.base, c.count)).2.isEmpty
    let range := if !bad.isEmpty && grows then c.old else (c.base, c.count)
    let good := set.filter fun k => !bad.contains k
    let b := good.foldl (fun b k => setBank k (if (banksOf range).contains k then .owned c.berth else .free) b) b
    let b := modHold (fun h => { h with ranges := tset (0, 0) h.ranges c.berth range }) b
    endRange (if bad.isEmpty then cOk else cUncorr) b

/-- The running bank set completes; `bad` are its banks whose second read-back failed. The caller follows a berth scrub. -/
def bankSetDone (bad : List Nat) (b : Block) : Block × Option SetCause :=
  match b.hold.sets with
  | [] => (b, none)
  | s :: rest =>
    let bad := bad.filter fun k => s.banks.contains k
    let b := clearBanks s.banks (modHold (fun h => { h with sets := rest }) b)
    let b := bad.foldl (fun b k => faultBank k b) b
    let b := match s.cause with
      | .range => rangeSetDone s.banks bad b
      | _ => b
    (raise 0x10 2 b, some s.cause)

/-- A berth's banks are cleared as one set (R329 step 3). -/
def queueScrub (w : Nat) (b : Block) : Block :=
  modHold (fun h => { h with
    sets := h.sets ++ [⟨banksOf (holdRange b w), .scrub w⟩]
    waits := h.waits.filter fun r => !(banksOf (holdRange b w)).contains (lineBank r.line)
    recycles := h.recycles.filter fun r => !r.lines.any fun l => (banksOf (holdRange b w)).contains (lineBank l) }) b

/-- The berth's range is removed when it is FREE again (R235); FAULTED banks stay so, and the banks of a range command of the
berth that is still running become FREE when their set ends. -/
def freeRange (w : Nat) (b : Block) : Block :=
  let b := (banksOf (holdRange b w)).foldl (fun b k => if bankState b k = .faulted then b else setBank k .free b) b
  modHold (fun h => { h with
    ranges := tset (0, 0) h.ranges w (0, 0)
    cmd    := h.cmd.map fun c => if c.berth = w then { c with base := 0, count := 0, old := (0, 0) } else c }) b

/-! ### Registers (R236) -/

def holdRead (b : Block) (o : Nat) : Word :=
  let cnt (s : BankState) : Nat := (b.hold.banks.filter fun e => e.2 = s).length
  let w32 (n : Nat) : Word := BitVec.ofNat 32 n
  if o = 0x040 then
    w32 (1536 - b.hold.banks.length + 65536 * cnt .transit + 2 ^ 30 * b2n (1 < b.hold.sets.length)
      + 2 ^ 31 * b2n (!b.hold.sets.isEmpty))
  else if o = 0x048 then w32 (b.hold.status.toNat + 256 * b2n b.hold.cmd.isSome)
  else if o = 0x050 then
    let k := fld (reg b 0x1004C) 10 0
    let held := (b.hold.tags.filter fun e => lineBank e.1 = k && (e.2.st = .held || e.2.st = .spoiled)).length
    match bankState b k with
    | .free => w32 (65536 * held)
    | .owned w => w32 (1 + 16 * w + 65536 * held)
    | .transit => w32 (2 + 65536 * held)
    | .faulted => w32 (3 + 65536 * held)
  else if o = 0x054 then w32 (b.hold.tags.filter fun e => e.2.st = .poisoned).length
  else if 0x100 ≤ o ∧ o < 0x180 then
    let r := holdRange b ((o - 0x100) / 4)
    w32 (r.1 + 65536 * r.2)
  else if 0x180 ≤ o ∧ o < 0x200 then
    let r := holdRange b ((o - 0x180) / 4)
    w32 (b.hold.tags.filter fun e => e.2.st ≠ .empty && r.1 ≤ lineBank e.1 && lineBank e.1 < r.1 + r.2).length
  else 0

end Sys2Proof.Machine
end

