-- ==== Sys2Proof/Machine/Observe.lean ====
section
/-!
DEFINITION. What the units report of their work: the counters' events (R455) and the trace records (R456).
-/

namespace Sys2Proof.Machine

/-! ### Trace records -/

/-- The buffers a berth holds. -/
def trcBufs (b : Block) (w : Nat) : List Nat := tfind b.trc.owner fun _ o => o = some w

/-- A trace record's fields (R456). -/
structure TraceRec where
  kind   : Nat
  status : Byte := 0
  ctx    : Nat := 0
  layer  : Nat := 0
  op     : Nat := 0
  index  : Nat := 0
  tag    : Nat := 0
  detail : Nat := 0

def traceBytes (tick : Nat) (r : TraceRec) : Bytes :=
  leBytes 8 tick ++ leBytes 1 r.kind ++ [r.status] ++ leBytes 2 r.ctx ++ leBytes 2 r.layer ++ leBytes 2 r.op ++
    leBytes 4 r.index ++ leBytes 4 r.tag ++ leBytes 8 r.detail

/-- A berth's records. -/
def trcRecs (b : Block) (w : Nat) : List (Nat × Bytes) := tget [] b.trc.recs w

/-- The first buffer of the berth with room for a record. -/
def trcRoom (b : Block) (w : Nat) : Option Nat :=
  (trcBufs b w).find? fun k => ((trcRecs b w).filter fun e => e.1 = k).length < 512

/-- An enabled event of a tick in the window writes a record, or is dropped (R10, R456). -/
def traceAt (tick w : Nat) (r : TraceRec) (b : Block) : Block :=
  let ctrl := reg b (trcKey w 0x058)
  let at_ (o : Nat) : Nat := (reg b (trcKey w o)).toNat + 2 ^ 32 * (reg b (trcKey w (o + 4))).toNat
  let on := (pageAt b 0x1F).unit = .on && ctrl.getLsbD 0 && ctrl.getLsbD (8 + r.kind) && !(berthAt b w).confid &&
    at_ 0x05C ≤ tick && tick < at_ 0x064
  if !on then b
  else match trcRoom b w with
  | some k => { b with trc := { b.trc with recs := tset [] b.trc.recs w (trcRecs b w ++ [(k, traceBytes tick r)]) } }
  | none =>
    raise (viewKey w 5) 2 (raise 0x1F 2 { b with trc := { b.trc with dropped := tmod 0 b.trc.dropped w inc32 } })

/-! ### Counters (R455) -/

def modDbg (f : Dbg → Dbg) (b : Block) : Block := { b with dbg := f b.dbg }

/-- A window of the global counters, or of a berth's, has ended: its end tick belongs to the next (R10). -/
def windowDue (period : Word) (origin : Nat) (b : Block) : Bool := period ≠ 0 && origin + period.toNat ≤ now b

def closeWindow (period : Word) (c : Counters) : Counters := { run := [], shown := c.run, origin := c.origin + period.toNat }

/-- The counts of a window that has ended are shown and start again. A berth's window is a trace event of its end tick. -/
def windowEnd (w : Option Nat) (b : Block) : Block :=
  match w with
  | none =>
    let p := reg b 0x1E0C0
    if windowDue p b.dbg.glob.origin b then
      raise 0x1E 2 (modDbg (fun d => { d with glob := closeWindow p d.glob }) b)
    else b
  | some w =>
    let p := reg b (trcKey w 0x088)
    let c := tget {} b.dbg.per w
    if windowDue p c.origin b then
      traceAt (c.origin + p.toNat) w { kind := 7, detail := tget 0 c.run 0 }
        (modDbg (fun d => { d with per := tset {} d.per w (closeWindow p c) }) b)
    else b

/-- Windows that have ended and are not yet closed. -/
def windowsPast (period : Word) (origin : Nat) (b : Block) : Nat := (now b - origin) / period.toNat

/-- Closes every window that has ended, so that an event counts in the window its tick lies in (R10). -/
def closeWindows (w : Option Nat) (b : Block) : Block :=
  let n := match w with
    | none => windowsPast (reg b 0x1E0C0) b.dbg.glob.origin b
    | some k => windowsPast (reg b (trcKey k 0x088)) (tget {} b.dbg.per k).origin b
  (List.range n).foldl (fun b _ => windowEnd w b) b

/-- An event of now: the records of windows that ended before it come first. -/
def trace (w : Nat) (r : TraceRec) (b : Block) : Block := traceAt (now b) w r (closeWindows (some w) b)

/-- Adds n to every counter that selects an event; of lane operations, event 10, each 1,024 count. -/
def bump (evts : Word) (ev n : Nat) (c : Counters) : Counters :=
  let sum := c.part + n
  let n := if ev = 10 then sum / 1024 else n
  { c with part := if ev = 10 then sum % 1024 else c.part, run := (List.range 8).foldl (fun t i =>
      if fld evts (4 * i + 3) (4 * i) = ev then tmod 0 t i (fun x => min 0xFFFFFFFF (x + n)) else t) c.run }

/-- An event of R455, of a berth or of none: events 1 to 11 pass over berths in confidential mode. -/
def count (ev : Nat) (w : Option Nat) (n : Nat) (b : Block) : Block :=
  let hidden := ev ≤ 11 && w.any fun k => (berthAt b k).confid
  if hidden then b
  else
    let b := closeWindows none b
    let b := if reg b 0x1E0C0 = 0 then b else { b with dbg := { b.dbg with glob := bump (reg b 0x1E0C4) ev n b.dbg.glob } }
    match w with
    | none => b
    | some k =>
      let b := closeWindows (some k) b
      if reg b (trcKey k 0x088) = 0 ∨ (berthAt b k).confid then b
      else { b with dbg := { b.dbg with per := tmod {} b.dbg.per k (bump (reg b (trcKey k 0x08C)) ev n) } }

/-! ### Errors -/

/-- A correctable or uncorrectable error is logged and counted (R413, R455 event 12). -/
def eccEvent (site : Nat) (ue : Bool) (berth : Option Nat) (syn inst addr : Nat) (b : Block) : Block :=
  let b := eccLog site ue false berth syn inst addr b
  if ue then b else count 12 berth 1 b

/-! ### Reads of the Hold (R405, R408) -/

/-- One byte of a Hold read at its checker: corrected and written back, or the whole line is POISONED; the log names the bank, or the
DMA channel that the error halts (R412). -/
def senseByte (chan : Option Nat) (e : Nat × (Byte × BitVec 5)) (r : Bool × Block) : Bool × Block :=
  let (ue, b) := r
  let k := e.1 / 32768
  let w := match bankState b k with
    | .owned w => some w
    | _ => none
  let syn := byteSyndrome e.2
  let addr := e.1 / 64 + 2 ^ 20 * (e.1 % 64)
  match checkedByte (tget 0 b.hold.mem e.1) e.2 with
  | some v =>
    let b := modHold (fun h => { h with mem := tset 0 h.mem e.1 v, upsets := tset (0, 0) h.upsets e.1 (0, 0) }) b
    (ue, if syn = 0 then b else eccEvent 0 false w syn k addr b)
  | none => (true, poisonLine (e.1 / 64) (eccEvent 0 true w syn (chan.getD k) addr b))

/-- Lines of the Hold are read: the flag says that a byte was uncorrectable (R408). -/
def senseLines (chan : Option Nat) (ls : List Nat) (b : Block) : Bool × Block :=
  (b.hold.upsets.filter fun e => ls.contains (e.1 / 64)).foldl (fun r e => senseByte chan e r) (false, b)

/-- The DMA channel of a COPY's operation. -/
def chanOf (b : Block) (op : OpRef) : Option Nat := (b.copies.find? fun j => op = .cmd j.ctx j.idx).map CopyJob.chan

/-- The INSTANCE of an error that ends an operation: the channel that a COPY's halts (R412), else the port. -/
def errInst (b : Block) (op : OpRef) (port : Nat) : Nat := (chanOf b op).getD port

/-- Outside poison on a line that was read is logged under SITE 8. -/
def poisonError (poison : Bool) (berth : Option Nat) (inst addr : Nat) (b : Block) : Block :=
  if poison then eccEvent 8 true berth 0 inst addr b else b

/-- One word of a memory path at its checker (R403, R404): corrected in flight and logged (R406), or uncorrectable, as the flag of
the answer then says. `inst` is the port, `ueInst` the INSTANCE of an uncorrectable word. -/
def pathWord (berth : Option Nat) (inst ueInst addr : Nat) (e : WordErr) (r : Bytes × Bool × Block) : Bytes × Bool × Block :=
  let (d, ue, b) := r
  let syn := checkBits col39 (bits e.flips.toNat 31 0) ^^^ bits e.flips.toNat 38 32
  if d.length < 4 * e.word + 4 ∨ e.flips = 0 then r
  else match corrected col39 syn (fieldLE d (4 * e.word) 4 ^^^ bits e.flips.toNat 31 0) with
  | some v =>
    (d.take (4 * e.word) ++ leBytes 4 v ++ d.drop (4 * e.word + 4), ue,
      if syn = 0 then b else eccEvent 7 false berth syn inst addr b)
  | none => (d, true, eccEvent 7 true berth syn ueInst addr b)

/-- The words of a transfer at the checker of its path: what is delivered, and whether a word is uncorrectable. -/
def pathRead (berth : Option Nat) (inst ueInst : Nat) (addr : Nat → Nat) (errs : List WordErr) (d : Bytes) (b : Block) :
    Bytes × Bool × Block :=
  errs.foldl (fun r e => pathWord berth inst ueInst (addr e.word) e r) (d, false, b)

end Sys2Proof.Machine
end

