-- ==== Sys2Proof/Machine/Ports.lean ====
section
/-!
DEFINITION. Engine A's regions and ports: how a region lies in its port's address space (R244, R245), and the traffic of a port
(R53, R264).
-/

namespace Sys2Proof.Machine

def modMema (f : Mema → Mema) (b : Block) : Block := { b with mema := f b.mema }

/-! ### Layout (R244, R245) -/

def rBerth (a : ARegion) : Nat := fld a.cfg 4 0
def rPort (a : ARegion) : Nat := fld a.cfg 6 5
def rType (a : ARegion) : Nat := fld a.cfg 8 7
def rLog (a : ARegion) : Nat := fld a.cfg 15 10
def rBase (a : ARegion) : Nat := fld a.baseLo 31 12 * 4096 + fld a.baseHi 19 0 * 2 ^ 32
def rDepth (n : Nat) : Nat := (n + 2) / 3 - 1
def rNodes (n j : Nat) : Nat := (2 ^ n + 8 ^ (j + 1) - 1) / 8 ^ (j + 1)
def rRootLen (n : Nat) : Nat := 2 ^ (n - 3 * rDepth n)

/-- Lines before node level j, from BASE. -/
def levelOff (n j : Nat) : Nat := 2 ^ n + 2 ^ n / 8 + ((List.range j).map (rNodes n)).sum

/-- The footprint in lines, and in bytes of whole 4 KiB pages. -/
def footLines (prot : Bool) (n : Nat) : Nat := if prot then levelOff n (rDepth n) else 2 ^ n
def footBytes (prot : Bool) (n : Nat) : Nat := 4096 * ((footLines prot n + 63) / 64)

/-- Port address of a cacheable line: level 15 the tag lines, otherwise node `index` of a level. -/
def metaAddr (a : ARegion) (level index : Nat) : Nat :=
  rBase a + 64 * (if level = 15 then 2 ^ rLog a + index else levelOff (rLog a) level + index)
def dataAddr (a : ARegion) (i : Nat) : Nat := rBase a + 64 * i

/-! ### Port traffic -/

/-- The HIF carries the block's own traffic: out of reset, its IDE keys in place (R58, R64). Log entry 154. -/
def hifOpen (b : Block) : Bool := b.pins.hifUp && ideUp b 0

/-- A port carries traffic: present, out of reset, its unit not OFF (R264); a HOST port also needs the HIF (R53). -/
def portUp (b : Block) (k : Nat) : Bool :=
  k < b.build.memaPorts && !(portAt b k).inRst && (pageAt b 0x12).unit ≠ .off && (b.build.hostPort ≠ some k || hifOpen b)

/-- Puts a read on port k; a HOST port carries its traffic over the HIF (R53). Log entry 131. -/
def putRead (k addr tag : Nat) (b : Block) : Block :=
  emit (if b.build.hostPort = some k then .hostRead addr 64 (.port k tag) else .cxlRead k addr tag) b

/-- Puts a write on port k. -/
def putWrite (k addr tag : Nat) (d : Bytes) (b : Block) : Block :=
  emit (if b.build.hostPort = some k then .hostWrite addr d (.port k tag) else .cxlWrite k addr tag d) b

/-- Issues a read, or holds it while its port is down (R264). -/
def sendRead (k addr : Nat) (f : AFetch) (b : Block) : Block :=
  let t := b.mema.nextTag
  let up := portUp b k
  let b := modMema (fun m => { m with
    nextTag := t + 1, reads := m.reads ++ [{ port := k, tag := t, addr := addr, fetch := f, sent := up, since := now b }] }) b
  if up then putRead k addr t b else b

/-- Issues a write, or holds it while its port is down (R264); its acknowledgement serves `op`. -/
def sendWrite (r k addr : Nat) (d : Bytes) (op : OpRef) (b : Block) : Block :=
  let t := b.mema.nextTag
  let up := portUp b k
  let b := modMema (fun m => { m with
    nextTag := t + 1
    writes := m.writes ++ [{ port := k, tag := t, addr := addr, line := d, region := r, sent := up, since := now b,
                             op := op }] }) b
  if up then putWrite k addr t d b else b

/-- Ciphertext held for an address whose write is not acknowledged (R254, R256): the youngest. -/
def heldWrite (b : Block) (k addr : Nat) : Option Bytes :=
  ((b.mema.writes.filter fun w => w.port = k && w.addr = addr).getLast?).map AWrite.line

end Sys2Proof.Machine
end

