-- ==== Sys2Proof/Machine/Mems.lean ====
section
/-!
DEFINITION. Engine S (R48, R49, R237 to R242, R268, R271, R351, R410): region entries, keys, the fabric path and the internal
path, and the block's writes to queue memory (R275).
-/

namespace Sys2Proof.Machine

def modMems (f : Mems → Mems) (b : Block) : Block := { b with mems := f b.mems }
def srgnAt (b : Block) (k : Nat) : SRegion := tget {} b.mems.regions k
def modSrgn (k : Nat) (f : SRegion → SRegion) (b : Block) : Block :=
  modMems (fun m => { m with regions := tmod {} m.regions k f }) b
def skeyAt (b : Block) (w : Nat) : SKey := tget {} b.mems.keys w

def srgnBerth (e : SRegion) : Nat := fld e.cfg 4 0

/-- A line address lies in an entry (R240). -/
def inSrgn (e : SRegion) (addr : Nat) : Bool :=
  e.valid && fld e.base 29 0 * 1024 ≤ addr && addr < fld e.limit 29 0 * 1024

/-- The berth's key is LOADED and its KID is not RETIRING (R239, R240). -/
def keyServes (b : Block) (w : Nat) : Bool :=
  (skeyAt b w).loaded && (keyAt b (skeyAt b w).kid).st = .live

/-- A sealed HBM region covers the address (R351). -/
def sealedAt (b : Block) (w g addr : Nat) : Bool :=
  (sueAt b w).sealed_.any fun i => (rgnEnt b w i).any fun e =>
    e.kind = 0 && e.port = g && e.base ≤ addr && addr < e.base + e.extra * 1024

/-- The operation may reach a sealed region (R351): it belongs to the SUE or to a sector command. -/
def maySealed : OpRef → Bool
  | .prog .. => true
  | .tensor .. => true
  | .gse .. => true
  | .gseOut .. => true
  | _ => false

/-- A request is admitted (R240); `fenced` keeps it out of sealed regions (R351), as every request of the fabric path is. -/
def admitted (b : Block) (g addr w : Nat) (fenced : Bool) : Bool :=
  (pageAt b 0x11).unit = .on && g < b.build.groups && keyServes b w && !(fenced && sealedAt b w g addr) &&
  (List.range 32).any fun e => inSrgn (srgnAt b (32 * g + e)) addr && srgnBerth (srgnAt b (32 * g + e)) = w

/-- A request handled under R49. -/
def denyMems (w : Nat) (b : Block) : Block :=
  raise 0x11 1 (recordErr 0x11 cDenied (some w) (modMems (fun m => { m with deny := inc32 m.deny }) b))

/-! ### The mix (R238) -/

def lineNat (d : Bytes) : BitVec 512 := BitVec.ofNat 512 (leNat d)
def mixLine (g addr : Nat) (key : BitVec 256) (d : Bytes) : Bytes :=
  leBytes 64 (Config.mix g (BitVec.ofNat 40 addr) key (lineNat d)).toNat
def unmixLine (g addr : Nat) (key : BitVec 256) (d : Bytes) : Bytes :=
  leBytes 64 ((Config.mix g (BitVec.ofNat 40 addr) key).symm (lineNat d)).toNat

/-! ### Requests -/

/-- The key under which the abandoned tags of a slice stay reserved (R420). -/
def lostKey (g slice : Nat) : Nat := 1000 + 32 * g + slice

/-- The transaction tags of a slice that are in use. -/
def usedTids (b : Block) (g slice : Nat) : List Nat :=
  (b.mems.reqs.filter fun r => r.group = g && r.slice = slice).map SReq.tid ++
    (b.recv.lostTags.filter fun t => t.1 = lostKey g slice).map Prod.snd

/-- The lowest transaction tag no request of the slice uses. -/
def freeTid (b : Block) (g slice : Nat) : Nat := lowestFree (usedTids b g slice)

/-- A read goes to the controller under its tag. -/
def sliceRead (r : SReq) (b : Block) : Block :=
  emit (.mcRead r.group r.slice r.addr r.tid) (modMems (fun m => { m with reqs := m.reqs ++ [{ r with since := now b }] }) b)

/-- A line goes to the controller, mixed under the berth's key. -/
def sliceWrite (g slice addr w tid : Nat) (d : Bytes) (b : Block) : Block :=
  emit (.mcWrite g slice addr tid (mixLine g addr (skeyAt b w).key d)) b

/-- The line is being read so that bytes can be put into it. -/
def patching (b : Block) (g addr : Nat) : Bool := b.mems.reqs.any fun r => !r.patch.isEmpty && r.group = g && r.addr = addr

/-- A later write to a line that is being patched goes into it. -/
def addPatch (g addr off : Nat) (d : Bytes) (b : Block) : Block :=
  modMems (fun m => { m with reqs := m.reqs.map fun r =>
    if !r.patch.isEmpty && r.group = g && r.addr = addr then { r with patch := r.patch ++ [(off, d)] } else r }) b

/-- A fabric request (R48, R49). Toward the controller it keeps its own tag unless the slice uses that one (log
entry 132). Once the Slipway has accepted a power failure the port takes nothing (R61). -/
def fabricRequest (g k addr w tid : Nat) (wdata : Option Bytes) (b : Block) : Block :=
  let t := if (usedTids b g k).contains tid then freeTid b g k else tid
  if b.slip.st ≠ .idle then b
  else if !admitted b g addr w true then
    let b := denyMems w b
    match wdata with
    | none => emit (.fabricRsp g k tid (List.replicate 64 0) true) b
    | some _ => b
  else match wdata with
  | some d => if patching b g addr then addPatch g addr 0 (slice d 0 64) b else sliceWrite g k addr w t d b
  | none => sliceRead { group := g, slice := k, tid := t, addr := addr, berth := w, fabric := true, write := false, ftid := tid } b

/-- A read of the internal path for an operation of berth w (R237, R268); line address mod 32 picks the slice. Log entry 14. -/
def internalRead (w g addr : Nat) (op : OpRef) (b : Block) : Block :=
  if !admitted b g addr w (!maySealed op) then later (.opDone op cDenied) (denyMems w b)
  else
    let s := addr % 32
    count 6 (some w) 1 (sliceRead { group := g, slice := s, tid := freeTid b g s, addr := addr, berth := w, fabric := false,
                                    write := false, op := op } b)

/-! ### Writes of the internal path -/

/-- Performs the berth's waiting writes in order: a whole line at once, part of one by reading the line first (fuel: writes). -/
def pumpWrites (w : Nat) : Nat → Block → Block
  | 0, b => b
  | n + 1, b =>
    match b.mems.wq.find? fun x => x.berth = w with
    | none => b
    | some x =>
      if b.mems.reqs.any fun r => r.berth = w && !r.patch.isEmpty then b
      else
        let s := x.addr % 32
        let b := modMems (fun m => { m with wq := m.wq.erase x }) b
        let r : SReq := { group := x.group, slice := s, tid := freeTid b x.group s, addr := x.addr, berth := w, fabric := false,
                          write := true, op := x.op }
        if x.data.length = 64 then
          pumpWrites w n (later (.opDone x.op cOk) (count 6 (some w) 1 (sliceWrite x.group s x.addr w r.tid x.data b)))
        else count 6 (some w) 1 (sliceRead { r with patch := [(x.off, x.data)] } b)

/-- A write of bytes within one line (R237, R240), in its turn: a berth's writes reach the controllers in order. Log entry 133. -/
def internalWrite (w g addr off : Nat) (d : Bytes) (op : OpRef) (b : Block) : Block :=
  if !admitted b g addr w (!maySealed op) then later (.opDone op cDenied) (denyMems w b)
  else
    let b := modMems (fun m => { m with wq := m.wq ++ [⟨w, g, addr, off, d, op⟩] }) b
    pumpWrites w b.mems.wq.length b

/-- The pieces of some bytes that lie in one line each, as (line, offset, bytes); fuel: bytes. -/
def linePieces : Nat → Nat → Bytes → List (Nat × Nat × Bytes)
  | 0, _, _ => []
  | n + 1, o, d =>
    if d.isEmpty then []
    else
      let k := min (64 - o % 64) d.length
      (o / 64, o % 64, d.take k) :: linePieces n (o + k) (d.drop k)

/-- A BLOCK-class write to queue memory (R275, R268): engine S's internal path, or the HOST port while the region is LIVE (R266). -/
def blockWrite (w : Nat) (r : RgnEnt) (off : Nat) (data : Bytes) (op : OpRef) (b : Block) : Block :=
  if r.kind = 0 then
    (linePieces data.length off data).foldl (fun b p => internalWrite w r.port (r.base + p.1) p.2.1 p.2.2 op b) b
  else if (rgnAt b r.entry).st = .live then sendWrite r.entry r.port (rBase (rgnAt b r.entry) + off) data op b
  else b

/-! ### Responses -/

/-- A fabric read's answer (R48): poison from the controller passes unchanged (R410). Log entry 134. -/
def answerFabric (r : SReq) (d : Bytes) (bad : Bool) (b : Block) : Block :=
  emit (.fabricRsp r.group r.slice r.ftid (unmixLine r.group r.addr (skeyAt b r.berth).key d) bad) b

/-- An internal read's line has arrived: it is delivered, or takes the bytes of a write and goes back (R237). -/
def answerInternal (r : SReq) (d : Bytes) (b : Block) : Block :=
  let line := unmixLine r.group r.addr (skeyAt b r.berth).key d
  if r.patch.isEmpty then later (.opLine r.op line) b
  else
    let line := r.patch.foldl (fun l p => putAt l p.1 p.2) line
    let b := sliceWrite r.group r.slice r.addr r.berth r.tid line b
    pumpWrites r.berth b.mems.wq.length (later (.opDone r.op cOk) (count 6 (some r.berth) 1 b))

/-- A read response from a controller (R48, R237, R410), matched by its tag. -/
def mcResponse (g slice tid : Nat) (rdata : Bytes) (poison : Bool) (errs : List WordErr) (b : Block) : Block :=
  match b.mems.reqs.find? fun r => r.group = g && r.slice = slice && r.tid = tid with
  | none => { b with recv := { b.recv with lostTags := b.recv.lostTags.erase (lostKey g slice, tid) } }
  | some r =>
    let again := !r.fabric && !poison && r.fetch < 2
    let inst := if again then g else errInst b r.op g
    let addr := 64 * (r.addr % 2 ^ 26)
    let b := modMems (fun m => { m with reqs := m.reqs.erase r }) (poisonError poison (some r.berth) inst addr b)
    let x := pathRead (some r.berth) g inst (fun _ => addr) errs rdata b
    let b := x.2.2
    if r.fabric then answerFabric r x.1 (poison || x.2.1) b
    else if !poison && !x.2.1 then answerInternal r x.1 b
    else if again then sliceRead { r with fetch := r.fetch + 1 } b
    else pumpWrites r.berth b.mems.wq.length (later (.opHurt r.op cUncorr) b)

/-! ### Keys (R239) -/

/-- The MIX key of a berth is in every slice. -/
def mixLoaded (w : Nat) (b : Block) : Bool × Block :=
  let k := (keyRange b w).1
  let e := keyAt b k
  if (keyRange b w).2 ≠ 0 ∧ e.st = .live ∧ e.purpose = 0x3 ∧ e.berth = some w ∧ !(skeyAt b w).loaded then
    (true, modMems (fun m => { m with keys := tset {} m.keys w ⟨k, e.key, true⟩ }) b)
  else (false, b)

/-- The key leaves the slices once its KID retires and no request of the berth is inside. -/
def mixUnload (w : Nat) (b : Block) : Block :=
  let s := skeyAt b w
  if s.loaded ∧ (keyAt b s.kid).st = .retiring ∧ !b.mems.reqs.any (fun r => r.berth = w) ∧ !b.mems.wq.any (fun x => x.berth = w) then
    later (.berthCheck w) (modMems (fun m => { m with keys := tset {} m.keys w {} }) b)
  else b

/-! ### Region entries (R240, R242, R271) -/

def srgnMeets (a c : SRegion) : Bool :=
  c.valid && fld a.base 29 0 < fld c.limit 29 0 && fld c.base 29 0 < fld a.limit 29 0

/-- An entry may become valid. -/
def srgnOk (b : Block) (k : Nat) (e : SRegion) : Bool :=
  fld e.base 29 0 < fld e.limit 29 0 &&
  (List.range 32).all fun i => 32 * (k / 32) + i = k || !srgnMeets e (srgnAt b (32 * (k / 32) + i))

/-- The entry MEMS_RGN_SEL names: group × 32 + entry. -/
def srgnSel (b : Block) : Nat := fld (reg b 0x11048) 7 0

/-- A write to MEMS_RGN_BASE, MEMS_RGN_LIMIT or MEMS_RGN_CFG (R271). -/
def srgnWrite (o : Nat) (v : Word) (b : Block) : Block :=
  let k := srgnSel b
  let e := srgnAt b k
  if k / 32 ≥ b.build.groups then recordErr 0x11 cDenied none b
  else if o = 0x04C then
    (if e.valid then recordErr 0x11 cBusy none b else modSrgn k (fun e => { e with base := v }) b)
  else if o = 0x050 then
    (if e.valid then recordErr 0x11 cBusy none b else modSrgn k (fun e => { e with limit := v }) b)
  else
    let cfg := v &&& 0x7FFFFFFF
    if e.valid then
      let b := if fld cfg 4 0 ≠ srgnBerth e then recordErr 0x11 cBusy none b else b
      modSrgn k (fun e => { e with valid := v.getLsbD 31, cfg := (cfg &&& 0xFFFFFFE0) ||| (e.cfg &&& 0x1F) }) b
    else
      let b := modSrgn k (fun e => { e with cfg := cfg }) b
      if !v.getLsbD 31 then b
      else if srgnOk b k (srgnAt b k) then modSrgn k (fun e => { e with valid := true }) b
      else recordErr 0x11 cDenied none b

/-- The firmware creates an HBM region at load: the entry it took, or none (R240, R313). -/
def createHbm (w g base len : Nat) (b : Block) : Option (Nat × Block) :=
  if g ≥ b.build.groups ∨ base % 1024 ≠ 0 ∨ len = 0 ∨ base / 1024 + len > 2 ^ 30 then none
  else
    let e : SRegion := { base := BitVec.ofNat 32 (base / 1024), limit := BitVec.ofNat 32 (base / 1024 + len),
                         cfg := BitVec.ofNat 32 w, valid := true }
    match (List.range 32).find? fun i => !(srgnAt b (32 * g + i)).valid with
    | none => none
    | some i =>
      let k := 32 * g + i
      if srgnOk b k e then some (k, modSrgn k (fun _ => e) b) else none

/-- A berth's entries are cleared (R242). -/
def clearSrgns (w : Nat) (b : Block) : Block :=
  modMems (fun m => { m with regions := m.regions.filter fun e => !(e.2.valid && srgnBerth e.2 = w) }) b

def memsRead (b : Block) (o : Nat) : Word :=
  let w32 (n : Nat) : Word := BitVec.ofNat 32 n
  let e := srgnAt b (srgnSel b)
  let absent := srgnSel b / 32 ≥ b.build.groups
  if o = 0x040 then
    w32 ((b.mems.keys.filter fun k => k.2.loaded).length + 65536 * (b.mems.regions.filter fun r => r.2.valid).length)
  else if o = 0x044 then w32 b.mems.deny
  else if o = 0x04C then (if absent then 0 else e.base)
  else if o = 0x050 then (if absent then 0 else e.limit)
  else if o = 0x054 then (if absent then 0 else (e.cfg &&& 0x7FFFFFFF) ||| (if e.valid then 0x80000000 else 0))
  else if 0x100 ≤ o ∧ o < 0x180 then
    let s := skeyAt b ((o - 0x100) / 4)
    w32 (s.kid + 2 ^ 31 * b2n s.loaded)
  else 0

end Sys2Proof.Machine
end

