-- ==== Sys2Proof/Machine/Objects.lean ====
section
/-!
DEFINITION. Objects, handles and fences (R280 to R284, R297 to R304), and the placing of buffers (R292).
-/

namespace Sys2Proof.Machine

/-! ### Regions of a tide table -/

/-- Bytes of a region of the region list (R244, R312). -/
def rgnBytes (r : RgnEnt) : Nat := if r.kind = 0 then r.extra * 65536 else 2 ^ r.log2 * 64

/-- Queue memory lies in an HBM or a HOSTIO region (R275). -/
def queueMem (r : RgnEnt) : Bool := r.kind = 0 || r.kind = 3

/-! ### Handles (R280) -/

def handleOf (g : BitVec 16) (i : Nat) : Word := BitVec.ofNat 32 (g.toNat * 65536 + i)

/-- The next generation of an entry: never 0. -/
def nextGen (g : BitVec 16) : BitVec 16 := if g + 1 = 0 then 1 else g + 1

def usedObjs (b : Block) : List Nat := tfind b.objs fun _ o => o.st ≠ .free
def usedFences (b : Block) : List Nat := tfind b.fences fun _ o => o.st ≠ .free

/-- A new object takes the lowest-numbered FREE entry (R281); none when the table is full. -/
def newObj (w : Nat) (k : ObjKind) (b : Block) : Option (Nat × Block) :=
  let i := lowestFree (usedObjs b)
  if i < 65536 then some (i, modObj i (fun o => { o with st := .live, berth := w, kind := k, sig := none }) b)
  else none

/-- What a handle field meets in the object table: OK and the index, DENIED or STALE_HANDLE (R293). -/
def objCheck (b : Block) (w : Nat) (h : Word) (good : Obj → Bool) : Byte × Nat :=
  let i := fld h 15 0
  let o := objAt b i
  if h = 0 then (cDenied, i)
  else if o.st ≠ .free ∧ (o.berth ≠ w ∨ !good o) then (cDenied, i)
  else if o.st = .free ∨ o.gen.toNat ≠ fld h 31 16 then (cStale, i)
  else (cOk, i)

def fenceCheck (b : Block) (w : Nat) (h : Word) : Byte × Nat :=
  let i := fld h 15 0
  let f := fenceAt b i
  if h = 0 ∨ i ≥ 8192 then (cDenied, i)
  else if f.st ≠ .free ∧ f.berth ≠ w then (cDenied, i)
  else if f.st = .free ∨ f.gen.toNat ≠ fld h 31 16 then (cStale, i)
  else (cOk, i)

/-- Some command in a store holds a reference to the entry (R282). -/
def referenced (b : Block) (fence : Bool) (i : Nat) : Bool :=
  b.ctxs.any fun e => e.2.cmds.any fun c => c.refs.contains (fence, i)

/-! ### Fences (R298 to R304) -/

/-- a ≥ₕ b (R299). -/
def geHalf (a b : BitVec 64) : Bool := (a - b).toNat < 2 ^ 63

def fenceCode : FenceState → Nat
  | .unsignalled => 0 | .signalled => 1 | .error => 2

/-- A fence's handle: that of a FREEING fence carries the generation before its free (R281). -/
def fenceHandle (f : Fence) (i : Nat) : Word :=
  handleOf (if f.st = .freeing then (if f.gen = 1 then 0xFFFF else f.gen - 1) else f.gen) i

/-- The mirror record of a fence (R304). -/
def mirrorRecord (f : Fence) (i : Nat) : Bytes :=
  leBytes 8 f.value.toNat ++ leBytes 1 (fenceCode f.state) ++ [0] ++ leBytes 2 f.low ++ leBytes 4 (fenceHandle f i).toNat

/-- Writes a fence's mirror, if it has one. -/
def writeMirror (i : Nat) (b : Block) : Block :=
  let f := fenceAt b i
  match f.mirror with
  | some (r, slot) => match rgnEnt b f.berth r with
    | some e => blockWrite f.berth e (16 * slot) (mirrorRecord f i) .none b
    | none => b
  | none => b

/-- Changes a fence: its mirror is written and its waiters are re-evaluated (R298, R304). -/
def changeFence (i : Nat) (g : Fence → Fence) (b : Block) : Block := later (.fenceChanged i) (writeMirror i (modFence i g b))

/-- Creates a fence (R298, R304); none when the fence table is full. -/
def newFence (w : Nat) (init : BitVec 64) (mirror : Option (Nat × Nat)) (b : Block) : Option (Nat × Block) :=
  let i := lowestFree (usedFences b)
  if i < 8192 then
    some (i, writeMirror i (modFence i (fun f =>
      { f with st := .live, berth := w, value := init, state := .unsignalled, low := 0, mirror := mirror, sig := none }) b))
  else none

/-- What a signal does to a fence (R300). -/
inductive Signalled where
  | applied
  | low
  | far
  | ignored
deriving DecidableEq, Repr

/-- The distance of a signal and its class (R300). -/
def signalKind (f : Fence) (s : BitVec 64) : Signalled :=
  let d := (s - f.value).toNat
  if f.state = .error then .ignored
  else if d < 2 ^ 63 then .applied
  else if d < 0xC000000000000000 then .far
  else .low

/-- A fence enters ERROR, for good (R302). -/
def failFence (i : Nat) (b : Block) : Block :=
  let f := fenceAt b i
  if f.st = .free ∨ f.state = .error then b
  else later (.fenceError i) (changeFence i (fun f => { f with state := .error }) b)

/-- Applies a signal (R300), made for context c; an applied one is a trace event. -/
def signalFence (c i : Nat) (s : BitVec 64) (b : Block) : Signalled × Block :=
  let k := signalKind (fenceAt b i) s
  let b := if k = .applied then trace (fenceAt b i).berth { kind := 5, ctx := c, detail := s.toNat } b else b
  (k, match k with
    | .applied => changeFence i (fun f => { f with value := s, state := .signalled }) b
    | .low => writeMirror i (modFence i (fun f => { f with low := min 0xFFFF (f.low + 1) }) b)
    | .far => failFence i b
    | .ignored => b)

/-- The wait condition of R301. -/
def waitMet (f : Fence) (state : Bool) (v : BitVec 64) : Bool := if state then f.state = .signalled else geHalf f.value v

/-- FENCE_RESET (R298, R302). -/
def resetFence (i : Nat) (b : Block) : Byte × Block :=
  if (fenceAt b i).state = .error then (cPoison, b)
  else (cOk, changeFence i (fun f => { f with state := .unsignalled }) b)

/-- The signal of deferred work (R297), if its handle still names a fence; far ahead, it loses the context (R300). -/
def deferredSignal (d : Option Deferred) (b : Block) : Block :=
  match d with
  | none => b
  | some d => match d.fence, (ctxAt b d.ctx).berth with
    | some h, some w =>
      match fenceCheck b w (BitVec.ofNat 32 h) with
      | (0x00, f) =>
        let (k, b) := signalFence d.ctx f d.value b
        if k = .far then later (.ctxLost d.ctx cDenied) b else b
      | _ => b
    | _, _ => b

/-! ### Freeing (R281, R283) -/

/-- The entry becomes FREE: a buffer's lines are recycled. -/
def finishFree (fence : Bool) (i : Nat) (b : Block) : Block :=
  if fence then modFence i (fun f => { gen := f.gen }) b
  else modObj i (fun o => { gen := o.gen }) ((freedLines b i).foldl (fun b l => emptyLine l b) b)

/-- An accepted OBJ_FREE takes effect (R281, R283): GEN moves on, and the entry becomes FREE, or FREEING while a reference, a pin or
a verdict is out, with the signal its end performs (R297). -/
def acceptFree (fence : Bool) (i : Nat) (sig : Option Deferred) (b : Block) : Byte × Block :=
  let ls := allLines b i
  let busy := referenced b fence i || (!fence && !recycleReady b ls)
  let b := if fence then
      later (.fenceFreed i) (modFence i (fun f => { f with st := .freeing, gen := nextGen f.gen, sig := sig }) b)
    else modObj i (fun o => { o with st := .freeing, gen := nextGen o.gen, sig := sig, lines := ls }) b
  if busy then (cPending, b) else (cOk, finishFree fence i b)

/-- The last reference and pin of a FREEING entry are gone (R281). -/
def deferredFree (fence : Bool) (i : Nat) (b : Block) : Block :=
  let ready := !referenced b fence i &&
    (if fence then (fenceAt b i).st = .freeing
     else (objAt b i).st = .freeing && recycleReady b (freedLines b i))
  if ready then
    let d := if fence then (fenceAt b i).sig else (objAt b i).sig
    deferredSignal d (finishFree fence i b)
  else b

/-- The berth's scrub frees every handle and fence of it (R281, R307). -/
def scrubObjects (w : Nat) (b : Block) : Block :=
  let b := (tfind b.objs fun _ o => o.st ≠ .free && o.berth = w).foldl (fun b i =>
    modObj i (fun o => { gen := if o.st = .live then nextGen o.gen else o.gen }) b) b
  (tfind b.fences fun _ f => f.st ≠ .free && f.berth = w).foldl (fun b i =>
    modFence i (fun f => { gen := if f.st = .live then nextGen f.gen else f.gen }) b) b

/-! ### Buffers (R292) -/

/-- Two stripes of lines, as the Hold lines they take. -/
def stripe (b : Block) (w first width row lines : Nat) : List Nat :=
  (List.range lines).map fun k => bufLine b w first width row k

/-- The rectangles of a stripe, as (first entry, end entry, first row, end row): its full rows and its partial last row. -/
def rects (first width row lines : Nat) : List (Nat × Nat × Nat × Nat) :=
  let q := lines / width
  let r := lines % width
  (if q = 0 then [] else [(first, first + width, row, row + q)]) ++
  (if r = 0 then [] else [(first, first + r, row + q, row + q + 1)])

def rectsMeet (a c : List (Nat × Nat × Nat × Nat)) : Bool :=
  a.any fun x => c.any fun y => x.1 < y.2.1 && y.1 < x.2.1 && x.2.2.1 < y.2.2.2 && y.2.2.1 < x.2.2.2

def objRects (o : Obj) : List (Nat × Nat × Nat × Nat) :=
  match o.kind with
  | .buffer f w r n => rects f w r n
  | .sueBuffer f w r n _ _ => rects f w r n
  | _ => []

/-- May berth w place a buffer so (R292, R231)? -/
def bufferFits (b : Block) (w first width row lines : Nat) : Bool :=
  1 ≤ width && width ≤ 1536 && row ≤ 511 && 1 ≤ lines && row + (lines + width - 1) / width ≤ 512 &&
  first + width ≤ (holdRange b w).2 &&
  (List.range width).all (fun i => bankState b ((holdRange b w).1 + first + i) = .owned w) &&
  (holdBuffers b w).all fun i => !rectsMeet (objRects (objAt b i)) (rects first width row lines)

end Sys2Proof.Machine
end

