-- ==== Sys2Proof/Machine/Contexts.lean ====
section
/-!
DEFINITION. Contexts and their commands: queues and scans (R285 to R289), acceptance (R290 to R293), starting and retiring
(R294 to R297, R302), loss (R305, R306), and run slots (R315 to R321).
-/

namespace Sys2Proof.Machine

/-! ### Fields of a command (R290) -/

def cOper (r : Bytes) : Nat := fieldLE r 0 2
def cLayer (r : Bytes) : Nat := fieldLE r 2 2
def cFlag (r : Bytes) (i : Nat) : Bool := bit (fieldLE r 4 1) i
def cUnit (r : Bytes) : Nat := fieldLE r 5 1 % 16
def cAttach (r : Bytes) : Nat := fieldLE r 5 1 / 16
def cTag (r : Bytes) : Nat := fieldLE r 8 4
def cWord (r : Bytes) (o : Nat) : Word := BitVec.ofNat 32 (fieldLE r o 4)
def cWaitVal (r : Bytes) : BitVec 64 := BitVec.ofNat 64 (fieldLE r 0x10 8)
def cSigVal (r : Bytes) : BitVec 64 := BitVec.ofNat 64 (fieldLE r 0x20 8)
def fWait (r : Bytes) : Bool := cFlag r 0
def fWaitState (r : Bytes) : Bool := cFlag r 1
def fSignal (r : Bytes) : Bool := cFlag r 2
def fOrder (r : Bytes) : Bool := cFlag r 3
def fNp (r : Bytes) : Bool := cFlag r 4

/-- The ARGS bytes an operator uses, as (offset, length); none where UNIT or OPERATOR is undefined. -/
def usedArgs (r : Bytes) : Option (List (Nat × Nat)) :=
  match cUnit r, cOper r with
  | 0, 0 => some []
  | 0, 1 => some [(0x28, 4), (0x30, 8), (0x38, 4)]
  | 0, 2 => some [(0x28, 4)]
  | 0, 3 => some [(0x30, 2), (0x32, 2), (0x34, 2), (0x38, 4)]
  | 0, 4 => some [(0x28, 4), (0x2C, 4)]
  | 0, 5 => some [(0x28, 4), (0x30, 4), (0x34, 4)]
  | 0, 6 => some [(0x28, 4), (0x2C, 4), (0x30, 4), (0x34, 4), (0x38, 4)]
  | 0, 7 => some [(0x28, 4), (0x2C, 4), (0x30, 4), (0x34, 4), (0x38, 4), (0x3C, 4)]
  | 1, _ => some [(0x28, 24)]
  | 2, 1 => some [(0x28, 8), (0x30, 4)]
  | 2, 2 => some []
  | _, _ => none

/-- Every reserved field, flag and unused byte is 0 (R290 to R292). -/
def cmdClean (r : Bytes) : Bool :=
  match usedArgs r with
  | none => false
  | some us =>
    fieldLE r 4 1 < 32 && fieldLE r 6 2 = 0 && fieldLE r 0x1C 4 = 0 &&
    (cUnit r = 1 || cAttach r = 0) &&
    (List.range 24).all (fun i => us.any (fun u => u.1 ≤ 0x28 + i && 0x28 + i < u.1 + u.2) || fieldLE r (0x28 + i) 1 = 0)

/-! ### What a command may name -/

/-- The region list index whose handle is object i. -/
def rgnIndex (b : Block) (w i : Nat) : Option Nat := (tideOf b w).bind fun t => t.regions.findIdx? fun r => r.obj = i

def isSealed (b : Block) (w i : Nat) : Bool := (rgnIndex b w i).any fun k => (sueAt b w).sealed_.contains k

def isPlain (o : Obj) : Bool :=
  match o.kind with
  | .buffer .. => true
  | _ => false

def isRegion (o : Obj) : Bool :=
  match o.kind with
  | .hbm .. => true
  | .engA _ => true
  | .window .. => true
  | _ => false

def isXing (o : Obj) : Bool :=
  match o.kind with
  | .crossing .. => true
  | _ => false

/-- A place that COPY may read or write (R292, R351): a buffer, or an HBM or PROT region that is not sealed. -/
def copyable (b : Block) (w i : Nat) : Bool :=
  let o := objAt b i
  !isSealed b w i &&
  match o.kind with
  | .hbm .. => true
  | .engA r => fld (rgnAt b r).cfg 8 7 = 0
  | .buffer .. => true
  | _ => false

/-- Lines of an object. -/
def objLen (b : Block) (i : Nat) : Nat :=
  match (objAt b i).kind with
  | .hbm _ _ n => n * 1024
  | .engA r => 2 ^ fld (rgnAt b r).cfg 15 10
  | .window k _ => 2 ^ k
  | _ => bufLen (objAt b i)

def isExportRgn (b : Block) (w i : Nat) : Bool :=
  match tideOf b w, rgnIndex b w i with
  | some t, some k => t.expRgn.contains k
  | _, _ => false

def isExportXing (b : Block) (w i : Nat) : Bool :=
  match tideOf b w with
  | some t => t.expXing.any fun k => t.xings[k]?.any fun e => e.obj = i
  | none => false

/-- A COPY's destination: Hold and HBM lie inside the trust boundary, a PROT region must be an export target (R28). -/
def copyTarget (b : Block) (w i : Nat) : Bool :=
  match (objAt b i).kind with
  | .engA _ => isExportRgn b w i
  | _ => true

/-! ### Acceptance (R293) -/

/-- What acceptance finds: the codes that apply, the references to hold, the signal fence. -/
structure Accept where
  codes : List Byte
  refs  : List (Bool × Nat)

def acc0 : Accept := ⟨[], []⟩
def Accept.join (a c : Accept) : Accept := ⟨a.codes ++ c.codes, a.refs ++ c.refs⟩
def deny (p : Bool) : Accept := if p then ⟨[cDenied], []⟩ else acc0

def fenceField (b : Block) (w : Nat) (h : Word) : Accept :=
  match fenceCheck b w h with
  | (0x00, i) => ⟨[], [(true, i)]⟩
  | (c, _) => ⟨[c], []⟩

/-- An object field, with a further check of the object by its index. -/
def objField (b : Block) (w : Nat) (h : Word) (good : Obj → Bool) (more : Nat → Bool) : Accept :=
  match objCheck b w h good with
  | (0x00, i) => if more i then ⟨[], [(false, i)]⟩ else ⟨[cDenied], []⟩
  | (c, _) => ⟨[c], []⟩

/-- A line range inside an object (R293); a COUNT of 0 lies outside (R292). -/
def inRange (b : Block) (i first n : Nat) : Bool := 1 ≤ n && first + n ≤ objLen b i

/-- The operands of a CTRL or SUE command. -/
def acceptArgs (b : Block) (w : Nat) (r : Bytes) : Accept :=
  let h (o : Nat) := cWord r o
  let n (o : Nat) := fieldLE r o 4
  match cUnit r, cOper r with
  | 0, 1 =>
    if h 0x28 = 0 then acc0
    else objField b w (h 0x28) isRegion fun i => match rgnIndex b w i with
      | some k => (rgnEnt b w k).any fun e => queueMem e && 16 * n 0x38 + 16 ≤ rgnBytes e
      | none => false
  | 0, 2 => fenceField b w (h 0x28)
  | 0, 4 =>
    let a := if n 0x2C = 1 then fenceField b w (h 0x28) else objField b w (h 0x28) isPlain fun _ => true
    (deny (fWait r || fOrder r || n 0x2C > 1)).join ⟨a.codes, []⟩
  | 0, 5 => objField b w (h 0x28) isPlain fun i => inRange b i (n 0x30) (n 0x34)
  | 0, 6 =>
    (objField b w (h 0x28) (fun _ => copyable b w (fld (h 0x28) 15 0)) fun i => inRange b i (n 0x30) (n 0x38)).join
    (objField b w (h 0x2C) (fun _ => copyable b w (fld (h 0x2C) 15 0) && copyTarget b w (fld (h 0x2C) 15 0)) fun i =>
      inRange b i (n 0x34) (n 0x38))
  | 0, 7 =>
    ((objField b w (h 0x28) isPlain fun i => inRange b i (n 0x30) (n 0x3C)).join
      (objField b w (h 0x2C) (fun o => isXing o && isExportXing b w (fld (h 0x2C) 15 0)) fun _ => true)).join (deny (n 0x38 ≥ 2 ^ 24))
  | 1, _ =>
    [0x28, 0x2C, 0x30, 0x34].foldl (fun a o =>
      if h o = 0 then a else a.join (objField b w (h o) isBuffer fun _ => true)) (deny (cAttach r ≥ b.build.attach))
  | 2, k =>
    if !b.build.sue then ⟨[cAbsent], []⟩
    else
      let p := sueAt b w
      (deny (p.st = .none)).join (deny (k = 1 && !(p.groups.any (fun g => g.layer = cLayer r) && fnonneg (n 0x30))))
  | _, _ => acc0
where
  /-- A finite binary32 of at least 0. -/
  fnonneg (x : Nat) : Bool := bits x 30 23 ≠ 255 && (!bit x 31 || x = 2 ^ 31)

/-- The first code of R293 that applies, in its order, and the references held if none does. -/
def accept (b : Block) (w c : Nat) (r : Bytes) : Byte × List (Bool × Nat) :=
  let st := (berthAt b w).st
  let a := ((deny (!cmdClean r)).join (if cmdClean r then acceptArgs b w r else acc0)).join
    ((if fWait r then fenceField b w (cWord r 0x0C) else acc0).join (if fSignal r then fenceField b w (cWord r 0x18) else acc0))
  if st ≠ .joined ∧ st ≠ .running then (cLifecycle, [])
  else if (ctxAt b c).st = .lost then (cLost, [])
  else if a.codes.contains cDenied then (cDenied, [])
  else if a.codes.contains cStale then (cStale, [])
  else if a.codes.contains cAbsent then (cAbsent, [])
  else (cOk, a.refs)

/-- The signal fence of a command, if its handle passes (R302). -/
def sigFence (b : Block) (w : Nat) (r : Bytes) : Option Nat :=
  if fSignal r then (match fenceCheck b w (cWord r 0x18) with | (0x00, i) => some i | _ => none) else none

def deferredOf (c : Nat) (r : Bytes) : Deferred :=
  ⟨c, if fSignal r then some (fieldLE r 0x18 4) else none, cSigVal r⟩

/-- A command is OBJ_FREE. -/
def isFree (r : Bytes) : Bool := cUnit r = 0 && cOper r = 4

/-- Accepts one fetched command (R283, R293): a refused one is done at once, and so is an OBJ_FREE, which takes effect here. -/
def acceptCmd (w c : Nat) (r : Bytes) (b : Block) : Block :=
  let (code, refs) := accept b w c r
  let idx := (ctxAt b c).head.toNat
  let cmd : Cmd :=
    { idx := idx, raw := r, done := if code = cOk then none else some code, refs := refs, sig := sigFence b w r, order := b.sched.order }
  let b := modCtx c (fun x => { x with head := x.head + 1, cmds := x.cmds ++ [cmd] })
    { b with sched := { b.sched with order := b.sched.order + 1 } }
  if code ≠ cOk then b
  else
    let b := count 7 (some w) 1 b
    if isFree r then
      let (code, b) := acceptFree (fieldLE r 0x2C 4 = 1) (fieldLE r 0x28 2) (some (deferredOf c r)) b
      modCtx c (fun x => { x with cmds := x.cmds.map fun m => if m.idx = idx then { m with done := some code } else m }) b
    else b

/-! ### Queue memory -/

/-- Writes into the context's queue region, from its descriptor on. -/
def descWrite (c o : Nat) (data : Bytes) (b : Block) : Block :=
  let x := ctxAt b c
  match x.berth, x.queue with
  | some w, some (r, off) => match rgnEnt b w r with
    | some e => blockWrite w e (off + o) data (.queue c) b
    | none => b
  | _, _ => b

/-- Writes a completion record (R296). -/
def cplWrite (c : Nat) (data : Bytes) (b : Block) : Block :=
  let x := ctxAt b c
  match x.berth, x.queue with
  | some w, some (r, _) => match rgnEnt b w r with
    | some e => blockWrite w e (x.cpl + 16 * (x.cplTail.toNat % 2 ^ x.k)) data (.queue c) b
    | none => b
  | _, _ => b

/-! ### Loss (R305, R306) -/

def modCmd (c i : Nat) (f : Cmd → Cmd) (b : Block) : Block :=
  modCtx c (fun x => { x with cmds := x.cmds.map fun m => if m.idx = i then f m else m }) b

def cmdAt (b : Block) (c i : Nat) : Option Cmd := (ctxAt b c).cmds.find? fun m => m.idx = i

/-- The work of a started command ends with a code. -/
def finishCmd (c i : Nat) (code : Byte) (detail : Word) (b : Block) : Block :=
  modCmd c i (fun m => if m.done.isSome then m else { m with done := some code, detail := detail }) b

/-- Pinned: an NP command has started and not retired (R319). -/
def pinned (x : Ctx) : Bool := x.cmds.any fun m => m.started && fNp m.raw

/-- The overrun of an NP command that retires after its slice (R319). -/
def chargeOverrun (w c : Nat) (b : Block) : Block :=
  let x := ctxAt b c
  if !x.resident ∨ pinned x ∨ now b ≤ x.stop then b
  else
    let o := now b - x.stop
    let b := modBerth w (fun y => { y with overrun := min 0xFFFFFFFF (y.overrun + o) }) b
    modCtx c (fun x => { x with start := now b, stop := now b + ((berthAt b w).slice - o) }) b

/-- What a completing command does to its signal fence, and the code and LOW_SIGNAL it retires with. PENDING and ABSENT leave the
fence alone, but for the command whose fault lost the context (R302, R306). -/
def retireSignal (c : Nat) (m : Cmd) (code : Byte) (b : Block) : Byte × Bool × Bool × Block :=
  match m.sig with
  | none => (code, false, false, b)
  | some f =>
    if code = cOk then
      match signalFence c f (cSigVal m.raw) b with
      | (.low, b) => (cOk, true, false, b)
      | (.far, b) => (cDenied, false, true, b)
      | (_, b) => (cOk, false, false, b)
    else if (code = cPending ∨ code = cAbsent) ∧ !m.fault then (code, false, false, b)
    else (code, false, false, failFence f b)

/-- A command whose work is done retires (R296): its SIGNAL, its record, CPL_TAIL. The answer says that its SIGNAL came from
far ahead. Once the Slipway has begun, nothing retires (R434). -/
def retireNow (c i : Nat) (b : Block) : Bool × Block :=
  let x := ctxAt b c
  match x.berth, cmdAt b c i with
  | some w, some m =>
    match m.done with
    | none => (false, b)
    | some code0 =>
      if b.slip.st ≠ .idle then (false, b)
      else
        let code := if x.st = .lost && m.started && !m.fault then cLost else code0
        let (code, low, far, b) := retireSignal c m code b
        let rec_ := leBytes 4 (cTag m.raw) ++ leBytes 4 m.idx ++ [code] ++ leBytes 1 (b2n low) ++ leBytes 2 (cOper m.raw) ++
          leBytes 4 m.detail.toNat
        let b := cplWrite c rec_ b
        let b := modCtx c (fun x => { x with
          cplTail := x.cplTail + 1
          cmds := x.cmds.filter fun k => k.idx ≠ i
          room := x.waiting }) b
        let b := descWrite c 0x14 (leBytes 4 (ctxAt b c).cplTail.toNat) b
        let b := count 8 (some w) 1 b
        let b := trace w { kind := 2, status := code, ctx := c, layer := cLayer m.raw, op := cOper m.raw, index := m.idx,
                           tag := cTag m.raw } b
        let b := if fNp m.raw && m.started then chargeOverrun w c b else b
        (far, later (.sched w) b)
  | _, _ => (false, b)

/-- Commands that have not started complete with a code, in order, and retire. -/
def loseUnstarted (c : Nat) : List Cmd → Block → Block
  | [], b => b
  | m :: ms, b => loseUnstarted c ms (retireNow c m.idx (finishCmd c m.idx cLost 0 b)).2

/-- A context becomes LOST, in the steps of R306. `unit`, `inst` and `detail` say where the event arose (R426, R427). -/
def loseCtx (c : Nat) (cause : Byte) (unit inst detail : Nat) (b : Block) : Block :=
  let x := ctxAt b c
  match x.berth with
  | none => b
  | some w =>
    if x.st ≠ .active then b
    else
      let fault := x.cmds.find? fun m => m.fault
      let raw := (fault.map Cmd.raw).getD []
      let b := match fault with
        | some m => (retireNow c m.idx b).2
        | none => b
      let b := descWrite c 0x2C (leBytes 4 (cLost.toNat + 256 * cause.toNat)) b
      let b := record { kind := 1, code := cause, berth := some w, ctx := some c, gen := (pageAt b (0x20 + w)).gen,
                        inst := inst, unit := unit, idx := BitVec.ofNat 32 ((fault.map Cmd.idx).getD 0),
                        opl := BitVec.ofNat 32 (cOper raw + 65536 * cLayer raw), tag := cWord raw 8, d0 := detail } b
      let b := raise (0x20 + w) 2 b
      let b := modCtx c (fun x => { x with
        st := .lost
        cause := cause
        resident := false
        swapping := false
        join := none
        since := none }) b
      let b := loseUnstarted c ((ctxAt b c).cmds.filter fun m => !m.started && m.done.isNone) b
      let arrivals := (b.sync.bars.filter fun e => e.2.berth = w && e.2.st ≠ .free).flatMap fun e =>
        e.2.parts.filterMap fun p => if p.slot = c - (berthAt b w).cbase then p.fence else none
      let b := arrivals.foldl (fun b f => failFence f b) b
      later (.sched w) (later (.berthCheck w) b)

/-- A command faults: it completes with the cause, and its context is lost with it. -/
def faultCmd (c i : Nat) (code : Byte) (unit inst detail : Nat) (b : Block) : Block :=
  loseCtx c code unit inst detail (modCmd c i (fun m => if m.done.isSome then m else { m with done := some code, fault := true }) b)

/-! ### Run slots (R315 to R319) -/

/-- The pages of the units a command names (R324). -/
def cmdPages (b : Block) (r : Bytes) : List Nat :=
  let rgnPage (h : Word) : List Nat := match (objAt b (fld h 15 0)).kind with
    | .engA _ => [0x12]
    | .hbm .. => [0x11]
    | .crossing n _ => [0x08, 0x40 + n]
    | _ => [0x10]
  0x14 :: match cUnit r, cOper r with
    | 0, 5 => [0x10]
    | 0, 6 => rgnPage (cWord r 0x28) ++ rgnPage (cWord r 0x2C)
    | 0, 7 => 0x10 :: rgnPage (cWord r 0x2C)
    | 2, _ => [0x18]
    | _, _ => []

def unitsOn (b : Block) (r : Bytes) : Bool := (cmdPages b r).all fun p => (pageAt b p).unit = .on
def unitOff (b : Block) (r : Bytes) : Bool := (cmdPages b r).any fun p => (pageAt b p).unit = .off

/-- The oldest accepted command not yet started. -/
def oldest (x : Ctx) : Option Cmd := x.cmds.find? fun m => !m.started && m.done.isNone

/-- The fence of a command's WAIT. -/
def waitFence (m : Cmd) : Option Nat := if fWait m.raw then some (fieldLE m.raw 0x0C 2) else none

/-- The command waits on a fence in ERROR (R301). -/
def waitFailed (b : Block) (m : Cmd) : Bool := (waitFence m).any fun f => (fenceAt b f).state = .error

/-- Every DMA channel is halted, so COPY does not start (R412). -/
def dmaHalted (b : Block) (r : Bytes) : Bool := cUnit r = 0 && cOper r = 6 && b.ecc.halted.toNat % 65536 = 0xFFFF

/-- The conditions of R294 on the oldest command. -/
def couldStart (b : Block) (x : Ctx) (m : Cmd) : Bool :=
  unitsOn b m.raw && !dmaHalted b m.raw && !b.dbg.drain && !waitFailed b m &&
  ((waitFence m).all fun f => waitMet (fenceAt b f) (fWaitState m.raw) (cWaitVal m.raw)) &&
  (!fOrder m.raw || x.cmds.head?.any fun h => h.idx = m.idx)

inductive RunState where
  | idle
  | runnable
  | blocked
deriving DecidableEq, Repr

def runState (b : Block) (c : Nat) : RunState :=
  let x := ctxAt b c
  match oldest x with
  | none => .idle
  | some m => if couldStart b x m then .runnable else .blocked

def holdsSlot (x : Ctx) : Bool := x.resident || x.swapping

/-- A context takes a run slot; its swap is under way (R315, R317). -/
def swapIn (c : Nat) (b : Block) : Block :=
  count 9 (ctxAt b c).berth 1 (modCtx c (fun x => { x with swapping := true, join := none }) b)

/-- A context leaves its run slot; still runnable, it joins the wait list (R315). -/
def swapOut (c : Nat) (b : Block) : Block :=
  let r := runState b c = .runnable
  let b := modCtx c (fun x => { x with
    resident := false
    swapping := false
    since := none
    join := if r && x.st = .active then some (now b) else none }) b
  match (ctxAt b c).berth with
  | some w => trace w { kind := 4, ctx := c } b
  | none => b

/-- Pairs of a tick and a context number, in order. -/
def byTick (l : List (Nat × Nat)) : List (Nat × Nat) := sortBy (fun p q => p.1 < q.1 || (p.1 = q.1 && p.2 ≤ q.2)) l

/-- The wait list of a berth in its order: by the tick each joined, ties by context number. -/
def waitList (b : Block) (w : Nat) : List Nat :=
  (byTick ((ctxsOf b w).filterMap fun c => (ctxAt b c).join.map fun t => (t, c))).map Prod.snd

/-- Runnable contexts without a slot join the list; others leave it. -/
def joinList (w : Nat) (b : Block) : Block :=
  (ctxsOf b w).foldl (fun b c =>
    let r := runState b c = .runnable
    modCtx c (fun x =>
      let want := r && x.st = .active && !holdsSlot x
      { x with
        join := if want then some (x.join.getD (now b)) else none
        since := if x.resident && !r then some (x.since.getD (now b)) else none }) b) b

/-- Fills free run slots from the head of the wait list (fuel: contexts waiting). -/
def fillSlots (w : Nat) : Nat → Block → Block
  | 0, b => b
  | n + 1, b =>
    match waitList b w with
    | [] => b
    | c :: _ =>
      if ((ctxsOf b w).filter fun k => holdsSlot (ctxAt b k)).length < (berthAt b w).run then fillSlots w n (swapIn c b) else b

/-- The resident context to evict (R318): not pinned, blocked or idle longest, ties by number. -/
def victim (b : Block) (w : Nat) : Option Nat :=
  (byTick ((ctxsOf b w).filterMap fun c =>
    let x := ctxAt b c
    if x.resident && !pinned x then x.since.map fun t => (t, c) else none)).head?.map Prod.snd

/-- Placement after a change (R315, R318). -/
def schedule (w : Nat) (b : Block) : Block :=
  let b := joinList w b
  let b := fillSlots w (waitList b w).length b
  match waitList b w with
  | [] => b
  | c :: _ =>
    if (ctxsOf b w).any fun k => (ctxAt b k).swapping || ((ctxAt b k).resident && runState b k = .runnable) then b
    else match victim b w with
    | some v => swapIn c (swapOut v b)
    | none => b

/-- A swap ends: the slice begins at the next tick (R317). -/
def swapDone (c : Nat) (b : Block) : Block :=
  let x := ctxAt b c
  match x.berth with
  | some w =>
    if !x.swapping then b
    else
      let s := now b + 1
      let b := modCtx c (fun x => { x with swapping := false, resident := true, start := s, stop := s + (berthAt b w).slice }) b
      later (.sched w) (trace w { kind := 3, ctx := c } b)
  | none => b

/-- The end of a slice (R316): without a waiting context, the slice that holds now begins. -/
def sliceEnded (c : Nat) (b : Block) : Block :=
  let x := ctxAt b c
  match x.berth with
  | some w =>
    if !x.resident ∨ now b < x.stop ∨ pinned x then b
    else match waitList b w with
    | h :: _ => later (.sched w) (swapIn h (swapOut c b))
    | [] =>
      let l := (berthAt b w).slice
      let s := x.stop + l * ((now b - x.stop) / l)
      modCtx c (fun x => { x with start := s, stop := s + l }) b
  | none => b

/-! ### Scans (R286, R288, R289, R321) -/

def storeUse (b : Block) (w : Nat) : Nat := ((ctxsOf b w).map fun c => (ctxAt b c).cmds.length).sum

/-- Does the scan's cause apply (R288)? -/
def scanDue (b : Block) (w c : Nat) (cause : ScanCause) : Bool :=
  let x := ctxAt b c
  match cause with
  | .window => x.scan ≠ 0 && some ((now b - (berthAt b w).loadTick) / x.scan) ≠ x.lastScan
  | .wake => x.rescan
  | .room => x.room

/-- The descriptor's fields but its signature and ENABLE are valid (R285, R286). -/
def descValid (b : Block) (w c : Nat) (d : Bytes) : Bool :=
  let k := fieldLE d 6 1
  let ring := fieldLE d 0x18 8
  let cpl := fieldLE d 0x20 8
  let size := match (ctxAt b c).queue with
    | some (r, _) => ((rgnEnt b w r).map rgnBytes).getD 0
    | none => 0
  fieldLE d 4 2 = 2 && 4 ≤ k && k ≤ 16 && fieldLE d 7 1 ≤ 1 && ring % 64 = 0 && cpl % 64 = 0 &&
  ring + 2 ^ k * 64 ≤ size && cpl + 2 ^ k * 16 ≤ size && fieldLE d 0x30 16 = 0 &&
  (fieldLE d 0x28 4 = 0 || (fenceCheck b w (cWord d 0x28)).1 = cOk)

/-- A DISABLED context at a scan (R286). -/
def activateCtx (w c : Nat) (d : Bytes) (b : Block) : Block :=
  if fieldLE d 0 4 ≠ 0x32534451 ∨ !bit (fieldLE d 7 1) 0 then b
  else if !descValid b w c d then descWrite c 0x2C (leBytes 4 (256 * cDenied.toNat)) b
  else
    let b := modCtx c (fun x => { x with
      st := .active
      head := 0
      cplTail := 0
      k := fieldLE d 6 1
      ring := fieldLE d 0x18 8
      cpl := fieldLE d 0x20 8
      wake := fieldLE d 0x28 4 }) b
    descWrite c 0x2C (leBytes 4 0) (descWrite c 0x10 (leBytes 8 0) b)

/-- Engine S refuses a read of byte o of an HBM queue region (R49, R411). -/
def queueRefused (b : Block) (w : Nat) (r : RgnEnt) (o : Nat) : Bool := r.kind = 0 && !admitted b r.port (r.base + o / 64) w true

/-- A read of byte o of a queue region: a refused one counts as poison (R411); one that arrives bad is logged. -/
def queueFetch (w : Nat) (r : RgnEnt) (o : Nat) (bad : Bool) (b : Block) : Bool × Block :=
  let b := if r.kind = 0 then count 6 (some w) 1 b else b
  if queueRefused b w r o then (true, denyMems w b)
  else if bad then (true, eccEvent 8 true (some w) 0 r.port (queueAddr b r o) b)
  else (false, b)
where
  /-- Bits 31:6 of the port address (R414). -/
  queueAddr (b : Block) (r : RgnEnt) (o : Nat) : Nat :=
    (if r.kind = 0 then 64 * r.base + o else rBase (rgnAt b r.entry) + o) / 64 * 64 % 2 ^ 32

/-- Fetches and accepts commands in ring order; an uncorrectable one loses the context and is not accepted (R411). -/
def fetchCmds (w c : Nat) (r : RgnEnt) : List FetchedCmd → Block → Block
  | [], b => b
  | f :: fs, b =>
    let x := ctxAt b c
    let (bad, b) := queueFetch w r (x.ring + 64 * (x.head.toNat % 2 ^ x.k)) f.bad b
    if bad then loseCtx c cFetchTrap 0x14 0 0 b else fetchCmds w c r fs (acceptCmd w c (slice f.raw 0 64) b)

/-- The queue's memory answers a read of generation gen now: a HOSTIO region while it is LIVE and its port is up (R264, R266). -/
def queueAnswers (b : Block) (r : RgnEnt) (gen : BitVec 12) : Bool :=
  r.kind = 0 || ((rgnAt b r.entry).st = .live && portUp b r.port && gen = (portAt b r.port).gen)

/-- A HOSTIO reply that carries another generation than its port's is dropped and counted (R58). -/
def queueStale (b : Block) (r : RgnEnt) (gen : BitVec 12) : Bool := r.kind ≠ 0 && gen ≠ (portAt b r.port).gen

/-- The counts of R289 on a descriptor, and the fetch. -/
def scanFetch (w c : Nat) (r : RgnEnt) (d : Bytes) (cmds : List FetchedCmd) (b : Block) : Block :=
  let x := ctxAt b c
  let tail := cWord d 8
  let head := cWord d 0x0C
  let pend := (tail - x.head).toNat
  let issued := (x.cplTail - head).toNat
  let room := (BitVec.ofNat 32 (2 ^ x.k) - (x.head - head)).toNat
  if pend > 2 ^ x.k ∨ issued > 2 ^ x.k then loseCtx c cDenied 0x14 0 0 b
  else
    let n := min (min pend room) ((berthAt b w).cmdq * 16 - storeUse b w)
    let b := fetchCmds w c r (cmds.take n) b
    let b := if (ctxAt b c).head = x.head then b else descWrite c 0x10 (leBytes 4 (ctxAt b c).head.toNat) b
    later (.sched w) (modCtx c (fun y => { y with waiting := ((y.head - x.head).toNat < pend) }) b)

/-- A scan of a context whose cause applies (R286, R288): the read of the descriptor, activation, the fetch. -/
def scanNow (w c : Nat) (r : RgnEnt) (off : Nat) (cause : ScanCause) (d : Bytes) (bad : Bool) (cmds : List FetchedCmd) (b : Block) :
    Block :=
  let x := ctxAt b c
  let m := if x.scan = 0 then none else some ((now b - (berthAt b w).loadTick) / x.scan)
  let b := modCtx c (fun x => { x with
    lastScan := if cause = .window then m else x.lastScan
    rescan := false
    room := false }) b
  let (bad, b) := queueFetch w r off bad b
  if bad then (if x.st = .active then loseCtx c cFetchTrap 0x14 0 0 b else b)
  else
    let b := if x.st = .disabled then activateCtx w c d b else b
    if (ctxAt b c).st = .disabled then b else scanFetch w c r d cmds b

/-- One scan of a context (R288); `gen` is the port generation that a HOSTIO queue's reply carries. -/
def scanQueue (c : Nat) (cause : ScanCause) (gen : BitVec 12) (d : Bytes) (bad : Bool) (cmds : List FetchedCmd) (b : Block) : Block :=
  let x := ctxAt b c
  match x.berth, x.queue with
  | some w, some (q, off) =>
    match rgnEnt b w q with
    | none => b
    | some r =>
      if ((berthAt b w).st ≠ .joined ∧ (berthAt b w).st ≠ .running) ∨ !scanDue b w c cause ∨ (pageAt b 0x14).unit ≠ .on then b
      else if queueStale b r gen then recordErr 0x12 cStale none b
      else if !queueAnswers b r gen then b
      else scanNow w c r off cause d bad cmds b
  | _, _ => b

/-! ### Starting (R294, R301, R315, R319) -/

/-- The oldest command of a context starts, or completes POISON behind a failed fence, or BUSY at a unit that is OFF. A start at or
past the end of the slice belongs to the later window (R316). -/
def startCmd (c : Nat) (b : Block) : Block :=
  let b := sliceEnded c b
  let x := ctxAt b c
  match x.berth, oldest x with
  | some w, some m =>
    if x.st ≠ .active then b
    else if waitFailed b m then later (.sched w) (finishCmd c m.idx cPoison 0 b)
    else if unitOff b m.raw then later (.sched w) (finishCmd c m.idx cBusy 0 b)
    else if !x.resident ∨ !couldStart b x m ∨ (pinned x ∧ x.stop ≤ now b) then b
    else
      let b := modCmd c m.idx (fun m => { m with started := true, tick := now b }) b
      let b := trace w { kind := 1, ctx := c, layer := cLayer m.raw, op := cOper m.raw, index := m.idx, tag := cTag m.raw } b
      later (.sched w) b
  | _, _ => b

/-! ### Retiring (R296, R297, R300, R302, R319) -/

/-- A command whose work is done retires (R296); a SIGNAL from far ahead loses the context (R300). -/
def retireCmd (c i : Nat) (b : Block) : Block :=
  let r := retireNow c i b
  if r.1 then loseCtx c cDenied 0x14 0 0 r.2 else r.2

/-- An attachment's command that the block gives up: an attachment completes the commands of a context in order (R295), so its place
among them says which completion is dropped. -/
def giveUp (o : Nat × Nat × Nat) (t : Attach) : Attach :=
  let p := (t.out.filter fun x => x.1 = o.1).idxOf o
  { t with
    out := t.out.erase o
    gone := (t.gone.map fun g => if g.1 = o.1 ∧ p < g.2 then (g.1, g.2 - 1) else g) ++ [(o.1, p)] }

/-- A completion of context c takes its place: those given up behind it move up. -/
def moveUp (c : Nat) (t : Attach) : Attach := { t with gone := t.gone.map fun g => if g.1 = c then (g.1, g.2 - 1) else g }

/-- A command that completed here is no longer outstanding on an attachment; the completion that comes later is dropped (R320). -/
def dropIssued (c i : Nat) (b : Block) : Block :=
  let outs := b.sched.atts.flatMap fun e => (e.2.out.filter fun o => o.1 = c && o.2.1 = i).map fun o => (e.1, o)
  outs.foldl (fun b o => modAtt o.1 (giveUp o.2) b) b

/-- The cap of an NP command (R320). -/
def npExpired (c : Nat) (b : Block) : Block :=
  let x := ctxAt b c
  match x.berth, x.cmds.find? fun m => m.started && fNp m.raw && m.tick + 64 * b.build.mgmtMhz ≤ now b with
  | some w, some m =>
      let b := faultCmd c m.idx cDenied 0x14 0 0 (modCmd c m.idx (fun m => { m with done := none }) (dropIssued c m.idx b))
      raise (0x20 + w) 3 (modBerth w (fun y => { y with npFault := inc32 y.npFault }) b)
  | _, _ => b

/-- Accepted commands of a berth that have not started complete with a code (R328). -/
def stopUnstarted (w : Nat) (code : Byte) (b : Block) : Block :=
  (ctxsOf b w).foldl (fun b c => modCtx c (fun x => { x with
    cmds := x.cmds.map fun m => if !m.started && m.done.isNone then { m with done := some code } else m }) b) b

/-- The next fenced change re-evaluates scans: contexts whose WAKE is the fence (R288). -/
def wakeScans (f : Nat) (b : Block) : Block :=
  let x := fenceAt b f
  (ctxsOf b x.berth).foldl (fun b c =>
    modCtx c (fun y => if y.wake = (handleOf x.gen f).toNat then { y with rescan := true } else y) b) b

end Sys2Proof.Machine
end

