-- ==== Sys2Proof/Machine/KeyStage.lean ====
section
/-!
DEFINITION. KEY_STAGE (R128 to R131, R139): the one writable key register, its states, its checks and its commit.
-/

namespace Sys2Proof.Machine

/-- The holder number of a master (R128): a session's index, 31 for the firmware. -/
def holderOf : Master → Option Nat
  | .sealed => some 31
  | .session i => some i.val
  | _ => none

def kstgTarget (b : Block) : Word := reg b 0x3048
def kstgKid (b : Block) : Nat := fld (kstgTarget b) 10 0
def kstgReplace (b : Block) : Bool := (kstgTarget b).getLsbD 11
def kstgPurpose (b : Block) : Nat := fld (kstgTarget b) 15 12
def kstgOwner (b : Block) : Nat := fld (kstgTarget b) 21 16
def kstgBerth (b : Block) : Nat := fld (kstgTarget b) 26 22
def kstgForm (b : Block) : Bool := (kstgTarget b).getLsbD 27
def kstgWrapKid (b : Block) : Nat := fld (reg b 0x3050) 10 0

def modKstg (f : Kstg → Kstg) (b : Block) : Block := { b with kstg := f b.kstg }

/-- Zeroes every key and blob word and its written flag (R128). -/
def clearStage (k : Kstg) : Kstg := { k with key := [], keySet := 0, blob := [], blobSet := 0, run := none, rest := none, pair := [] }

/-- The stage returns to IDLE (the last row of R128); a restore that waits for it may claim it (R174). -/
def stageIdle (b : Block) : Block := later .stageFree (modKstg (fun k => { clearStage k with st := 0 }) b)

/-- Is the master the holder? -/
def isHolder (b : Block) (m : Master) : Bool := b.kstg.st ≠ 0 && holderOf m = some b.kstg.holder

/-- An access by the holder restarts the 100 ms of R128. -/
def touchStage (m : Master) (b : Block) : Block :=
  if isHolder b m then modKstg (fun k => { k with tick := now b }) b else b

def setLast (c : Byte) (b : Block) : Block := modKstg (fun k => { k with last := c }) b

/-- A command for which the table has no row: LAST and PAGE_ERR take DENIED. -/
def stageRefused (b : Block) : Block := recordErr 0x03 cDenied none (setLast cDenied b)

/-- A step runs, or the firmware has the stage for a restore (R128, R174). -/
def stageRuns (b : Block) : Bool := b.kstg.run.isSome || b.kstg.rest.isSome

/-- Runs a holder's command: anyone else is ignored with DENIED, a running step refuses with BUSY (R128). -/
def asHolder (m : Master) (h : Block → Block) (b : Block) : Block :=
  if !isHolder b m then recordErr 0x03 cDenied none b
  else if stageRuns b then recordErr 0x03 cBusy none (setLast cBusy (touchStage m b))
  else h (touchStage m b)

def kstgClaim (m : Master) (b : Block) : Block :=
  match holderOf m with
  | none => recordErr 0x03 cDenied none b
  | some h =>
    if b.kstg.st = 0 then
      modKstg (fun k => { clearStage k with st := 1, holder := h, last := cOk, tick := now b }) b
    else if b.kstg.holder = h then
      (if stageRuns b then recordErr 0x03 cBusy none (setLast cBusy (touchStage m b))
       else setLast cOk (touchStage m b))
    else recordErr 0x03 cBusy none b

/-- Does R139 admit KSTG_WRAP_KID: a LIVE WRAP or SET entry of the target's berth, or FWRAP for the firmware? -/
def wrapAdmitted (b : Block) : Bool :=
  let k := kstgWrapKid b
  let e := keyAt b k
  keyLive b k &&
  (((e.purpose = 0x7 || e.purpose = 0x6) && e.berth = some (kstgBerth b)) || (k = 6 && b.kstg.holder = 31))

def kstgUnwrap (m : Master) : Block → Block :=
  asHolder m fun b =>
    if b.kstg.st ≠ 1 ∨ !kstgForm b ∨ b.kstg.blobSet ≠ 0x3FF then stageRefused b
    else if wrapAdmitted b then modKstg (fun k => { k with run := some .unwrap, last := cBusy }) b
    else raise 0x03 1 (recordErr 0x02 cDenied none (modKstg (fun k => { clearStage k with st := 1, last := cDenied }) b))

/-- The 40-byte blob of KSTG_BLOB0 to KSTG_BLOB9. -/
def blobBytes (k : Kstg) : Bytes := ((tgets 0 k.blob 0 10).map fun w => leBytes 4 w.toNat).flatten

/-- The staged key (R462). -/
def stagedKey (k : Kstg) : BitVec 256 := bytesKey ((tgets 0 k.key 0 8).map fun w => leBytes 4 w.toNat).flatten

/-- The eight words of a 32-byte string. -/
def keyWords (bs : Bytes) : Table Word :=
  tsets 0 [] 0 ((chunks 4 bs).map fun c => BitVec.ofNat 32 (leNat c))

/-- The unwrap ends; a wrapping key that an error lost meanwhile leaves it UNCORRECTABLE (R137). -/
def kstgUnwrapDone (b : Block) : Block :=
  if b.kstg.run ≠ some .unwrap then b
  else match b.kstg.rest with
  | some w =>
    let last (c : Byte) : Block := raise 0x03 1 (setLast c b)
    match (startedKey b (kstgWrapKid b)).map fun k => kwUnwrap (keyBytes k) b.kstg.pair with
    | none => later (.restoreEnds w cUncorr) (last cUncorr)
    | some none => later (.restoreEnds w cTagFail) (last cTagFail)
    | some (some p) => modKstg (fun k => { k with st := 2, run := some .verify, pair := p }) (last cOk)
  | none =>
    let fails (c : Byte) : Block := modKstg (fun k => { clearStage k with st := 1, last := c }) b
    let b := match startedKey b (kstgWrapKid b) with
      | none => fails cUncorr
      | some w => match kwUnwrap (keyBytes w) (blobBytes b.kstg) with
        | some key => modKstg (fun k => { k with st := 2, run := none, key := keyWords key, keySet := 0xFF, last := cOk }) b
        | none => fails cTagFail
    raise 0x03 1 b

def kstgVerify (m : Master) : Block → Block :=
  asHolder m fun b =>
    if b.kstg.st ≠ 2 then stageRefused b
    else modKstg (fun k => { k with run := some .verify, last := cBusy }) b

/-- A firmware record (R129): held by the firmware, FORM 1, wrapped under FWRAP. -/
def firmwareRecord (b : Block) : Bool := b.kstg.holder = 31 && kstgForm b && kstgWrapKid b = 6

/-- Check 1 of R129: the life-cycle state permits the import. -/
def importState (b : Block) : Byte :=
  if firmwareRecord b then (if b.lcs.st = .provisioned ∨ b.lcs.st = .deployed then cOk else cLifecycle)
  else if b.lcs.st = .deployed then cOk else cLifecycle

/-- Check 2: the target's berth is LOADED, JOINED or RUNNING. -/
def importBerth (b : Block) : Byte :=
  if isImport (kstgPurpose b) ∧ !firmwareRecord b then
    match (berthAt b (kstgBerth b)).st with
    | .loaded | .joined | .running => cOk
    | _ => cLifecycle
  else cOk

/-- Check 3: the holder is the owner the Manifest names, and the Manifest has the entry. -/
def importHolder (b : Block) : Byte :=
  if firmwareRecord b then (if 7 ≤ kstgKid b ∧ kstgKid b < 0x20 then cOk else cDenied)
  else match sessOwner b b.kstg.holder, (berthAt b (kstgBerth b)).tide with
  | some (w, o), some t =>
    if w = kstgBerth b ∧ o.index = kstgOwner b ∧
       t.labels.any fun l => l.kid = kstgKid b && l.purpose = kstgPurpose b && l.parent = kstgOwner b && isImport l.purpose
    then cOk else cDenied
  | _, _ => cDenied

/-- Check 4: the target KID is FREE, or a LIVE import to replace. -/
def importTarget (b : Block) : Byte :=
  match (keyAt b (kstgKid b)).st with
  | .free => cOk
  | .retiring => cBusy
  | .live => if kstgReplace b ∧ (keyAt b (kstgKid b)).source = 2 then cOk else cDenied
  | _ => cDenied

/-- Check 5: the check value. -/
def importKcv (b : Block) : Byte := if kcv (stagedKey b.kstg) = reg b 0x304C then cOk else cTagFail

/-- The first code that is not OK. -/
def firstFail : List Byte → Byte
  | [] => cOk
  | c :: cs => if c = cOk then firstFail cs else c

/-- Checks 1, 2 and 4 of R129 on both CKPT KIDs of a restore (R174). -/
def restoreCheck (b : Block) (w k : Nat) : Byte :=
  let open_ := match (berthAt b w).st with
    | .loaded | .joined | .running => true
    | _ => false
  let free (k : Nat) : Byte := match (keyAt b k).st with
    | .free => cOk
    | .retiring => cBusy
    | _ => cDenied
  firstFail [if b.lcs.st = .deployed then cOk else cLifecycle, if open_ then cOk else cLifecycle, free k, free (k + 1)]

def kstgVerifyDone (b : Block) : Block :=
  if b.kstg.run ≠ some .verify then b
  else match b.kstg.rest with
  | some w =>
    let c := restoreCheck b w (kstgKid b)
    let b := raise 0x03 1 (setLast c b)
    if c = cOk then modKstg (fun k => { k with st := 3, run := none }) b else later (.restoreEnds w c) b
  | none =>
    let c := firstFail [importState b, importBerth b, importHolder b, importTarget b, importKcv b]
    let b :=
      if c = cOk then modKstg (fun k => { k with st := 3, run := none, last := cOk }) b
      else modKstg (fun k => { clearStage k with st := 1, last := c }) b
    raise 0x03 1 b

/-- Writes a key into an entry in one handshake (R130): LIVE, source IMPORT, EPOCH incremented. KEY_INFO.OWNER shows the committing
owner for every imported entry, DOMAIN and SETLABEL too (DESIGN CHOICE, log entry 138). -/
def importKey (kid purpose owner : Nat) (w : Option Nat) (key : BitVec 256) (b : Block) : Block :=
  let b := modKey kid (fun e =>
    { e with source := 2, purpose := purpose, owner := owner, berth := w, epoch := e.epoch + 1, parent := .root, ctx := [] }) b
  makeLive kid key b

def kstgCommit (m : Master) : Block → Block :=
  asHolder m fun b =>
    if b.kstg.st ≠ 3 then stageRefused b
    else
      let c := firstFail [importState b, importBerth b, importTarget b]
      let w := if firmwareRecord b then none else some (kstgBerth b)
      let first := !(w.any (allCommitted b))
      let b :=
        if c ≠ cOk then b
        else importKey (kstgKid b) (kstgPurpose b) (kstgOwner b) w (stagedKey b.kstg) b
      let b := match w with
        | some w => if c = cOk then later (.berthCheck w) (if first then deriveFirst w b else b) else b
        | none => b
      raise 0x03 1 (modKstg (fun k => { clearStage k with st := 1, last := c }) b)

def kstgAbort (m : Master) : Block → Block :=
  asHolder m fun b => modKstg (fun k => { clearStage k with st := 1, last := cOk }) b

def kstgRelease (m : Master) : Block → Block := asHolder m fun b => stageIdle (setLast cOk b)

/-- The commands of KSTG_CMD.OP (R139). -/
def kstgCmd (m : Master) (val : Word) (b : Block) : Block :=
  match fld val 3 0 with
  | 1 => kstgClaim m b
  | 2 => kstgUnwrap m b
  | 3 => kstgVerify m b
  | 4 => kstgCommit m b
  | 5 => kstgAbort m b
  | 6 => kstgRelease m b
  | _ => recordErr 0x03 cDenied none b

/-- A holder's write to a stage register: while a step runs it is ignored with BUSY; in VERIFIED it voids the
verification (R128). -/
def stageWrite (m : Master) (h : Block → Block) (b : Block) : Block :=
  if !isHolder b m then recordErr 0x03 cDenied none b
  else if stageRuns b then recordErr 0x03 cBusy none (touchStage m b)
  else h (modKstg (fun k => { k with st := if k.st = 3 then 2 else k.st }) (touchStage m b))

def kstgKeyWrite (m : Master) (i : Nat) (v : Word) : Block → Block :=
  stageWrite m fun b =>
    let b := modKstg (fun k => { k with key := tset 0 k.key i v, keySet := k.keySet ||| 1 <<< i }) b
    if b.kstg.st = 1 ∧ b.kstg.keySet = 0xFF ∧ !kstgForm b then modKstg (fun k => { k with st := 2 }) b else b

def kstgBlobWrite (m : Master) (i : Nat) (v : Word) : Block → Block :=
  stageWrite m (modKstg fun k => { k with blob := tset 0 k.blob i v, blobSet := k.blobSet ||| 1 <<< i })

/-- A write to KSTG_TARGET, KSTG_KCV or KSTG_WRAP_KID. -/
def kstgSetup (m : Master) (a : Nat) (v : Word) : Block → Block := stageWrite m (setReg a v)

def stageRegAddr : StageReg → Nat
  | .target => 0x3048
  | .kcv => 0x304C
  | .wrapKid => 0x3050

/-- 100 ms of timebase without an access by the holder (R128). -/
def kstgIdleTimeout (b : Block) : Block :=
  if b.kstg.st ≠ 0 ∧ b.kstg.tick + msTicks b 100 ≤ now b then stageIdle b else b

/-- The berth that KSTG_TARGET names enters SCRUBBING (R133). -/
def stageScrubbed (w : Nat) (b : Block) : Block :=
  if b.kstg.st ≠ 0 ∧ kstgBerth b = w then stageIdle b else b

end Sys2Proof.Machine
end

