-- ==== Sys2Proof/Machine/Mema.lean ====
section
/-!
DEFINITION. Engine A (R243 to R270, R272, R273): regions and their layout, lines and tags, the counter tree, the cache, reads,
writes, rolls, ports and loss. One operation of a region is in progress at a time, in arrival order (log entry 15).
-/

namespace Sys2Proof.Machine

/-! ### Counters, tags, ciphertext (R246 to R248) -/

def ctrOf (node : Bytes) (k : Nat) : Nat := fieldLE node (7 * k) 7
def setCtr (node : Bytes) (k v : Nat) : Bytes := putAt node (7 * k) (leBytes 7 v)
def nodePhase (node : Bytes) : Bool := bit (fieldLE node 63 1) 0
def setPhase (node : Bytes) (p : Bool) : Bytes := putAt node 63 (leBytes 1 (b2n p))

/-- The KIDs of a phase: ENC and MAC. -/
def phaseKids (a : ARegion) (p : Bool) : Nat × Nat :=
  let w := if p then a.kid1 else a.kid0
  (fld w 10 0, fld w 26 16)

def ctrBlock (i c t k : Nat) : Bytes := leBytes 5 i ++ leBytes 7 c ++ leBytes 1 t ++ leBytes 1 k ++ [0, 0]

/-- The keystream of line i under counter c (R246); encryption and decryption are one. -/
def lineCrypt (enc : BitVec 256) (i c : Nat) (d : Bytes) : Bytes :=
  xorBytes (slice d 0 64) ((List.range 4).flatMap fun k => aesEnc (keyBytes enc) (ctrBlock i c 0 k))

/-- The 56-bit code of 64 bytes under a pad block (R247). -/
def code56 (mac : BitVec 256) (x pad : Bytes) : Bytes :=
  let h := aesEnc (keyBytes mac) (List.replicate 16 0)
  (xorBytes (ghash h (chunks 16 (slice x 0 64) ++ [beBytes 8 0 ++ beBytes 8 512])) (aesEnc (keyBytes mac) pad)).take 7

def lineTag (mac : BitVec 256) (i c : Nat) (ct : Bytes) : Bytes := code56 mac ct (ctrBlock i c 1 0)

/-- The MAC of node (j, i) under its counter in its parent (R248). -/
def nodeMac (mac : BitVec 256) (j i c : Nat) (node : Bytes) : Bytes :=
  code56 mac (slice node 0 56 ++ List.replicate 7 0 ++ slice node 63 1)
    (leBytes 5 i ++ leBytes 7 c ++ leBytes 1 (0x10 + j) ++ [0, 0, 0])

def keyOf (b : Block) (k : Nat) : BitVec 256 := (keyAt b k).key

/-! ### The cache (R252) -/

def cacheSetOf (r level index : Nat) : Nat := Config.cacheSet r (16 * index + level) % 4096

def cacheFind (b : Block) (r level index : Nat) : Option CacheLine :=
  b.mema.cache.find? fun c => c.region = r && c.level = level && c.index = index

def cacheLine (b : Block) (r level index : Nat) : Bytes := ((cacheFind b r level index).map CacheLine.data).getD []

/-- Changes a cached line and marks it dirty, most recently used. -/
def cachePut (r level index : Nat) (d : Bytes) (dirty : Bool) (b : Block) : Block :=
  modMema (fun m => { m with
    stamp := m.stamp + 1
    cache := m.cache.map fun c =>
      if c.region = r && c.level = level && c.index = index then { c with data := d, dirty := dirty, stamp := m.stamp } else c }) b

/-- A lookup that hits: the line is the most recently used. -/
def cacheHit (r level index : Nat) (b : Block) : Block :=
  modMema (fun m => { m with
    hit := inc32 m.hit
    stamp := m.stamp + 1
    cache := m.cache.map fun c => if c.region = r && c.level = level && c.index = index then { c with stamp := m.stamp } else c }) b

/-- The level and index of a node's parent; none is the root. -/
def parentOf (n j i : Nat) : Option (Nat × Nat) := if j + 1 < rDepth n then some (j + 1, i / 8) else none

/-- The counter of node (j, i) in its parent, when the parent is trusted and at hand. -/
def parentCtr (b : Block) (r j i : Nat) : Option Nat :=
  let a := rgnAt b r
  match parentOf (rLog a) j i with
  | none => some (tget 0 a.root i)
  | some (pj, pi) => (cacheFind b r pj pi).map fun c => ctrOf c.data (i % 8)

def setParentCtr (r j i v : Nat) (b : Block) : Block :=
  match parentOf (rLog (rgnAt b r)) j i with
  | none => modRgn r (fun a => { a with root := tset 0 a.root i v }) b
  | some (pj, pi) => cachePut r pj pi (setCtr (cacheLine b r pj pi) (i % 8) v) true b

/-! ### Loss (R258, R259) -/

/-- The nodes on the path of a data line: does an operation on line i need cached line (level, index)? -/
def onPath (i level index : Nat) : Bool :=
  if level = 15 then i / 8 = index else i / 8 ^ (level + 1) = index

/-- The Hold line of a read that fails becomes POISONED (R257). -/
def spoilDest (k : AKind) (b : Block) : Block :=
  match k with
  | .read (some l) => poisonLine l b
  | _ => b

/-- A region becomes LOST: the operations that wait on the failed fetch complete with its code, the others with POISON. -/
def loseRegion (r : Nat) (c : Byte) (level index : Nat) (b : Block) : Block :=
  let a := rgnAt b r
  if a.st ≠ .live ∧ a.st ≠ .rolling then b
  else
    let ops := b.mema.ops.filter fun o => o.region = r
    let b := modRgn r (fun a => { a with st := .lost, fault := c, level := level, findex := index }) b
    let b := modMema (fun m => { m with
      cache := m.cache.filter fun x => x.region ≠ r
      ops := m.ops.filter fun o => o.region ≠ r
      reads := m.reads.filter fun x => match x.fetch with
        | .node q _ _ => q ≠ r
        | .data o => !ops.any fun p => p.id = o
        | .raw _ => true }) b
    let b := raise 0x12 2 (record { kind := 4, code := c, berth := some (rBerth a), inst := r, unit := 0x12,
                                    gen := (pageAt b (0x20 + rBerth a)).gen, d0 := level, d1 := index } b)
    let first := (ops.head?.map AOp.id).getD 0
    ops.foldl (fun b o =>
      let waits := o.id = first || (level < 15 && onPath o.index level index) || (level = 15 && o.index / 8 = index)
      later (.opLost o.op (if waits then c else cPoison)) (spoilDest o.kind b)) b

/-- What became of an attempt: it may go on, or it waits (or its region is gone). -/
inductive Adv where
  | go
  | hold
deriving DecidableEq, Repr

/-- Writes a dirty line back (R251 rules 4 and 5); its parent must be at hand. -/
def writeBack (c : CacheLine) (b : Block) : Block :=
  let a := rgnAt b c.region
  let done (b : Block) : Block := modMema (fun m => { m with cache := m.cache.map fun x =>
    if x.region = c.region && x.level = c.level && x.index = c.index then { x with dirty := false } else x }) b
  if !c.dirty then b
  else if c.level = 15 then done (sendWrite c.region (rPort a) (metaAddr a 15 c.index) c.data .none b)
  else match parentCtr b c.region c.level c.index with
  | none => b
  | some v =>
    if v + 1 ≥ 2 ^ 56 then loseRegion c.region cExhausted c.level c.index b
    else
      let b := setParentCtr c.region c.level c.index (v + 1) b
      let mac := nodeMac (keyOf b (phaseKids a (nodePhase c.data)).2) c.level c.index (v + 1) c.data
      let d := putAt c.data 56 mac
      let b := cachePut c.region c.level c.index d false b
      done (sendWrite c.region (rPort a) (metaAddr a c.level c.index) d .none b)

/-- The operation in progress on each region. -/
def activeOp (b : Block) (r : Nat) : Option AOp := b.mema.ops.find? fun o => o.region = r

/-- A line that the operation in progress on its region needs stays cached (R256). -/
def needed (b : Block) (c : CacheLine) : Bool := (activeOp b c.region).any fun o => onPath o.index c.level c.index

/-- A fetch of a line is under way. -/
def fetching (b : Block) (r level index : Nat) : Bool :=
  b.mema.reads.any fun x => x.fetch = .node r level index

/-- Lines of a berth's ways in a set, and the fetches that will need room there. -/
def setLines (b : Block) (w s : Nat) : List CacheLine :=
  b.mema.cache.filter fun c => (tget 0 b.mema.ways w).testBit c.way && cacheSetOf c.region c.level c.index = s

def setFetches (b : Block) (w s : Nat) : Nat :=
  (b.mema.reads.filter fun x => match x.fetch with
    | .node r l i => rBerth (rgnAt b r) = w && cacheSetOf r l i = s
    | _ => false).length

def wayCount (b : Block) (w : Nat) : Nat := ((List.range 16).filter fun k => (tget 0 b.mema.ways w).testBit k).length

/-- The least recently used line of the set that no operation needs. -/
def lruVictim (b : Block) (w s : Nat) : Option CacheLine :=
  (sortBy (fun x y => x.stamp ≤ y.stamp) ((setLines b w s).filter fun c => !needed b c)).head?

def dropLine (c : CacheLine) (b : Block) : Block :=
  modMema (fun m => { m with cache := m.cache.filter fun x =>
    !(x.region = c.region && x.level = c.level && x.index = c.index) }) b

/-- Puts a line into a free way of its set. -/
def insertLine (r level index : Nat) (d : Bytes) (b : Block) : Block :=
  let w := rBerth (rgnAt b r)
  let used := (setLines b w (cacheSetOf r level index)).map CacheLine.way
  match (List.range 16).find? fun k => (tget 0 b.mema.ways w).testBit k && !used.contains k with
  | some k => modMema (fun m => { m with
      stamp := m.stamp + 1, cache := m.cache ++ [⟨k, r, level, index, d, false, m.stamp⟩] }) b
  | none => b

/-- What an attempt needs of the cache: room for one more line in a berth's ways of a set, or node (j, i) of a region. -/
inductive Need where
  | room (w s : Nat)
  | node (r j i : Nat)

/-- Makes room, evicting the least recently used line (R252), or brings a node in, trusted, its parent first and at most one
fetch at a time (R251). Fuel bounds the nesting. -/
def bring : Nat → Need → Block → Block × Adv
  | 0, _, b => (b, .hold)
  | n + 1, .room w s, b =>
    if (setLines b w s).length + setFetches b w s < wayCount b w then (b, .go)
    else match lruVictim b w s with
    | none => (b, .hold)
    | some c =>
      if !c.dirty ∨ c.level = 15 ∨ (parentCtr b c.region c.level c.index).isSome then (dropLine c (writeBack c b), .go)
      else ((bring n (.node c.region (c.level + 1) (c.index / 8)) b).1, .hold)
  | n + 1, .node r j i, b =>
    let a := rgnAt b r
    if (cacheFind b r j i).isSome then (b, .go)
    else if fetching b r j i then (b, .hold)
    else
      let up := match parentOf (rLog a) j i with
        | none => (b, Adv.go)
        | some q => bring n (.node r q.1 q.2) b
      if up.2 = .hold then up
      else match parentCtr up.1 r j i with
      | none => (up.1, .hold)
      | some c =>
        let m := bring n (.room (rBerth a) (cacheSetOf r j i)) up.1
        if m.2 = .hold then m
        else
          let b := modMema (fun x => { x with miss := inc32 x.miss }) m.1
          if c = 0 then (insertLine r j i (setPhase (List.replicate 64 0) a.phase) b, .go)
          else if portUp b (rPort a) then (sendRead (rPort a) (metaAddr a j i) (.node r j i) b, .hold)
          else (b, .hold)

/-- Fuel for the nested work of one attempt: more than any tree's depth. -/
def treeFuel : Nat := 64

/-! ### Operations (R253 to R257) -/

def modOp (id : Nat) (f : AOp → AOp) (b : Block) : Block :=
  modMema (fun m => { m with ops := m.ops.map fun o => if o.id = id then f o else o }) b
def endOp (id : Nat) (b : Block) : Block := modMema (fun m => { m with ops := m.ops.filter fun o => o.id ≠ id }) b

/-- Brings a tag line for an operation: zeros where no line of its group was ever written (R249). -/
def bringTag (o : AOp) (g : Nat) (b : Block) : Block × Adv :=
  let r := o.region
  let a := rgnAt b r
  let first := b.mema.ops.any fun x => x.id = o.id && x.seen < 2
  let b := modOp o.id (fun o => { o with seen := 2 }) b
  if (cacheFind b r 15 g).isSome then (if first then cacheHit r 15 g b else b, .go)
  else if fetching b r 15 g then (b, .hold)
  else match bring treeFuel (.room (rBerth a) (cacheSetOf r 15 g)) b with
  | (b, .hold) => (b, .hold)
  | (b, .go) =>
    let b := modMema (fun m => { m with miss := inc32 m.miss }) b
    let leaf := cacheLine b r 0 g
    if (List.range 8).all fun k => ctrOf leaf k = 0 then (insertLine r 15 g (List.replicate 64 0) b, .go)
    else if portUp b (rPort a) then (sendRead (rPort a) (metaAddr a 15 g) (.node r 15 g) b, .hold)
    else (b, .hold)

def poisonBit (tags : Bytes) (k : Nat) : Bool := bit (fieldLE tags 56 1) k
def setPoison (tags : Bytes) (k : Nat) (p : Bool) : Bytes :=
  let v := fieldLE tags 56 1
  putAt tags 56 (leBytes 1 (if p then v ||| 2 ^ k else v - (v &&& 2 ^ k)))

/-- Is the line's data at hand for an operation: held ciphertext, a fetched line, or a fetch to make? -/
def dataFetch (o : AOp) (i : Nat) (b : Block) : Block × Option Bytes :=
  let a := rgnAt b o.region
  match heldWrite b (rPort a) (dataAddr a i) with
  | some d => (b, some d)
  | none =>
    match tget none (o.got.map fun e => (e.1, some e.2)) i with
    | some d => (b, some d)
    | none =>
      if b.mema.reads.any (fun x => x.fetch = .data o.id && x.addr = dataAddr a i) || !portUp b (rPort a) then (b, none)
      else (sendRead (rPort a) (dataAddr a i) (.data o.id) b, none)

/-- What the check of a fetched data line says (R253 steps 4 and 5). -/
inductive Checked where
  | good (plain : Bytes)
  | bad
  | poisoned
deriving DecidableEq, Repr

/-- Poison bit, then tag and decryption under the leaf's phase. -/
def checkLine (b : Block) (r i : Nat) (ct : Bytes) : Checked :=
  let a := rgnAt b r
  let leaf := cacheLine b r 0 (i / 8)
  let tags := cacheLine b r 15 (i / 8)
  let c := ctrOf leaf (i % 8)
  let kids := phaseKids a (nodePhase leaf)
  if poisonBit tags (i % 8) then .poisoned
  else if lineTag (keyOf b kids.2) i c ct = slice tags (7 * (i % 8)) 7 then .good (lineCrypt (keyOf b kids.1) i c ct)
  else .bad

/-- The line's poison bit is set in its cached tag line. -/
def markPoison (r i : Nat) (b : Block) : Block :=
  cachePut r 15 (i / 8) (setPoison (cacheLine b r 15 (i / 8)) (i % 8) true) true b

/-- A phase's USE count. -/
def useOf (a : ARegion) (p : Bool) : Nat := if p then a.use1 else a.use0

/-- Encrypts a line under a phase with a new counter, stores its tag, issues it to the port and counts the use (R254). -/
def storeLine (r i c : Nat) (p : Bool) (plain : Bytes) (b : Block) : Block :=
  let a := rgnAt b r
  if c ≥ 2 ^ 56 then loseRegion r cExhausted 15 (i / 8) b
  else if useOf a p + 1 ≥ 2 ^ 44 then loseRegion r cExhausted 15 (i / 8) b
  else
    let kids := phaseKids a p
    let ct := lineCrypt (keyOf b kids.1) i c plain
    let b := cachePut r 0 (i / 8) (setCtr (cacheLine b r 0 (i / 8)) (i % 8) c) true b
    let tags := putAt (cacheLine b r 15 (i / 8)) (7 * (i % 8)) (lineTag (keyOf b kids.2) i c ct)
    let b := cachePut r 15 (i / 8) (setPoison tags (i % 8) false) true b
    let b := sendWrite r (rPort a) (dataAddr a i) ct .none b
    let b := count 5 (some (rBerth a)) 1 b
    let b := modRgn r (fun a => if p then { a with use1 := a.use1 + 1 } else { a with use0 := a.use0 + 1 }) b
    if useOf a p + 1 = 2 ^ 43 then raise 0x12 1 b else b

/-- Does the group's leaf still carry the old phase during a roll (R262)? -/
def unconverted (b : Block) (r g : Nat) : Bool :=
  let a := rgnAt b r
  a.st = .rolling && nodePhase (cacheLine b r 0 g) ≠ a.phase

/-- The data lines of a group that a conversion still has to read. -/
def groupMissing (b : Block) (o : AOp) (g : Nat) : List Nat :=
  let a := rgnAt b o.region
  (List.range 8).filterMap fun k =>
    let i := 8 * g + k
    if ctrOf (cacheLine b o.region 0 g) k = 0 || (heldWrite b (rPort a) (dataAddr a i)).isSome ||
       (o.got.any fun e => e.1 = i) then none else some i

/-- Converts one line of a group (R261 step 3); `bad` says that it arrived poisoned. -/
def convertLine (r i : Nat) (bad : Bool) (ct : Bytes) (b : Block) : Block :=
  let c := ctrOf (cacheLine b r 0 (i / 8)) (i % 8)
  if bad then markPoison r i b else
  match checkLine b r i ct with
  | .good plain => storeLine r i (c + 1) (rgnAt b r).phase plain b
  | .bad => markPoison r i b
  | .poisoned => b

/-- Converts a group whose lines are at hand: every written line, then the leaf's PHASE. The lines are checked under the old
phase, so the leaf turns last. -/
def convertGroup (o : AOp) (g : Nat) (b : Block) : Block :=
  let r := o.region
  let b := (List.range 8).foldl (fun b k =>
    let i := 8 * g + k
    if (rgnAt b r).st ≠ .rolling ∨ ctrOf (cacheLine b r 0 g) k = 0 then b
    else match (dataFetch o i b).2 with
    | some ct => convertLine r i (o.bad.contains i) ct b
    | none => b) b
  if (rgnAt b r).st = .rolling then cachePut r 0 g (setPhase (cacheLine b r 0 g) (rgnAt b r).phase) true b else b

/-- Brings what the conversion of a group needs; .go once it is converted. -/
def convertStep (o : AOp) (g : Nat) (b : Block) : Block × Adv :=
  match bringTag o g b with
  | (b, .hold) => (b, .hold)
  | (b, .go) =>
    match groupMissing b o g with
    | [] => (convertGroup o g b, .go)
    | ms => (ms.foldl (fun b i => (dataFetch o i b).1) b, .hold)

/-- A read's data and verdict reach the Hold line, or its operation (R226, R253). -/
def deliver (o : AOp) (dest : Option Nat) (plain : Bytes) (b : Block) : Block :=
  let b := count 4 (some (rBerth (rgnAt b o.region))) 1 b
  match dest with
  | none => later (.opLine o.op plain) b
  | some l =>
    let c := if o.holds && (tagAt b l).st = .held then cOk else producerCheck b [l]
    if c = cOk then later (.opDone o.op cOk) (count 3 (some (rBerth (rgnAt b o.region))) 1 (producerWrite [(l, plain)] b))
    else later (if c = cPoison then .opLost o.op c else .opDone o.op c) b

/-- An operation fails on its data. -/
def failOp (o : AOp) (c : Byte) (b : Block) : Block := later (.opLost o.op c) (spoilDest o.kind b)

/-- An operation fails on an uncorrectable error or on poison from outside, which also halts a COPY's channel (R412). -/
def hurtOp (o : AOp) (c : Byte) (b : Block) : Block := later (.opHurt o.op c) (spoilDest o.kind b)

/-- The keys an access needs are LIVE (R110, R267); without them it completes DENIED and faults nothing. -/
def keysReady (b : Block) (r : Nat) (p : Bool) : Bool :=
  let a := rgnAt b r
  let kids := phaseKids a p
  let ok (k : Nat) : Bool := keyLive b k && inKeyRange b (rBerth a) k
  ok kids.1 && ok kids.2

/-- The keys of a phase hold what they held when the region took them up: a roll keeps the old phase's from going (R263). -/
def keysHeld (b : Block) (r : Nat) (p : Bool) : Bool :=
  let a := rgnAt b r
  let kids := phaseKids a p
  let ok (k : Nat) : Bool := ((keyAt b k).st = .live || (keyAt b k).st = .retiring) && inKeyRange b (rBerth a) k
  ok kids.1 && ok kids.2

/-- The keys that an access to a group needs, by the phase its leaf carries. -/
def groupKeys (b : Block) (r g : Nat) : Bool :=
  let p := nodePhase (cacheLine b r 0 g)
  if (rgnAt b r).st = .rolling ∧ p ≠ (rgnAt b r).phase then keysHeld b r p else keysReady b r p

/-- The first missing node over group g has been written, so that its fetch has to verify (R251). -/
def mustFetch (b : Block) (r g : Nat) : Bool :=
  match (List.range (rDepth (rLog (rgnAt b r)))).reverse.find? fun j => (cacheFind b r j (g / 8 ^ j)).isNone with
  | some j => (parentCtr b r j (g / 8 ^ j)).any fun c => c ≠ 0
  | none => false

/-- The highest level whose node over group g was never written, with nothing dirty below it: its subtree needs no work. -/
def emptyLevel (b : Block) (r g : Nat) : Option Nat :=
  let n := rLog (rgnAt b r)
  ((List.range (rDepth n)).filter fun j => parentCtr b r j (g / 8 ^ j) = some 0 &&
    !(b.mema.cache.any fun c => c.region = r && c.dirty && c.level ≤ j && c.index / 8 ^ (j - c.level) = g / 8 ^ j)).getLast?

/-- Brings in the nodes over group g of some levels. -/
def bringAll (r g : Nat) : List Nat → Block → Block × Adv
  | [], b => (b, .go)
  | j :: js, b =>
    let m := bring treeFuel (.node r j (g / 8 ^ j)) b
    if m.2 = .hold then m else bringAll r g js m.1

/-- Nodes whose last child has been converted take the new PHASE (R261 step 4). -/
def turnNodes (r g : Nat) (ls : List Nat) (b : Block) : Block :=
  ls.foldl (fun b j => match cacheFind b r j (g / 8 ^ j) with
    | some c =>
      if nodePhase c.data ≠ (rgnAt b r).phase then cachePut r j (g / 8 ^ j) (setPhase c.data (rgnAt b r).phase) true b else b
    | none => b) b

/-- A read with its leaf at hand (R253, R257). -/
def advRead (o : AOp) (dest : Option Nat) (b : Block) : Block × Adv :=
  let r := o.region
  let i := o.index
  if ctrOf (cacheLine b r 0 (i / 8)) (i % 8) = 0 then (endOp o.id (deliver o dest (List.replicate 64 0) b), .go)
  else
    let f := dataFetch o i b
    let t := bringTag o (i / 8) f.1
    if t.2 = .hold then t
    else match f.2 with
    | none => (t.1, .hold)
    | some d =>
      let b := t.1
      (endOp o.id (if o.bad.contains i then hurtOp o cPoison (markPoison r i b) else
        match checkLine b r i d with
        | .good plain => deliver o dest plain b
        | .bad => failOp o cTagFail (markPoison r i b)
        | .poisoned => failOp o cPoison b), .go)

/-- A write's line is stored; it completes unless its region was lost. -/
def storeEnd (o : AOp) (c : Nat) (p : Bool) (plain : Bytes) (b : Block) : Block × Adv :=
  let b := storeLine o.region o.index c p plain b
  (if (rgnAt b o.region).st = .lost then b else endOp o.id (later (.opDone o.op cOk) b), .go)

/-- The bytes a mask names, over an old line (R255). -/
def mergeLine (mask : Nat) (data old : Bytes) : Bytes :=
  (List.range 64).map fun k => if mask.testBit k then data.getD k 0 else old.getD k 0

/-- A partial write whose group is in the current phase (R255). -/
def advPart (o : AOp) (mask : Nat) (data : Bytes) (p : Bool) (b : Block) : Block × Adv :=
  let r := o.region
  let i := o.index
  let c := ctrOf (cacheLine b r 0 (i / 8)) (i % 8)
  if c = 0 then storeEnd o 1 p (mergeLine mask data (List.replicate 64 0)) b
  else
    let f := dataFetch o i b
    match f.2 with
    | none => (f.1, .hold)
    | some d =>
      let b := f.1
      if o.bad.contains i then (endOp o.id (hurtOp o cPoison (markPoison r i b)), .go)
      else match checkLine b r i d with
      | .good plain => storeEnd o (c + 1) p (mergeLine mask data plain) b
      | .bad => (endOp o.id (failOp o cTagFail (markPoison r i b)), .go)
      | .poisoned => (endOp o.id (failOp o cPoison b), .go)

/-- An access whose keys are not LIVE completes DENIED, and its context is not faulted (R110, R267). -/
def refuseOp (o : AOp) (b : Block) : Block × Adv :=
  (endOp o.id (later (.opDone o.op cDenied) (cipherRefused (rBerth (rgnAt b o.region)) b)), .go)

/-- A write with its leaf at hand: its group is converted first during a roll (R254, R255, R262). -/
def advWrite (o : AOp) (mask : Option Nat) (data : Bytes) (b : Block) : Block × Adv :=
  let r := o.region
  let g := o.index / 8
  let a := rgnAt b r
  let leaf := cacheLine b r 0 g
  let p := if a.st = .rolling then a.phase else nodePhase leaf
  if !keysReady b r p ∨ !groupKeys b r g then refuseOp o b
  else if unconverted b r g then convertStep o g b
  else
    let t := bringTag o g b
    if t.2 = .hold then t
    else match mask with
    | none => storeEnd o (ctrOf leaf (o.index % 8) + 1) p data t.1
    | some m => advPart o m data p t.1

/-- The sweep at a group, with its leaf at hand (R261 steps 3 and 4): the next group it stands at, and the lowest level above
which nodes may turn. -/
def advConv (o : AOp) (b : Block) : Block × Adv :=
  let r := o.region
  let g := o.index / 8
  let a := rgnAt b r
  let n := rLog a
  if a.st ≠ .rolling then (endOp o.id b, .go)
  else if !keysReady b r a.phase ∨ !groupKeys b r g then (b, .hold)
  else
    let skip := emptyLevel b r g
    let m := if skip.isNone ∧ unconverted b r g then convertStep o g b else (b, Adv.go)
    if m.2 = .hold then m
    else
      let low := skip.getD 0
      let next := match skip with
        | some j => min (2 ^ n / 8) ((g / 8 ^ j + 1) * 8 ^ j)
        | none => g + 1
      let ls := (List.range (rDepth n)).filter fun j => low < j && (next = 2 ^ n / 8 || next % 8 ^ j = 0)
      let m := bringAll r (next - 1) ls m.1
      if m.2 = .hold then m
      else (endOp o.id (modRgn r (fun a => { a with sweep := next }) (turnNodes r (next - 1) ls m.1)), .go)

/-- The first lookup of an operation: it starts below the lowest cached node over its line (R251), a hit unless that is the root. -/
def lookPath (o : AOp) (b : Block) : Block :=
  if o.seen ≠ 0 then b
  else
    let g := o.index / 8
    let b := modOp o.id (fun o => { o with seen := 1 }) b
    match (List.range (rDepth (rLog (rgnAt b o.region)))).find? fun j => (cacheFind b o.region j (g / 8 ^ j)).isSome with
    | some j => cacheHit o.region j (g / 8 ^ j) b
    | none => b

/-- Advances the operation in progress on a region: .go when it moved on, .hold when it waits. -/
def advance (o : AOp) (b : Block) : Block × Adv :=
  let a := rgnAt b o.region
  let g := o.index / 8
  let b := lookPath o b
  if !portUp b (rPort a) then (b, .hold)
  else if mustFetch b o.region g ∧ !keysReady b o.region a.phase then (if o.kind = .conv then (b, .hold) else refuseOp o b)
  else
    let m := bring treeFuel (.node o.region 0 g) b
    if m.2 = .hold then m
    else
      let b := m.1
      match o.kind with
      | .read dest =>
        if ctrOf (cacheLine b o.region 0 g) (o.index % 8) = 0 ∨ groupKeys b o.region g then advRead o dest b else refuseOp o b
      | .write data => advWrite o none data b
      | .part mask data => advWrite o (some mask) data b
      | .conv => advConv o b

/-! ### The sweep (R261) -/

/-- One move of the sweep: the next group's conversion is taken up as an operation. -/
def sweepStep (r : Nat) (b : Block) : Block × Adv :=
  let a := rgnAt b r
  if a.st ≠ .rolling ∨ a.sweep ≥ 2 ^ rLog a / 8 then (b, .hold)
  else (modMema (fun m => { m with
    nextId := m.nextId + 1
    ops := m.ops ++ [{ id := m.nextId, region := r, index := 8 * a.sweep, kind := .conv, op := .sweep r }] }) b, .go)

/-! ### Flushing (R252, R261 step 5) -/

/-- Writes back the dirty lines of one level that satisfy p; a node whose parent is missing has it fetched. -/
def flushLevel (p : CacheLine → Bool) (b : Block) (level : Nat) : Block :=
  (b.mema.cache.filter fun c => c.dirty && p c && c.level = level).foldl (fun b c =>
    match cacheFind b c.region c.level c.index with
    | none => b
    | some c =>
      if !portUp b (rPort (rgnAt b c.region)) then b
      else if c.level = 15 ∨ (parentCtr b c.region c.level c.index).isSome then writeBack c b
      else (bring treeFuel (.node c.region (c.level + 1) (c.index / 8)) b).1) b

/-- Writes back dirty lines that satisfy p, tag lines and leaves first, for each write-back dirties its parent. -/
def flush (p : CacheLine → Bool) (b : Block) : Block := (15 :: List.range 11).foldl (flushLevel p) b

def dirtyIn (b : Block) (p : CacheLine → Bool) : Bool := b.mema.cache.any fun c => c.dirty && p c

/-- Ways a running way command moves. -/
def movingWays (b : Block) (c : WayCmd) : Nat := tget 0 b.mema.ways c.berth ^^^ c.ways

/-! ### The engine's work after a change -/

/-- Works on one region until it has to wait (fuel: moves). -/
def runRegion (r : Nat) : Nat → Block → Block
  | 0, b => b
  | n + 1, b =>
    let go := match activeOp b r with
      | some o => advance o b
      | none => sweepStep r b
    match go with
    | (b, .go) => runRegion r n b
    | (b, .hold) => b

def engineA (b : Block) : Block :=
  let rs := tfind b.mema.regions fun _ a => a.st = .live || a.st = .rolling
  let b := rs.foldl (fun b r => runRegion r (b.mema.ops.length + 64) b) b
  match b.mema.cmd with
  | some c => flush (fun l => (movingWays b c).testBit l.way) b
  | none => b

/-- An access of a block unit to a PROT region (R253 to R255, R258 rule 3, R266, R268). -/
def access (r i : Nat) (k : AKind) (op : OpRef) (b : Block) : Block :=
  match (rgnAt b r).st with
  | .lost =>
    let b := match k with
      | .read (some l) => poisonLine l b
      | _ => b
    later (.opLost op cPoison) b
  | .live | .rolling =>
    later .engineA (modMema (fun m => { m with
      nextId := m.nextId + 1, ops := m.ops ++ [{ id := m.nextId, region := r, index := i, kind := k, op := op }] }) b)
  | _ => later (.opDone op cLifecycle) b

/-- Writes one line of a RAW or HOSTIO region as it is (R163, R243). -/
def rawWrite (r i : Nat) (d : Bytes) (op : OpRef) (b : Block) : Block :=
  let a := rgnAt b r
  if a.st = .live then sendWrite r (rPort a) (dataAddr a i) (slice d 0 64) op b else later (.opDone op cLifecycle) b

/-- Reads one line of a RAW or HOSTIO region as it is. -/
def rawRead (r i : Nat) (op : OpRef) (b : Block) : Block :=
  let a := rgnAt b r
  if a.st = .live then sendRead (rPort a) (dataAddr a i) (.raw op) b else later (.opDone op cLifecycle) b

/-! ### Replies (R54, R58, R253, R257, R258, R264, R410) -/

/-- A reply of a reset's past is dropped and counted (R58). -/
def staleReply (b : Block) : Block := recordErr 0x12 cStale none b

/-- A fetched node: verified against its parent, or the region is LOST. -/
def nodeArrives (r j i : Nat) (d : Bytes) (b : Block) : Block :=
  let a := rgnAt b r
  match parentCtr b r j i with
  | none => b
  | some c =>
    if nodeMac (keyOf b (phaseKids a (nodePhase d)).2) j i c d = slice d 56 7 then insertLine r j i d b
    else loseRegion r cTagFail j i b

/-- What became of a line that a port delivered: good, poisoned from outside, or uncorrectable twice (R410). -/
inductive Arrival where
  | good
  | poison
  | hurt
deriving DecidableEq, Repr

def Arrival.code : Arrival → Byte
  | .good => cOk
  | .poison => cPoison
  | .hurt => cUncorr

/-- The sweep meets a bad tag line: no line of the group that was written can be checked any more (R257, R261). Log entry 135. -/
def poisonGroup (r g : Nat) (b : Block) : Block :=
  (List.range 8).foldl (fun b k => if ctrOf (cacheLine b r 0 g) k = 0 then b else markPoison r (8 * g + k) b) b

/-- A fetched tag line: what is good goes into the cache; the operation in progress fails with what is not (R257, R410). -/
def tagArrives (r g : Nat) (d : Bytes) (how : Arrival) (b : Block) : Block :=
  match activeOp b r with
  | some o =>
    if how = .good then insertLine r 15 g d b
    else if o.kind = .conv then poisonGroup r g (insertLine r 15 g d b)
    else if how = .poison then endOp o.id (hurtOp o cPoison (markPoison r o.index (insertLine r 15 g d b)))
    else endOp o.id (hurtOp o cUncorr b)
  | none => if how = .good then insertLine r 15 g d b else b

/-- The line of a read that arrives before its tag is at hand is filled in HELD (R226, R253). -/
def fillHeld (o : AOp) (i : Nat) (d : Bytes) (b : Block) : Block :=
  match o.kind with
  | .read (some l) =>
    let leaf := cacheLine b o.region 0 (i / 8)
    if (cacheFind b o.region 15 (i / 8)).isSome ∨ producerCheck b [l] ≠ cOk then b
    else
      modOp o.id (fun o => { o with holds := true }) <| modTag l (fun t => { t with st := .held, lnd := none }) <|
        putLine l (lineCrypt (keyOf b (phaseKids (rgnAt b o.region) (nodePhase leaf)).1) i (ctrOf leaf (i % 8)) d) b
  | _ => b

/-- A bad line is one that only a conversion reads: the operation itself goes on (R257, R261). -/
def sideLine (o : AOp) (i : Nat) : Bool :=
  i ≠ o.index || match o.kind with
  | .conv => true
  | .write _ => true
  | _ => false

/-- A fetched data line. -/
def dataArrives (o : AOp) (i : Nat) (d : Bytes) (how : Arrival) (b : Block) : Block :=
  if how = .good then modOp o.id (fun o => { o with got := tset [] o.got i d }) (fillHeld o i d b)
  else if how = .poison ∨ sideLine o i then modOp o.id (fun o => { o with got := tset [] o.got i d, bad := i :: o.bad }) b
  else endOp o.id (hurtOp o cUncorr b)

/-- A delivered line reaches what its fetch was for. -/
def fetchArrives (x : ARead) (d : Bytes) (how : Arrival) (b : Block) : Block :=
  match x.fetch with
  | .node r 15 g => tagArrives r g d how b
  | .node r j i => if how = .good then nodeArrives r j i d b else loseRegion r cUncorr j i b
  | .data id =>
    match b.mema.ops.find? fun o => o.id = id with
    | none => b
    | some o => dataArrives o ((x.addr - rBase (rgnAt b o.region)) / 64) d how b
  | .raw op => later (if how = .good then .opLine op d else .opHurt op cUncorr) b

/-- The operation and the berth a fetch is for. -/
def fetchFor (b : Block) (f : AFetch) : OpRef × Option Nat :=
  match f with
  | .node r _ _ => (.none, some (rBerth (rgnAt b r)))
  | .data id => match b.mema.ops.find? fun o => o.id = id with
    | some o => (o.op, some (rBerth (rgnAt b o.region)))
    | none => (.none, none)
  | .raw op => (op, match op with
    | .gse w _ _ => some w
    | .gseRec w _ => some w
    | _ => none)

/-- The line is fetched once more under a new tag (R410). -/
def fetchAgain (x : ARead) (b : Block) : Block :=
  let t := b.mema.nextTag
  putRead x.port x.addr t (modMema (fun m => { m with
    nextTag := t + 1, reads := m.reads.map fun y => if y = x then { y with tag := t, tries := y.tries + 1, since := now b } else y }) b)

/-- Read data arrives at a port (R54, R253, R406, R410). -/
def drsArrives (k tag : Nat) (gen : BitVec 12) (line : Bytes) (poison : Bool) (errs : List WordErr) (b : Block) : Block :=
  if gen ≠ (portAt b k).gen then staleReply b
  else match b.mema.reads.find? fun x => x.port = k && x.tag = tag && x.sent with
  | none => { b with recv := { b.recv with lostTags := b.recv.lostTags.erase (k, tag) } }
  | some x =>
    let who := fetchFor b x.fetch
    let again := !poison && x.tries < 2
    let addr := x.addr / 64 * 64 % 2 ^ 32
    let inst := if again then k else errInst b who.1 k
    let b := poisonError poison who.2 inst addr b
    let p := pathRead who.2 k inst (fun _ => addr) errs (slice line 0 64) b
    let b := p.2.2
    if p.2.1 && again then fetchAgain x b
    else
      let how := if poison then Arrival.poison else if p.2.1 then .hurt else .good
      later .engineA (fetchArrives x p.1 how (modMema (fun m => { m with reads := m.reads.erase x }) b))

/-- A region in DRAINING whose writes are all acknowledged becomes FREE (R266). -/
def settleDrain (r : Nat) (b : Block) : Block :=
  let a := rgnAt b r
  if a.st = .draining ∧ !b.mema.writes.any (fun w => w.region = r) then
    later (.berthCheck (rBerth a)) (modRgn r (fun _ => {}) b)
  else b

/-- A write acknowledgement (R254, R266). -/
def ndrArrives (k tag : Nat) (gen : BitVec 12) (b : Block) : Block :=
  if gen ≠ (portAt b k).gen then staleReply b
  else match b.mema.writes.find? fun x => x.port = k && x.tag = tag with
  | none => { b with recv := { b.recv with lostTags := b.recv.lostTags.erase (k, tag) } }
  | some w =>
    let b := if w.op = .none then b else later (.opDone w.op cOk) b
    later .engineA (settleDrain w.region (modMema (fun m => { m with writes := m.writes.erase w }) b))

/-! ### Region entries (R266, R267, R272) -/

def rgnSel (b : Block) : Nat := fld (reg b 0x12060) 7 0

/-- Footprints [start, end) of two regions on one port meet. -/
def footMeets (a c : ARegion) : Bool :=
  rPort a = rPort c &&
  rBase a < rBase c + footBytes (rType c = 0) (rLog c) && rBase c < rBase a + footBytes (rType a = 0) (rLog a)

/-- The conditions of R267 on entry r. An abandoned footprint of R424 keeps its range. -/
def rgnOk (b : Block) (r : Nat) (a : ARegion) : Bool :=
  let foot := footBytes (rType a = 0) (rLog a)
  rPort a < b.build.memaPorts && rType a < 3 && (rType a ≠ 2 || b.build.hostPort = some (rPort a)) &&
  6 ≤ rLog a && rLog a ≤ 34 && rBase a + foot ≤ 2 ^ 52 &&
  (b.mema.regions.all fun e => e.1 = r || e.2.st = .free || !footMeets a e.2) &&
  (b.recv.deadFeet.all fun f => f.1 ≠ rPort a || rBase a + foot ≤ f.2.1 || f.2.2 ≤ rBase a) &&
  (rType a ≠ 0 || (tget 0 b.mema.ways (rBerth a) ≠ 0 && inKeyRange b (rBerth a) (fld a.kid0 10 0) &&
    inKeyRange b (rBerth a) (fld a.kid0 26 16)))

/-- VALID written 1 on a FREE entry (R266). -/
def createRgn (r : Nat) (b : Block) : Block :=
  let a := rgnAt b r
  if a.st ≠ .free then b
  else if rgnOk b r a then
    modRgn r (fun a => { a with
      st := .live, phase := false, use0 := 0, use1 := 0, root := [], sweep := 0, fault := 0, level := 0, findex := 0 }) b
  else recordErr 0x12 cDenied none b

/-- VALID written 0, or the berth enters SCRUBBING (R266): operations are refused with LIFECYCLE. -/
def drainRgn (r : Nat) (b : Block) : Block :=
  let a := rgnAt b r
  if a.st ≠ .live ∧ a.st ≠ .rolling ∧ a.st ≠ .lost then b
  else
    let ops := b.mema.ops.filter fun o => o.region = r
    let b := modRgn r (fun a => { a with st := .draining }) b
    let b := modMema (fun m => { m with
      cache := m.cache.filter fun x => x.region ≠ r
      ops := m.ops.filter fun o => o.region ≠ r
      reads := m.reads.filter fun x => match x.fetch with
        | .node q _ _ => q ≠ r
        | .data o => !ops.any fun p => p.id = o
        | .raw _ => true }) b
    settleDrain r (ops.foldl (fun b o => later (.opDone o.op cLifecycle) (if o.holds then spoilDest o.kind b else b)) b)

/-- A write to MEMA_RGN_CFG, _BASE_LO, _BASE_HI, _KID0 or _KID1 of the selected entry (R267, R272). -/
def rgnWrite (o : Nat) (v : Word) (b : Block) : Block :=
  let r := rgnSel b
  let a := rgnAt b r
  let set (f : ARegion → ARegion) : Block := modRgn r f b
  let busy : Block := recordErr 0x12 cBusy none b
  if o = 0x064 then
    let cfg := v &&& 0x7FF0FFFF
    if a.st ≠ .free then (if v.getLsbD 31 then busy else drainRgn r b)
    else
      let b := set fun a => { a with cfg := cfg }
      if v.getLsbD 31 then createRgn r b else b
  else if o = 0x068 then (if a.st = .free then set fun a => { a with baseLo := v } else busy)
  else if o = 0x06C then (if a.st = .free then set fun a => { a with baseHi := v } else busy)
  else if o = 0x070 then
    (if a.st = .free ∨ (a.st = .live ∧ a.phase) then set fun a => { a with kid0 := v, use0 := if a.st = .live then 0 else a.use0 } else busy)
  else
    (if a.st = .free ∨ (a.st = .live ∧ !a.phase) then set fun a => { a with kid1 := v, use1 := if a.st = .live then 0 else a.use1 } else busy)

/-- The firmware creates a region at load (R313): the entry it took, or none. -/
def createRegion (w kind port log2 extra base : Nat) (b : Block) : Option (Nat × Block) :=
  match (List.range 256).find? fun r => (rgnAt b r).st = .free with
  | none => none
  | some r =>
    if base % 4096 ≠ 0 ∨ base ≥ 2 ^ 52 ∨ port > 3 ∨ !b.build.mema then none
    else
      let a : ARegion := { cfg := BitVec.ofNat 32 (w + 32 * port + 128 * (kind - 1) + 1024 * log2),
                           baseLo := BitVec.ofNat 32 base, baseHi := BitVec.ofNat 32 (base / 2 ^ 32),
                           kid0 := BitVec.ofNat 32 extra }
      if rgnOk b r a then some (r, createRgn r (modRgn r (fun _ => a) b)) else none

/-! ### The roll (R261, R262) -/

/-- Nodes that were never written read the region's current PHASE (R249), the cached ones too. -/
def turnEmpty (r : Nat) (b : Block) : Block :=
  modMema (fun m => { m with cache := m.cache.map fun c =>
    if c.region = r && c.level < 15 && (List.range 8).all (fun k => ctrOf c.data k = 0)
    then { c with data := setPhase c.data (rgnAt b r).phase } else c }) b

/-- MEMA_ROLL: GO on a region. -/
def startRoll (r : Nat) (b : Block) : Block :=
  let a := rgnAt b r
  let c := if a.st = .rolling then cBusy
    else if a.st ≠ .live ∨ rType a ≠ 0 ∨ !keysReady b r (!a.phase) then cDenied else cOk
  let b := modMema (fun m => { m with rollRes := c }) b
  if c = cOk then
    later .engineA (turnEmpty r (modRgn r (fun a => { a with st := .rolling, phase := !a.phase, sweep := 0 }) b))
  else b

/-- The last node of the top level is converted and every dirty line of the region is written back. -/
def rollDone (r : Nat) (b : Block) : Block :=
  let a := rgnAt b r
  if a.st ≠ .rolling then b
  else
    let b := runRegion r (b.mema.ops.length + 64) b
    if (rgnAt b r).sweep < 2 ^ rLog a / 8 ∨ (activeOp b r).isSome then b
    else
      let b := flush (fun c => c.region = r) b
      if dirtyIn b (fun c => c.region = r) ∨ (rgnAt b r).st ≠ .rolling then b
      else raise 0x12 3 (modRgn r (fun a => { a with st := .live }) b)

/-! ### Ways (R252, R273) -/

def wayCheck (b : Block) (ways w : Nat) : Byte :=
  if b.mema.ways.any fun e => e.1 ≠ w && (e.2 &&& ways) ≠ 0 then cDenied
  else if ways = 0 ∧ b.mema.regions.any (fun e => e.2.st ≠ .free && rType e.2 = 0 && rBerth e.2 = w) then cBusy
  else cOk

/-- GO on MEMA_WAY_CMD; a retired way stays out of every mask (R415). -/
def wayCmd (m : Master) (val : Word) (b : Block) : Block :=
  if b.mema.cmd.isSome then recordErr 0x12 cBusy (errBerthOf m) b
  else
    let ways := fld val 15 0
    let w := fld val 20 16
    let c := if ways &&& b.ecc.ways ≠ 0 then cDenied else wayCheck b ways w
    if c ≠ cOk then raise 0x12 4 (modMema (fun m => { m with status := c }) b)
    else later .engineA (modMema (fun m => { m with cmd := some ⟨ways, w⟩ }) b)

/-- The moving ways are written back and cleared, and the command completes. -/
def wayDone (b : Block) : Block :=
  match b.mema.cmd with
  | none => b
  | some c =>
    let mv := movingWays b c
    let b := flush (fun l => mv.testBit l.way) b
    if dirtyIn b (fun l => mv.testBit l.way) then b
    else
      raise 0x12 4 (modMema (fun m => { m with
        cache := m.cache.filter fun l => !mv.testBit l.way
        ways := tset 0 m.ways c.berth c.ways
        status := cOk
        cmd := none }) b)

/-! ### Ports (R58, R264) -/

def portReset (k : Nat) (b : Block) : Block :=
  let up := portUp b k
  let b := modPort k (fun p => { p with inRst := true, gen := p.gen + 1 }) b
  let b := if k = 0 then modPage 0x12 (fun p => { p with gen := (portAt b 0).gen }) b else b
  let b := modMema (fun m => { m with
    reads := m.reads.map fun x => if x.port = k then { x with sent := false } else x
    writes := m.writes.map fun x => if x.port = k then { x with sent := false } else x }) b
  let b := { b with recv := { b.recv with deadFeet := b.recv.deadFeet.filter fun f => f.1 ≠ k } }
  if up then raise 0x12 5 b else b

/-- A port that carries traffic again: writes that were not acknowledged are replayed in order, then abandoned reads are reissued
(R264). -/
def resumePort (k : Nat) (b : Block) : Block :=
  if !portUp b k then b
  else
    let b := (b.mema.writes.filter fun x => x.port = k && !x.sent).foldl (fun b x => putWrite k x.addr x.tag x.line b) b
    let b := (b.mema.reads.filter fun x => x.port = k && !x.sent).foldl (fun b x => putRead k x.addr x.tag b) b
    later .engineA (modMema (fun m => { m with
      reads := m.reads.map fun x => if x.port = k then { x with sent := true, since := now b } else x
      writes := m.writes.map fun x => if x.port = k then { x with sent := true, since := now b } else x }) b)

/-- The port returns from its reset. -/
def portReturn (k : Nat) (b : Block) : Block :=
  if !(portAt b k).inRst then b
  else
    let b := modPort k (fun p => { p with inRst := false }) b
    resumePort k (if portUp b k then raise 0x12 5 b else b)

/-- The engine's unit starts or stops carrying traffic: UP changes on every port out of reset (R273). -/
def portsTurn (b : Block) : Block :=
  if (List.range b.build.memaPorts).any fun k => !(portAt b k).inRst then raise 0x12 5 b else b

/-! ### Scrub (R270) and registers (R272) -/

def clearWays (w : Nat) (b : Block) : Block :=
  let mask := tget 0 b.mema.ways w
  modMema (fun m => { m with
    cache := m.cache.filter fun l => !mask.testBit l.way
    ways := tset 0 m.ways w 0 }) b

def memaRead (b : Block) (o : Nat) : Word :=
  let w32 (n : Nat) : Word := BitVec.ofNat 32 n
  let a := rgnAt b (rgnSel b)
  let cnt (s : RgnState) : Nat := (b.mema.regions.filter fun e => e.2.st = s).length
  let stCode : Nat := match a.st with
    | .free => 0 | .live => 1 | .rolling => 2 | .lost => 3 | .draining => 4
  if o = 0x040 then
    w32 ((b.mema.regions.filter fun e => e.2.st ≠ .free).length + 2 ^ 10 * cnt .rolling + 2 ^ 19 * cnt .lost)
  else if o = 0x044 then w32 b.mema.hit
  else if o = 0x048 then w32 b.mema.miss
  else if 0x050 ≤ o ∧ o < 0x060 then
    let k := (o - 0x050) / 4
    if k ≥ b.build.memaPorts then 0
    else w32 ((portAt b k).gen.toNat + 4096 * b2n (portUp b k) + 8192 * b2n (b.build.hostPort = some k) +
      65536 * min 4095 (b.mema.writes.filter fun x => x.port = k).length)
  else if o = 0x064 then
    w32 ((a.cfg &&& 0x7FF0FFFF).toNat + 65536 * stCode + 2 ^ 19 * b2n a.phase + 2 ^ 31 * b2n (a.st ≠ .free && a.st ≠ .draining))
  else if o = 0x068 then a.baseLo
  else if o = 0x06C then a.baseHi
  else if o = 0x070 then a.kid0
  else if o = 0x074 then a.kid1
  else if o = 0x078 then w32 (useOf a a.phase / 4096)
  else if o = 0x07C then w32 a.sweep
  else if o = 0x080 then w32 (a.fault.toNat + 256 * a.level)
  else if o = 0x084 then w32 a.findex
  else if o = 0x08C then w32 b.mema.rollRes.toNat
  else if o = 0x098 then w32 (b.mema.status.toNat + 256 * b2n b.mema.cmd.isSome)
  else if 0x100 ≤ o ∧ o < 0x180 then w32 (tget 0 b.mema.ways ((o - 0x100) / 4))
  else 0

end Sys2Proof.Machine
end

