-- ==== Sys2Proof/Machine/Gse.lean ====
section
/-!
DEFINITION. The General Symmetric Engine (R157 to R184): its queues, sessions, sectors, checkpoint records and re-wrap.
-/

namespace Sys2Proof.Machine

def modGse (f : Gse → Gse) (b : Block) : Block := { b with gse := f b.gse }

/-! ### Descriptors (R176, R177) -/

def gseOpCode : GseOp → Nat
  | .sealOpen => 1 | .sealRun => 2 | .sealClose => 3 | .unsealOpen => 4 | .unsealRun => 5 | .unsealClose => 6 | .rewrap => 7

def gseOpOf (n : Nat) : Option GseOp :=
  [GseOp.sealOpen, .sealRun, .sealClose, .unsealOpen, .unsealRun, .unsealClose, .rewrap].find? fun o => gseOpCode o = n

/-- OPERATOR submits the commands of a restore. -/
def operatorOp (o : GseOp) : Bool := o = .unsealOpen || o = .unsealRun || o = .unsealClose

/-- The 64 bytes of GSE_CMD0 to GSE_CMD15 as a descriptor; `clean` says that OPERATOR may submit its OP and that every
reserved or unused field is 0. -/
def parseGse (r : Bytes) : GseDesc :=
  let f (o n : Nat) : Nat := fieldLE r o n
  let op := (gseOpOf (f 0 1)).getD .sealOpen
  let run := op = .unsealRun
  { op := op, berth := Fin.ofNat 32 (f 1 1), masked := bit (f 2 2) 0, tag := BitVec.ofNat 32 (f 4 4)
    kidA := f 8 2 % 2048, kidB := f 0xA 2 % 2048, first := f 0x10 8, count := f 0x18 8
    buffer := BitVec.ofNat 32 (f 0x20 4), record := BitVec.ofNat 32 (f 0x24 4), bufOff := f 0x28 8, recOff := f 0x30 8
    clean := operatorOp op && (gseOpOf (f 0 1)).isSome && f 1 1 < 32 && f 2 2 < 2 && f 8 8 = 0 && f 0x38 8 = 0 &&
      (if run then f 0x24 4 = 0 && f 0x30 8 = 0 && f 0x28 8 % 4096 = 0
       else f 0x10 8 = 0 && f 0x18 8 = 0 && f 0x20 4 = 0 && f 0x28 8 = 0 && f 0x30 8 % 64 = 0) }

/-- A RAW region of engine A or a HIF checkpoint window (R163, R164). -/
def isRaw (b : Block) (o : Obj) : Bool :=
  match o.kind with
  | .engA r => rType (rgnAt b r) = 1
  | .window .. => true
  | _ => false

/-- A buffer or record handle: OK and the object, or the code of R177. -/
def rawTarget (b : Block) (w : Nat) (h : Word) (off len : Nat) : Byte × Nat :=
  match objCheck b w h (isRaw b) with
  | (0x00, i) => if isExportRgn b w i ∧ off + len ≤ 64 * objLen b i then (cOk, i) else (cDenied, i)
  | (c, i) => (c, i)

/-! ### Checkpoint map (R161) -/

def mapExtents (b : Block) (w : Nat) : List Extent := ((tideOf b w).map Tide.extents).getD []
def mapCount (b : Block) (w : Nat) : Nat := ((mapExtents b w).map Extent.count).sum

/-- The region list index and byte offset of sector i. -/
def sectorPlace : List Extent → Nat → Option (Nat × Nat)
  | [], _ => none
  | e :: es, i => if i < e.count then some (e.region, e.off + 4096 * i) else sectorPlace es (i - e.count)

/-! ### Sessions (R165, R170) -/

def gseLabel : Bytes := [0x43, 0x4B, 0x4D, 0x41]

/-- K_m and H of a pair's key 2. -/
def recordKey (k2 : BitVec 256) : BitVec 256 := kdf k2 gseLabel (List.replicate 48 0)
def hashKey (km : BitVec 256) : Bytes := aesEnc (keyBytes km) (List.replicate 16 0)

def openSess (w : Nat) (s : SessState) (device masked inc : Bool) (total : Nat) (k2 : BitVec 256) (rec_ : Bytes) (b : Block) : Block :=
  let km := recordKey k2
  modSess w (fun _ => { st := s, incomplete := inc, device := device, masked := masked, next := 0, total := total, km := km,
                        h := hashKey km, d := List.replicate 16 0, record := rec_ }) b

/-- A session ends: its transient keys are zeroed and SESSION_END is set. -/
def endSess (w : Nat) (s : SessState) (b : Block) : Block :=
  raise 0x04 2 (modSess w (fun x => { x with st := s, km := 0, h := [], record := [] }) b)

/-- A completion enters its submitter's queue; an OPERATOR's that finds 8 waiting waits for room (R178). Log entry 141. -/
def gseComplete (c : GseCmd) (code : Byte) (b : Block) : Block :=
  let e : GseCpl := ⟨code, c.rawOp, c.d.berth.val, c.d.tag⟩
  let b := if c.fw then modGse (fun g => { g with fwCpl := g.fwCpl ++ [e] }) b
    else if b.gse.cplq.length ≥ 8 then modGse (fun g => { g with held := g.held ++ [e] }) b
    else
      let was := b.gse.cplq.isEmpty
      let b := modGse (fun g => { g with cplq := g.cplq ++ [e] }) b
      if was then raise 0x04 1 b else b
  match c.via with
  | some (src, tag) => later (.denkanDone src tag code) b
  | none => b

/-- Some command of the berth's session is in work. -/
def gseBusy (b : Block) (w : Nat) : Bool := (b.gse.run ++ b.gse.keyOps).any fun c => c.d.berth.val = w && c.d.op ≠ .rewrap

/-- Takes no new command: the unit is not ON, or R159 has stopped it. -/
def gseMayStart (b : Block) : Bool := (pageAt b 0x04).unit = .on && !b.gse.drbgFail && !b.dbg.drain

/-! ### The OPERATOR queue (R177, R178) -/

/-- Is the command the first of its berth in the queue, with none of the berth in work? -/
def gseFirst (b : Block) (c : GseCmd) : Bool :=
  !gseBusy b c.d.berth.val && ((b.gse.opq.find? fun o => o.d.berth = c.d.berth).any fun o => o = c)

/-- The queued command that completes without running, and its code: any once R159 has stopped the GSE, and a descriptor that
OPERATOR may not submit, in its turn. -/
def gseDead (b : Block) : Option (GseCmd × Byte) :=
  if b.gse.cplq.length ≥ 8 then none
  else if b.gse.drbgFail then b.gse.opq.head?.map fun c => (c, cUncorr)
  else if gseMayStart b then (b.gse.opq.find? fun c => !c.d.clean && gseFirst b c).map fun c => (c, cDenied)
  else none

def gsePumpGo : Nat → Block → Block
  | 0, b => b
  | f + 1, b =>
    match gseDead b with
    | some (c, code) => gsePumpGo f (gseComplete c code (modGse (fun g => { g with opq := g.opq.erase c }) b))
    | none => b

def gsePump : Block → Block := gsePumpGo 8

/-- GO on GSE_SUBMIT. A GSE that R159 has stopped takes nothing. -/
def gseSubmit (b : Block) : Block :=
  let res (c : Byte) (b : Block) : Block := modGse (fun g => { g with submitRes := c }) b
  if b.gse.drbgFail then recordErr 0x04 cUncorr none (res cUncorr b)
  else if b.gse.opq.length ≥ 8 ∨ b.slip.st ≠ .idle then res cBusy b
  else
    let r := ((tgets 0 b.gse.desc 0 16).map fun w => leBytes 4 w.toNat).flatten
    let c : GseCmd := { d := parseGse r, fw := false, rawOp := fieldLE r 0 1 % 16, since := now b }
    gsePump (modGse (fun g => { g with opq := g.opq ++ [c], desc := [], submitRes := cOk }) b)

/-- A read of GSE_CPL pops the oldest completion. -/
def gsePop (b : Block) : Word × Block :=
  match b.gse.cplq with
  | [] => (0, b)
  | e :: es =>
    (BitVec.ofNat 32 (2 ^ 31 + e.code.toNat + 256 * e.op + 4096 * e.berth),
     gsePump (modGse (fun g => { g with cplq := es ++ g.held.take 1, held := g.held.drop 1, lastTag := e.tag }) b))

/-- Takes the OPERATOR command of an OP that may start now. -/
def gseTake (op : GseOp) (h : GseCmd → Block → Block) (b : Block) : Block :=
  if !gseMayStart b ∨ b.gse.cplq.length ≥ 8 ∨ b.slip.st ≠ .idle then b
  else match b.gse.opq.find? fun c => c.d.clean && c.d.op = op && gseFirst b c with
  | some c => gsePump (h c (modGse (fun g => { g with opq := g.opq.erase c }) b))
  | none => b

/-- MASKED on a build without the masked datapath (R160). -/
def maskedCode (b : Block) (d : GseDesc) : Byte := if d.masked ∧ !b.build.gseMasked then cAbsent else cOk

def denyIf (p : Bool) : Byte := if p then cDenied else cOk

/-- Once the Slipway has accepted a power failure, only the work its sealing order names goes on (R179). -/
def gseServes (b : Block) (c : GseCmd) : Bool :=
  b.slip.st = .idle || (b.slip.st = .sealSt && b.slip.queue.head? = some c.d.berth.val && c.fw && c.d.op ≠ .rewrap)

/-! ### Transfers of sectors and records (R163, R164) -/

/-- Reads `n` lines of an object from a byte offset on: through engine S, through engine A, raw from its port, or in one request
through a HIF checkpoint window, which answers with one piece. A HIF that carries nothing fails it (R58). -/
def objRead (w i off n : Nat) (op : Nat → OpRef) (b : Block) : Block :=
  let ls := List.range n
  match (objAt b i).kind with
  | .hbm g base _ => ls.foldl (fun b l => internalRead w g (base + off / 64 + l) (op l) b) b
  | .engA r =>
    if rType (rgnAt b r) = 0 then ls.foldl (fun b l => access r (off / 64 + l) (.read none) (op l) b) b
    else ls.foldl (fun b l => rawRead r (off / 64 + l) (op l) b) b
  | .window _ base => if hifOpen b then emit (.hostRead (base + off) (64 * n) (op 0)) b else later (.opDone (op 0) cUncorr) b
  | _ => later (.opDone (op 0) cDenied) b

/-- Writes bytes of an object from a byte offset on, line by line; a posted write through a window is done when it has left. -/
def objWrite (w i off : Nat) (data : Bytes) (op : OpRef) (b : Block) : Block :=
  let ls := (chunks 64 data).zipIdx
  match (objAt b i).kind with
  | .hbm g base _ => ls.foldl (fun b p => internalWrite w g (base + off / 64 + p.2) 0 p.1 op b) b
  | .engA r =>
    if rType (rgnAt b r) = 0 then ls.foldl (fun b p => access r (off / 64 + p.2) (.write p.1) op b) b
    else ls.foldl (fun b p => rawWrite r (off / 64 + p.2) p.1 op b) b
  | .window _ base =>
    if hifOpen b then ls.foldl (fun b _ => later (.opDone op cOk) b) (emit (.hostWrite (base + off) data op) b)
    else later (.opDone op cUncorr) b
  | _ => later (.opDone op cDenied) b

def isWindow (b : Block) (i : Nat) : Bool :=
  match (objAt b i).kind with
  | .window .. => true
  | _ => false

/-- The object of a sector command's sector and its byte offset there: a region of the map, or the buffer. -/
def mapPlace (b : Block) (w i : Nat) : Option (Nat × Nat) :=
  (sectorPlace (mapExtents b w) i).bind fun p => (rgnEnt b w p.1).map fun e => (e.obj, p.2)
def bufPlace (c : GseCmd) (i : Nat) : Nat × Nat := (fld c.d.buffer 15 0, c.d.bufOff + 4096 * i)

/-- Where a sector is read from, and where it goes. -/
def secSource (b : Block) (c : GseCmd) (i : Nat) : Option (Nat × Nat) :=
  if c.d.op = .sealRun then mapPlace b c.d.berth i else some (bufPlace c i)
def secDest (b : Block) (c : GseCmd) (i : Nat) : Option (Nat × Nat) :=
  if c.d.op = .sealRun then some (bufPlace c i) else mapPlace b c.d.berth i

/-! ### Bulk work (R162, R166, R167, R179) -/

/-- Bulk cores at work: all, or those the Slipway seals with (R436). -/
def bulkCores (b : Block) : Nat := if b.slip.st = .idle then 64 else b.slip.cores

/-- Sectors that cores hold: from tweak to hash. -/
def sectorsHeld (b : Block) : Nat := (b.gse.secs.filter fun s => !s.out).length

/-- A core takes the next sector of a command: its lines are read. -/
def takeSector (c : GseCmd) (b : Block) : Block :=
  let i := c.d.first + c.took
  let id := b.gse.nextId
  let w := c.d.berth.val
  let b := modGse (fun g => { g with
    nextId := id + 1
    run := g.run.erase c ++ [{ c with took := c.took + 1 }]
    secs := g.secs ++ [{ id := id, berth := w, sector := i, since := now b }] }) b
  match secSource b c i with
  | some (o, off) => objRead w o off 64 (.gse w id) b
  | none => later (.opDone (.gse w id 0) cDenied) b

/-- Free cores take sectors from the running commands round-robin (fuel: cores). -/
def fillCores : Nat → Block → Block
  | 0, b => b
  | f + 1, b =>
    if sectorsHeld b ≥ bulkCores b then b
    else match b.gse.run.find? fun c => c.took < c.d.count && gseServes b c with
    | some c => fillCores f (takeSector c b)
    | none => b

/-- The checks of a sector command (R167, R177). -/
def sectorCheck (b : Block) (d : GseDesc) (s : SessState) (live : Bool) : Byte :=
  let w := d.berth.val
  let x := sessAt b w
  firstFail [denyIf (!live || x.st ≠ s || d.count = 0 || d.first ≠ x.next || x.total < d.first + d.count || d.bufOff % 4096 ≠ 0),
    (rawTarget b w d.buffer (d.bufOff + 4096 * d.first) (4096 * d.count)).1, maskedCode b d]

/-- The CKPT pair of a berth serves a new operation (R110). -/
def ckptServes (b : Block) (w : Nat) : Bool :=
  (ckptKid b w).any fun k => (cipherKey b w k).isSome && (cipherKey b w (k + 1)).isSome

/-- A sector command starts, or completes with what its checks found. -/
def startSectors (c : GseCmd) (s : SessState) (live : Bool) (b : Block) : Block :=
  let code := sectorCheck b c.d s live
  if code ≠ cOk then gseComplete c code b
  else if !ckptServes b c.d.berth then gseComplete c cDenied (cipherRefused c.d.berth b)
  else fillCores 64 (modGse (fun g => { g with run := g.run ++ [c] }) b)

/-- S of a sector's ciphertext (R166). -/
def sectorDigest (h : Bytes) (i : Nat) (ct : Bytes) : Bytes := ghash h (chunks 16 ct ++ [beBytes 8 i ++ beBytes 8 32768])

/-- A command of the bulk section ends. NEXT_SECTOR and D advance with a good one; one that ends with an error leaves both as they
are, its digests dropped (DESIGN CHOICE, log entry 142). A SEALING session latches INCOMPLETE then (R170). -/
def endSectors (c : GseCmd) (code : Byte) (b : Block) : Block :=
  let w := c.d.berth.val
  let b := modGse (fun g => { g with run := g.run.filter fun x => x.d.berth ≠ c.d.berth, secs := g.secs.filter fun s => s.berth ≠ w }) b
  let b := if code = cOk then
      modSess w (fun s => { s with next := s.next + c.d.count, d := xorBytes s.d c.data, masked := s.masked || c.d.masked }) b
    else modSess w (fun s => { s with incomplete := s.incomplete || s.st = .sealSt }) b
  fillCores 64 (gsePump (gseComplete c code b))

/-- The sector command of a berth that runs. -/
def runOf (b : Block) (w : Nat) : Option GseCmd := b.gse.run.find? fun c => c.d.berth.val = w

/-- The work of a berth's running sector command fails (R58, R170); after acceptance of a power failure only the sealing order's
commands complete (R179). -/
def gseFail (w : Nat) (code : Byte) (b : Block) : Block :=
  match runOf b w with
  | some c => if gseServes b c then endSectors c code b else b
  | none => b

def modSec (id : Nat) (f : GseSec → GseSec) (b : Block) : Block :=
  modGse (fun g => { g with secs := g.secs.map fun s => if s.id = id then f s else s }) b

/-- A generate request for the pieces of work under way: a sector or a key operation (R159). -/
def drawPiece (b : Block) : Block :=
  modGse (fun g => { g with pieces := g.pieces + 1, drbgUses := g.drbgUses + Config.gseDraws g.pieces }) b

/-- A core has a sector's bytes: ciphertext, digest, and its lines on their way (R162, R166). -/
def cryptSector (s : GseSec) (c : GseCmd) (data : Bytes) (b : Block) : Block :=
  let w := s.berth
  let i := s.sector
  match (ckptKid b w).bind (fun k => (heldKey b w k).bind fun a => (heldKey b w (k + 1)).map fun t => (a, t)), secDest b c i with
  | some (ka, kt), some (o, off) =>
    let sealing := c.d.op = .sealRun
    let out := if sealing then xtsEnc (keyBytes ka) (keyBytes kt) (leBytes 16 i) data
      else xtsDec (keyBytes ka) (keyBytes kt) (leBytes 16 i) data
    let dig := sectorDigest (sessAt b w).h i (if sealing then out else data)
    let b := drawPiece (count 11 (some w) 1 b)
    let b := modSec s.id (fun s => { s with out := true, left := 64, lines := [] }) b
    let b := modGse (fun g => { g with run := g.run.map fun x =>
      if x.d.berth = c.d.berth then { x with data := if x.data.isEmpty then dig else xorBytes x.data dig } else x }) b
    fillCores 64 (objWrite w o off out (.gseOut w s.id) b)
  | none, _ => gseFail w cDenied (cipherRefused w b)
  | _, none => gseFail w cDenied b

/-- A line that a core reads has arrived. -/
def secLine (id line : Nat) (d : Bytes) (b : Block) : Block := modSec id (fun s => { s with lines := tset [] s.lines line d }) b

/-- The 64 lines of a sector. -/
def secBytes (s : GseSec) : Bytes := (List.range 64).flatMap fun l => slice (tget [] s.lines l) 0 64

/-- A read of a sector ended without a line. -/
def secFails (w id : Nat) (code : Byte) (b : Block) : Block :=
  if code = cOk ∨ !b.gse.secs.any (fun s => s.id = id) then b else gseFail w code b

/-- A reply of the HIF carries a generation: one of its reset's past is dropped and counted (R58). -/
def hifStale (gen : BitVec 12) (b : Block) : Bool := gen ≠ b.recv.hifGen
def staleHif (b : Block) : Block := recordErr 0x1B cStale none b

/-- A core finishes a sector of a berth's command, once it has the sector's lines; `data` or `err` is what a HIF checkpoint window
answers. -/
def sectorDone (w i : Nat) (gen : BitVec 12) (data : Bytes) (err : Option Byte) (b : Block) : Block :=
  match b.gse.secs.find? fun s => s.berth = w && s.sector = i && !s.out, runOf b w with
  | some s, some c =>
    if (secSource b c i).any fun p => isWindow b p.1 then
      if hifStale gen b then staleHif b
      else match err with
      | some e => gseFail w e b
      | none => cryptSector s c (slice data 0 4096) b
    else if (List.range 64).all fun l => s.lines.any fun e => e.1 = l then cryptSector s c (secBytes s) b
    else b
  | _, _ => b

/-- Lines of a sector have been written: the last of the command completes it (R179). -/
def secWritten (w id : Nat) (code : Byte) (b : Block) : Block :=
  match b.gse.secs.find? fun s => s.id = id && s.out, runOf b w with
  | some s, some c =>
    if code ≠ cOk then gseFail w code b
    else if s.left ≥ 2 then modSec id (fun s => { s with left := s.left - 1 }) b
    else
      let c' := { c with got := c.got ++ [s.sector] }
      let b := modGse (fun g => { g with
        secs := g.secs.filter (fun x => x.id ≠ id), run := g.run.map fun x => if x.d.berth = c.d.berth then c' else x }) b
      if c'.got.length = c.d.count ∧ gseServes b c' then endSectors c' cOk b else b
  | _, _ => b

/-! ### Sealing (R135, R168, R169, R172, R177, R328, R368) -/

/-- The firmware may issue a berth's seal commands: the Slipway seals this berth, or none is under way and the berth's started
commands have retired and its program has ended, or SEAL_MS has passed. -/
def sealReady (b : Block) (w : Nat) : Bool :=
  let x := berthAt b w
  let p := (sueAt b w).st
  x.st = .sealSt &&
  (if b.slip.st = .idle then
     x.sealOver || ((p = .none || p = .stopped || p = .failed) &&
       !(ctxsOf b w).any fun c => (ctxAt b c).cmds.any fun m => m.started)
   else b.slip.st = .sealSt && b.slip.queue.head? = some w)

/-- A submission on the firmware's own port. -/
def fwSubmit (d : GseDesc) (b : Block) : GseCmd := { d := d, fw := true, rawOp := gseOpCode d.op, since := now b }

/-- The firmware has read its earlier completions of the berth. -/
def fwRead (w : Nat) (b : Block) : Block := modGse (fun g => { g with fwCpl := g.fwCpl.filter fun e => e.berth ≠ w }) b

def queueKeyOp (c : GseCmd) (b : Block) : Block := later .stageFree (modGse (fun g => { g with keyOps := g.keyOps ++ [c] }) b)

/-- The seal commands of a berth have run: BERTH_CKPT shows the status of its SEAL_CLOSE, and the checkpoint step is complete. -/
def sealRan (w : Nat) (c : Byte) (b : Block) : Block :=
  if (berthAt b w).st = .sealSt then later (.ckptDone w) (modBerth w (fun x => { x with ckptRes := c }) b) else b

/-- A GSE that R159 has stopped takes no seal command: it completes UNCORRECTABLE and the berth's checkpoint step is over (log entry
56). -/
def sealStopped (w : Nat) (b : Block) : Block := if b.gse.drbgFail && sealReady b w then sealRan w cUncorr b else b

/-- SEAL_OPEN. A berth without a wrapping key writes nothing, and its checkpoint step counts as complete. -/
def sealOpen (d : GseDesc) (b : Block) : Block :=
  let w := d.berth.val
  let c := fwSubmit d b
  if d.op ≠ .sealOpen ∨ gseBusy b w then b
  else if !gseMayStart b then sealStopped w b
  else
    let b := fwRead w b
    if (berthAt b w).st ≠ .sealSt then gseComplete c cDenied b
    else if !sealReady b w then b
    else if (wrapKey b w).isNone then later (.ckptDone w) (modBerth w (fun x => { x with noKey := true }) b)
    else
      let s := (sessAt b w).st
      let code := firstFail [denyIf (!(s = .none || s = .failed) || (ckptKid b w).isNone || !d.clean),
        (rawTarget b w d.record d.recOff 192).1, maskedCode b d]
      if code ≠ cOk then gseComplete c code b else queueKeyOp c b

/-- SEAL over the next sectors of the map; past SEAL_MS the firmware submits none. -/
def sealSectors (d : GseDesc) (b : Block) : Block :=
  let w := d.berth.val
  if d.op ≠ .sealRun ∨ !gseMayStart b ∨ gseBusy b w ∨ ((berthAt b w).st = .sealSt ∧ (!sealReady b w ∨ (berthAt b w).sealOver)) then b
  else startSectors (fwSubmit d b) .sealSt (d.clean && (berthAt b w).st = .sealSt) (fwRead w b)

/-- SEAL_CLOSE. Whatever its status, no seal command of the berth follows it. -/
def sealClose (d : GseDesc) (b : Block) : Block :=
  let w := d.berth.val
  let c := fwSubmit d b
  if d.op ≠ .sealClose ∨ gseBusy b w ∨ ((berthAt b w).st = .sealSt ∧ !sealReady b w) then b
  else if !gseMayStart b then sealStopped w b
  else
    let b := fwRead w b
    let code := firstFail [denyIf ((sessAt b w).st ≠ .sealSt || !d.clean), (rawTarget b w d.record d.recOff 192).1, maskedCode b d]
    if code ≠ cOk then sealRan w code (gseComplete c code b) else queueKeyOp c b

/-- A generated key enters its entry (R121, R135): LIVE, source GENERATE. -/
def generateKey (kid w : Nat) (key : BitVec 256) (b : Block) : Block :=
  makeLive kid key (modKey kid (fun e =>
    { e with source := 3, purpose := 8, owner := 0, berth := some w, parent := .root, ctx := [] }) b)

/-- The key section opens a seal session: a fresh pair, wrapped; K_m and H. -/
def doSealOpen (c : GseCmd) (b : Block) : Block :=
  let w := c.d.berth.val
  match wrapKey b w, ckptKid b w with
  | some (wk, device), some k =>
    match cipherKey b w wk with
    | none => gseComplete c cDenied (cipherRefused w b)
    | some wkey =>
      let old := (sessAt b w).st = .failed
      let (r, b) := draw b
      let b := modGse (fun g => { g with drbgUses := g.drbgUses + 1 }) b
      let pair := leBytes 64 r.toNat
      let k1 := bytesKey (pair.take 32)
      let k2 := bytesKey (pair.drop 32)
      let b := generateKey (k + 1) w k2 (generateKey k w k1 b)
      let setId := if device then 0 else ((tideOf b w).map Tide.setId).getD 0
      let failed := (sueAt b w).st = .failed
      let n := if old then 0 else mapCount b w
      gseComplete c cOk (openSess w .sealSt device c.d.masked (old || failed) n k2 (kwWrap (keyBytes wkey) pair ++ leBytes 8 setId) b)
  | _, _ => gseComplete c cDenied b

/-- Bytes 0x00 to 0x4F of a berth's record. -/
def recordHead (b : Block) (w : Nat) (inc : Bool) : Bytes :=
  let s := sessAt b w
  let x := berthAt b w
  [0x43, 0x4B, 0x52, 0x32] ++ leBytes 2 2 ++ leBytes 2 (b2n s.device + 2 * b2n inc + 4 * b2n s.masked) ++
    leBytes 8 x.job.toNat ++ leBytes 8 (sueAt b w).applied ++ leBytes 8 s.total ++ slice x.meas 0 48

/-- The MAC of a record's first 80 bytes under a session. -/
def recordMac (s : Sess) (head : Bytes) : Bytes := slice (cmac (keyBytes s.km) (head ++ slice s.d 0 16)) 0 16

/-- The key section closes a seal session: the record is on its way. -/
def doSealClose (c : GseCmd) (b : Block) : Block :=
  let w := c.d.berth.val
  let s := sessAt b w
  let inc := s.incomplete || s.next < s.total
  let head := recordHead b w inc
  let rec_ := head ++ recordMac s head ++ slice (s.record.drop 72) 0 8 ++ slice s.record 0 72 ++ List.replicate 16 0
  let b := modSess w (fun x => { x with incomplete := inc }) b
  let b := modGse (fun g => { g with keyOps := g.keyOps.map fun x => if x = c then { x with left := 3 } else x }) b
  objWrite w (fld c.d.record 15 0) c.d.recOff rec_ (.gseRec w 0) b

/-- The record of a SEAL_CLOSE has been written, or its write failed: the checkpoint step is complete. -/
def sealCloseEnds (c : GseCmd) (code : Byte) (b : Block) : Block :=
  let w := c.d.berth.val
  let inc := (sessAt b w).incomplete || code ≠ cOk
  let b := modBerth w (fun x => { x with ckptInc := inc }) b
  let b := endSess w .closed (modSess w (fun x => { x with incomplete := inc }) b)
  sealRan w code (gseComplete c code b)

/-! ### Restoring (R171, R173, R174) -/

/-- The checks of R173 that precede the unwrap; MASKED of the command and of the record ask for the masked datapath (R160). -/
def recordCheck (b : Block) (w : Nat) (masked : Bool) (rec_ : Bytes) : Byte :=
  let flags := fieldLE rec_ 6 2
  let setOk := match tideOf b w with
    | some t => (t.labels.find? fun l => l.purpose = 6 && ctxSet l.ctx = t.setId).any fun l => ctxSet l.ctx = fieldLE rec_ 0x60 8
    | none => false
  let kids := match ckptKid b w with
    | some k => (keyAt b k).st = .free && (keyAt b (k + 1)).st = .free
    | none => false
  if slice rec_ 0 4 ≠ [0x43, 0x4B, 0x52, 0x32] ∨ fieldLE rec_ 4 2 ≠ 2 then cDenied
  else if bit flags 1 then cPoison
  else if fieldLE rec_ 0x18 8 ≠ mapCount b w then cDenied
  else if !bit flags 0 ∧ !setOk then cDenied
  else if (masked || bit flags 2) ∧ !b.build.gseMasked then cAbsent
  else if !kids then cBusy
  else cOk

/-- A key operation reads its record, three lines of it. -/
def readRecord (c : GseCmd) (b : Block) : Block :=
  let w := c.d.berth.val
  objRead w (fld c.d.record 15 0) c.d.recOff 3 (.gseRec w) (queueKeyOp { c with reading := true, since := now b } b)

/-- Ends a key operation that the key section holds. -/
def keyOpEnds (c : GseCmd) (code : Byte) (b : Block) : Block :=
  let b := modGse (fun g => { g with keyOps := g.keyOps.erase c }) b
  later .stageFree (gsePump (gseComplete c code b))

/-- UNSEAL_OPEN: the oldest of the OPERATOR queue starts; its record is read. -/
def unsealStart : Block → Block :=
  gseTake .unsealOpen fun c b =>
    let w := c.d.berth.val
    let code := firstFail [
      denyIf ((sessAt b w).st ≠ .none || (berthAt b w).st ≠ .joined || !(tideOf b w).any Tide.restore || (ckptKid b w).isNone),
      (rawTarget b w c.d.record c.d.recOff 192).1]
    if code ≠ cOk then gseComplete c code b else readRecord c b

/-- The record of an UNSEAL_OPEN has been read. -/
def unsealRecord (c : GseCmd) (rec_ : Bytes) (b : Block) : Block :=
  let code := recordCheck b c.d.berth c.d.masked rec_
  if code ≠ cOk then keyOpEnds c code b
  else
    let c' := { c with data := rec_, reading := false, since := now b }
    later .stageFree (modGse (fun g => { g with keyOps := g.keyOps.map fun x => if x = c then c' else x }) b)

def unsealSectors : Block → Block :=
  gseTake .unsealRun fun c b => startSectors c .unsealSt true b

def unsealClose : Block → Block :=
  gseTake .unsealClose fun c b =>
    let w := c.d.berth.val
    let s := sessAt b w
    let code := firstFail [denyIf (s.st ≠ .unsealSt || s.next < s.total), (rawTarget b w c.d.record c.d.recOff 192).1, maskedCode b c.d]
    if code ≠ cOk then gseComplete c code b else queueKeyOp c b

/-! ### The restore unwrap (R174) -/

/-- Key cores 8 and 9 serve operations in arrival order, once their record has been read. -/
def keyCores (b : Block) : List GseCmd := (b.gse.keyOps.filter fun c => !c.reading).take 2

/-- The restore whose unwrap may take the stage. -/
def restoreNext (b : Block) : Option GseCmd := (keyCores b).find? fun c => c.d.op = .unsealOpen && gseServes b c

/-- The firmware claims KEY_STAGE for a restore unwrap when it is IDLE, with FORM 1, and the pair goes straight into the stage. A
KID that R110 refuses ends the command. -/
def claimRestore (b : Block) : Block :=
  match restoreNext b with
  | none => b
  | some c =>
    if b.kstg.st ≠ 0 then b
    else
      let w := c.d.berth.val
      match unwrapKid b w (bit (fieldLE c.data 6 2) 0), ckptKid b w with
      | some u, some k =>
        if (cipherKey b w u).isNone then keyOpEnds c cDenied (cipherRefused w b)
        else
          let b := setReg 0x3050 (BitVec.ofNat 32 u) (setReg 0x3048 (BitVec.ofNat 32 (k + 4096 * 8 + 2 ^ 22 * w + 2 ^ 27)) b)
          modKstg (fun k => { clearStage k with
            st := 1, holder := 31, last := cBusy, tick := now b, run := some .unwrap, rest := some w, pair := slice c.data 0x68 72 }) b
      | _, _ => keyOpEnds c cDenied b

/-- The restore unwrap of a berth ends with a failure: the stage is IDLE again and the command completes. -/
def restoreEnds (w : Nat) (code : Byte) (b : Block) : Block :=
  let b := if b.kstg.rest = some w then stageIdle b else b
  match b.gse.keyOps.find? fun c => c.d.berth.val = w && c.d.op = .unsealOpen with
  | some c => keyOpEnds c code b
  | none => b

/-- The checked pair is in the stage: one COMMIT makes both KIDs LIVE (R130), and the restore session opens. -/
def doUnsealOpen (c : GseCmd) (b : Block) : Block :=
  let w := c.d.berth.val
  let flags := fieldLE c.data 6 2
  match ckptKid b w with
  | none => restoreEnds w cDenied b
  | some k =>
    let code := restoreCheck b w k
    if code ≠ cOk then restoreEnds w code (raise 0x03 1 (setLast code b))
    else
      let k1 := bytesKey (b.kstg.pair.take 32)
      let k2 := bytesKey (b.kstg.pair.drop 32)
      let b := stageIdle (setLast cOk (raise 0x03 1 b))
      let b := importKey (k + 1) 8 0 (some w) k2 (importKey k 8 0 (some w) k1 b)
      keyOpEnds c cOk (drawPiece (openSess w .unsealSt (bit flags 0) (bit flags 2) false (mapCount b w) k2 c.data b))

/-- Every ACTIVE context of a berth is lost (R170, R305). -/
def loseAll (w : Nat) (code : Byte) (unit : Nat) (b : Block) : Block :=
  ((ctxsOf b w).filter fun c => (ctxAt b c).st = .active).foldl (fun b c => loseCtx c code unit 0 0 b) b

def doUnsealClose (c : GseCmd) (b : Block) : Block :=
  let w := c.d.berth.val
  let s := sessAt b w
  if recordMac s (slice s.record 0 80) = slice s.record 0x50 16 then
    let b := gseComplete c cOk (endSess w .restored b)
    (tfind b.sync.bars fun _ e => e.berth = w && e.st ≠ .free).foldl (fun b e => later (.barrierEval e) b) b
  else loseAll w cTagFail 0x05 (gseComplete c cTagFail (endSess w .failed b))

/-- RESTORE_STAGE_TIMEOUT: a restore unwrap has waited 100 ms for the stage (R174). -/
def restoreTimeout (b : Block) : Block :=
  match b.gse.keyOps.find? fun c => c.d.op = .unsealOpen && !c.reading && c.since + msTicks b 100 ≤ now b with
  | some c => if b.kstg.st = 0 ∨ b.kstg.rest = some c.d.berth.val ∨ !gseServes b c then b else keyOpEnds c cBusy b
  | none => b

/-- A berth's session commands leave the GSE, each completing with a code; a restore gives the stage back. -/
def dropSession (w : Nat) (code : Byte) (queued : Bool) (b : Block) : Block :=
  let mine (c : GseCmd) : Bool := c.d.berth.val = w && c.d.op ≠ .rewrap
  let cs := (b.gse.run ++ b.gse.keyOps ++ (if queued then b.gse.opq else [])).filter mine
  let b := modGse (fun g => { g with
    run := g.run.filter fun c => !mine c, keyOps := g.keyOps.filter fun c => !mine c, secs := g.secs.filter fun s => s.berth ≠ w
    opq := if queued then g.opq.filter fun c => !mine c else g.opq }) b
  let b := if b.kstg.rest = some w then stageIdle b else later .stageFree b
  fillCores 64 (cs.foldl (fun b c => gseComplete c code b) b)

/-- The berth leaves JOINED while it restores: its queued commands complete LIFECYCLE (R170). -/
def sessLeaves (w : Nat) (b : Block) : Block :=
  if (sessAt b w).st ≠ .unsealSt ∧ !b.gse.keyOps.any (fun c => c.d.berth.val = w && c.d.op = .unsealOpen) then b
  else dropSession w cLifecycle true (if (sessAt b w).st = .unsealSt then endSess w .failed b else b)

/-! ### Re-wrap (R175) -/

/-- The firmware's oldest request for a REWRAP starts: its record is read. KIDs that R110 refuses are recorded in the KEY page. -/
def rewrapStart (d : GseDesc) (b : Block) : Block :=
  let same (c : GseCmd) : Bool := c.d.berth = d.berth && c.d.record = d.record && c.d.recOff = d.recOff && c.d.kidA = d.kidA && c.d.kidB = d.kidB
  if d.op ≠ .rewrap ∨ !gseMayStart b ∨ b.slip.st ≠ .idle then b
  else match b.gse.fwq.find? same with
  | none => b
  | some c =>
    let w := c.d.berth.val
    let b := fwRead w (modGse (fun g => { g with fwq := g.fwq.erase c }) b)
    let cipher := (cipherKey b w c.d.kidA).isSome && (cipherKey b w c.d.kidB).isSome
    let code := firstFail [
      denyIf (c.d.recOff % 64 ≠ 0 || (keyAt b c.d.kidA).purpose ≠ 6 || (keyAt b c.d.kidB).purpose ≠ 6 || !cipher),
      (rawTarget b w c.d.record c.d.recOff 192).1]
    let b := if cipher then b else cipherRefused w b
    if code ≠ cOk then gseComplete c code b else readRecord c b

/-- The record of a REWRAP has been read. -/
def rewrapRecord (c : GseCmd) (rec_ : Bytes) (b : Block) : Block :=
  if bit (fieldLE rec_ 6 2) 0 ∨ fieldLE rec_ 0x60 8 ≠ ctxSet (keyAt b c.d.kidA).ctx then keyOpEnds c cDenied b
  else modGse (fun g => { g with keyOps := g.keyOps.map fun x => if x = c then { x with data := rec_, reading := false } else x }) b

/-- The pair is unwrapped and wrapped anew; bytes 0x60 to 0xAF go back with the lines that hold them. -/
def doRewrap (c : GseCmd) (b : Block) : Block :=
  let w := c.d.berth.val
  match heldKey b w c.d.kidA, heldKey b w c.d.kidB with
  | some ka, some kb =>
    match kwUnwrap (keyBytes ka) (slice c.data 0x68 72) with
    | none => keyOpEnds c cTagFail b
    | some pair =>
      let new := leBytes 8 (ctxSet (keyAt b c.d.kidB).ctx) ++ kwWrap (keyBytes kb) pair
      let whole := c.data.take 0x60 ++ new ++ c.data.drop 0xB0
      let b := modGse (fun g => { g with keyOps := g.keyOps.map fun x => if x = c then { x with left := 2 } else x }) b
      objWrite w (fld c.d.record 15 0) (c.d.recOff + 0x40) (slice (whole.drop 0x40) 0 128) (.gseRec w 0) b
  | _, _ => keyOpEnds c cDenied (cipherRefused w b)

/-! ### Records (R168, R173, R175) -/

/-- The key operation of a berth that reads its record. -/
def recReader (b : Block) (w : Nat) : Option GseCmd := b.gse.keyOps.find? fun c => c.d.berth.val = w && c.reading

/-- A record has been read. -/
def recordRead (c : GseCmd) (rec_ : Bytes) (b : Block) : Block :=
  if c.d.op = .rewrap then rewrapRecord c rec_ b else unsealRecord c rec_ b

/-- A line of a record has arrived. -/
def recLine (w line : Nat) (d : Bytes) (b : Block) : Block :=
  match recReader b w with
  | none => b
  | some c =>
    let ls := tset [] c.lines line d
    if [0, 1, 2].all fun l => ls.any fun e => e.1 = l then
      recordRead c ([0, 1, 2].flatMap fun l => slice (tget [] ls l) 0 64) b
    else modGse (fun g => { g with keyOps := g.keyOps.map fun x => if x = c then { x with lines := ls } else x }) b

/-- A HIF checkpoint window answers the read of a berth's record, for an UNSEAL_OPEN or a REWRAP. -/
def windowRecord (w : Nat) (gen : BitVec 12) (rec_ : Bytes) (b : Block) : Block :=
  match recReader b w with
  | none => b
  | some c =>
    if !isWindow b (fld c.d.record 15 0) then b else if hifStale gen b then staleHif b else recordRead c (slice rec_ 0 192) b

/-- A write of a record was acknowledged, or a transfer of it failed. -/
def recDone (w : Nat) (code : Byte) (b : Block) : Block :=
  match b.gse.keyOps.find? fun c => c.d.berth.val = w && (if code = cOk then c.left > 0 else c.reading || c.left > 0) with
  | none => b
  | some c =>
    if code = cOk ∧ c.left ≥ 2 then
      modGse (fun g => { g with keyOps := g.keyOps.map fun x => if x = c then { x with left := x.left - 1 } else x }) b
    else if c.d.op = .sealClose then
      later .stageFree (sealCloseEnds c code (modGse (fun g => { g with keyOps := g.keyOps.erase c }) b))
    else keyOpEnds c code b

/-- UNSEAL_OPEN: the next of the queue starts, or the window's answer to the one that reads its record. -/
def unsealOpen (gen : BitVec 12) (rec_ : Bytes) (b : Block) : Block :=
  match b.gse.keyOps.find? fun c => c.reading && c.d.op = .unsealOpen && isWindow b (fld c.d.record 15 0) with
  | some c => windowRecord c.d.berth gen rec_ b
  | none => unsealStart b

/-- REWRAP: the firmware's request starts, or the window answers the one that reads its record. -/
def rewrap (d : GseDesc) (gen : BitVec 12) (rec_ : Bytes) (b : Block) : Block :=
  match recReader b d.berth with
  | some c => if c.d.op = .rewrap then windowRecord d.berth gen rec_ b else b
  | none => rewrapStart d b

/-! ### The key section, the DRBG, scrub and registers -/

/-- An operation of berth w that key cores 8 and 9 hold ends; a SEAL_CLOSE or REWRAP then waits for its record to be written, and a
restore unwrap for the stage's verdict. -/
def keyOpDone (w : Nat) (b : Block) : Block :=
  match (keyCores b).find? fun c => c.d.berth.val = w && c.left = 0 && gseServes b c with
  | none => b
  | some c =>
    match c.d.op with
    | .sealOpen => later .stageFree (doSealOpen c (drawPiece (modGse (fun g => { g with keyOps := g.keyOps.erase c }) b)))
    | .sealClose => doSealClose c (drawPiece b)
    | .unsealOpen => if b.kstg.rest = some w ∧ b.kstg.st = 3 then doUnsealOpen c b else b
    | .unsealClose => later .stageFree (gsePump (doUnsealClose c (drawPiece (modGse (fun g => { g with keyOps := g.keyOps.erase c }) b))))
    | .rewrap => doRewrap c (drawPiece b)
    | _ => b

/-- A reseed of the DRBG, due after 2^20 generate requests (R159): the sixteenth failure in a row stops the GSE, and what is queued
completes UNCORRECTABLE, the operations that wait for a key core too. -/
def drbgReseed (healthy : Bool) (b : Block) : Block :=
  if b.gse.drbgFail ∨ b.gse.drbgUses < 2 ^ 20 then b
  else if healthy then modGse (fun g => { g with reseeds := inc32 g.reseeds, drbgUses := 0, drbgTries := 0 }) b
  else if b.gse.drbgTries + 1 < 16 then modGse (fun g => { g with drbgTries := g.drbgTries + 1 }) b
  else
    let busy := keyCores b
    let cs := b.gse.fwq ++ b.gse.keyOps.filter fun c => !busy.contains c
    let b := recordErr 0x04 cUncorr none (modGse (fun g => { g with
      drbgTries := 16, drbgFail := true, fwq := [], keyOps := g.keyOps.filter fun c => busy.contains c }) b)
    gsePump (cs.foldl (fun b c => gseComplete c cUncorr b) b)

/-- The berth's scrub is complete (R170). -/
def scrubSess (w : Nat) (b : Block) : Block := modSess w (fun _ => {}) b

def sessCode : SessState → Nat
  | .none => 0 | .sealSt => 1 | .unsealSt => 2 | .closed => 3 | .restored => 4 | .failed => 5

/-- ENABLE 0 is refused while a session is open (R180). -/
def gseHeld (b : Block) : Bool := b.gse.sess.any fun e => e.2.st = .sealSt || e.2.st = .unsealSt

/-- The page's registers. KEY_BUSY counts the busy key cores, an UNSEAL_OPEN that waits for the stage among them (DESIGN CHOICE, log
entry 143). -/
def gseRead (b : Block) (o : Nat) : Word :=
  let w32 (n : Nat) : Word := BitVec.ofNat 32 n
  let g := b.gse
  if o = 0x040 then
    w32 (sectorsHeld b + 256 * (keyCores b).length + 4096 * g.opq.length + 65536 * g.cplq.length + 2 ^ 20 * b2n g.drbgFail)
  else if o = 0x044 then w32 g.reseeds
  else if o = 0x0C4 then w32 g.submitRes.toNat
  else if o = 0x0CC then g.lastTag
  else if 0x100 ≤ o ∧ o < 0x180 then
    let s := sessAt b ((o - 0x100) / 4)
    w32 (sessCode s.st + 8 * b2n s.incomplete + 16 * b2n s.device)
  else if 0x180 ≤ o ∧ o < 0x200 then w32 (sessAt b ((o - 0x180) / 4)).next
  else 0

end Sys2Proof.Machine
end

