-- ==== Sys2Proof/Machine/Crossings.lean ====
section
/-!
DEFINITION. Crossings (R197 to R206, R210 to R217): frames and their protection, what a crossing sends, acknowledgements and
retransmission, opening, failure and key phases.
-/

namespace Sys2Proof.Machine

/-! ### Registers of a Landing and of a crossing (R220, R221) -/

def lndReg (n o : Nat) : Nat := (0x40 + n) * 0x1000 + o
def lndGen (b : Block) (n : Nat) : BitVec 12 := (pageAt b (0x40 + n)).gen
def xPeerCid (b : Block) (n x : Nat) : Nat := fld (reg b (lndReg n (0x180 + 4 * x))) 18 0
def xKid (b : Block) (n x : Nat) (p : Bool) : Nat :=
  let w := reg b (lndReg n (0x200 + 4 * x))
  if p then fld w 26 16 else fld w 10 0
def xSwitch (b : Block) (n x : Nat) : Word := reg b (lndReg n (0x280 + 4 * x))

def bdevValid (b : Block) (w : Nat) : Bool := (reg b (0x8080 + 4 * w)).getLsbD 31
/-- The transmitter's own CID (R193, R197). -/
def ownCid (b : Block) (n w : Nat) : Nat := fld (reg b (0x8080 + 4 * w)) 12 0 + n * 2 ^ 13
/-- GPHASE of a berth for new GRAD frames (R216). -/
def gphTx (b : Block) (w : Nat) : Bool := (reg b 0x8050).getLsbD w
/-- The gradient KID of an owner and phase (R198); none when the map names none. -/
def gkmKid (b : Block) (w owner : Nat) (p : Bool) : Option Nat :=
  let e := reg b (gkmKey w owner p)
  if e.getLsbD 15 then some (fld e 10 0) else none

/-! ### Frames (R193 to R199) -/

/-- A frame header's fields. -/
structure FrameHdr where
  type   : Nat
  ver    : Nat := 2
  x      : Nat := 0
  kph    : Bool := false
  gph    : Bool := false
  lenw   : Nat := 1
  owner  : Nat := 0
  cid    : Nat := 0
  v      : Nat := 0
  gen    : Nat := 0
  echo   : Nat := 0
  handle : Nat := 0
  line   : Nat := 0
deriving DecidableEq, Repr

/-- The 32 bytes of a header word (R193). -/
def hdrBytes (h : FrameHdr) : Bytes :=
  leBytes 1 (h.type + 16 * h.ver) ++ leBytes 1 (h.x + 32 * b2n h.kph + 64 * b2n h.gph) ++ leBytes 1 h.lenw ++
    leBytes 1 h.owner ++ leBytes 4 h.cid ++ leBytes 8 h.v ++ leBytes 2 h.gen ++ leBytes 2 h.echo ++ leBytes 4 h.handle ++
    leBytes 4 h.line ++ leBytes 4 0

/-- The header a raw frame carries. -/
def hdrOf (r : Bytes) : FrameHdr where
  type := fieldLE r 0 1 % 16
  ver := fieldLE r 0 1 / 16
  x := fieldLE r 1 1 % 32
  kph := bit (fieldLE r 1 1) 5
  gph := bit (fieldLE r 1 1) 6
  lenw := fieldLE r 2 1
  owner := fieldLE r 3 1 % 64
  cid := fieldLE r 4 4
  v := fieldLE r 8 8
  gen := fieldLE r 0x10 2 % 4096
  echo := fieldLE r 0x12 2 % 4096
  handle := fieldLE r 0x14 4
  line := fieldLE r 0x18 4 % 2 ^ 24

def frameAad (r : Bytes) : Bytes := slice r 0 32
def framePayload (r : Bytes) : Bytes := (r.drop 32).take (r.length - 64)
def frameTail (r : Bytes) : Bytes := slice r (r.length - 32) 32

/-- The 12-byte IV of a frame (R199). -/
def frameIv (h : FrameHdr) : Bytes :=
  leBytes 3 (h.cid % 2 ^ 19 + h.x * 2 ^ 19) ++ [if h.type = 9 then 1 else 0] ++ leBytes 8 h.v

/-- A whole frame with its tag word (R195). -/
def frameBytes (h : FrameHdr) (ct tag : Bytes) (replay : Bool) : Bytes :=
  let body := hdrBytes h ++ ct ++ slice tag 0 16 ++ leBytes 1 (b2n replay) ++ List.replicate 11 0
  body ++ leBytes 4 (crc32c body).toNat

/-- A frame protected under a key (R198). -/
def sealFrame (key : BitVec 256) (h : FrameHdr) (plain : Bytes) (replay : Bool) : Bytes :=
  let k := keyBytes key
  let ct := gcmCtr k (frameIv h) plain
  frameBytes h ct (gcmTag k (frameIv h) (hdrBytes h) ct) replay

/-- The plaintext of a raw frame whose tag verifies under a key. -/
def openFrame (key : BitVec 256) (r : Bytes) : Option Bytes :=
  let k := keyBytes key
  let h := hdrOf r
  let ct := framePayload r
  if gcmTag k (frameIv h) (frameAad r) ct = slice (frameTail r) 0 16 then some (gcmCtr k (frameIv h) ct) else none

def crcGood (r : Bytes) : Bool := (crc32c (r.take (r.length - 4))).toNat = fieldLE r (r.length - 4) 4

/-! ### Control words (R196) -/

/-- A control word from its CTYPE and body. -/
def ctlWord (b : Block) (n : Nat) (c : Bytes) : Bytes :=
  let w := slice c 0 1 ++ leBytes 3 ((lndGen b n).toNat + 4096 * (lndAt b n).peerGen.toNat) ++ slice (c.drop 1) 0 24
  w ++ leBytes 4 (crc32c w).toNat

/-- Queues a control word. -/
def queueCtl (n : Nat) (ctype : Nat) (body : Bytes) (b : Block) : Block :=
  modLnd n (fun l => { l with ctl := l.ctl ++ [leBytes 1 ctype ++ slice body 0 24] }) b

/-- The entry of an ACK or NAK that names crossing X and a SEQ. -/
def ackEntry (x seq : Nat) : Bytes := leBytes 1 (x + 128) ++ leBytes 7 seq

/-- Puts an entry into a queued ACK word: in place of the older entry of the same crossing, or beside fewer than three others. -/
def addAck (x seq : Nat) : List Bytes → Option (List Bytes)
  | [] => none
  | c :: cs =>
    let es := (chunks 8 (c.drop 1)).filter fun e => e.getD 0 0 ≠ 0
    let mine (e : Bytes) : Bool := (e.getD 0 0).toNat % 32 = x
    if c.getD 0 0 ≠ 1 then (addAck x seq cs).map (c :: ·)
    else if es.any mine then
      some ((leBytes 1 1 ++ slice (es.map fun e => if mine e then ackEntry x seq else e).flatten 0 24) :: cs)
    else match addAck x seq cs with
    | some cs => some (c :: cs)
    | none => if es.length < 3 then some ((leBytes 1 1 ++ slice (es ++ [ackEntry x seq]).flatten 0 24) :: cs) else none

/-- A cumulative ACK of everything before the expected SEQ of a crossing (R203). -/
def sendAck (n x : Nat) (b : Block) : Block :=
  let seq := 2 ^ 64 + (xingAt b n x).expSeq - 1
  match addAck x seq (lndAt b n).ctl with
  | some cs => modLnd n (fun l => { l with ctl := cs }) b
  | none => queueCtl n 1 (ackEntry x seq) b

/-- A NAK of a crossing with its reason: 1 TAG, 2 GAP, 3 NO_ROOM, 4 HEADER, 5 LINE. -/
def sendNak (n x reason : Nat) (b : Block) : Block :=
  queueCtl n 2 (ackEntry x (xingAt b n x).expSeq ++ leBytes 1 reason) b

/-! ### Watches and key use -/

/-- The XING watch (R421): a crossing that is not OPEN while it holds operations or unacknowledged frames; `waitTick` is 0 or
the tick at which that wait began, plus 1. -/
def watchXing (n x : Nat) (b : Block) : Block :=
  let i := xingAt b n x
  let need := (i.st = .closed || i.st = .proving) && !(i.unacked.isEmpty && i.sendq.isEmpty)
  let w := if need then (if i.waitTick = 0 then now b + 1 else i.waitTick) else 0
  if w = i.waitTick then b else modXing n x (fun i => { i with waitTick := w }) b

/-- The KEY_USE count of a key: 0 and 1 the crossing KID of a phase, 2 and 3 a GPHASE (R217). -/
def useIndex (type : Nat) (kph gph : Bool) : Nat := if type = 2 then 2 + b2n gph else b2n kph

def mayUseTx (b : Block) (n x k : Nat) : Bool := tget 0 (xingAt b n x).useTx k + 1 < 2 ^ 40

/-- A frame sent counts as a use; a count that reaches 2^39 sets USE_WARN. -/
def countTx (n x k : Nat) (b : Block) : Block :=
  let b := modXing n x (fun i => { i with useTx := tmod 0 i.useTx k (· + 1) }) b
  let b := count 2 (some (xingBerth b n x)) 1 b
  if tget 0 (xingAt b n x).useTx k = 2 ^ 39 then raise (0x40 + n) 4 b else b

/-! ### Failure (R206) and discarding (R214) -/

/-- The operations a crossing holds. -/
def xingOps (i : Xing) : List OpRef :=
  ((i.unacked.map fun u => u.item.op) ++ i.sendq.map TxItem.op).eraseDups.filter fun o => o ≠ .none

/-- Releases the pins of every frame a crossing holds and drops its waits. -/
def dropFrames (n x : Nat) (b : Block) : Block :=
  let i := xingAt b n x
  let b := i.unacked.foldl (fun b u => unpinLines u.item.lines b) b
  let b := (i.sendq.filter TxItem.pinned).foldl (fun b t => unpinLines t.lines b) b
  let b := modHold (fun h => { h with pinWaits := h.pinWaits.filter fun p => p ≠ (n, x) }) b
  modXing n x (fun i => { i with unacked := [], sendq := [], resend := [], pinItem := none }) b

/-- A crossing fails (R206): the peer is told, its frames are discarded, its operations are lost, its waiting lines are poisoned
and the barriers that use it fail. -/
def failXing (n x : Nat) (c : Byte) (b : Block) : Block :=
  let i := xingAt b n x
  if i.st = .failed then b
  else
    let ops := xingOps i
    let b := if (lndAt b n).st = .down then b else queueCtl n 4 (leBytes 1 x ++ [c]) b
    let b := dropFrames n x b
    let b := modXing n x (fun i => { i with st := .failed, fail := c, waitTick := 0, heldProve := false }) b
    let b := poisonXing n x (raise (0x40 + n) 3 b)
    let b := record { kind := 2, code := c, berth := some (xingBerth b n x), inst := n, unit := 0x09, gen := lndGen b n,
                      d0 := x, d1 := xPeerCid b n x } b
    let b := ops.foldl (fun b o => later (.opLost o c) b) b
    later (.edgeFailed n x c) b

/-- A berth's scrub discards a crossing's state (R214); what it still held completes LIFECYCLE. -/
def discardXing (n x : Nat) (b : Block) : Block :=
  let ops := xingOps (xingAt b n x)
  let b := dropFrames n x b
  let b := { b with xings := tset {} b.xings (32 * n + x) {} }
  ops.foldl (fun b o => later (.opDone o cLifecycle) b) b

/-- The Landing leaves OPEN or LINKED: the crossing is CLOSED, its state kept (R214). -/
def closeXing (n x : Nat) (b : Block) : Block :=
  let i := xingAt b n x
  if i.st ≠ .proving ∧ i.st ≠ .opened then b
  else
    watchXing n x (modXing n x (fun i => { i with
      st := .closed, proved := false, openAck := none, heldProve := false, resend := [], stalled := false }) b)

/-! ### Acknowledgement and retransmission (R203, R204, R215) -/

/-- The switch of KPHASE, once every frame of the old phase is acknowledged. -/
def turnPhase (n x : Nat) (b : Block) : Block :=
  let i := xingAt b n x
  if i.switching ∧ i.unacked.isEmpty then
    modXing n x (fun i => { i with kphTx := !i.kphTx, switching := false, switched := true }) b
  else b

/-- The whole SEQ that an acknowledgement's low 56 bits name; none before the first frame. -/
def ackedSeq (next low : Nat) : Option Nat :=
  let d := (2 ^ 56 + next - low % 2 ^ 56) % 2 ^ 56
  if d ≤ next ∧ 1 ≤ d then some (next - d) else none

/-- An ACK frees the frames it covers and releases their pins. -/
def freeAcked (n x low : Nat) (b : Block) : Block :=
  let i := xingAt b n x
  match ackedSeq i.nextSeq low with
  | none => b
  | some s =>
    let gone := i.unacked.filter fun u => u.seq ≤ s
    if gone.isEmpty then b
    else
      let b := gone.foldl (fun b u => unpinLines u.item.lines b) b
      let b := modXing n x (fun i => { i with
        unacked := i.unacked.filter fun u => s < u.seq
        resend := i.resend.filter fun q => s < q
        progress := (lndAt b n).roundTx }) b
      let b := gone.foldl (fun b u => if u.item.op = .none then b else later (.opDone u.item.op cOk) b) b
      turnPhase n x (watchXing n x b)

/-- Every unacknowledged frame is to be sent again, oldest first; a SEQ sent 16 times fails the crossing. -/
def startResend (n x : Nat) (b : Block) : Block :=
  let i := xingAt b n x
  if i.st ≠ .opened then b
  else if i.unacked.any fun u => u.sends ≥ 16 then failXing n x cUncorr b
  else modXing n x (fun i => { i with resend := i.unacked.map Unacked.seq }) b

/-- 64 rounds with unacknowledged frames and no ACK progress. -/
def resendTimeout (n x : Nat) (b : Block) : Block :=
  let i := xingAt b n x
  if i.st = .opened ∧ !i.unacked.isEmpty ∧ (lndAt b n).roundTx ≥ i.progress + 64 then
    startResend n x (modXing n x (fun i => { i with progress := (lndAt b n).roundTx }) b)
  else b

/-! ### Sending (R192, R203, R204, R215 to R217, R229) -/

/-- New frames may leave a Landing: it is ON, no drain runs, the Slipway has not stopped it (R219, R434, R458). -/
def mayNew (b : Block) (n : Nat) : Bool :=
  (pageAt b (0x40 + n)).unit = .on && !b.dbg.drain && b.slip.st = .idle

/-- A frame that the crossing could send. -/
inductive Pick where
  | again (u : Unacked)
  | fresh (t : TxItem)
  | none

def itemWords (t : TxItem) : Nat := if t.type = 3 then 2 else 2 * t.lines.length

/-- The next frame of an OPEN crossing in a slot: retransmissions before new frames, a frame whose lines are pinned and then a SYNC
frame before other new frames, and in a shared slot no new DATA or GRAD frame. -/
def pick (b : Block) (n x : Nat) (shared : Bool) (space : Nat) : Pick :=
  let i := xingAt b n x
  if i.st ≠ .opened then .none
  else match i.resend with
  | q :: _ =>
    match i.unacked.find? fun u => u.seq = q with
    | some u => if itemWords u.item + 2 ≤ space ∧ i.notBefore ≤ (lndAt b n).roundTx then .again u else .none
    | none => .none
  | [] =>
    if !mayNew b n ∨ i.switching ∨ i.unacked.length ≥ 1024 ∨ b.hold.pinWaits.contains (n, x) then .none
    else
      let t := ((i.sendq.find? TxItem.pinned).orElse fun _ => i.sendq.find? fun t => t.type = 3).orElse fun _ => i.sendq.head?
      match t with
      | some t => if itemWords t + 2 ≤ space ∧ (!shared || t.type = 3) then .fresh t else .none
      | none => .none

/-- The header of a sequenced frame of a crossing. -/
def itemHdr (b : Block) (n x seq : Nat) (t : TxItem) (kph gph : Bool) : FrameHdr where
  type := t.type
  x := x
  kph := kph
  gph := t.type = 2 && gph
  lenw := itemWords t - 1
  owner := t.owner
  cid := ownCid b n (xingBerth b n x)
  v := seq
  gen := (lndGen b n).toNat
  echo := (lndAt b n).peerGen.toNat
  handle := t.handle
  line := t.line % 2 ^ 24

def itemPlain (b : Block) (t : TxItem) : Bytes := if t.type = 3 then slice t.msg 0 64 else t.lines.flatMap (lineBytes b)

/-- The KID of a sequenced frame (R198). -/
def itemKid (b : Block) (n x : Nat) (t : TxItem) (kph gph : Bool) : Option Nat :=
  if t.type = 2 then gkmKid b (xingBerth b n x) t.owner gph else some (xKid b n x kph)

/-- Stream word j of a round as the lane it travels on and its client cycle (R186). -/
def wordPlace (j : Nat) : Nat × Nat := (j % 8, j / 8)

/-- The stream index of the first control word of a slot, and of the word of its frame area before which `space` words stay
(R187). -/
def slotStart (s : Nat) : Nat := 8 + 132 * s
def areaIndex (s space : Nat) : Nat := slotStart s + 2 + (130 - space)

/-- Puts a frame on the wire from stream word j on; the answer is its length in words. -/
def putFrame (n j : Nat) (f : Bytes) (b : Block) : Nat × Block := (f.length / 32, emit (.frame n j f) b)

/-- The plaintext of an item as it comes from the Hold to the cipher, through the checker of that path (R403, R406): the log names
the Hold line. -/
def readItem (n x : Nat) (t : TxItem) (errs : List WordErr) (b : Block) : Bytes × Bool × Block :=
  if t.lines.isEmpty then (itemPlain b t, false, b)
  else
    let w := xingBerth b n x
    pathRead (some w) n n (fun k => t.lines.getD (k / 16) 0) errs (itemPlain b t) (count 3 (some w) t.lines.length b)

/-- An egress read begins to wait on a line, once (R227, R421). -/
def egressWait (l : Nat) (op : OpRef) (b : Block) : Block :=
  if b.hold.waits.any fun r => r.line = l && r.op = op then b else addWait l op b

/-- The operation of an unacknowledged frame is lost with its line. -/
def loseUnacked (n x : Nat) (u : Unacked) (code : Byte) (b : Block) : Block :=
  if u.item.op = .none then b
  else later (.opLost u.item.op code) (modXing n x (fun i => { i with
    unacked := i.unacked.map fun v => if v.seq = u.seq then { v with item := { v.item with op := .none } } else v }) b)

/-- Sends one unacknowledged frame again, from its pinned lines, read as a consumer reads them (R227, R408). -/
def sendAgain (n x j : Nat) (u : Unacked) (errs : List WordErr) (b : Block) : Nat × Block :=
  let k := useIndex u.item.type u.kph u.gph
  if u.sends ≥ 16 then (0, failXing n x cUncorr b)
  else if !mayUseTx b n x k then (0, failXing n x cExhausted b)
  else match (itemKid b n x u.item u.kph u.gph).bind (heldKey b (xingBerth b n x)), readState b u.item.lines with
  | none, _ => (0, b)
  | _, .poison => (0, loseUnacked n x u cPoison b)
  | _, .wait l => (0, egressWait l u.item.op b)
  | some key, .ready =>
    let (hurt, b) := senseLines none u.item.lines b
    let (plain, ue, b) := readItem n x u.item errs b
    if hurt then (0, loseUnacked n x u cUncorr b)
    else if ue then (0, b)
    else
      let f := sealFrame key (itemHdr b n x u.seq u.item u.kph u.gph) plain true
      let b := modXing n x (fun i => { i with
        resend := i.resend.filter fun q => q ≠ u.seq
        unacked := i.unacked.map fun v => if v.seq = u.seq then { v with sends := v.sends + 1 } else v }) b
      putFrame n j f (countTx n x k b)

/-- Drops the frames an operation still has to send, with the pins they hold. -/
def dropItems (n x : Nat) (t : TxItem) (b : Block) : Block :=
  let mine (u : TxItem) : Bool := u = t || (t.op ≠ .none && u.op = t.op)
  let b := if (xingAt b n x).pinItem.any mine then
      modXing n x (fun i => { i with pinItem := none }) (modHold (fun h => { h with pinWaits := h.pinWaits.erase (n, x) }) b)
    else b
  let b := ((xingAt b n x).sendq.filter fun u => mine u && u.pinned).foldl (fun b u => unpinLines u.lines b) b
  watchXing n x (modXing n x (fun i => { i with sendq := i.sendq.filter fun u => !mine u }) b)

/-- An egress read that began to wait earlier waits for a pin on one of the lines (R229). -/
def pinClaimed (b : Block) (ls : List Nat) : Bool :=
  b.hold.pinWaits.any fun q => ((xingAt b q.1 q.2).pinItem.map TxItem.lines).any fun ks => ks.any ls.contains

/-- Sends a new frame: the next SEQ, its lines read as a consumer reads them and pinned until its ACK (R200, R227, R229). -/
def sendFresh (n x j : Nat) (t : TxItem) (errs : List WordErr) (b : Block) : Nat × Block :=
  let i := xingAt b n x
  let w := xingBerth b n x
  let gph := t.type = 2 && gphTx b w
  let k := useIndex t.type i.kphTx gph
  match itemKid b n x t i.kphTx gph with
  | none => (0, later (.opDone t.op cDenied) (cipherRefused w (dropItems n x t b)))
  | some kid =>
    match cipherKey b w kid, readState b t.lines with
    | none, _ => (0, later (.opDone t.op cDenied) (cipherRefused w (dropItems n x t b)))
    | _, .poison => (0, later (.opLost t.op cPoison) (dropItems n x t b))
    | _, .wait l => (0, egressWait l t.op b)
    | some key, .ready =>
      if !mayUseTx b n x k then (0, failXing n x cExhausted b)
      else if !t.pinned ∧ (!canPin b t.lines || pinClaimed b t.lines) then
        (0, modXing n x (fun i => { i with pinItem := some t }) (modHold (fun h => { h with pinWaits := h.pinWaits ++ [(n, x)] }) b))
      else
        let (hurt, b) := senseLines none t.lines b
        if hurt then (0, later (.opLost t.op cUncorr) (dropItems n x t b)) else
        let (plain, ue, b) := readItem n x t errs b
        let b := if t.pinned then b else pinLines t.lines b
        let pinned := { t with pinned := true }
        if ue then (0, modXing n x (fun i => { i with sendq := i.sendq.map fun u => if u = t then pinned else u }) b)
        else
          let f := sealFrame key (itemHdr b n x i.nextSeq t i.kphTx gph) plain false
          let b := modXing n x (fun i => { i with
            nextSeq := i.nextSeq + 1
            sendq := i.sendq.erase t
            progress := if i.unacked.isEmpty then (lndAt b n).roundTx else i.progress
            unacked := i.unacked ++ [⟨i.nextSeq, pinned, i.kphTx, gph, 1⟩] }) b
          putFrame n j f (countTx n x k b)

/-- Sends one frame of a crossing in a slot, if it has one; `errs` are the inverted bits of the words read from its Hold lines, and
a frame with an uncorrectable one is not sent (R410). The answer is the words sent. -/
def sendOne (n x s : Nat) (shared : Bool) (space : Nat) (errs : List WordErr) (b : Block) : Nat × Block :=
  match pick b n x shared space with
  | .again u => sendAgain n x (areaIndex s space) u errs b
  | .fresh t => sendFresh n x (areaIndex s space) t errs b
  | .none => (0, b)

/-- A waiting egress read takes a released pin, in the order in which the reads began to wait (R229). -/
def pinResume (n x : Nat) (b : Block) : Block :=
  let before := b.hold.pinWaits.takeWhile fun q => q ≠ (n, x)
  match (xingAt b n x).pinItem with
  | none => b
  | some t =>
    if b.hold.pinWaits.contains (n, x) ∧ canPin b t.lines ∧
        !before.any (fun q => ((xingAt b q.1 q.2).pinItem.map TxItem.lines).any fun ks => ks.any t.lines.contains) then
      let b := modHold (fun h => { h with pinWaits := h.pinWaits.erase (n, x) }) b
      pinLines t.lines (modXing n x (fun i => { i with
        pinItem := none
        sendq := i.sendq.map fun u => if u = t then { u with pinned := true } else u }) b)
    else b

/-- Queues frames on a crossing. -/
def enqueue (n x : Nat) (ts : List TxItem) (b : Block) : Block :=
  watchXing n x (modXing n x (fun i => { i with sendq := i.sendq ++ ts }) b)

/-- The frames of up to 64 lines that carry some Hold lines to a peer's buffer (R292, R364). -/
def lineItems (type owner handle : Nat) (op : OpRef) : Nat → List Nat → Nat → List TxItem
  | 0, _, _ => []
  | f + 1, ls, line =>
    match ls with
    | [] => []
    | _ => { type := type, owner := owner, handle := handle, line := line, lines := ls.take 64, op := op }
        :: lineItems type owner handle op f (ls.drop 64) (line + 64)

/-! ### Opening (R211 to R214) -/

/-- The conditions under which a CLOSED crossing starts to prove. -/
def mayProve (b : Block) (n x : Nat) : Bool :=
  let w := xingBerth b n x
  let l := lndAt b n
  (xingAt b n x).st = .closed && l.linked && xingEn b n x && bdevValid b w && l.peerReady.testBit x &&
  ((berthAt b w).st = .joined || (berthAt b w).st = .running)

/-- The crossing enters PROVING; PROVE is sent now and every fourth round. -/
def startProve (n x : Nat) (b : Block) : Block :=
  if mayProve b n x then
    modXing n x (fun i => { i with
      st := .proving, proved := false, openAck := none, heldProve := true, proveDue := (lndAt b n).roundTx + 4,
      rxBase := i.expSeq, since := now b, stalled := false }) b
  else b

def startProves (n : Nat) (b : Block) : Block := (List.range 32).foldl (fun b x => startProve n x b) b

/-- The PROVE frame of a crossing (R211), under its transmit phase; none where the key refuses. -/
def provePayload (b : Block) (n x : Nat) : Bytes :=
  let i := xingAt b n x
  let l := lndAt b n
  let resume := ((i.unacked.head?.map Unacked.seq).getD i.nextSeq)
  slice l.nonce 0 16 ++ slice l.peerNonce 0 16 ++ leBytes 8 (if i.stateful then resume else 0) ++
    leBytes 8 (if i.stateful then i.rxBase else 0) ++ leBytes 1 (b2n (!i.stateful)) ++ List.replicate 15 0

def sendProve (n x j : Nat) (b : Block) : Nat × Block :=
  let i := xingAt b n x
  let w := xingBerth b n x
  let k := b2n i.kphTx
  if !mayUseTx b n x k then (0, failXing n x cExhausted b)
  else match cipherKey b w (xKid b n x i.kphTx) with
  | none => (0, modXing n x (fun i => { i with heldProve := false }) (cipherRefused w b))
  | some key =>
    let (r, b) := draw b
    let h : FrameHdr := { type := 9, x := x, kph := i.kphTx, cid := ownCid b n w, v := r.toNat % 2 ^ 64,
                          gen := (lndGen b n).toNat, echo := (lndAt b n).peerGen.toNat }
    let f := sealFrame key h (provePayload b n x) false
    let b := modXing n x (fun i => { i with heldProve := false }) b
    let b := modLnd n (fun l => { l with txTokens := l.txTokens - 128 }) b
    putFrame n j f (countTx n x k b)

/-- The crossing opens: the frames the opening ACK covers are freed and the rest are sent again. A Landing that reaches OPEN with it
goes by its slot maps from the next slot on (R207). -/
def openXing (n x low : Nat) (b : Block) : Block :=
  let b := modXing n x (fun i => { i with
    st := .opened, stateful := true, heldProve := false, openAck := none, progress := (lndAt b n).roundTx }) b
  let b := startResend n x (watchXing n x (freeAcked n x low b))
  let b := raise (0x40 + n) 2 b
  let l := lndAt b n
  if l.st = .ford ∧ l.linked then
    raise (0x40 + n) 1 (modLnd n (fun l => { l with st := .opened, fordSlot := some l.rxSlot }) b)
  else b

/-- A peer's PROVE is accepted (R211, R212): the starts are fixed, and the opening ACK is sent. A repeated PROVE only repeats
the ACK. One whose nonces are not those of the HELLOs is dropped without a sign (DESIGN CHOICE, log entry 159). -/
def acceptProve (n x : Nat) (p : Bytes) (b : Block) : Block :=
  let l := lndAt b n
  if slice p 0 16 ≠ slice l.peerNonce 0 16 ∨ slice p 16 16 ≠ slice l.nonce 0 16 then b
  else if (xingAt b n x).st = .opened ∨ (xingAt b n x).proved then sendAck n x b
  else
    let fresh := bit (fieldLE p 0x30 1) 0
    let tx := fieldLE p 0x20 8
    let rx := fieldLE p 0x28 8
    let b := modXing n x (fun i => { i with
      proved := true
      gapSent := false
      expSeq := if fresh then (if i.stateful then i.rxBase + 1024 else 0) else if i.stateful then i.rxBase else tx
      nextSeq := if i.stateful then i.nextSeq else if fresh then 0 else rx + 1024 }) b
    let b := sendAck n x b
    match (xingAt b n x).openAck with
    | some a => openXing n x a b
    | none => b

/-- One entry of an ACK word (R203, R214): the opening ACK of a PROVING crossing, or an acknowledgement. -/
def ackArrives (n : Nat) (e : Bytes) (b : Block) : Block :=
  let x := fieldLE e 0 1 % 32
  let low := fieldLE e 1 7
  if !bit (fieldLE e 0 1) 7 then b
  else match (xingAt b n x).st with
  | .proving => if (xingAt b n x).proved then openXing n x low b else modXing n x (fun i => { i with openAck := some low }) b
  | .opened => freeAcked n x low b
  | _ => b

/-- A NAK (R204): at once, or from the next round on when the Hold had no room. -/
def nakArrives (n : Nat) (e : Bytes) (b : Block) : Block :=
  let x := fieldLE e 0 1 % 32
  let i := xingAt b n x
  if !bit (fieldLE e 0 1) 7 ∨ i.st ≠ .opened ∨ i.unacked.isEmpty then b
  else
    let b := if fieldLE e 8 1 = 3 then modXing n x (fun i => { i with notBefore := (lndAt b n).roundTx + 1 }) b else b
    startResend n x b

/-- LNKC_TIMEOUT.PROVE_MS elapses in PROVING (R214). -/
def proveTimeout (n x : Nat) (b : Block) : Block :=
  let i := xingAt b n x
  if i.st = .proving ∧ !i.stalled ∧ i.since + msTicks b (fld (reg b 0x8044) 31 16) ≤ now b then
    raise (0x40 + n) 7 (modXing n x (fun i => { i with stalled := true }) b)
  else b

/-! ### Receiving (steps 6 to 10 of R202) -/

/-- An integrity event of a crossing (R205): the fourth of a receive phase fails it, in whatever state it is. -/
def integrity (n x : Nat) (c : Byte) (b : Block) : Block :=
  let b := modLnd n (fun l => { l with errInteg := inc32 l.errInteg }) b
  let b := modXing n x (fun i => { i with integ := i.integ + 1 }) b
  let i := xingAt b n x
  if i.integ ≥ 4 ∧ xingEn b n x then failXing n x c b else b

/-- Counts a frame dropped at steps 4 and 6. -/
def countDeny (n : Nat) (b : Block) : Block := modLnd n (fun l => { l with errDeny := inc32 l.errDeny }) b

/-- Sequenced frames are taken once the receive start is fixed; PROVE in PROVING and OPEN. -/
def takesType (i : Xing) (type : Nat) : Bool :=
  if type = 9 then i.st = .proving || i.st = .opened else i.st = .opened || (i.st = .proving && i.proved)

/-- What step 9 finds of a frame's handle: its code, and its Hold lines. -/
def frameTarget (b : Block) (w : Nat) (h : FrameHdr) (words : Nat) : Byte × List Nat :=
  let count := (words + 1) / 2
  let good (o : Obj) : Bool := match o.kind with
    | .buffer .. => h.type = 1
    | .sueBuffer _ _ _ _ k own => h.type = 2 && k = 2 && own = h.owner
    | _ => false
  match objCheck' b w (BitVec.ofNat 32 h.handle) good with
  | (0x00, i) => if h.line + count ≤ bufLen (objAt b i) then (cOk, objLines b i h.line count) else (cDenied, [])
  | (c, _) => (c, [])
where
  /-- As R293 checks a handle. -/
  objCheck' (b : Block) (w : Nat) (h : Word) (good : Obj → Bool) : Byte × Nat :=
    let i := fld h 15 0
    let o := objAt b i
    if o.st ≠ .free ∧ (o.berth ≠ w ∨ !good o) then (cDenied, i)
    else if o.st ≠ .live ∨ o.gen.toNat ≠ fld h 31 16 then (cStale, i)
    else (cOk, i)

/-- A frame has passed step 10: KEY_USE advances, and a frame of the new phase makes the other one's frames duplicates (R215) and
restarts the count of integrity events (R205). -/
def usePhase (n x k : Nat) (h : FrameHdr) : Block → Block :=
  modXing n x fun i => { i with
    integ := if i.kphRx = h.kph then i.integ else 0
    oldPh := if i.kphRx = h.kph then i.oldPh else some i.kphRx
    kphRx := h.kph
    useRx := tmod 0 i.useRx k (· + 1) }

/-- All checks pass: the SEQ and KEY_USE advance and the frame is acknowledged. -/
def acceptSeq (n x k : Nat) (h : FrameHdr) (b : Block) : Block :=
  let b := modXing n x (fun i => { i with stateful := true, expSeq := i.expSeq + 1, gapSent := false }) (usePhase n x k h b)
  sendAck n x b

/-- The lines a frame has written do not pass: they read SPOILED (R225). -/
def spoilFrame (n x : Nat) (ls : List Nat) (b : Block) : Block :=
  if ls.isEmpty then b else spoilLines ls (ingressWrite n x (ls.map fun l => (l, [])) b)

/-- Steps 9 and 10 for a frame whose key and SEQ have passed. -/
def openAndAccept (n x k : Nat) (h : FrameHdr) (key : BitVec 256) (raw : Bytes) (b : Block) : Block :=
  let t := if h.type = 1 ∨ h.type = 2 then frameTarget b (xingBerth b n x) h (h.lenw + 1) else (cOk, [])
  if t.1 ≠ cOk then integrity n x t.1 (sendNak n x 4 b)
  else if !ingressRoom b t.2 then sendNak n x 3 b
  else match openFrame key raw with
  | none => integrity n x cTagFail (sendNak n x 1 (spoilFrame n x t.2 b))
  | some plain =>
    match h.type with
    | 9 => acceptProve n x plain (usePhase n x k h b)
    | 3 => later (.syncMsg n x plain) (acceptSeq n x k h b)
    | _ => acceptSeq n x k h (count 3 (some (xingBerth b n x)) t.2.length (releaseLines t.2 (ingressWrite n x (t.2.zip (chunks 64 plain)) b)))

/-- The KID of a received frame (R198). -/
def rxKid (b : Block) (n : Nat) (h : FrameHdr) : Option Nat :=
  if h.type = 2 then gkmKid b (xingBerth b n h.x) h.owner h.gph else some (xKid b n h.x h.kph)

/-- The Hold lines the Gangway writes of a DATA or GRAD frame as it decrypts, before the frame's CRC and tag (R224, R225): those of
`words` payload words, where steps 6 to 9 pass. -/
def gangwayLines (b : Block) (n : Nat) (h : FrameHdr) (words : Nat) : List Nat :=
  let i := xingAt b n h.x
  let w := xingBerth b n h.x
  let passes := (h.type = 1 || h.type = 2) && h.cid = xPeerCid b n h.x && xingEn b n h.x && takesType i h.type &&
    i.oldPh ≠ some h.kph && ((rxKid b n h).bind (cipherKey b w)).isSome &&
    tget 0 i.useRx (useIndex h.type h.kph h.gph) + 1 < 2 ^ 40 && h.v = i.expSeq
  let t := frameTarget b w h (h.lenw + 1)
  if passes ∧ t.1 = cOk ∧ ingressRoom b t.2 then t.2.take ((words + 1) / 2) else []

/-- Steps 6 to 10 of R202. -/
def takeFrame (n : Nat) (raw : Bytes) (b : Block) : Block :=
  let h := hdrOf raw
  let x := h.x
  let i := xingAt b n x
  let w := xingBerth b n x
  let k := useIndex h.type h.kph h.gph
  if h.cid ≠ xPeerCid b n x ∨ !xingEn b n x ∨ !takesType i h.type then countDeny n b
  else if h.type ≠ 9 ∧ i.oldPh = some h.kph then sendAck n x b
  else
    match (rxKid b n h).bind (cipherKey b w) with
    | none => cipherRefused w (sendNak n x 4 b)
    | some key =>
      if tget 0 i.useRx k + 1 ≥ 2 ^ 40 then failXing n x cExhausted (sendNak n x 4 b)
      else if h.type ≠ 9 ∧ h.v < i.expSeq then sendAck n x b
      else if h.type ≠ 9 ∧ i.expSeq < h.v then
        (if i.gapSent then b else sendNak n x 2 (modXing n x (fun i => { i with gapSent := true }) b))
      else openAndAccept n x k h key raw b

end Sys2Proof.Machine
end

