-- ==== Sys2Proof/Machine/Landings.lean ====
section
/-!
DEFINITION. Landings (R185 to R192, R202, R207 to R210, R219): rounds and markers, the slots' frames and control words, Ford
mode and the Toll, and the states of a Landing.
-/

namespace Sys2Proof.Machine

/-! ### Rounds, markers, slot maps (R187, R188, R191) -/

/-- The eight marker words of a round (R188). -/
def markerWord (n : Nat) (b : Block) (round lane : Nat) : Bytes :=
  let w := [0x4D, 0x52, 0x4B, 0x32] ++ leBytes 1 lane ++ [0, 0, 0] ++ leBytes 8 round ++ leBytes 2 (lndGen b n).toNat ++
    List.replicate 10 0
  w ++ leBytes 4 (crc32c w).toNat

/-- The apply test of R191 and R215. -/
def reached (round : Nat) (apply : Word) : Bool := (BitVec.ofNat 32 round - apply).toNat < 2 ^ 31

/-- The entries of a shadow slot map (R221). -/
def shadowMap (b : Block) (n o : Nat) : Table Nat :=
  (List.range 61).foldl (fun t s =>
    tset 0 t s (fld (reg b (lndReg n (o + 4 * (s / 4)))) (8 * (s % 4) + 7) (8 * (s % 4)))) []

/-- An armed shadow map whose round has come takes effect, and its ARM bit is cleared. -/
def applyMaps (n : Nat) (rx : Bool) (round : Nat) (b : Block) : Block :=
  let c := reg b (lndReg n 0x064)
  if c.getLsbD (b2n rx) ∧ reached round (reg b (lndReg n (if rx then 0x06C else 0x068))) then
    let m := shadowMap b n (if rx then 0x0C0 else 0x080)
    let b := modLnd n (fun l => if rx then { l with rxMap := m } else { l with txMap := m }) b
    setReg (lndReg n 0x064) (c &&& ~~~(BitVec.ofNat 32 (1 <<< b2n rx))) b
  else b

/-- The crossing a scheduled slot is assigned to by a map in effect. -/
def slotX (m : Table Nat) (slot : Nat) : Option Nat :=
  let e := tget 0 m slot
  if slot < 61 ∧ bit e 7 then some (e % 32) else none

/-- What a transmitted round begins for one crossing: a PROVE due again, and a switch of KPHASE (R214, R215). -/
def roundXing (n r x : Nat) (b : Block) : Block :=
  let i := xingAt b n x
  let b := if i.st = .proving ∧ i.proveDue ≤ r then
      modXing n x (fun i => { i with heldProve := true, proveDue := r + 4 }) b
    else b
  let sw := xSwitch b n x
  if i.st ≠ .failed ∧ xingEn b n x ∧ sw ≠ 0xFFFFFFFF ∧ !i.switched ∧ !i.switching ∧ reached r sw then
    turnPhase n x (modXing n x (fun i => { i with switching := true }) b)
  else b

/-- A HELLO falls due (R210): in the first round after the entry to FORD, `helloDue`, in every fourth round after it, and in the
round after a new peer NONCE. -/
def helloDueNow (n r : Nat) (b : Block) : Block :=
  let l := lndAt b n
  if b.lcs.st ≠ .deployed ∨ l.st = .down then b
  else
    let b := if l.helloOnce then modLnd n (fun l => { l with helloOnce := false, heldHello := true }) b else b
    if !l.helloStop ∧ l.helloDue ≤ r ∧ (r - l.helloDue) % 4 = 0 then modLnd n (fun l => { l with heldHello := true }) b else b

/-- The next transmitted round of a Landing that transmits begins, once the last slot of the round before has gone (R187). A Landing
that the Slipway has stopped sends idle words (R434). -/
def startRound (n : Nat) (b : Block) : Block :=
  let l := lndAt b n
  if l.st = .down ∨ l.inRst ∨ l.txSlot < 62 then b
  else
    let r := if l.started then l.roundTx + 1 else 0
    let b := modLnd n (fun l => { l with
      roundTx := r, started := true, txSlot := 0, txTokens := min 32240 (l.txTokens + 16120) }) b
    let b := if b.slip.st = .idle then emit (.marker n r ((List.range 8).map (markerWord n b r))) b else emit (.idleWords n 0 8) b
    let b := helloDueNow n r (applyMaps n false r b)
    (List.range 32).foldl (fun b x => roundXing n r x b) b

/-! ### Leaving and entering Ford mode (R207) -/

/-- The Landing stops: its generation moves on, and every crossing that is not FAILED is CLOSED with its state kept (R58, R207). -/
def portDown (n : Nat) (b : Block) : Block :=
  let was := (lndAt b n).st
  let b := modPage (0x40 + n) (fun p => { p with gen := p.gen + 1 }) b
  let b := modLnd n (fun l => { l with
    st := .down, aligned := false, linked := false, goodMark := 0, badMark := 0, ctl := [], dropSlot := none
    peerOk := false, peerNonce := [], heldHello := false, helloOnce := false, fordSlot := none, urgent := [], txSlot := 62
    drainRound := if (pageAt b (0x40 + n)).unit = .on then none else l.drainRound }) b
  let b := (List.range 32).foldl (fun b x => closeXing n x b) b
  if was = .down then b else raise (0x40 + n) 1 b

/-- A port reset, a fall of `phy_up` or a loss of alignment, with its record (R58, R427): DETAIL0 0 for an input. -/
def resetLanding (n : Nat) (b : Block) : Block :=
  let b := portDown n b
  record { kind := 7, code := Config.recordCode 7, inst := n, unit := 0x09, gen := lndGen b n } b

/-- A new HELLO exchange: a fresh NONCE, full buckets, HELLO in the next round (R209, R210). -/
def beginFord (n : Nat) (b : Block) : Block :=
  let (r, b) := draw b
  modLnd n (fun l => { l with
    st := .ford, linked := false, nonce := leBytes 16 r.toNat, helloStop := false, heldHello := false, helloHold := 0
    helloDue := if l.started then l.roundTx + 1 else 0, tokens := 32240, txTokens := 32240
    fordTick := now b, fordStall := false }) b

/-- The port is out of reset, `phy_up` is high and ENABLE is 1 (R207). -/
def enterFord (n : Nat) (b : Block) : Block :=
  let b := modLnd n (fun l => { l with phyUp := true }) b
  let l := lndAt b n
  if l.st = .down ∧ !l.inRst ∧ (pageAt b (0x40 + n)).unit = .on ∧ b.slip.st = .idle then raise (0x40 + n) 1 (beginFord n b)
  else b

/-- LNKC_TIMEOUT.FORD_MS elapses without LINKED. -/
def fordTimeout (n : Nat) (b : Block) : Block :=
  let l := lndAt b n
  if l.st = .ford ∧ !l.linked ∧ !l.fordStall ∧ l.fordTick + msTicks b (fld (reg b 0x8044) 15 0) ≤ now b then
    raise (0x40 + n) 5 (modLnd n (fun l => { l with fordStall := true }) b)
  else b

/-! ### HELLO (R210) -/

def readyBits (b : Block) (n : Nat) : Nat :=
  ((List.range 32).map fun x =>
    let w := (berthAt b (xingBerth b n x)).st
    if xingEn b n x ∧ (w = .joined ∨ w = .running) then 2 ^ x else 0).sum

def helloFrame (b : Block) (n : Nat) : Bytes :=
  let l := lndAt b n
  let h : FrameHdr := { type := 8, gen := (lndGen b n).toNat }
  frameBytes h ([0x48, 0x4C, 0x4F, 0x32] ++ leBytes 2 (lndGen b n).toNat ++ leBytes 1 3 ++ [0] ++ leBytes 4 (readyBits b n) ++
    leBytes 4 0 ++ slice l.nonce 0 16 ++ slice l.peerNonce 0 16 ++ List.replicate 16 0) [] false

/-- A PROVING crossing whose HELLO exchange is over proves anew in the next one (R211). -/
def reprove (n x : Nat) (b : Block) : Block :=
  let i := xingAt b n x
  if i.st = .proving ∧ (i.proved ∨ i.openAck.isSome ∨ i.rxBase ≠ i.expSeq) then
    modXing n x (fun i => { i with proved := false, openAck := none, rxBase := i.expSeq }) b
  else b

/-- A peer HELLO whose generation or NONCE is new clears LINKED and closes the OPEN crossings; from OPEN the Landing enters FORD
again (R207). -/
def unlink (n : Nat) (b : Block) : Block :=
  let was := (lndAt b n).st
  let b := if was = .opened then raise (0x40 + n) 1 (beginFord n b)
    else modLnd n (fun l => { l with
      linked := false, helloStop := false
      fordTick := if l.linked then now b else l.fordTick, fordStall := if l.linked then false else l.fordStall }) b
  (List.range 32).foldl (fun b x => if (xingAt b n x).st = .opened then closeXing n x b else reprove n x b) b

/-- A peer's HELLO (R207, R210). A payload without its signature is ignored, and its reserved bytes are not checked (DESIGN CHOICE, log
entry 158). -/
def takeHello (n : Nat) (p : Bytes) (b : Block) : Block :=
  let l := lndAt b n
  let gen := BitVec.ofNat 12 (fieldLE p 4 2)
  let nonce := slice p 0x10 16
  if slice p 0 4 ≠ [0x48, 0x4C, 0x4F, 0x32] then b
  else if fieldLE p 6 1 ≠ 3 then recordErr (0x40 + n) cLifecycle none b
  else
    let b := if !l.peerOk ∨ gen ≠ l.peerGen ∨ nonce ≠ l.peerNonce then unlink n b else b
    let b := modLnd n (fun k => { k with
      peerGen := gen, peerLcs := 3, peerOk := true, peerNonce := nonce, peerReady := fieldLE p 8 4
      helloOnce := k.helloOnce || decide (nonce ≠ l.peerNonce) }) b
    if slice p 0x20 16 = (lndAt b n).nonce then
      startProves n (modLnd n (fun k => { k with helloStop := true, linked := true }) b)
    else b

/-! ### Transmitting a slot (R192, R196, R204, R209) -/

/-- The two control words of a slot: acknowledgements first, then the others in order, then IDLE. -/
def sendControls (n s : Nat) (b : Block) : Block :=
  let acks := (lndAt b n).ctl.filter fun c => c.getD 0 0 = 1
  let rest := (lndAt b n).ctl.filter fun c => c.getD 0 0 ≠ 1
  let q := acks ++ rest
  let ws := (q ++ [[0], [0]]).take 2
  let b := ws.zipIdx.foldl (fun b c => emit (.control n (slotStart s + c.2) (ctlWord b n c.1)) b) b
  modLnd n (fun l => { l with ctl := q.drop 2 }) b

/-- A held HELLO, once the transmitter's own bucket pays for it. -/
def sendHello (n s space : Nat) (b : Block) : Nat × Block :=
  let l := lndAt b n
  if l.heldHello ∧ 128 ≤ l.txTokens ∧ l.helloHold ≤ l.roundTx ∧ 4 ≤ space then
    let b := modLnd n (fun l => { l with heldHello := false, txTokens := l.txTokens - 128 }) b
    putFrame n (areaIndex s space) (helloFrame b n) (count 2 none 1 b)
  else (0, b)

/-- A frame that was sealed at once for the next shared slot (`sendNow`). -/
def sendUrgent (n s space : Nat) (b : Block) : Nat × Block :=
  match (lndAt b n).urgent with
  | (x, f) :: fs =>
    if f.length / 32 ≤ space then
      putFrame n (areaIndex s space) f (modLnd n (fun l => { l with urgent := fs, rotate := (x + 1) % 32 }) b)
    else (0, b)
  | [] => (0, b)

/-- One crossing's turn in a shared slot: a held PROVE, a retransmission or a SYNC frame. -/
def sendShared (n s space : Nat) (errs : List WordErr) (x : Nat) (b : Block) : Nat × Block :=
  let l := lndAt b n
  let i := xingAt b n x
  if i.heldProve ∧ 128 ≤ l.txTokens ∧ i.proveHold ≤ l.roundTx ∧ 4 ≤ space then sendProve n x (areaIndex s space) b
  else if l.st = .opened then sendOne n x s true space errs b
  else (0, b)

/-- The next frame of a shared slot: Ford frames, and crossings in rotating X order. -/
def nextShared (n s space : Nat) (errs : List WordErr) (b : Block) : Nat × Block :=
  let r := sendUrgent n s space b
  let r := if r.1 ≠ 0 then r else sendHello n s space r.2
  if r.1 ≠ 0 then r
  else (List.range 32).foldl (fun (r : Nat × Block) k =>
    if r.1 ≠ 0 then r
    else
      let x := ((lndAt r.2 n).rotate + k) % 32
      let q := sendShared n s space errs x r.2
      if q.1 = 0 then q else (q.1, modLnd n (fun l => { l with rotate := (x + 1) % 32 }) q.2)) r

/-- The frames of a slot's frame area, of which `space` words are left, and idle words behind the last one (fuel: frames). The
inverted bits are those of the words the first frame reads. -/
def fillSlot (n s : Nat) (own : Option Nat) : Nat → Nat → List WordErr → Block → Block
  | 0, space, _, b => emit (.idleWords n (areaIndex s space) space) b
  | f + 1, space, errs, b =>
    let r := match own with
      | some x => sendOne n x s false space errs b
      | none => nextShared n s space errs b
    if r.1 = 0 then (if space = 0 then r.2 else emit (.idleWords n (areaIndex s space) space) r.2)
    else fillSlot n s own f (space - r.1) [] r.2

/-- The frames that wait for a shared slot, as many as fit. -/
def fillUrgent (n s : Nat) : Nat → Nat → Block → Block
  | 0, space, b => emit (.idleWords n (areaIndex s space) space) b
  | f + 1, space, b =>
    let r := sendUrgent n s space b
    if r.1 = 0 then (if space = 0 then r.2 else emit (.idleWords n (areaIndex s space) space) r.2)
    else fillUrgent n s f (space - r.1) r.2

/-- A slot once the Slipway has stopped the Landing (R434): the last ABORTs go first, then the FAIL control words, then idle words. -/
def lastSlot (n s : Nat) (shared : Bool) (b : Block) : Block :=
  let l := lndAt b n
  let fails := l.ctl.filter fun c => c.getD 0 0 = 4
  if l.urgent.isEmpty then
    emit (.idleWords n (areaIndex s 130) 130) (sendControls n s (modLnd n (fun l => { l with ctl := fails }) b))
  else
    let b := modLnd n (fun l => { l with ctl := fails }) (sendControls n s (modLnd n (fun l => { l with ctl := [] }) b))
    if shared then fillUrgent n s l.urgent.length 130 b else emit (.idleWords n (areaIndex s 130) 130) b

/-- The next slot of the round is transmitted (R187). In FORD every slot may carry Ford frames; in OPEN the egress map governs the
scheduled slots. -/
def transmitSlot (n s : Nat) (errs : List WordErr) (b : Block) : Block :=
  let l := lndAt b n
  if l.st = .down ∨ l.inRst ∨ l.txSlot ≠ s then b
  else
    let own := if l.st = .opened then slotX l.txMap s else none
    let b := modLnd n (fun l => { l with txSlot := s + 1 }) b
    if b.slip.st ≠ .idle then lastSlot n s own.isNone b
    else fillSlot n s own 43 130 errs (sendControls n s b)

/-! ### Receiving (R188, R196, R202 steps 1 to 5) -/

def roundOfMarker (ws : List Bytes) : Nat := fieldLE (ws.getD 0 []) 8 8

/-- All eight words are valid markers of one round. -/
def markersGood (ws : List Bytes) : Bool :=
  ws.length = 8 && (ws.zipIdx.all fun p =>
    slice p.1 0 4 = [0x4D, 0x52, 0x4B, 0x32] && fieldLE p.1 4 1 = p.2 && fieldLE p.1 5 3 = 0 && fieldLE p.1 18 10 = 0 &&
    fieldLE p.1 8 8 = roundOfMarker ws && fieldLE p.1 17 1 < 16 && crcGood p.1)

/-- A received round begins with its first slot: the Toll is refilled (R209). -/
def beginReceived (n : Nat) (b : Block) : Block :=
  modLnd n (fun l => { l with
    rxRounds := l.rxRounds + 1, tokens := min 32240 (l.tokens + 16120), dropSlot := none, rxSlot := 0, rxUsed := 0, rxCtl := 0
    fordSlot := none }) b

/-- The received words come to a slot of the round; words of a slot that is past do not come again (R186, R187). -/
def reachSlot (n slot : Nat) (b : Block) : Block :=
  if (lndAt b n).rxSlot < slot then
    modLnd n (fun l => { l with rxSlot := slot, rxUsed := 0, rxCtl := 0, dropSlot := none, fordSlot := none }) b
  else b

/-- The words at a marker position (R188): alignment after two good rounds in sequence, lost after two bad ones. -/
def takeMarker (n : Nat) (ws : List Bytes) (b : Block) : Block :=
  let l := lndAt b n
  let r := roundOfMarker ws
  if l.st = .down ∨ b.slip.st ≠ .idle then b
  else if markersGood ws then
    let b := modLnd n (fun l => { l with
      aligned := l.aligned || l.goodMark = r % 2 ^ 64 && l.goodMark ≠ 0
      goodMark := (r + 1) % 2 ^ 64, badMark := 0, roundRx := r }) b
    if (lndAt b n).aligned then applyMaps n true r (beginReceived n b) else b
  else if !l.aligned then modLnd n (fun l => { l with goodMark := 0 }) b
  else if l.badMark ≥ 1 then resetLanding n b
  else beginReceived n (modLnd n (fun l => { l with badMark := l.badMark + 1 }) b)

/-- A line error (R205): 256 within 1,024 received rounds set DEGRADED. -/
def lineError (n : Nat) (b : Block) : Block :=
  let b := modLnd n (fun l => { l with
    errLine := inc32 l.errLine
    lineErrs := ((l.lineErrs.filter fun r => l.rxRounds < r + 1024) ++ [l.rxRounds]).take 256 }) b
  if (lndAt b n).lineErrs.length ≥ 256 then raise (0x40 + n) 6 (modLnd n (fun l => { l with lineErrs := [] }) b) else b

/-- Traffic of an earlier generation (R58, step 3 of R202). -/
def lateDrop (n : Nat) (b : Block) : Block :=
  recordErr (0x40 + n) cStale none (modLnd n (fun l => { l with errLate := inc32 l.errLate }) b)

/-- The Landing listens: it is up, aligned, and the Slipway has not stopped it. -/
def listens (b : Block) (n : Nat) : Bool := (lndAt b n).st ≠ .down && (lndAt b n).aligned && b.slip.st = .idle

/-- Step 2 of R202 for the header word, and the length the TYPE fixes (R193). Fields that a TYPE fixes at 0 count as reserved
(DESIGN CHOICE, log entry 130). -/
def headGood (r : Bytes) : Bool :=
  let h := hdrOf r
  h.ver = 2 && [1, 2, 3, 8, 9].contains h.type && (if h.type = 1 || h.type = 2 then h.lenw < 128 else h.lenw = 1) &&
  !bit (fieldLE r 1 1) 7 && fieldLE r 3 1 < 64 && (h.type = 2 || h.owner = 0) && h.cid < 2 ^ 19 && fieldLE r 0x11 1 < 16 &&
  fieldLE r 0x13 1 < 16 && fieldLE r 0x1B 1 = 0 && fieldLE r 0x1C 4 = 0 && (h.type = 1 || h.type = 2 || h.handle = 0) &&
  (h.type ≠ 8 || (h.x = 0 && h.cid = 0 && h.echo = 0 && h.v = 0))

/-- Step 2 of R202 for the whole frame (R193 to R195). -/
def headerGood (r : Bytes) : Bool :=
  headGood r && fieldLE (frameTail r) 0x10 1 < 2 && fieldLE (frameTail r) 0x11 11 = 0 &&
    ((hdrOf r).type ≠ 8 || fieldLE (frameTail r) 0 16 = 0)

/-- The crossing the ingress map in effect gives a received slot: none in FORD, and none in the slot in which the Landing reached
OPEN (R207). -/
def rxOwn (l : Landing) (slot : Nat) : Option Nat :=
  if l.st = .opened ∧ l.fordSlot ≠ some slot then slotX l.rxMap slot else none

/-- R208: the types a state and a slot admit. -/
def slotTakes (b : Block) (n slot : Nat) (h : FrameHdr) : Bool :=
  let l := lndAt b n
  if l.st = .ford ∨ l.fordSlot = some slot then h.type = 8 || h.type = 9
  else match slotX l.rxMap slot with
    | some x => h.type < 8 && h.x = x
    | none => 8 ≤ h.type || (xingAt b n h.x).st = .opened

/-- Step 5: the Toll pays for a Ford frame, or answers NOT_YET. -/
def tollPays (n : Nat) (h : FrameHdr) (b : Block) : Bool × Block :=
  let l := lndAt b n
  if h.type < 8 then (true, b)
  else if 128 ≤ l.tokens then (true, modLnd n (fun l => { l with tokens := l.tokens - 128 }) b)
  else
    let retry := max 1 ((128 - l.tokens + 16119) / 16120)
    (false, queueCtl n 3 (leBytes 1 h.type ++ [0x03] ++ leBytes 2 retry)
      (modLnd n (fun l => { l with notYet := min 0xFFFF (l.notYet + 1) }) b))

/-- The rest of the slot's frame area is dropped. -/
def dropArea (n slot : Nat) (b : Block) : Block := modLnd n (fun l => { l with dropSlot := some slot }) b

/-- The Hold lines a frame has written before its CRC and tag are checked: it is cut through where its header passes (R225). -/
def earlyLines (b : Block) (n slot : Nat) (raw : Bytes) : List Nat :=
  let h := hdrOf raw
  let l := lndAt b n
  if headGood raw ∧ h.echo = (lndGen b n).toNat ∧ l.peerOk ∧ h.gen = l.peerGen.toNat ∧ slotTakes b n slot h then
    gangwayLines b n h (min (h.lenw + 1) (raw.length / 32 - 1))
  else []

/-- Steps 2 to 5, then the rest. A header fault names the slot's crossing, or the header's; a HELLO names none and counts on the
Landing alone. -/
def checkFrame (n slot : Nat) (raw : Bytes) (b : Block) : Block :=
  let l := lndAt b n
  let h := hdrOf raw
  let x := (rxOwn l slot).getD h.x
  if !headerGood raw then
    let b := sendNak n x 4 (dropArea n slot (spoilFrame n h.x (earlyLines b n slot raw) b))
    if h.type = 8 then modLnd n (fun l => { l with errInteg := inc32 l.errInteg }) b
    else integrity n x cDenied b
  else if h.type ≠ 8 ∧ (h.echo ≠ (lndGen b n).toNat ∨ !l.peerOk ∨ h.gen ≠ l.peerGen.toNat) then lateDrop n b
  else if !slotTakes b n slot h then recordErr (0x40 + n) cDenied none (countDeny n b)
  else
    let t := tollPays n h b
    if !t.1 then t.2
    else if h.type = 8 then takeHello n (framePayload raw) t.2
    else takeFrame n raw t.2

/-- The words of a frame arrive in a slot behind those before them; `errs` are the bits inverted in the Landing's own path (R410). A
frame that is cut short is no frame: its lines are given up, as on a failed check (R225). -/
def takeWords (n slot : Nat) (raw : Bytes) (errs : List WordErr) (b : Block) : Block :=
  let l := lndAt b n
  let h := hdrOf raw
  let ls := earlyLines b n slot raw
  let own := rxOwn l slot
  let words := h.lenw + 3
  if fieldLE raw 0 1 = 0 then dropArea n slot b
  else if raw.length < 32 * words ∧ l.rxUsed + words ≤ 130 then dropArea n slot (spoilFrame n h.x ls b)
  else
    let b := modLnd n (fun l => { l with rxUsed := l.rxUsed + words }) b
    let b := count 1 (if h.type = 8 then none else some (xingBerth b n (own.getD h.x))) 1 b
    let (raw', ue, b) := pathRead none n n (fun k => if k < 8 then 0 else ls.getD ((k - 8) / 16) 0) errs raw b
    if ue ∨ 130 < l.rxUsed + words ∨ raw'.length ≠ 32 * words ∨ !crcGood raw' then
      let b := dropArea n slot (spoilFrame n h.x ls b)
      lineError n (match own with | some x => sendNak n x 5 b | none => b)
    else checkFrame n slot raw' b

/-- A frame arrives in a slot. -/
def receiveFrame (n slot : Nat) (raw : Bytes) (errs : List WordErr) (b : Block) : Block :=
  if !listens b n ∨ slot < (lndAt b n).rxSlot then b
  else
    let b := reachSlot n slot b
    if (lndAt b n).dropSlot = some slot then b else takeWords n slot raw errs b

/-- A frame of one TYPE arrives. -/
def receiveType (t n slot : Nat) (raw : Bytes) (b : Block) : Block :=
  if (hdrOf raw).type = t then receiveFrame n slot raw [] b else b

/-- A control word of one CTYPE arrives in a slot (R196): its CRC and ECHO_GEN are checked whatever its byte 0 reads, then its GEN
once a HELLO was accepted. A slot has two control words, before its frames. -/
def receiveControl (t n slot : Nat) (raw : Bytes) (h : Bytes → Block → Block) (b : Block) : Block :=
  let l := lndAt b n
  if !listens b n ∨ slot < l.rxSlot ∨ (l.rxSlot = slot ∧ (2 ≤ l.rxCtl ∨ l.rxUsed ≠ 0)) then b
  else
    let b := modLnd n (fun l => { l with rxCtl := l.rxCtl + 1 }) (reachSlot n slot b)
    let gens := fieldLE raw 1 3
    if !crcGood raw ∨ gens / 4096 ≠ (lndGen b n).toNat then lineError n b
    else if (lndAt b n).peerOk ∧ gens % 4096 ≠ (lndAt b n).peerGen.toNat then lateDrop n b
    else if fieldLE raw 0 1 = t then h (slice raw 4 24) b
    else b

def takeAck (n : Nat) (body : Bytes) (b : Block) : Block :=
  [0, 8, 16].foldl (fun b o => ackArrives n (slice body o 8) b) b

/-- A TOLL (R209): the refused frame waits RETRY rounds before it is sent again. It names no crossing: every PROVING crossing of the
Landing waits and sends its PROVE again (DESIGN CHOICE, log entry 160). -/
def takeToll (n : Nat) (body : Bytes) (b : Block) : Block :=
  let until_ := (lndAt b n).roundTx + fieldLE body 2 2
  if fieldLE body 0 1 = 8 then modLnd n (fun l => { l with helloHold := until_, heldHello := true }) b
  else if fieldLE body 0 1 = 9 then
    (List.range 32).foldl (fun b x =>
      if (xingAt b n x).st = .proving then modXing n x (fun i => { i with proveHold := until_, heldProve := true }) b else b) b
  else b

/-- A FAIL (R206): this end of the crossing fails with the same code. -/
def takeFail (n : Nat) (body : Bytes) (b : Block) : Block :=
  let x := fieldLE body 0 1 % 32
  if xingEn b n x then failXing n x (body.getD 1 0) b else b

/-! ### Shutdown (R219) and the berth's scrub (R214, R220, R221) -/

def holdsUnacked (b : Block) (n : Nat) : Bool := (List.range 32).any fun x => !(xingAt b n x).unacked.isEmpty

/-- A draining Landing enters DOWN, and its unit goes on to SCRUBBING. -/
def drainedLanding (n : Nat) (b : Block) : Block :=
  let b := modLnd n (fun l => { l with drainRound := none }) (portDown n b)
  modPage (0x40 + n) (fun p => if p.unit = .draining then { p with unit := .scrubbing } else p) b

def isDraining (b : Block) (n : Nat) : Bool :=
  ((pageAt b (0x40 + n)).unit = .draining || (pageAt b (0x40 + n)).unit = .enablePending) && (lndAt b n).drainRound.isSome

def landingDrained (n : Nat) (b : Block) : Block :=
  if isDraining b n ∧ ((lndAt b n).st = .down ∨ !holdsUnacked b n) then drainedLanding n b else b

def landingDrainTimeout (n : Nat) (b : Block) : Block :=
  match (lndAt b n).drainRound with
  | some r => if isDraining b n ∧ r + 64 ≤ (lndAt b n).roundTx then drainedLanding n b else b
  | none => b

def frameOf (o : Output) : Option Bytes :=
  match o with
  | .frame _ _ f => some f
  | _ => none

/-- The frames that a send of crossing x puts out wait for the next shared slot. -/
def holdFrames (n x : Nat) (send : Block → Nat × Block) (b : Block) : Block :=
  let sent := (send { b with out := [] }).2
  let fs := (sent.out.filterMap frameOf).map fun f => (x, f)
  modLnd n (fun l => { l with urgent := l.urgent ++ fs }) { sent with out := b.out ++ sent.out.filter fun o => (frameOf o).isNone }

/-- A barrier message that cannot wait for its crossing's queue is sealed now and goes first in the next shared slot, behind the
frames that the crossing has to send again (R204, R328, R434); not on a Landing that takes no new frame (R219). -/
def sendNow (n x : Nat) (msg : Bytes) (b : Block) : Block :=
  let i := xingAt b n x
  if i.st ≠ .opened ∨ 1024 ≤ i.unacked.length ∨ i.switching ∨ !mayNew b n ∨ (lndAt b n).roundTx < i.notBefore then b
  else
    let b := (i.unacked.filter fun u => i.resend.contains u.seq).foldl (fun b u => holdFrames n x (sendAgain n x 0 u []) b) b
    if (xingAt b n x).resend.isEmpty then holdFrames n x (sendFresh n x 0 { type := 3, msg := msg } []) b else b

/-- A slot map without the entries of crossing x. -/
def unmapX (x : Nat) (m : Table Nat) : Table Nat := m.filter fun e => !(bit e.2 7 && e.2 % 32 = x)

def unmapShadow (n x o : Nat) (b : Block) : Block :=
  (List.range 61).foldl (fun b s =>
    let a := lndReg n (o + 4 * (s / 4))
    let e := fld (reg b a) (8 * (s % 4) + 7) (8 * (s % 4))
    if bit e 7 ∧ e % 32 = x then setReg a (reg b a &&& ~~~(BitVec.ofNat 32 (0xFF <<< (8 * (s % 4))))) b else b) b

/-- The berth's scrub zeros one crossing entry and every map entry that names it. -/
def scrubXing (n x : Nat) (b : Block) : Block :=
  let b := discardXing n x b
  let b := setReg (lndReg n (0x100 + 4 * x)) 0 (setReg (lndReg n (0x180 + 4 * x)) 0 b)
  let b := setReg (lndReg n (0x200 + 4 * x)) 0 (setReg (lndReg n (0x280 + 4 * x)) 0xFFFFFFFF b)
  let b := modLnd n (fun l => { l with txMap := unmapX x l.txMap, rxMap := unmapX x l.rxMap }) b
  unmapShadow n x 0x0C0 (unmapShadow n x 0x080 b)

/-- Crossing entries of a berth that hold anything, enabled or not, as (Landing, X): a written register, or state. -/
def xingsOwned (b : Block) (w : Nat) : List (Nat × Nat) :=
  let regs := b.regs.filterMap fun e =>
    let p := e.1 / 0x1000
    let o := e.1 % 0x1000
    if 0x40 ≤ p ∧ p < 0x80 ∧ 0x100 ≤ o ∧ o < 0x300 then some (p - 0x40, (o % 0x80) / 4) else none
  let held := b.xings.map fun e => (e.1 / 32, e.1 % 32)
  (regs ++ held).eraseDups.filter fun q => xingBerth b q.1 q.2 = w

/-- The berth's gradient key map, its LNKC_BDEV register and its LNKC_GPH_TX bit are zeroed (R220). -/
def scrubLnkc (w : Nat) (b : Block) : Block :=
  let b := { b with regs := b.regs.filter fun e => !(gkmKey w 0 false ≤ e.1 && e.1 < gkmKey w 0 false + 128) }
  setReg 0x8050 (reg b 0x8050 &&& ~~~(BitVec.ofNat 32 (1 <<< w))) (setReg (0x8080 + 4 * w) 0 b)

/-! ### Registers of LNKC and LND (R220, R221) -/

/-- The gradient key map entry that LNKC_GKM_SEL names. -/
def gkmSel (b : Block) : Nat := let s := reg b 0x8048; gkmKey (fld s 11 7) (fld s 5 0) (s.getLsbD 6)

/-- A refilled phase counts its uses from 0 (R217). -/
def resetUse (n x k : Nat) (b : Block) : Block :=
  modXing n x (fun i => { i with useTx := tset 0 i.useTx k 0, useRx := tset 0 i.useRx k 0 }) b

/-- A crossing phase gets its next KID: its frames are no duplicates any more. -/
def refill (n x : Nat) (p : Bool) (b : Block) : Block :=
  modXing n x (fun i => { i with oldPh := if i.oldPh = some p then none else i.oldPh }) (resetUse n x (b2n p) b)

def resetGphUse (w : Nat) (p : Bool) (b : Block) : Block :=
  (xingsOwned b w).foldl (fun b q => resetUse q.1 q.2 (2 + b2n p) b) b

/-- Writes a gradient key map entry; a new KID restarts the phase's counts. -/
def setGkm (w owner : Nat) (p : Bool) (v : Word) (b : Block) : Block :=
  let a := gkmKey w owner p
  if reg b a = v then b else resetGphUse w p (setReg a v b)

/-- Writes LND_XKID; a phase whose KID changes counts from 0. -/
def setXkid (n x : Nat) (v : Word) (b : Block) : Block :=
  let old := reg b (lndReg n (0x200 + 4 * x))
  let b := setReg (lndReg n (0x200 + 4 * x)) v b
  let b := if fld old 10 0 = fld v 10 0 then b else refill n x false b
  if fld old 26 16 = fld v 26 16 then b else refill n x true b

/-- Writes LND_XSWITCH: the next switch. -/
def setXswitch (n x : Nat) (v : Word) (b : Block) : Block :=
  modXing n x (fun i => { i with switched := false }) (setReg (lndReg n (0x280 + 4 * x)) v b)

/-- Writes a crossing register (R221): ignored with BUSY while the crossing is not CLOSED, but for the free phase's KID and
for LND_XSWITCH. -/
def xingWrite (n o : Nat) (v : Word) (m : Option Nat) (b : Block) : Block :=
  let x := (o % 0x80) / 4
  let i := xingAt b n x
  let busy := recordErr (0x40 + n) cBusy m b
  if 0x280 ≤ o then setXswitch n x v b
  else if 0x200 ≤ o then
    let old := reg b (lndReg n o)
    let used := if i.kphTx then fld old 31 16 = fld v 31 16 else fld old 15 0 = fld v 15 0
    if i.st = .closed ∨ (i.kphTx = i.kphRx ∧ !i.switching ∧ used) then setXkid n x v b else busy
  else if i.st = .closed then startProve n x (setReg (lndReg n o) v b) else busy

def xstateCode : XState → Nat
  | .closed => 0 | .proving => 1 | .opened => 2 | .failed => 3

def lstateCode : LndState → Nat
  | .down => 0 | .ford => 1 | .opened => 2

/-- LND_XCFG as it reads. -/
def xcfgRead (b : Block) (n x : Nat) : Word :=
  let i := xingAt b n x
  (xcfg b n x &&& 0xFF) ||| BitVec.ofNat 32 (256 * xstateCode i.st + 2048 * b2n i.kphTx + 4096 * b2n i.kphRx +
    8192 * b2n i.stateful + 65536 * i.fail.toNat)

/-- The registers of a LND page. -/
def lndRead (b : Block) (n o : Nat) : Word :=
  let l := lndAt b n
  let w32 (v : Nat) : Word := BitVec.ofNat 32 v
  let opens := ((List.range 32).filter fun x => (xingAt b n x).st = .opened).length
  if o = 0x040 then
    w32 (lstateCode l.st + 4 * b2n l.aligned + 8 * b2n l.linked + 16 * b2n l.phyUp + 256 * opens)
  else if o = 0x044 then w32 (l.peerGen.toNat + 4096 * l.peerLcs + 32768 * b2n l.peerOk)
  else if o = 0x048 then w32 (l.tokens + 65536 * l.notYet)
  else if o = 0x04C then w32 l.roundTx
  else if o = 0x050 then w32 l.roundRx
  else if o = 0x054 then w32 l.errLine
  else if o = 0x058 then w32 l.errInteg
  else if o = 0x05C then w32 l.errLate
  else if o = 0x060 then w32 l.errDeny
  else if 0x100 ≤ o ∧ o < 0x180 then xcfgRead b n ((o - 0x100) / 4)
  else if 0x300 ≤ o ∧ o < 0x380 then
    let i := xingAt b n ((o - 0x300) / 4)
    w32 (tget 0 i.useTx (b2n i.kphTx) / 256)
  else if 0x380 ≤ o then w32 (xingAt b n ((o - 0x380) / 4)).unacked.length
  else reg b (lndReg n o)

/-- The registers of LNKC. -/
def lnkcRead (b : Block) (o : Nat) : Word :=
  let cnt (s : LndState) : Nat := ((List.range b.build.landings).filter fun n => (lndAt b n).st = s).length
  if o = 0x040 then BitVec.ofNat 32 (cnt .opened + 2 ^ 8 * cnt .ford + 2 ^ 16 * cnt .down)
  else if o = 0x04C then reg b (gkmSel b)
  else reg b (0x8000 + o)

end Sys2Proof.Machine
end

