-- ==== Sys2Proof/Machine/Sync.lean ====
section
/-!
DEFINITION. The sync hub (R333 to R346): wake wires and their watches, barrier entries, their messages, release and failure.
-/

namespace Sys2Proof.Machine

def modSync (f : Sync → Sync) (b : Block) : Block := { b with sync := f b.sync }

/-! ### Wake wires (R60, R333, R334, R346) -/

def wireOwner (x : Wire) : Option Nat := if x.reg.getLsbD 5 then some (fld x.reg 4 0) else none

/-- A watch fires: a new cycle of its wire starts, unless one is in progress, which takes the fire (R60). -/
def fireWire (w : Nat) (err : Bool) (b : Block) : Block :=
  let x := wireAt b w
  let b := modSync (fun s => { s with wakes := inc32 s.wakes }) b
  let b := modWire w (fun x => { x with armed := false, fired := true, err := err, req := x.req || !x.ack }) b
  let b := if err then raise 0x15 2 b else b
  match wireOwner x with
  | some k =>
    let b := modSync (fun s => { s with wakesOf := tmod 0 s.wakesOf k inc32 }) b
    if err then raise (viewKey k 2) 2 b else b
  | none => b

/-- A level of `wake_ack[w]` (R60): the request falls after the acknowledge rises, and the wire is free again once it falls. -/
def wakeAck (w : Nat) (level : Bool) (b : Block) : Block :=
  modWire w (fun x => { x with ack := level, req := x.req && !(level && !x.ack) }) b

/-- The watch of an armed wire is evaluated against its fence. -/
def evalWatch (w : Nat) (b : Block) : Block :=
  let x := wireAt b w
  let f := fenceAt b x.fence
  if !x.armed then b
  else if f.state = .error ∨ f.st ≠ .live then fireWire w true b
  else if waitMet f x.mode x.value then fireWire w false b
  else b

/-- Wires that watch a fence. -/
def watchers (b : Block) (f : Nat) : List Nat := tfind b.sync.wires fun _ x => x.armed && x.fence = f

def watchFence (f : Nat) (b : Block) : Block := (watchers b f).foldl (fun b w => evalWatch w b) b

/-- The registers of a berth's arm command. -/
def armReg (w o : Nat) : Nat := trcKey w (0x800 + o)

def setArmRes (w : Nat) (c : Byte) (b : Block) : Block := modSync (fun s => { s with armRes := tset 0 s.armRes w c }) b

/-- GO on SYNC_ARM_CMD of berth w's view: arms or disarms a wire (R346). -/
def armCmd (w : Nat) (val : Word) (b : Block) : Block :=
  let n := fld val 5 0
  let x := wireAt b n
  let h := reg b (armReg w 0x070)
  let disarm := val.getLsbD 9
  let (fc, f) := if disarm then (cOk, 0) else fenceCheck b w h
  let c :=
    if wireOwner x ≠ some w ∨ fc = cDenied ∨ fld val 7 6 ≠ 0 ∨ fld val 30 10 ≠ 0 then cDenied
    else if fc ≠ cOk then fc
    else if x.armed ∧ !disarm then cBusy
    else cOk
  let b := setArmRes w c b
  if c ≠ cOk then b
  else if disarm then modWire n (fun x => { x with armed := false }) b
  else
    let v := BitVec.ofNat 64 ((reg b (armReg w 0x074)).toNat + 2 ^ 32 * (reg b (armReg w 0x078)).toNat)
    evalWatch n (modWire n (fun x =>
      { x with armed := true, mode := val.getLsbD 8, fence := f, value := v, fired := false, err := false }) b)

/-- A write to OWNER or VALID of SYNC_WIREn disarms its watch. -/
def wireWrite (w : Nat) (v : Word) (b : Block) : Block := modWire w (fun x => { x with reg := v &&& 0xFF, armed := false }) b

def wireRead (b : Block) (w : Nat) : Word :=
  let x := wireAt b w
  (x.reg &&& 0xFF) ||| BitVec.ofNat 32 (256 * b2n x.armed + 512 * b2n x.mode + 1024 * b2n x.fired + 2048 * b2n x.err + 65536 * x.fence)

/-- The berth's scrub disarms its wires and clears their OWNER and VALID. -/
def scrubWires (w : Nat) (b : Block) : Block :=
  (tfind b.sync.wires fun _ x => wireOwner x = some w).foldl (fun b n => modWire n (fun x => { x with armed := false, reg := 0 }) b) b

/-! ### Barrier messages (R342) -/

def barMsg (kind id : Nat) (code : Byte) (epoch : BitVec 64) (count lost : Nat) (skip : BitVec 64) : Bytes :=
  leBytes 1 kind ++ leBytes 1 id ++ [code] ++ List.replicate 5 0 ++ leBytes 8 epoch.toNat ++ leBytes 4 count ++ leBytes 4 lost ++
    leBytes 8 skip.toNat ++ List.replicate 32 0

/-- Sends a message on an edge, given as 32 × Landing + crossing. -/
def sendMsg (edge : Nat) (msg : Bytes) (b : Block) : Block := enqueue (edge / 32) (edge % 32) [{ type := 3, msg := msg }] b

def edgeOpen (b : Block) (edge : Nat) : Bool := (xingAt b (edge / 32) (edge % 32)).st = .opened

/-- The edges of an entry: its children, and its parent for a NODE. -/
def barEdges (x : Bar) : List Nat := if x.node then x.parent :: x.kids else x.kids

/-! ### Gathering (R337, R338) -/

/-- A participant has arrived at the epoch, or is excluded. -/
def partDone (b : Block) (x : Bar) (p : Part) : Bool :=
  p.excl ||
  match p.fence with
  | some f => geHalf (fenceAt b f).value x.epoch
  | none => x.mask.isSome

/-- R171, R339: a berth that restores withholds its arrival at epoch 1 until its session is RESTORED. -/
def withheld (b : Block) (x : Bar) : Bool :=
  x.epoch = 1 && (tideOf b x.berth).any Tide.restore && (sessAt b x.berth).st ≠ .restored

/-- The berth takes part in its job (R39). -/
def berthInJob (b : Block) (w : Nat) : Bool :=
  let s := (berthAt b w).st
  s = .joined || s = .running || s = .sealSt

def arrivedLocally (b : Block) (x : Bar) : Bool := berthInJob b x.berth && !withheld b x && x.parts.all (partDone b x)

def exclCount (x : Bar) : Nat := (x.parts.filter Part.excl).length

/-- The sums over this device and its children: COUNT, LOST and SKIP. -/
def barSums (x : Bar) : Nat × Nat × BitVec 64 :=
  (1 + (x.got.map Arrived.count).sum, exclCount x + (x.got.map Arrived.lost).sum,
   x.got.foldl (fun m a => m ||| a.skip) (x.mask.getD 0))

/-! ### Failure (R341) -/

/-- A view shows BAR_FAILED of its own berth. -/
def failBar (e : Nat) (code : Byte) (edge : Option Nat) (b : Block) : Block :=
  let x := barAt b e
  if x.st ≠ .gather ∧ x.st ≠ .waitRelease then b
  else
    let b := modBar e (fun x => { x with st := .failed, fail := code }) b
    let out := (barEdges x).filter fun k => some k ≠ edge && edgeOpen b k
    let b := out.foldl (fun b k => sendMsg k (barMsg 3 x.id code x.epoch 0 0 0) b) b
    let b := failFence x.release b
    let b := modSync (fun s => { s with fails := inc32 s.fails, failsOf := tmod 0 s.failsOf x.berth inc32 }) b
    let b := raise (viewKey x.berth 2) 1 (raise 0x15 1 b)
    let b := record { kind := 3, code := code, berth := some x.berth, unit := 0x15, d0 := x.id, d1 := x.epoch.toNat } b
    if (sueAt b x.berth).st ≠ .none ∧ (sueAt b x.berth).barrier = x.id then later (.progFail x.berth code) b else b

/-! ### Release (R339) -/

def releaseBar (e lost : Nat) (skip : BitVec 64) (b : Block) : Block :=
  let x := barAt b e
  let b := x.kids.foldl (fun b k => sendMsg k (barMsg 2 x.id 0 x.epoch 0 lost skip) b) b
  let b := modBar e (fun x =>
    { x with st := .gather, epoch := x.epoch + 1, got := [], mask := none, skip := skip, lost := lost, tick := now b }) b
  let b := later (.released x.berth e x.epoch skip) b
  let b := trace x.berth { kind := 6, detail := x.epoch.toNat } b
  later (.barrierEval e) (signalFence 0 x.release x.epoch b).2

/-- Evaluates an entry in GATHER. -/
def evalBar (e : Nat) (b : Block) : Block :=
  let x := barAt b e
  if x.st ≠ .gather ∨ !arrivedLocally b x ∨ !(x.kids.all fun k => x.got.any fun a => a.edge = k) then b
  else
    let (n, lost, skip) := barSums x
    if x.node then
      sendMsg x.parent (barMsg 1 x.id 0 x.epoch n lost skip) (modBar e (fun x => { x with st := .waitRelease }) b)
    else if n = x.subtree then releaseBar e lost skip b
    else failBar e cDenied none b

/-! ### Messages from peers (R340) -/

/-- The entry a message's ID names in the crossing's berth. -/
def barOf (b : Block) (w id : Nat) : Option Nat := (tfind b.sync.bars fun _ x => x.st ≠ .free && x.berth = w && x.id = id).head?

/-- Steps 3 to 5 of R340. -/
def msgGood (x : Bar) (kind edge : Nat) (epoch : BitVec 64) : Bool :=
  epoch = x.epoch &&
  (if kind = 1 then x.kids.contains edge && x.st = .gather && !x.got.any fun a => a.edge = edge
   else if kind = 2 then x.node && x.parent = edge && x.st = .waitRelease
   else (barEdges x).contains edge && (x.st = .gather || x.st = .waitRelease))

/-- The hub takes the payload of a SYNC frame of crossing x of Landing n. -/
def takeMsg (n x : Nat) (msg : Bytes) (b : Block) : Block :=
  let edge := 32 * n + x
  let kind := fieldLE msg 0 1
  let w := xingBerth b n x
  let denied (b : Block) : Block := recordErr 0x15 cDenied (some w) b
  let clean := 1 ≤ kind && kind ≤ 3 && fieldLE msg 3 5 = 0 && fieldLE msg 0x20 32 = 0
  match barOf b w (fieldLE msg 1 1) with
  | none => if clean then b else denied b
  | some e =>
    let y := barAt b e
    if !clean ∨ !msgGood y kind edge (BitVec.ofNat 64 (fieldLE msg 8 8)) then denied (failBar e cDenied (some edge) b)
    else
      let lost := fieldLE msg 0x14 4
      let skip := BitVec.ofNat 64 (fieldLE msg 0x18 8)
      match kind with
      | 1 => evalBar e (modBar e (fun y =>
          { y with got := y.got ++ [⟨edge, fieldLE msg 0x10 4, lost, skip⟩], tick := now b }) b)
      | 2 => releaseBar e lost skip b
      | _ => failBar e (msg.getD 2 0) (some edge) b

/-- The hub takes a message of one KIND only; another KIND belongs to another row. -/
def takeKind (k n x : Nat) (msg : Bytes) (b : Block) : Block := if fieldLE msg 0 1 = k then takeMsg n x msg b else b

/-! ### What fences and crossings bring about -/

/-- Entries with a participant that arrives on a fence. -/
def barsOnFence (b : Block) (f : Nat) : List Nat :=
  tfind b.sync.bars fun _ x => x.st ≠ .free && x.parts.any fun p => p.fence = some f

/-- A fence changed: its waiters see it (R303, R334, R337). -/
def barFence (f : Nat) (b : Block) : Block :=
  (barsOnFence b f).foldl (fun b e =>
    evalBar e (modBar e (fun x => { x with tick := if x.st = .gather then now b else x.tick }) b)) b

/-- An arrival fence in ERROR excludes its participants (R337). -/
def excludeFence (f : Nat) (b : Block) : Block :=
  (barsOnFence b f).foldl (fun b e =>
    evalBar e (modBar e (fun x => { x with parts := x.parts.map fun p => if p.fence = some f then { p with excl := true } else p }) b)) b

/-- An edge crossing failed (R338). -/
def barEdgeFailed (n x : Nat) (code : Byte) (b : Block) : Block :=
  (tfind b.sync.bars fun _ y => y.st ≠ .free && (barEdges y).contains (32 * n + x)).foldl
    (fun b e => failBar e code (some (32 * n + x)) b) b

/-- The step program deposits its mask (R337). -/
def depositMask (e : Nat) (mask : BitVec 64) (b : Block) : Block :=
  evalBar e (modBar e (fun x => { x with mask := some mask, tick := now b }) b)

/-- The BARRIER watch (R421): entries of a berth in its job, silent for the limit. -/
def barWatchDue (b : Block) (e limit : Nat) : Bool :=
  let x := barAt b e
  (x.st = .gather || x.st = .waitRelease) && berthInJob b x.berth && x.tick + limit ≤ now b

/-- The berth enters SCRUBBING (R338): ABORT with LIFECYCLE on its OPEN edges, and the entries are FREE. -/
def scrubBars (w : Nat) (b : Block) : Block :=
  (tfind b.sync.bars fun _ x => x.st ≠ .free && x.berth = w).foldl (fun b e =>
    let x := barAt b e
    let b := (barEdges x).foldl (fun b k => sendNow (k / 32) (k % 32) (barMsg 3 x.id cLifecycle x.epoch 0 0 0) b) b
    modSync (fun s => { s with bars := tset {} s.bars e {} }) b) b

/-! ### Registers (R345) -/

def barStCode : BarState → Nat
  | .free => 0 | .gather => 1 | .waitRelease => 2 | .failed => 3

/-- Registers 0x040 to 0x0FC; `sel` is the master's selected entry, `w` the berth of a view. -/
def syncRead (b : Block) (w : Option Nat) (sel o : Nat) : Word :=
  let w32 (n : Nat) : Word := BitVec.ofNat 32 n
  let x := barAt b sel
  let shown := x.st ≠ .free && w.all fun k => x.berth = k
  if o = 0x040 then
    w32 ((tfind b.sync.bars fun _ x => x.st ≠ .free && w.all fun k => x.berth = k).length +
      65536 * (tfind b.sync.wires fun _ x => x.armed && w.all fun k => wireOwner x = some k).length)
  else if o = 0x044 then w32 (match w with | some k => tget 0 b.sync.wakesOf k | none => b.sync.wakes)
  else if o = 0x048 then w32 (match w with | some k => tget 0 b.sync.failsOf k | none => b.sync.fails)
  else if o = 0x080 then (match w with | some k => (tget 0 b.sync.armRes k).setWidth 32 | none => 0)
  else if 0x100 ≤ o ∧ o < 0x200 then
    let n := (o - 0x100) / 4
    if w.all fun k => wireOwner (wireAt b n) = some k then wireRead b n else 0
  else if !shown then 0
  else if o = 0x050 then
    w32 (barStCode x.st + 4 * b2n x.node + 8 * x.berth + 256 * x.id + 65536 * x.fail.toNat)
  else if o = 0x054 then w32 x.epoch.toNat
  else if o = 0x058 then w32 (x.epoch.toNat / 2 ^ 32)
  else if o = 0x05C then w32 x.skip.toNat
  else if o = 0x060 then w32 (x.skip.toNat / 2 ^ 32)
  else if o = 0x064 then w32 (x.lost % 2 ^ 18 + 2 ^ 20 * exclCount x)
  else 0

end Sys2Proof.Machine
end

