-- ==== Sys2Proof/Machine/Transfers.lean ====
section
/-!
DEFINITION. What commands move: the CTRL operators (R292), COPY on the DMA channels (R412), SEND, and the compute-engine
attachments with their operand transfers (R50, R295, R322, R323).
-/

namespace Sys2Proof.Machine

/-! ### The work of a command -/

/-- A command's work fails: its context is lost with it, unless it was lost before. The record names the Hold bank of a line, or
the region (R426). -/
def cmdFault (c i : Nat) (code : Byte) (unit inst detail : Nat) (b : Block) : Block :=
  let inst := if unit = 0x10 then lineBank detail else if unit = 0x12 then detail else inst
  if (ctxAt b c).st = .active then faultCmd c i code unit inst detail b else finishCmd c i code 0 b

/-- Runs h on a started command of a unit and operator whose work has not begun. -/
def runCmd (c i unit op : Nat) (h : Nat → Cmd → Block → Block) (b : Block) : Block :=
  match (ctxAt b c).berth, cmdAt b c i with
  | some w, some m =>
    if m.started ∧ m.done.isNone ∧ !m.issued ∧ cUnit m.raw = unit ∧ cOper m.raw = op ∧ b.slip.st = .idle then h w m b else b
  | _, _ => b

def nopCmd (c i : Nat) : Block → Block := runCmd c i 0 0 fun _ _ b => finishCmd c i cOk 0 b

def fenceNew (c i : Nat) : Block → Block :=
  runCmd c i 0 1 fun w m b =>
    let h := cWord m.raw 0x28
    let mirror := if h = 0 then none else (rgnIndex b w (fld h 15 0)).map fun k => (k, fieldLE m.raw 0x38 4)
    match newFence w (BitVec.ofNat 64 (fieldLE m.raw 0x30 8)) mirror b with
    | some (f, b) => finishCmd c i cOk (handleOf (fenceAt b f).gen f) b
    | none => finishCmd c i cBusy 0 b

def fenceReset (c i : Nat) : Block → Block :=
  runCmd c i 0 2 fun _ m b =>
    let (code, b) := resetFence (fieldLE m.raw 0x28 2) b
    finishCmd c i code 0 b

def bufferNew (c i : Nat) : Block → Block :=
  runCmd c i 0 3 fun w m b =>
    let f (o n : Nat) : Nat := fieldLE m.raw o n
    if !bufferFits b w (f 0x30 2) (f 0x32 2) (f 0x34 2) (f 0x38 4) then finishCmd c i cDenied 0 b
    else match newObj w (.buffer (f 0x30 2) (f 0x32 2) (f 0x34 2) (f 0x38 4)) b with
    | some (k, b) => finishCmd c i cOk (handleOf (objAt b k).gen k) b
    | none => finishCmd c i cBusy 0 b

/-- OBJ_FREE took effect when it was accepted (R283): its record is written, whatever its context waits for. Log entry 136. -/
def objFree (c i : Nat) (b : Block) : Block :=
  match cmdAt b c i with
  | some m => if isFree m.raw then retireCmd c i b else b
  | none => b

def recycleCmd (c i : Nat) : Block → Block :=
  runCmd c i 0 5 fun _ m b =>
    let ls := objLines b (fieldLE m.raw 0x28 2) (fieldLE m.raw 0x30 4) (fieldLE m.raw 0x34 4)
    let (code, b) := recycle ls (some (deferredOf c m.raw)) (.cmd c i) b
    finishCmd c i code 0 b

/-! ### COPY -/

def copyOfCmd (b : Block) (c i : Nat) : Option CopyJob := b.copies.find? fun j => j.ctx = c && j.idx = i
def dropCopy (c i : Nat) (b : Block) : Block := { b with copies := b.copies.filter fun j => !(j.ctx = c && j.idx = i) }

/-- The unit's PAGE_ID.KIND and the Hold line or region of a place a COPY names, for a recovery record. -/
def placeUnit (b : Block) (obj line : Nat) : Nat × Nat :=
  match (objAt b obj).kind with
  | .engA r => (0x12, r)
  | .hbm .. => (0x11, 0)
  | _ => (0x10, (objLines b obj line 1).headD 0)

/-- A COPY ends. -/
def endCopy (c i : Nat) (code : Byte) (b : Block) : Block := finishCmd c i code 0 (dropCopy c i b)

def faultCopy (c i : Nat) (code : Byte) (obj line : Nat) (b : Block) : Block :=
  let u := placeUnit b obj line
  cmdFault c i code u.1 0 u.2 (dropCopy c i b)

/-- The line of a COPY has been written: the next one, or the end. -/
def copyAdvance (c i : Nat) (b : Block) : Block :=
  match copyOfCmd b c i with
  | none => b
  | some j =>
    if j.line + 1 ≥ j.count then endCopy c i cOk b
    else { b with copies := b.copies.map fun k => if k.ctx = c ∧ k.idx = i then { k with line := k.line + 1 } else k }

/-- Writes the line under way to its destination. A line that lands in the Hold is written at once, the others report back. -/
def copyStore (w c i : Nat) (m : Cmd) (line : Nat) (d : Bytes) (b : Block) : Block :=
  let dst := fieldLE m.raw 0x2C 2
  let k := fieldLE m.raw 0x34 4 + line
  match (objAt b dst).kind with
  | .hbm g base _ => internalWrite w g (base + k) 0 (slice d 0 64) (.cmd c i) b
  | .engA r => access r k (.write d) (.cmd c i) b
  | _ =>
    let ls := objLines b dst k 1
    let code := producerCheck b ls
    if code = cOk then count 3 (some w) 1 (copyAdvance c i (producerWrite (ls.map fun l => (l, d)) b))
    else if code = cPoison then faultCopy c i code dst k b
    else endCopy c i code b

/-- The line under way comes from the Hold over the path to engine A: an uncorrectable word is read once more (R410). -/
def copyPath (w c i line port addr : Nat) (d : Bytes) (b : Block) : Bytes × Bool × Block :=
  let j := copyOfCmd b c i
  let errs (again : Bool) : List WordErr :=
    ((j.map CopyJob.errs).getD []).filterMap fun e => if e.line = line && e.again = again then some e.err else none
  let go (again : Bool) (b : Block) :=
    pathRead (some w) port (if again then (j.map CopyJob.chan).getD port else port) (fun _ => addr) (errs again) d b
  let x := go false b
  if x.2.1 then go true x.2.2 else x

/-- Reads the line under way. -/
def copyLoad (w c i : Nat) (m : Cmd) (line : Nat) (b : Block) : Block :=
  let src := fieldLE m.raw 0x28 2
  let k := fieldLE m.raw 0x30 4 + line
  match (objAt b src).kind with
  | .hbm g base _ => internalRead w g (base + k) (.cmd c i) b
  | .engA r =>
    let dst := fieldLE m.raw 0x2C 2
    let dest := if isPlain (objAt b dst) then (objLines b dst (fieldLE m.raw 0x34 4 + line) 1).head? else none
    access r k (.read dest) (.cmd c i) b
  | _ =>
    let ls := objLines b src k 1
    match readState b ls with
    | .wait l => addWait l (.cmd c i) b
    | .poison => faultCopy c i cPoison src k b
    | .ready =>
      let (ue, b) := senseLines (chanOf b (.cmd c i)) ls (count 3 (some w) 1 b)
      let d := (ls.map (lineBytes b)).headD []
      if ue then later (.opHurt (.cmd c i) cUncorr) b else
      match (objAt b (fieldLE m.raw 0x2C 2)).kind with
      | .engA r =>
        let a := rgnAt b r
        let x := copyPath w c i line (rPort a) (dataAddr a (fieldLE m.raw 0x34 4 + line) % 2 ^ 32) d b
        if x.2.1 then later (.opHurt (.cmd c i) cUncorr) x.2.2 else copyStore w c i m line x.1 x.2.2
      | _ => copyStore w c i m line d b

/-- Copies lines until one has to wait (fuel: lines). -/
def copyRun (c i : Nat) : Nat → Block → Block
  | 0, b => b
  | f + 1, b =>
    match (ctxAt b c).berth, cmdAt b c i, copyOfCmd b c i with
    | some w, some m, some j =>
      let b := copyLoad w c i m j.line b
      match copyOfCmd b c i with
      | some j' => if j'.line = j.line then b else copyRun c i f b
      | none => b
    | _, _, _ => b

def copyGo (c i : Nat) (b : Block) : Block :=
  match copyOfCmd b c i with
  | some j => copyRun c i (j.count - j.line) b
  | none => b

/-- The lowest DMA channel that is neither halted nor busy (R412). -/
def freeChannel (b : Block) : Option Nat :=
  (List.range 16).find? fun k => !b.ecc.halted.getLsbD k && !b.copies.any fun j => j.chan = k

def copyCmd (c i : Nat) (errs : List LineErr) : Block → Block :=
  runCmd c i 0 6 fun _ m b =>
    match freeChannel b with
    | none => b
    | some k =>
      let b := modCmd c i (fun m => { m with issued := true }) b
      copyGo c i { b with copies := b.copies ++ [{ chan := k, ctx := c, idx := i, count := fieldLE m.raw 0x38 4, errs := errs }] }

/-- An uncorrectable error or outside poison on a line a channel reads halts it (R412); the error's log entry names it. -/
def haltChannel (k : Nat) (b : Block) : Block :=
  raise 0x1A 3 { b with ecc := { b.ecc with halted := setBitW b.ecc.halted k } }

/-- What an engine answers to a COPY. -/
def copyLine (c i : Nat) (d : Bytes) (b : Block) : Block :=
  match (ctxAt b c).berth, cmdAt b c i, copyOfCmd b c i with
  | some w, some m, some j =>
    let b := copyStore w c i m j.line d b
    match copyOfCmd b c i with
    | some j' => if j'.line = j.line then b else copyGo c i b
    | none => b
  | _, _, _ => b

def copyAnswer (c i : Nat) (code : Byte) (b : Block) : Block :=
  if code ≠ cOk then endCopy c i code b else copyGo c i (copyAdvance c i b)

def copyLost (c i : Nat) (code : Byte) (b : Block) : Block :=
  match cmdAt b c i, copyOfCmd b c i with
  | some m, some j => faultCopy c i code (fieldLE m.raw 0x28 2) (fieldLE m.raw 0x30 4 + j.line) b
  | _, _ => b

/-- A COPY's line met an uncorrectable error or outside poison (R412). -/
def copyHurt (c i : Nat) (b : Block) : Block :=
  match copyOfCmd b c i with
  | some j => copyLost c i cUncorr (haltChannel j.chan b)
  | none => b

/-! ### SEND -/

/-- The crossing a handle names. -/
def xingOfObj (b : Block) (i : Nat) : Option (Nat × Nat) :=
  match (objAt b i).kind with
  | .crossing n x => some (n, x)
  | _ => none

def sendCmd (c i : Nat) : Block → Block :=
  runCmd c i 0 7 fun _ m b =>
    let f (o n : Nat) : Nat := fieldLE m.raw o n
    let ls := objLines b (f 0x28 2) (f 0x30 4) (f 0x3C 4)
    match xingOfObj b (f 0x2C 2) with
    | none => b
    | some (n, x) =>
      if (xingAt b n x).st = .failed then cmdFault c i (xingAt b n x).fail 0x09 n x b
      else match readState b ls with
      | .wait l => if b.hold.waits.any fun q => q.op = .cmd c i then b else addWait l (.cmd c i) b
      | .poison => cmdFault c i cPoison 0x10 0 (ls.headD 0) b
      | .ready =>
        let ts := lineItems 1 0 (f 0x34 4) (.cmd c i) ls.length ls (f 0x38 4)
        let b := modCmd c i (fun m => { m with issued := true, need := ts.length }) b
        enqueue n x ts b

/-- One frame of a SEND is acknowledged, or the send ends otherwise. -/
def sendAnswer (c i : Nat) (code : Byte) (b : Block) : Block :=
  if code ≠ cOk then finishCmd c i code 0 b
  else
    let b := modCmd c i (fun m => { m with need := m.need - 1 }) b
    match cmdAt b c i with
    | some m => if m.need = 0 then finishCmd c i cOk 0 b else b
    | none => b

/-- An object's crossing as the place of a loss: unit, instance, detail. -/
def sendLost (c i : Nat) (code : Byte) (b : Block) : Block :=
  match cmdAt b c i with
  | some m => match xingOfObj b (fieldLE m.raw 0x2C 2) with
    | some (n, x) => cmdFault c i code 0x09 n x b
    | none => cmdFault c i code 0x10 0 0 b
  | none => b

/-! ### Answers to a command's operation -/

def cmdDone (c i : Nat) (code : Byte) (b : Block) : Block :=
  if (copyOfCmd b c i).isSome then copyAnswer c i code b
  else match cmdAt b c i with
  | some m => if cUnit m.raw = 0 ∧ cOper m.raw = 7 then sendAnswer c i code b else b
  | none => b

def cmdLost (c i : Nat) (code : Byte) (b : Block) : Block :=
  if (copyOfCmd b c i).isSome then copyLost c i code b
  else match cmdAt b c i with
  | some m => if cUnit m.raw = 0 ∧ cOper m.raw = 7 then sendLost c i code b else b
  | none => b

/-- A command's line met an uncorrectable error or outside poison. -/
def cmdHurt (c i : Nat) (code : Byte) (b : Block) : Block :=
  if (copyOfCmd b c i).isSome then copyHurt c i b else cmdLost c i code b

/-- A Hold read that waited goes on. -/
def cmdResume (c i : Nat) (b : Block) : Block :=
  if (copyOfCmd b c i).isSome then copyGo c i b else sendCmd c i b

/-! ### Compute-engine attachments (R295, R322, R323) -/

/-- Started commands for attachment a that have not been sent, as (berth, tick, context, index). -/
def ceReady (b : Block) (a : Nat) : List (Nat × Nat × Nat × Nat) :=
  b.ctxs.flatMap fun e => match e.2.berth with
    | none => []
    | some w => (e.2.cmds.filter fun m => m.started && !m.issued && m.done.isNone && cUnit m.raw = 1 && cAttach m.raw = a).map
        fun m => (w, m.tick, e.1, m.idx)

/-- The berth whose turn it is: the one under way while its WEIGHT lasts, then the next that has a command. -/
def ceTurn (b : Block) (a : Nat) (ws : List Nat) : Option (Nat × Nat) :=
  let t := attAt b a
  if ws.contains t.turn ∧ t.taken < (berthAt b t.turn).weight then some (t.turn, t.taken + 1)
  else ((List.range 32).find? fun k => ws.contains ((t.turn + 1 + k) % 32)).map fun k => ((t.turn + 1 + k) % 32, 1)

/-- The attachment takes one command. -/
def ceIssue (a : Nat) (b : Block) : Block :=
  let rs := ceReady b a
  if a ≥ b.build.attach ∨ (attAt b a).inRst ∨ b.slip.st ≠ .idle ∨ b.dbg.drain ∨ (pageAt b 0x14).unit ≠ .on then b
  else match ceTurn b a (rs.map fun r => r.1) with
  | none => b
  | some (w, n) =>
    let mine := sortBy (fun p q => p.2.1 < q.2.1 || (p.2.1 = q.2.1 && p.2.2.1 ≤ q.2.2.1)) (rs.filter fun r => r.1 = w)
    match mine with
    | [] => b
    | (_, _, c, i) :: _ =>
      let raw := ((cmdAt b c i).map Cmd.raw).getD []
      let b := modCmd c i (fun m => { m with issued := true }) b
      let b := modAtt a (fun t => { t with turn := w, taken := n, out := t.out ++ [(c, i, now b)] }) b
      emit (.ceCommand a w c (attAt b a).gen raw) b

/-- The codes of R18. -/
def knownCode (c : Byte) : Bool :=
  [0x00, 0x01, 0x02, 0x03, 0x10, 0x11, 0x12, 0x13, 0x20, 0x21, 0x22, 0x30, 0x31, 0x40].contains c.toNat

/-- A completion from an attachment, matched to the oldest command of its context there; that of a command given up (R320, R424) is
dropped. -/
def ceComplete (a : Nat) (status : Byte) (c : Nat) (gen : BitVec 12) (b : Block) : Block :=
  if b.slip.st ≠ .idle then b
  else if (attAt b a).inRst ∨ gen ≠ (attAt b a).gen then recordErr 0x14 cStale none b
  else if (attAt b a).gone.contains (c, 0) then modAtt a (fun t => { t with gone := t.gone.erase (c, 0) }) b
  else match (attAt b a).out.find? fun o => o.1 = c with
  | none => b
  | some o =>
    let b := modAtt a (fun t => moveUp c { t with out := t.out.erase o }) b
    let code := if knownCode status then status else cUncorr
    if code = cOk then finishCmd c o.2.1 cOk 0 b else cmdFault c o.2.1 code 0x14 a 0 b

/-- Everything outstanding on an attachment is lost, and its generation moves on. -/
def attachLost (a : Nat) (b : Block) : Block :=
  let out := (attAt b a).out
  let b := modAtt a (fun t => { t with gen := t.gen + 1, out := [], gone := [] }) b
  raise 0x14 2 (out.foldl (fun b o => cmdFault o.1 o.2.1 cUncorr 0x14 a 0 b) b)

/-- `ce<a>_rst_n` asserts, or the ATTACH watch resets the attachment; its record comes first (R323, R421, R425). -/
def resetAttach (a : Nat) (watch : Bool) (b : Block) : Block :=
  let t := attAt b a
  let b := record { kind := 7, code := Config.recordCode 7, inst := a, unit := 0x14, gen := t.gen + 1, d0 := b2n watch,
                    d2 := t.out.length } b
  attachLost a (if watch then b else modAtt a (fun t => { t with inRst := true }) b)

/-! ### Operand transfers (R50, R295, R353) -/

/-- A command of the berth, outstanding on the attachment, that names the buffer index in H0 to H3. -/
def operandCmd (b : Block) (a w index : Nat) : Option (Nat × Nat) :=
  (((attAt b a).out.filter fun o => (ctxAt b o.1).berth = some w).find? fun o =>
    match cmdAt b o.1 o.2.1 with
    | some m => [0x28, 0x2C, 0x30, 0x34].any fun k => cWord m.raw k ≠ 0 && fieldLE m.raw k 2 = index
    | none => false).map fun o => (o.1, o.2.1)

/-- May the transfer pass? An aggregation buffer takes operand writes only, and only GRAD_LOCAL does. -/
def operandOk (b : Block) (w index line : Nat) (wr : Bool) : Bool :=
  let o := objAt b index
  o.st ≠ .free && o.berth = w && line + 4 ≤ bufLen o &&
  match o.kind with
  | .buffer .. => true
  | .sueBuffer _ _ _ _ k _ => wr && k = 1
  | _ => false

/-- An operand transfer of four lines from a line on. -/
def operandGo (a w index line : Nat) (wdata : Option Bytes) (b : Block) : Block :=
  let ls := objLines b index line 4
  let zero : Block → Block := if wdata.isSome then id else emit (.operand a w index line (List.replicate 256 0))
  match operandCmd b a w index with
  | none => recordErr (0x20 + w) cDenied (some w) (zero b)
  | some (c, i) =>
    if !operandOk b w index line wdata.isSome then recordErr (0x20 + w) cDenied (some w) (zero b)
    else match wdata with
    | some d =>
      let code := producerCheck b ls
      if code = cOk then count 3 (some w) 4 (producerWrite (ls.zip (chunks 64 d)) b)
      else if code = cPoison then cmdFault c i cPoison 0x10 0 (ls.headD 0) b
      else recordErr (0x20 + w) cDenied (some w) b
    | none => match readState b ls with
      | .wait l => addWait l (.opd a w index line) b
      | .poison => cmdFault c i cPoison 0x10 0 (ls.headD 0) (zero b)
      | .ready =>
        let (ue, b) := senseLines none ls (count 3 (some w) 4 b)
        if ue then cmdFault c i cUncorr 0x10 0 (ls.headD 0) (zero b)
        else emit (.operand a w index line (ls.flatMap (lineBytes b))) b

/-- An operand read that waited is lost: zeros, and its command faults (R421). -/
def operandLost (a w index line : Nat) (code : Byte) (b : Block) : Block :=
  let b := emit (.operand a w index line (List.replicate 256 0)) b
  match operandCmd b a w index with
  | some (c, i) => cmdFault c i code 0x10 0 ((objLines b index line 4).headD 0) b
  | none => b

/-- An operand transfer; once the Slipway has accepted a power failure the port takes none (R61). -/
def operandTransfer (a w index line : Nat) (wdata : Option Bytes) (b : Block) : Block :=
  if (attAt b a).inRst ∨ a ≥ b.build.attach ∨ b.slip.st ≠ .idle then b else operandGo a w index line wdata b

end Sys2Proof.Machine
end

