-- ==== Sys2Proof/Machine/Numerics.lean ====
section
/-!
DEFINITION. The arithmetic of the SUE (R372 to R382, R386, R387, R393, R394, R398): binary32, W40 and the gradient formats as
words, computed through exact dyadic rationals and rounded once.
-/

namespace Sys2Proof.Machine

/-! ### Formats -/

/-- A binary format: exponent bits, fraction bits, bias. -/
structure Fmt where
  eb   : Nat
  fb   : Nat
  bias : Nat
deriving DecidableEq, Repr

def f32 : Fmt := ⟨8, 23, 127⟩
def w40 : Fmt := ⟨8, 31, 127⟩
def bf16 : Fmt := ⟨8, 7, 127⟩
def fp16 : Fmt := ⟨5, 10, 15⟩

/-- What a word of a format stands for: a finite value (-1)^neg × m × 2^e, an infinity, or NaN. -/
inductive Val where
  | fin (neg : Bool) (m : Nat) (e : Int)
  | inf (neg : Bool)
  | nan
deriving DecidableEq, Repr

def Fmt.nan (f : Fmt) : Nat := (2 ^ f.eb - 1) * 2 ^ f.fb + 2 ^ (f.fb - 1)
def Fmt.inf (f : Fmt) (neg : Bool) : Nat := b2n neg * 2 ^ (f.eb + f.fb) + (2 ^ f.eb - 1) * 2 ^ f.fb

/-- The value of a word (R373, IEEE 754-2019). -/
def Fmt.decode (f : Fmt) (w : Nat) : Val :=
  let neg := bit w (f.eb + f.fb)
  let ex := bits w (f.eb + f.fb - 1) f.fb
  let fr := w % 2 ^ f.fb
  if ex = 2 ^ f.eb - 1 then (if fr = 0 then .inf neg else .nan)
  else if ex = 0 then .fin neg fr (1 - (f.bias : Int) - f.fb)
  else .fin neg (2 ^ f.fb + fr) ((ex : Int) - f.bias - f.fb)

/-- m × 2^e rounded to the unit 2^u, to nearest, ties to even; `sticky` says that the exact value lies a little above. -/
def roundTo (m : Nat) (e u : Int) (sticky : Bool) : Nat :=
  if u ≤ e then m * 2 ^ (e - u).toNat
  else
    let k := (u - e).toNat
    let q := m / 2 ^ k
    let r := m % 2 ^ k
    let half := 2 ^ (k - 1)
    if r > half ∨ (r = half ∧ sticky) then q + 1 else if r = half then q + q % 2 else q

/-- The unit of a format in the binade of m × 2^e: subnormals share the lowest. -/
def Fmt.unit (f : Fmt) (m : Nat) (e : Int) : Int :=
  max ((Nat.log2 m : Int) + e - f.fb) (1 - (f.bias : Int) - f.fb)

/-- A finite value rounded to a format (R372): overflow gives an infinity. -/
def Fmt.encode (f : Fmt) (neg : Bool) (m : Nat) (e : Int) (sticky : Bool := false) : Nat :=
  let s := b2n neg * 2 ^ (f.eb + f.fb)
  if m = 0 then s
  else
    let u := f.unit m e
    let q := roundTo m e u sticky
    let ex := u + (f.bias : Int) + f.fb - 1
    let w := (ex * 2 ^ f.fb).toNat + q
    if w ≥ (2 ^ f.eb - 1) * 2 ^ f.fb then f.inf neg else s + w

def Fmt.ofVal (f : Fmt) : Val → Nat
  | .fin n m e => f.encode n m e
  | .inf n => f.inf n
  | .nan => f.nan

/-- Converts a word between formats, rounding once. -/
def convert (a c : Fmt) (w : Nat) : Nat := c.ofVal (a.decode w)

def isFinite (f : Fmt) (w : Nat) : Bool := bits w (f.eb + f.fb - 1) f.fb ≠ 2 ^ f.eb - 1

/-! ### Exact arithmetic on values -/

def Val.neg : Val → Val
  | .fin n m e => .fin (!n) m e
  | .inf n => .inf (!n)
  | .nan => .nan

/-- The exact product. -/
def Val.mul : Val → Val → Val
  | .nan, _ => .nan
  | _, .nan => .nan
  | .inf n, .fin k m _ => if m = 0 then .nan else .inf (n != k)
  | .fin k m _, .inf n => if m = 0 then .nan else .inf (n != k)
  | .inf n, .inf k => .inf (n != k)
  | .fin n m e, .fin k m' e' => .fin (n != k) (m * m') (e + e')

/-- The exact sum; a zero sum of unlike signs is +0. -/
def Val.add : Val → Val → Val
  | .nan, _ => .nan
  | _, .nan => .nan
  | .inf n, .inf k => if n = k then .inf n else .nan
  | .inf n, .fin .. => .inf n
  | .fin .., .inf n => .inf n
  | .fin n m e, .fin k m' e' =>
    let lo := min e e'
    let x := m * 2 ^ (e - lo).toNat
    let y := m' * 2 ^ (e' - lo).toNat
    if n = k then .fin n (x + y) lo
    else if x = y then .fin false 0 lo
    else if y < x then .fin n (x - y) lo
    else .fin k (y - x) lo

/-! ### Lane operations (R372) -/

def fadd (a b : Nat) : Nat := f32.ofVal ((f32.decode a).add (f32.decode b))
def fmul (a b : Nat) : Nat := f32.ofVal ((f32.decode a).mul (f32.decode b))
def ffma (a b c : Nat) : Nat := f32.ofVal (((f32.decode a).mul (f32.decode b)).add (f32.decode c))

/-- Flips a binary32 sign (a NaN stays canonical). -/
def fneg (a : Nat) : Nat := f32.ofVal (f32.decode a).neg

/-- The quotient n / d of naturals times 2^e, rounded once to binary32. -/
def fquot (neg : Bool) (n d : Nat) (e : Int) : Nat :=
  if n = 0 then f32.encode neg 0 0
  else
    let k := 64 + Nat.log2 d
    let q := n * 2 ^ k / d
    f32.encode neg q (e - k) (n * 2 ^ k % d ≠ 0)

/-- SQRT, correctly rounded. -/
def fsqrt (a : Nat) : Nat :=
  match f32.decode a with
  | .nan => f32.nan
  | .inf n => if n then f32.nan else f32.inf false
  | .fin n m e =>
    if m = 0 then f32.encode n 0 0
    else if n then f32.nan
    else
      let k : Nat := if e % 2 = 0 then 64 else 65
      let x := m * 2 ^ k
      let r := Nat.sqrt x
      f32.encode false r ((e - k) / 2) (r * r ≠ x)

/-- RCP, correctly rounded. -/
def frcp (a : Nat) : Nat :=
  match f32.decode a with
  | .nan => f32.nan
  | .inf n => f32.encode n 0 0
  | .fin n m e => if m = 0 then f32.inf n else fquot n 1 m (-e)

/-- 1.0 in binary32. -/
def fone : Nat := 0x3F800000

/-- 2^k in binary32. -/
def fpow2 (k : Int) : Nat := f32.encode false 1 k

/-- Is a ≤ b for finite binary32 words of sign 0? -/
def fle (a b : Nat) : Bool := a % 2 ^ 31 ≤ b % 2 ^ 31

/-- A finite value of at least 0. -/
def fnonneg (a : Nat) : Bool := isFinite f32 a && (!bit a 31 || a = 2 ^ 31)

/-! ### W40 (R373 to R375) -/

/-- The W40 path: one exact FMA of a binary32 product and a W40 addend, rounded once to W40. -/
def wmul (w d : Nat) : Nat := w40.ofVal ((w40.decode w).mul (f32.decode d))
def wfma (a v y : Nat) : Nat := w40.ofVal (((f32.decode a).mul (f32.decode v)).add (w40.decode y))
def wread (w : Nat) : Nat := convert w40 f32 w
def wOf32 (x : Nat) : Nat := convert f32 w40 x

/-! ### Gradient formats (R376, R377) -/

def gradFmt (code : Nat) : Fmt := if code = 1 then bf16 else fp16
def gradDecode (code w : Nat) : Nat := convert (gradFmt code) f32 w
def gradEncode (code x : Nat) : Nat := convert f32 (gradFmt code) x

/-- One element of a REDUCE (R362, R376): the sources summed in order, and one source copied unchanged, NaN payloads aside. -/
def reduceElem (code : Nat) (ws : List Nat) : Nat :=
  match ws with
  | [] => 0
  | [w] => (gradFmt code).ofVal ((gradFmt code).decode w)
  | w :: rest => gradEncode code (rest.foldl (fun a x => fadd a (gradDecode code x)) (gradDecode code w))

def gradNonFinite (code w : Nat) : Bool := !isFinite (gradFmt code) w

/-! ### Narrow formats (R378 to R381) -/

/-- A narrow element format: exponent and fraction bits, bias, MAXV as m × 2^e, EMAX. INT8 stands apart (code 6). -/
structure Narrow where
  eb   : Nat
  fb   : Nat
  bias : Nat
  maxM : Nat
  maxE : Int
  emax : Int
deriving DecidableEq, Repr

def narrow (code : Nat) : Narrow :=
  match code with
  | 1 => ⟨4, 3, 7, 7, 6, 8⟩
  | 2 => ⟨5, 2, 15, 7, 13, 15⟩
  | 3 => ⟨2, 3, 1, 15, -1, 2⟩
  | 4 => ⟨3, 2, 3, 7, 2, 4⟩
  | 5 => ⟨2, 1, 1, 3, 1, 2⟩
  | _ => ⟨0, 0, 0, 127, -6, 0⟩

/-- Element width in bits. -/
def narrowBits (code : Nat) : Nat :=
  match code with
  | 3 => 6 | 4 => 6 | 5 => 4 | _ => 8

/-- The spacing of a format's values in the binade of m × 2^e, with no upper limit: subnormals share the lowest; INT8 has one
spacing, 2⁻⁶. -/
def narrowUnit (code m : Nat) (e : Int) : Int :=
  let f := narrow code
  if code = 6 then -6 else max ((Nat.log2 m : Int) + e - f.fb) (1 - (f.bias : Int) - f.fb)

/-- Compares m × 2^e with m' × 2^e'. -/
def dyLe (m : Nat) (e : Int) (m' : Nat) (e' : Int) : Bool :=
  let lo := min e e'
  m * 2 ^ (e - lo).toNat ≤ m' * 2 ^ (e' - lo).toNat

/-- The generator of stochastic rounding (R382). -/
def fmix32 (h : Word) : Word :=
  let h := (h ^^^ (h >>> 16)) * 0x85EBCA6B
  let h := (h ^^^ (h >>> 13)) * 0xC2B2AE35
  h ^^^ (h >>> 16)

def srBits (seed g s i : Nat) : Nat :=
  let w (n : Nat) : Word := BitVec.ofNat 32 n
  let h := fmix32 (w seed ^^^ (w s * 0x9E3779B9) ^^^ (w g <<< 24))
  let h := fmix32 (h ^^^ w i)
  (fmix32 (h ^^^ w (i / 2 ^ 32))).toNat

/-- The code of magnitude q × 2^u (a value of the format) with a sign (R378, R379). -/
def narrowCode (code : Nat) (neg : Bool) (q : Nat) (u : Int) : Nat :=
  let f := narrow code
  if code = 6 then (if neg ∧ q ≠ 0 then 256 - q else q)
  else if q = 0 then b2n neg * 2 ^ (f.eb + f.fb)
  else
    let ex := (Nat.log2 q : Int) + u + f.bias
    let low := 1 - (f.bias : Int) - f.fb
    let mag := if ex ≤ 0 then q * 2 ^ (u - low).toNat
      else
        let m := q * 2 ^ f.fb / 2 ^ Nat.log2 q
        ex.toNat * 2 ^ f.fb + (m - 2 ^ f.fb)
    b2n neg * 2 ^ (f.eb + f.fb) + mag

/-- Rounds the exact value (-1)^neg × m × 2^e to an element and saturates (R381); `sr` gives the 32 stochastic bits. -/
def roundElement (code : Nat) (neg : Bool) (m : Nat) (e : Int) (sr : Option Nat) : Nat :=
  let f := narrow code
  if m = 0 then narrowCode code neg 0 0
  else
    let u := narrowUnit code m e
    let q := match sr with
      | none => roundTo m e u false
      | some r =>
        if u ≤ e then m * 2 ^ (e - u).toNat
        else
          let k := (u - e).toNat
          let phi := m % 2 ^ k
          m / 2 ^ k + (if phi * 2 ^ 32 / 2 ^ k + r ≥ 2 ^ 32 then 1 else 0)
    if dyLe q u f.maxM f.maxE then narrowCode code neg q u else narrowCode code neg f.maxM f.maxE

/-- Encodes one block (R380): its scale byte and its element codes. x are binary32 words. -/
def encodeBlock (code : Nat) (cdc1 : Bool) (sr : Option (Nat × Nat × Nat)) (i0 : Nat) (xs : List Nat) : Nat × List Nat :=
  let f := narrow code
  if xs.any fun x => !isFinite f32 x then (0xFF, xs.map fun _ => 0)
  else
    let amax := xs.foldl (fun a x => max a (x % 2 ^ 31)) 0
    match f32.decode amax with
    | .fin _ am ae =>
      if am = 0 then (0, xs.map fun _ => 0)
      else
        let E0 := (Nat.log2 am : Int) + ae - f.emax
        let u := narrowUnit code am (ae - E0)
        let beyond := !dyLe (roundTo am (ae - E0) u false) u f.maxM f.maxE
        let E := max (-127) (min 127 (if !cdc1 && beyond then E0 + 1 else E0))
        ((E + 127).toNat, xs.zipIdx.map fun x =>
          match f32.decode x.1 with
          | .fin n m e => roundElement code n m (e - E) (sr.map fun k => srBits k.1 k.2.1 k.2.2 (i0 + x.2))
          | _ => 0)
    | _ => (0xFF, xs.map fun _ => 0)

/-! ### Schedules (R387, R393, R394) -/

/-- The power unit P(b, n) (R387): bits of n from the highest set one down. -/
def powBits (b : Nat) : List Bool → Nat → Nat
  | [], r => r
  | k :: ks, r => powBits b ks (let r2 := fmul r r; if k then fmul r2 b else r2)

def powUnit (b n : Nat) : Nat := powBits b ((List.range 64).reverse.map fun k => bit n k) fone

/-- n / d, correctly rounded to binary32. -/
def rnDiv (n d : Nat) : Nat := fquot false n d 0

/-- π × 2^192, rounded down. -/
def piScaled : Nat := 0x3243F6A8885A308D313198A2E03707344A4093822299F31D0

/-- Taylor's series of 2^192 × cos(x / 2^192), n terms, from the term t of index k on. -/
def cosTerms (x : Int) : Nat → Nat → Int → Int → Int
  | 0, _, _, acc => acc
  | n + 1, k, t, acc =>
    let t' := -(t * x / 2 ^ 192 * x / 2 ^ 192) / ((2 * k + 1) * (2 * k + 2) : Nat)
    cosTerms x n (k + 1) t' (acc + t')

/-- (1 + cos(π τ / L)) / 2 to binary32 (R394), from 192 fraction bits. Log entry 13. -/
def rnCosHalf (tau L : Nat) : Nat :=
  let x : Int := (piScaled * tau / L : Nat)
  let one : Int := 2 ^ 192
  let c := cosTerms x 60 0 one one
  if 2 * tau = L then f32.encode false 1 (-1)
  else f32.encode false (one + c).toNat (-193)

/-- α_t of a schedule engine (R394): shape 0 CONSTANT, 1 LINEAR, 2 COSINE. -/
def engineAlpha (t shape amax amin warm decay cycle : Nat) : Nat :=
  if warm ≠ 0 ∧ t ≤ warm then fmul amax (rnDiv t warm)
  else if shape = 0 then amax
  else
    let tau := t - warm - 1
    let (tau, L) := if cycle ≠ 0 then (tau % cycle, cycle) else (tau, decay)
    if tau ≥ L then amin
    else
      let c := if shape = 1 then fadd fone (fneg (rnDiv tau L)) else rnCosHalf tau L
      ffma (fadd amax (fneg amin)) c amin

/-- α_t of a compiled schedule (R393): breakpoints (STEP, ALPHA), rising. -/
def compiledAlpha (t : Nat) : List (Nat × Nat) → Nat
  | [] => 0
  | [p] => p.2
  | p :: q :: ps =>
    if t ≤ p.1 then p.2
    else if t < q.1 then ffma (fadd q.2 (fneg p.2)) (rnDiv (t - p.1) (q.1 - p.1)) p.2
    else compiledAlpha t (q :: ps)

/-- The step constants of ADAMW for a count t (R387, R398): a₁, a₂. -/
def biasTerms (b1 b2 t : Nat) : Nat × Nat :=
  let p1 := fmul (powUnit b1 (t - 1)) b1
  let p2 := fmul (powUnit b2 (t - 1)) b2
  (fadd fone (fneg p1), fadd fone (fneg p2))

end Sys2Proof.Machine
end

