-- ==== Sys2Proof/Machine/Update.lean ====
section
/-!
DEFINITION. The data of a step program (R354 to R365, R386 to R398): fields of its operations, step constants, the update of
one element, narrow blocks, reductions and row records.
-/

namespace Sys2Proof.Machine

/-! ### Operations (R358) -/

def oCode (r : Bytes) : Nat := fieldLE r 0 1
def oGroup (r : Bytes) : Nat := fieldLE r 1 1
def oDecl (r : Bytes) : Nat := fieldLE r 2 2
def oBias (r : Bytes) : BitVec 64 := BitVec.ofNat 64 (fieldLE r 8 8)
def oSources (r : Bytes) : Nat := fieldLE r 4 1
def oDest (r : Bytes) : Nat := fieldLE r 5 1
def oDestDecl (r : Bytes) : Nat := fieldLE r 6 2
def oFirst (r : Bytes) : Nat := fieldLE r 8 8
def oLines (r : Bytes) : Nat := fieldLE r 0x10 4

/-- The declarations an operation names. -/
def oDecls (r : Bytes) : List Nat :=
  match oCode r with
  | 3 => [oDecl r]
  | 4 => (List.range (oSources r)).map (oDecl r + ·) ++ (if oDest r = 1 then [oDestDecl r] else [])
  | 7 => [oDecl r]
  | _ => []

/-- The carrier of an owner mask: its lowest set bit (R352). -/
def carrier (mask : Nat) : Nat := ((List.range 64).find? fun i => mask.testBit i).getD 0

/-- Pieces of n elements (fuel: the length). -/
def piecesGo {α : Type} (n : Nat) : Nat → List α → List (List α)
  | 0, _ => []
  | f + 1, l => match l with
    | [] => []
    | _ => l.take n :: piecesGo n f (l.drop n)

def pieces {α : Type} (n : Nat) (l : List α) : List (List α) := piecesGo n l.length l

/-- n little-endian values of k bytes each at the start of a string. -/
def valuesOf (k n : Nat) (bs : Bytes) : List Nat := (List.range n).map fun i => fieldLE bs (k * i) k

def bytesOf (k : Nat) (vs : List Nat) : Bytes := vs.flatMap (leBytes k)

/-! ### One element (R365, R375, R386 to R388, R398) -/

/-- The constants of a group's APPLY, all but those of the bias correction. -/
structure StepConst where
  adamw : Bool
  cdc1  : Bool
  gfmt  : Nat
  kg    : Nat
  eta   : Nat
  delta : Nat
  beta1 : Nat
  beta2 : Nat
  eps   : Nat
  mu    : Nat

def stepConst (g : SGroup) (e : Int) (alpha scale : Nat) : StepConst :=
  let eta := fmul alpha scale
  { adamw := g.kind = 1, cdc1 := g.cdc1, gfmt := g.gfmt, kg := fpow2 (-e), eta := eta,
    delta := ffma (fneg eta) g.lambda fone, beta1 := g.beta1, beta2 := g.beta2, eps := g.eps, mu := g.mu }

/-- The bias correction of a count: two factors, √c₂ and ε_t, or c₁′ and c₂′ under CDC1. -/
def biasConst (k : StepConst) (t : Nat) : Nat × Nat :=
  let a := biasTerms k.beta1 k.beta2 t
  if k.cdc1 then (frcp a.1, frcp a.2) else (fmul a.1 (frcp (fsqrt a.2)), fmul k.eps a.1)

/-- An element's state: W in W40, M1, M2, and the gradient in its format. -/
structure Elem where
  w  : Nat
  m1 : Nat
  m2 : Nat
  g  : Nat
deriving DecidableEq, Repr

/-- The last two operations: the decayed weight and the step against v (R375, R398). -/
def stepWeight (k : StepConst) (w v : Nat) : Nat :=
  if k.cdc1 then wOf32 (ffma (fneg k.eta) v (fmul (wread w) k.delta)) else wfma (fneg k.eta) v (wmul w k.delta)

def stepMomentum (k : StepConst) (x : Elem) : Elem :=
  let m1 := ffma k.mu x.m1 (fmul (gradDecode k.gfmt x.g) k.kg)
  let w := if k.cdc1 then wOf32 (fadd (fmul (wread x.w) k.delta) (fneg (fmul k.eta m1))) else stepWeight k x.w m1
  { x with w := w, m1 := m1 }

def stepAdamw (k : StepConst) (c : Nat × Nat) (x : Elem) : Elem :=
  let g := fmul (gradDecode k.gfmt x.g) k.kg
  let m1 := ffma (fadd fone (fneg k.beta1)) g (fmul x.m1 k.beta1)
  let m2 := ffma (fadd fone (fneg k.beta2)) (fmul g g) (fmul x.m2 k.beta2)
  let u :=
    if k.cdc1 then fmul (fmul m1 c.1) (frcp (fadd (fsqrt (fmul m2 c.2)) k.eps))
    else fmul m1 (frcp (ffma (fsqrt m2) c.1 c.2))
  { x with w := stepWeight k x.w u, m1 := m1, m2 := m2 }

def stepElem (k : StepConst) (c : Nat × Nat) (x : Elem) : Elem :=
  if k.adamw then stepAdamw k c x else stepMomentum k x

/-- A result holds a non-finite W, M1 or M2 value (R401, SUES_WNF). -/
def nonFinite (k : StepConst) (x : Elem) : Bool :=
  !isFinite w40 x.w || !isFinite f32 x.m1 || (k.adamw && !isFinite f32 x.m2)

/-- Lane operations of an element (R365, R398). -/
def laneOps (k : StepConst) : Nat :=
  if k.adamw then (if k.cdc1 then 14 else 12) else (if k.cdc1 then 5 else 4)

/-! ### Narrow copies (R378 to R382) -/

/-- Element codes of e bits, packed least significant first. -/
def packCodes (e : Nat) (cs : List Nat) : Bytes :=
  (pieces 8 cs).flatMap fun p => leBytes ((e * p.length + 7) / 8) (p.foldr (fun c a => c + 2 ^ e * a) 0)

/-- The blocks of elements first on: cut where the group's blocks begin. -/
def blocksFrom (size first : Nat) (ws : List Nat) : List (Nat × List Nat) :=
  let head := if first % size = 0 then 0 else size - first % size
  let rest := (pieces size (ws.drop head)).zipIdx.map fun p => (first + head + size * p.2, p.1)
  if head = 0 then rest else (first, ws.take head) :: rest

/-- The scale bytes and packed codes of the W values of elements first on (R380). -/
def narrowOf (g : SGroup) (gi step first : Nat) (ws : List Nat) : Bytes × Bytes :=
  let sr := if g.sr then some (g.seed, gi, step) else none
  let bs := (blocksFrom g.block first ws).map fun p => encodeBlock g.nfmt g.cdc1 sr p.1 (p.2.map wread)
  (bs.map fun p => BitVec.ofNat 8 p.1, packCodes (narrowBits g.nfmt) (bs.flatMap fun p => p.2))

/-! ### Reductions (R362, R363) -/

/-- Sums columns of values, source by source. -/
def sumColumns (fmt : Nat) (srcs : List (List Nat)) : List Nat :=
  let n := (srcs.map List.length).foldl max 0
  (List.range n).map fun i => reduceElem fmt (srcs.map fun s => s.getD i 0)

/-- Row records of a source: index and values, or a record fault. A source also ends with its last line; a record that its
lines cut short is a fault (log entry 17). -/
def rowRecords (rows width : Nat) : Nat → Option Nat → Bytes → Option (List (Nat × List Nat))
  | 0, _, _ => some []
  | f + 1, last, bs =>
    if bs.length < 64 then some []
    else
      let r := fieldLE bs 0 4
      let dl := 64 * ((2 * width + 63) / 64)
      if r = 0xFFFFFFFF then (if fieldLE bs 4 60 = 0 then some [] else none)
      else if fieldLE bs 4 60 ≠ 0 ∨ r ≥ rows ∨ (last.any fun l => r ≤ l) ∨ bs.length < 64 + dl then none
      else (rowRecords rows width f (some r) (bs.drop (64 + dl))).map fun t => (r, valuesOf 2 width (bs.drop 64)) :: t

/-- The rows of all sources, in rising order, with the sum of their records in source order. -/
def mergeRows (fmt : Nat) (srcs : List (List (Nat × List Nat))) : List (Nat × List Nat) :=
  let rows := sortBy (fun a c => a ≤ c) ((srcs.flatMap fun s => s.map Prod.fst).eraseDups)
  rows.map fun r => (r, sumColumns fmt (srcs.filterMap fun s => (s.find? fun e => e.1 = r).map Prod.snd))

/-- A row record: header line and data lines. -/
def rowBytes (r : Nat × List Nat) : Bytes :=
  let d := bytesOf 2 r.2
  leBytes 64 r.1 ++ d ++ List.replicate (64 * ((d.length + 63) / 64) - d.length) 0

/-- The TOUCH tensor with exactly the given rows set (R356). -/
def touchBytes (rows : Nat) (set : List Nat) : Bytes :=
  leBytes (64 * ((rows + 511) / 512)) (set.foldl (fun a r => a + 2 ^ r) 0)

/-- The rows a TOUCH tensor marks. -/
def touched (rows : Nat) (bs : Bytes) : List Nat :=
  (List.range rows).filter fun r => (bs.getD (r / 8) 0).getLsbD (r % 8)

end Sys2Proof.Machine
end

