-- ==== Sys2Proof/Machine/Sue.lean ====
section
/-!
DEFINITION. The Sealed Update Engine (R347 to R371, R386 to R401): lanes, step programs and their operations, the latch of a
step, failure, the commands of UNIT 2, and schedule engines.
-/

namespace Sys2Proof.Machine

/-! ### Lanes (R347, R348) -/

def clustersOf (b : Block) (w : Nat) : Nat := tget 0 b.sue.clusters w
def popcount (n k : Nat) : Nat := ((List.range n).filter fun i => k.testBit i).length

/-- A bit of SUE PAGE_IRQ_RAW, on the page and in the berth's view. -/
def raiseSue (w i : Nat) (b : Block) : Block := raise (viewKey w 3) i (raise 0x18 i b)
def raiseSues (w i : Nat) (b : Block) : Block := raise (viewKey w 4) i (raise 0x19 i b)

def laneCheck (b : Block) (mask w : Nat) (val : Word) : Byte :=
  if fld val 30 21 ≠ 0 ∨ b.sue.clusters.any (fun e => e.1 ≠ w && (e.2 &&& mask) ≠ 0) then cDenied
  else if (sueAt b w).st ≠ .none ∧ popcount 16 mask < (sueAt b w).clusters then cBusy
  else cOk

def endLane (w : Nat) (c : Byte) (b : Block) : Block :=
  raiseSue w 1 { b with sue := { b.sue with cmd := none, status := c } }

/-- GO on SUE_LANE_CMD. A command that moves no cluster completes at once (log entry 12). -/
def laneCmd (m : Master) (val : Word) (b : Block) : Block :=
  if b.sue.cmd.isSome then recordErr 0x18 cBusy (errBerthOf m) b
  else
    let mask := fld val 15 0
    let w := fld val 20 16
    let c := laneCheck b mask w val
    if c ≠ cOk ∨ mask = clustersOf b w then endLane w c b
    else { b with sue := { b.sue with cmd := some (mask, w) } }

/-- Every moving cluster has been cleared. -/
def laneDone (b : Block) : Block :=
  match b.sue.cmd with
  | none => b
  | some (mask, w) => endLane w cOk { b with sue := { b.sue with clusters := tset 0 b.sue.clusters w mask } }

/-! ### Programs (R360, R361) -/

def opAt (p : SueBerth) (i : Nat) : Bytes := p.ops.getD i []
def arriveIndex (p : SueBerth) : Nat := (p.ops.findIdx? fun r => oCode r = 5).getD 0

/-- The oldest operation of the step not yet complete (SUE_PSTAT.OP). -/
def oldestOp (p : SueBerth) : Nat := ((List.range p.ops.length).find? fun i => !p.fin.contains i).getD 0

/-- The barrier entry a berth's program arrives at. -/
def progBar (b : Block) (w : Nat) : Option Nat := barOf b w (sueAt b w).barrier

/-- May operation i of a program start now? -/
def startable (p : SueBerth) (i : Nat) : Bool :=
  p.next = i && i < p.ops.length && p.next - p.fin.length < 16 &&
  (if i ≤ arriveIndex p then p.st = .gather else p.st = .apply) &&
  match oCode (opAt p i) with
  | 2 => p.fin.length = i
  | 5 => p.fin.length = i
  | 7 => (List.range i).all fun k => p.fin.contains k || !(oDecls (opAt p k)).any (oDecls (opAt p i)).contains
  | _ => true

/-- An operation that started and is not complete. -/
def inFlight (p : SueBerth) (i : Nat) : Bool := i < p.next && !p.fin.contains i

/-- A step is applied (R360): the next one begins, or the program stops in SEALING. -/
def stepApplied (w : Nat) (b : Block) : Block :=
  let b := raiseSue w 3 (modSue w (fun p => { p with applied := p.s }) b)
  if (berthAt b w).st = .sealSt then raiseSue w 2 (modSue w (fun p => { p with st := .stopped, code := cOk }) b)
  else modSue w (fun p => { p with st := .gather, s := p.s + 1, mask := 0, next := 0, fin := [], need := [], reads := [] }) b

/-- The last operation of the step ends its APPLY. -/
def checkApplied (w : Nat) (b : Block) : Block :=
  let p := sueAt b w
  if p.st = .apply ∧ p.fin.length = p.ops.length then stepApplied w b else b

/-- Operation i is complete. -/
def finOp (w i : Nat) (b : Block) : Block :=
  checkApplied w (modSue w (fun p => if inFlight p i then { p with fin := p.fin ++ [i], need := tset 0 p.need i 0 } else p) b)

def setNeed (w i n : Nat) (b : Block) : Block := modSue w (fun p => { p with need := tset 0 p.need i n }) b

/-! ### Failure (R367) -/

/-- A program failure event: its records stand in ascending KIND order (R428), the contexts', the barrier's and the program's. -/
def progFail (w : Nat) (code : Byte) (b : Block) : Block :=
  let p := sueAt b w
  let stop (s : ProgState) (b : Block) : Block :=
    let b := modSue w (fun p => { p with st := s, code := code, reads := [] }) b
    if (berthAt b w).st = .running then later (.enterSealing w true) (loseAll w code 0x18 b) else b
  let note (b : Block) : Block :=
    raiseSue w 2 (record { kind := 5, code := code, berth := some w, gen := (pageAt b (0x20 + w)).gen, unit := 0x18,
                           d0 := p.applied % 2 ^ 32, d1 := oldestOp p } b)
  match p.st with
  | .ready | .gather | .waitRelease =>
    let b := stop .stopped b
    (match progBar b w with
     | some e => note (failBar e code none b)
     | none => note b)
  | .apply => note (stop .failed b)
  | _ => b

/-- The berth enters JOINED: the program arrives at the epoch that closes the join (R360). -/
def progJoin (w : Nat) (b : Block) : Block :=
  match (sueAt b w).st, progBar b w with
  | .ready, some e => depositMask e 0 b
  | _, _ => b

/-- The berth enters SEALING: a program that has not joined stops (R360). -/
def progSealing (w : Nat) (b : Block) : Block :=
  if (sueAt b w).st = .ready then raiseSue w 2 (modSue w (fun p => { p with st := .stopped, code := cOk }) b) else b

/-! ### The latch of a step (R365, R390, R392 to R397) -/

/-- A group's exponent and streak after a release (R390). -/
def nextScale (g : SGroup) (skip : Bool) (e : Int) (streak : Nat) : Int × Nat :=
  if skip then (max (e - 1) g.eMin, 0)
  else if g.grow ≠ 0 ∧ streak + 1 = g.grow then (min (e + 1) g.eMax, 0)
  else (e, streak + 1)

def alphaOf (t : Nat) (x : SParams) : Nat := engineAlpha t x.shape x.amax x.amin x.warm x.decay x.cycle

/-- A VALID engine shows the α it gave. -/
def latchEngine (t : Nat) (e : SEngine) : SEngine := if e.valid then { e with alpha := alphaOf t e.active } else e

/-- α of a group at count t: its compiled schedule, or its engine's if that is VALID. -/
def groupAlpha (p : SueBerth) (t : Nat) (g : SGroup) : Option Nat :=
  if g.sched = 0xFF then some (compiledAlpha t g.points)
  else
    let e := tget {} p.engines g.sched
    if e.valid then some (alphaOf t e.active) else none

/-- Pending scales that fall due at count t, in order of their step, move into the layers (R397). -/
def dueScales (t : Nat) (p : SueBerth) : SueBerth :=
  let due := sortBy (fun a c => a.step ≤ c.step) (p.pend.filter fun x => x.step ≤ t)
  { p with layers := due.foldl (fun l x => tset fone l x.layer x.scale) p.layers, pend := p.pend.filter fun x => x.step > t }

/-- What the release of step s gives a program (R360, R390, R395 to R397). -/
def latchStep (skip : BitVec 64) (p : SueBerth) : SueBerth :=
  let t := p.s - 1
  let p := dueScales t p
  let up := p.groups.zipIdx.map fun g => nextScale g.1 (skip.getLsbD g.2) (p.gexp.getD g.2 0) (p.streak.getD g.2 0)
  { p with
    skip := skip
    ks := p.gexp
    gexp := up.map Prod.fst
    streak := up.map Prod.snd
    alphas := p.groups.map (groupAlpha p t)
    scalesNow := p.groups.map fun g => tget fone p.layers g.layer
    engines := p.engines.map fun e => (e.1, latchEngine t e.2)
    skips := min 0xFFFFFFFF (p.skips + (p.groups.zipIdx.filter fun g => skip.getLsbD g.2).length)
    st := .apply
    fin := p.fin ++ [arriveIndex p] }

/-- Groups that this step does not skip and whose engine is not VALID (R396). -/
def noSchedGroups (p : SueBerth) : Nat :=
  ((p.alphas.zipIdx).filter fun a => a.1.isNone && !p.skip.getLsbD a.2).length

/-- A release of the program's barrier reaches the SUE. -/
def progReleased (w : Nat) (id : Nat) (skip : BitVec 64) (b : Block) : Block :=
  let p := sueAt b w
  if p.barrier ≠ id then b
  else match p.st with
  | .ready => modSue w (fun p => { p with st := .gather, next := 0, fin := [], need := [], mask := 0 }) b
  | .waitRelease =>
    let b := modSue w (latchStep skip) b
    let n := noSchedGroups (sueAt b w)
    let b := if n = 0 then b
      else raiseSues w 1 (modSue w (fun p => { p with noSched := min 0xFFFFFFFF (p.noSched + n) }) b)
    checkApplied w b
  | _ => b

/-! ### Memory of an operation (R366) -/

def slotOfGroup (g : SGroup) (k : Nat) : Nat × Nat := g.slots.getD k (0xFFFF, 0)

/-- A slot's region is LOST (R367). -/
def slotLost (b : Block) (w : Nat) (s : Nat × Nat) : Bool :=
  match rgnEnt b w s.1 with
  | some e => e.kind = 1 && (rgnAt b e.entry).st = .lost
  | none => false

/-- Writes bytes into a PROT region, line by line (fuel: bytes). -/
def partLines (r : Nat) (op : OpRef) : Nat → Nat → Bytes → Block → Block
  | 0, _, _, b => b
  | f + 1, a, d, b =>
    match d with
    | [] => b
    | _ =>
      let k := a % 64
      let n := min (64 - k) d.length
      let line := List.replicate k 0 ++ d.take n ++ List.replicate (64 - k - n) 0
      let kind := if n = 64 then AKind.write line else .part ((2 ^ n - 1) * 2 ^ k) line
      partLines r op f (a + n) (d.drop n) (access r (a / 64) kind op b)

/-- Lines that n bytes from byte o on touch. -/
def linesOf (o n : Nat) : Nat := if n = 0 then 0 else (o + n - 1) / 64 - o / 64 + 1

/-- Writes bytes of a tensor slot from byte o on, through engine S's internal path or engine A (R366): each piece that lies in one
line is a bank access, and the operation waits for its answer. -/
def tensorWrite (w i : Nat) (s : Nat × Nat) (o : Nat) (d : Bytes) (b : Block) : Block :=
  match rgnEnt b w s.1 with
  | none => b
  | some e =>
    let n := linesOf (s.2 + o) d.length
    let b := count 3 (some w) n (modSue w (fun p => { p with need := tset 0 p.need i (tget 0 p.need i + n) }) b)
    if e.kind = 0 then
      (linePieces d.length (s.2 + o) d).foldl (fun b p => internalWrite w e.port (e.base + p.1) p.2.1 p.2.2 (.prog w i) b) b
    else partLines e.entry (.prog w i) d.length (s.2 + o) d b

/-- Reads one line of a tensor slot's region, for an APPLY (R365, R366). -/
def tensorRead (w i : Nat) (g : SGroup) (slot line : Nat) (b : Block) : Block :=
  match rgnEnt b w (slotOfGroup g slot).1 with
  | none => b
  | some e =>
    let b := count 3 (some w) 1 (modSue w (fun p => { p with reads := p.reads ++ [{ op := i, slot := slot, line := line }] }) b)
    if e.kind = 0 then internalRead w e.port (e.base + line) (.tensor w i slot line) b
    else access e.entry line (.read none) (.tensor w i slot line) b

/-- The lines of a slot's region that n bytes from byte o of the slot on touch. -/
def slotLines (g : SGroup) (slot o n : Nat) : List (Nat × Nat) :=
  let a := (slotOfGroup g slot).2 + o
  (List.range (linesOf a n)).map fun k => (slot, a / 64 + k)

/-- n bytes from byte o of a slot on, of the lines that an APPLY has read. -/
def slotBytes (p : SueBerth) (i : Nat) (g : SGroup) (slot o n : Nat) : Bytes :=
  let a := (slotOfGroup g slot).2 + o
  let line (l : Nat) : Bytes := ((p.reads.find? fun r => r.op = i && r.slot = slot && r.line = l).bind SueRead.data).getD []
  slice (((List.range (linesOf a n)).flatMap fun k => slice (line (a / 64 + k)) 0 64).drop (a % 64)) 0 n

/-! ### Starting operations (R358, R361) -/

/-- Operation i starts if it may and its code is k. -/
def startOp (w i k : Nat) (h : SueBerth → Bytes → Block → Block) (b : Block) : Block :=
  let p := sueAt b w
  if startable p i ∧ oCode (opAt p i) = k ∧ !b.dbg.drain then h p (opAt p i) (modSue w (fun p => { p with next := p.next + 1 }) b) else b

/-- The fence a WAIT or SIGNAL names. -/
def opFence (b : Block) (w : Nat) (r : Bytes) : Nat := (((tideOf b w).bind fun t => t.fences[oDecl r]?).map FenceEnt.index).getD 0

def declAt (p : SueBerth) (k : Nat) : SDecl := p.decls.getD k { plan := 0, cls := 0, owners := 0 }
def declLines (b : Block) (p : SueBerth) (k first n : Nat) : List Nat := objLines b (declAt p k).obj first n

def waitOp (w i : Nat) : Block → Block :=
  startOp w i 1 fun _ r b => if (fenceAt b (opFence b w r)).state = .error then progFail w cPoison b else b

def signalOp (w i : Nat) : Block → Block :=
  startOp w i 2 fun p r b => (signalFence 0 (opFence b w r) (BitVec.ofNat 64 p.s + oBias r) b).2

/-- Reads the source lines and queues the frames (R364). -/
def sendGradGo (w i : Nat) (b : Block) : Block :=
  let p := sueAt b w
  let r := opAt p i
  let ls := declLines b p (oDecl r) (fieldLE r 4 4) (fieldLE r 8 4)
  match (tideOf b w).bind fun t => t.xings[fieldLE r 0x0C 2]? with
  | none => progFail w cDenied b
  | some e =>
    let h := tget 0 p.peers (fieldLE r 0x10 2)
    if (xingAt b e.n e.x).st = .failed then progFail w (xingAt b e.n e.x).fail b
    else if h = 0 then progFail w cDenied b
    else match readState b ls with
    | .wait l => setNeed w i 1 (addWait l (.prog w i) b)
    | .poison => progFail w cPoison b
    | .ready =>
      let ts := lineItems 2 (carrier (declAt p (oDecl r)).owners) h.toNat (.prog w i) ls.length ls (fieldLE r 0x14 4)
      enqueue e.n e.x ts (setNeed w i ts.length b)

def sendGradOp (w i : Nat) : Block → Block := startOp w i 3 fun _ _ b => sendGradGo w i b

/-- Writes a GRAD_SUM buffer from a line on (R228, R349); what passes its end is a record fault (log entry 17). -/
def sumWrite (w : Nat) (p : SueBerth) (d first : Nat) (bs : Bytes) (b : Block) : Block :=
  let n := (bs.length + 63) / 64
  let ls := declLines b p d first n
  if first + n > bufLen (objAt b (declAt p d).obj) then progFail w cDenied b
  else
    let c := producerCheck b ls
    if c ≠ cOk then progFail w c b
    else count 3 (some w) n (producerWrite (ls.zip (chunks 64 bs)) b)

/-- The sums of a dense REDUCE. -/
def reduceDense (w i : Nat) (p : SueBerth) (g : SGroup) (r : Bytes) (srcs : List Bytes) (b : Block) : Block :=
  let n := 32 * oLines r
  let sums := sumColumns g.gfmt (srcs.map (valuesOf 2 n))
  let b := count 10 (some w) (n * oSources r) b
  if oDest r = 1 then sumWrite w p (oDestDecl r) (fieldLE r 0x18 4) (bytesOf 2 sums) b
  else
    let b := if sums.any (gradNonFinite g.gfmt) then
        modSue w (fun p => { p with mask := p.mask ||| BitVec.ofNat 64 (2 ^ oGroup r) }) b else b
    tensorWrite w i (slotOfGroup g 3) (2 * oFirst r) (bytesOf 2 sums) b

/-- The rows of a SPARSE REDUCE (R363). -/
def reduceSparse (w i : Nat) (p : SueBerth) (g : SGroup) (r : Bytes) (srcs : List Bytes) (b : Block) : Block :=
  let rows := g.params / g.rowWidth
  let recs := srcs.map fun s => rowRecords rows g.rowWidth (oLines r + 1) none s
  if recs.any Option.isNone then progFail w cDenied b
  else
    let recs := recs.filterMap id
    let sums := mergeRows g.gfmt recs
    let b := count 10 (some w) ((recs.map List.length).sum * g.rowWidth) b
    if oDest r = 1 then sumWrite w p (oDestDecl r) (fieldLE r 0x18 4) (sums.flatMap rowBytes ++ leBytes 64 0xFFFFFFFF) b
    else
      let b := if sums.any fun s => s.2.any (gradNonFinite g.gfmt) then
          modSue w (fun p => { p with mask := p.mask ||| BitVec.ofNat 64 (2 ^ oGroup r) }) b else b
      let b := sums.foldl (fun b s => tensorWrite w i (slotOfGroup g 3) (2 * g.rowWidth * s.1) (bytesOf 2 s.2) b) b
      tensorWrite w i (slotOfGroup g 7) 0 (touchBytes rows (sums.map Prod.fst)) b

/-- A REDUCE reads its sources, or waits for one of their lines (R361, R362). -/
def reduceGo (w i : Nat) (b : Block) : Block :=
  let p := sueAt b w
  let r := opAt p i
  let srcs := (List.range (oSources r)).map fun k => declLines b p (oDecl r + k) (fieldLE r 0x14 4) (oLines r)
  match p.groups[oGroup r]?, readState b srcs.flatten with
  | none, _ => b
  | some _, .wait l => setNeed w i 1 (addWait l (.prog w i) b)
  | some _, .poison => progFail w cPoison b
  | some g, .ready =>
    let (ue, b) := senseLines none srcs.flatten (count 3 (some w) srcs.flatten.length (setNeed w i 0 b))
    let bytes := srcs.map fun ls => ls.flatMap (lineBytes b)
    if ue then progFail w cUncorr b
    else if g.sparse then reduceSparse w i p g r bytes b else reduceDense w i p g r bytes b

def reduceOp (w i : Nat) : Block → Block := startOp w i 4 fun _ _ b => reduceGo w i b

def arriveOp (w i : Nat) : Block → Block :=
  startOp w i 5 fun p _ b =>
    let b := modSue w (fun p => { p with st := .waitRelease }) b
    match progBar b w with
    | some e => depositMask e p.mask b
    | none => b

def recycleOp (w i : Nat) : Block → Block :=
  startOp w i 7 fun p r b =>
    let (c, b) := recycle (declLines b p (oDecl r) (fieldLE r 4 4) (fieldLE r 8 4)) none (.prog w i) b
    if c = cPending then setNeed w i 1 b else b

/-! ### APPLY (R365, R375, R398) -/

/-- Elements of a run, from the bytes of W, M1, M2 and G. -/
def elemsOf (n : Nat) (w m1 m2 g : Bytes) : List Elem :=
  (List.range n).map fun k => ⟨fieldLE w (5 * k) 5, fieldLE m1 (4 * k) 4, fieldLE m2 (4 * k) 4, fieldLE g (2 * k) 2⟩

/-- Writes what the optimizer made of the elements first on. -/
def writeElems (w i gi : Nat) (g : SGroup) (step first : Nat) (es : List Elem) (b : Block) : Block :=
  let nb := narrowOf g gi step first (es.map Elem.w)
  let b := tensorWrite w i (slotOfGroup g 0) (5 * first) (bytesOf 5 (es.map Elem.w)) b
  let b := tensorWrite w i (slotOfGroup g 1) (4 * first) (bytesOf 4 (es.map Elem.m1)) b
  let b := if g.kind = 1 then tensorWrite w i (slotOfGroup g 2) (4 * first) (bytesOf 4 (es.map Elem.m2)) b else b
  let b := tensorWrite w i (slotOfGroup g 4) (first * narrowBits g.nfmt / 8) nb.2 b
  tensorWrite w i (slotOfGroup g 5) (first / g.block) nb.1 b

/-- The operation wrote a non-finite value (R401). -/
def noteNonFinite (w : Nat) (p : Bool) (b : Block) : Block :=
  if p then raiseSues w 2 (modSue w (fun p => { p with wnf := inc32 p.wnf }) b) else b

/-- Elements first to first + n of a group, from the lines read. -/
def elemsRead (p : SueBerth) (i : Nat) (g : SGroup) (first n : Nat) : List Elem :=
  let t (slot k : Nat) : Bytes := slotBytes p i g slot (k * first) (k * n)
  elemsOf n (t 0 5) (t 1 4) (if g.kind = 1 then t 2 4 else []) (t 3 2)

def applyDense (w i gi : Nat) (p : SueBerth) (g : SGroup) (k : StepConst) (first n : Nat) (b : Block) : Block :=
  let es := (elemsRead p i g first n).map (stepElem k (biasConst k (p.s - 1)))
  let b := count 10 (some w) (laneOps k * n) b
  noteNonFinite w (es.any (nonFinite k)) (writeElems w i gi g p.s first es b)

/-- One touched row: its count, its elements. -/
def applyRow (p : SueBerth) (i : Nat) (g : SGroup) (k : StepConst) (r : Nat) : Nat × List Elem :=
  let c := min 0xFFFFFFFF (fieldLE (slotBytes p i g 6 (4 * r) 4) 0 4 + 1)
  (c, (elemsRead p i g (g.rowWidth * r) g.rowWidth).map (stepElem k (biasConst k c)))

/-- Rows that TOUCH names, of the lines read. -/
def touchedRows (p : SueBerth) (i : Nat) (g : SGroup) : List Nat :=
  let rows := g.params / g.rowWidth
  touched rows (slotBytes p i g 7 0 ((rows + 7) / 8))

def applySparse (w i gi : Nat) (p : SueBerth) (g : SGroup) (k : StepConst) (b : Block) : Block :=
  let rows := (touchedRows p i g).map fun r => (r, applyRow p i g k r)
  let setup := if k.cdc1 then 6 else 8
  let b := count 10 (some w) (rows.length * (laneOps k * g.rowWidth + setup)) b
  let b := rows.foldl (fun b r =>
    tensorWrite w i (slotOfGroup g 6) (4 * r.1) (leBytes 4 r.2.1) (writeElems w i gi g p.s (g.rowWidth * r.1) r.2.2 b)) b
  noteNonFinite w (rows.any fun r => r.2.2.any (nonFinite k)) b

/-- Lines of W, M1, M2 for ADAMW, and G that hold elements first to first + n. -/
def elemLines (g : SGroup) (first n : Nat) : List (Nat × Nat) :=
  slotLines g 0 (5 * first) (5 * n) ++ slotLines g 1 (4 * first) (4 * n) ++
    (if g.kind = 1 then slotLines g 2 (4 * first) (4 * n) else []) ++ slotLines g 3 (2 * first) (2 * n)

/-- Reads lines of an APPLY, each once. -/
def readLines (w i : Nat) (g : SGroup) (ls : List (Nat × Nat)) (b : Block) : Block :=
  ls.eraseDups.foldl (fun b l => tensorRead w i g l.1 l.2 b) b

/-- The lines of an APPLY have been read: a sparse one that has read TOUCH goes on to its rows, any other updates and writes. -/
def applyNext (w i : Nat) (b : Block) : Block :=
  let p := sueAt b w
  let r := opAt p i
  let gi := oGroup r
  match p.groups[gi]?, p.alphas.getD gi none with
  | some g, some a =>
    let rows := if g.sparse then touchedRows p i g else []
    if g.sparse ∧ !rows.isEmpty ∧ p.reads.all (fun x => x.op ≠ i || x.slot = 7) then
      readLines w i g (rows.flatMap fun k => slotLines g 6 (4 * k) 4 ++ elemLines g (g.rowWidth * k) g.rowWidth) b
    else
      let k := stepConst g (p.ks.getD gi 0) a (p.scalesNow.getD gi fone)
      let b := modSue w (fun p => { p with reads := p.reads.filter fun x => x.op ≠ i }) b
      if g.sparse then applySparse w i gi p g k b else applyDense w i gi p g k (oFirst r) (fieldLE r 0x10 8) b
  | _, _ => b

/-- The lines of the berth's STAGE buffers (R349). -/
def stageLines (b : Block) (w : Nat) : List Nat :=
  ((sueAt b w).decls.filter fun d => d.cls = 4).flatMap fun d => objLines b d.obj 0 (bufLen (objAt b d.obj))

/-- A line read from memory stays in a line of the STAGE buffers, RELEASED, until another one takes its place (R366). -/
def stageStore (w : Nat) (d : Bytes) (b : Block) : Block :=
  let ls := stageLines b w
  match ls[Config.stagePlace b.draws % ls.length]? with
  | some l => if producerCheck b [l] = cOk then producerWrite [(l, d)] { b with draws := b.draws + 1 } else b
  | none => b

/-- A tensor line has arrived for an APPLY. -/
def tensorLine (w i slot line : Nat) (d : Bytes) (b : Block) : Block :=
  let is (r : SueRead) : Bool := r.op = i && r.slot = slot && r.line = line
  if !(sueAt b w).reads.any is then b
  else
    let b := stageStore w d b
    let b := modSue w (fun p => { p with reads := p.reads.map fun r => if is r then { r with data := some d } else r }) b
    if (sueAt b w).reads.all fun r => r.op ≠ i || r.data.isSome then applyNext w i b else b

/-- APPLY starts: a dense one reads its element range, a sparse one TOUCH (R365); a slot in a LOST region fails the program (R367). -/
def applyOp (w i : Nat) : Block → Block :=
  startOp w i 6 fun p r b =>
    let gi := oGroup r
    match p.groups[gi]?, p.alphas.getD gi none with
    | some g, some _ =>
      if p.skip.getLsbD gi then finOp w i b
      else if g.slots.any (slotLost b w) then progFail w cPoison b
      else if g.sparse then readLines w i g (slotLines g 7 0 ((g.params / g.rowWidth + 7) / 8)) b
      else readLines w i g (elemLines g (oFirst r) (fieldLE r 0x10 8)) b
    | _, _ => finOp w i b

/-! ### Completion -/

/-- SUE_OP_COMPLETE: an operation whose work is done completes. -/
def completeOp (w i : Nat) (b : Block) : Block :=
  let p := sueAt b w
  let r := opAt p i
  if !inFlight p i ∨ oCode r = 5 ∨ tget 0 p.need i ≠ 0 ∨ p.reads.any (fun x => x.op = i) then b
  else if oCode r = 1 then
    let f := fenceAt b (opFence b w r)
    if f.state = .error then progFail w cPoison b
    else if geHalf f.value (BitVec.ofNat 64 p.s + oBias r) then finOp w i b else b
  else finOp w i b

/-- An answer to an operation's work. -/
def progDone (w i : Nat) (code : Byte) (b : Block) : Block :=
  let p := sueAt b w
  if !inFlight p i then b
  else if code ≠ cOk then progFail w code b
  else setNeed w i (tget 0 p.need i - 1) b

/-- Work of an operation failed: the program fails with it (R367). -/
def progLost (w i : Nat) (code : Byte) (b : Block) : Block := if inFlight (sueAt b w) i then progFail w code b else b

/-- A Hold read that waited goes on. -/
def progResume (w i : Nat) (b : Block) : Block :=
  let p := sueAt b w
  if !inFlight p i ∨ p.st ≠ .gather then b
  else if oCode (opAt p i) = 3 then sendGradGo w i b else reduceGo w i b

/-- A fence in ERROR fails the WAIT that is in flight on it. -/
def progFence (f : Nat) (b : Block) : Block :=
  let w := (fenceAt b f).berth
  let p := sueAt b w
  if p.st = .gather ∧ (List.range p.next).any fun i =>
      inFlight p i && oCode (opAt p i) = 1 && opFence b w (opAt p i) = f then progFail w cPoison b else b

/-! ### UNIT 2 commands (R369) -/

def layerScale (c i : Nat) : Block → Block :=
  runCmd c i 2 1 fun w m b =>
    let x : SScale := ⟨cLayer m.raw, fieldLE m.raw 0x28 8, fieldLE m.raw 0x30 4, m.order⟩
    let p := sueAt b w
    let same (y : SScale) : Bool := y.layer = x.layer && y.step = x.step
    let last (y : SScale) : SScale := if same y && y.order ≤ x.order then x else y
    if p.pend.any same then
      finishCmd c i cOk 0 (modSue w (fun p => { p with pend := p.pend.map last }) b)
    else if p.pend.length ≥ 64 then finishCmd c i cBusy 0 b
    else finishCmd c i cOk 0 (modSue w (fun p => { p with pend := p.pend ++ [x] }) b)

def stepInfo (c i : Nat) : Block → Block :=
  runCmd c i 2 2 fun w _ b => finishCmd c i cOk (BitVec.ofNat 32 (sueAt b w).applied) b

/-! ### Schedule engines (R395, R400, R401) -/

/-- The master may reach engine o of berth w. -/
def engMay (b : Block) (m : Master) (w o : Nat) : Bool :=
  match m with
  | .sealed => true
  | .session i => (sessOwner b i.val).any fun r => r.1 = w && r.2.index = o
  | _ => false

def engAt (b : Block) (w o : Nat) : SEngine := tget {} (sueAt b w).engines o
def modEng (w o : Nat) (f : SEngine → SEngine) : Block → Block := modSue w fun p => { p with engines := tmod {} p.engines o f }

/-- The checks of COMMIT; CLEAR needs the state and the authorisation. -/
def engCheck (b : Block) (m : Master) (w o : Nat) (commit : Bool) : Byte :=
  let st := (berthAt b w).st
  let x := (engAt b w o).shadow
  let fin (v : Nat) : Bool := isFinite f32 v
  let neg (v : Nat) : Bool := bit v 31 && v ≠ 2 ^ 31
  if st ≠ .loaded ∧ st ≠ .joined ∧ st ≠ .running then cLifecycle
  else if !engMay b m w o ∨ !(tideOf b w).any (fun t => t.owners.any fun r => r.index = o && bit r.flags 0) then cDenied
  else if !commit then cOk
  else if !fin x.amin ∨ !fin x.amax ∨ neg x.amin ∨ neg x.amax ∨ !fle x.amin x.amax ∨ x.shape = 3 ∨
      (x.shape ≠ 0 ∧ x.decay = 0 ∧ x.cycle = 0) then cDenied
  else cOk

def commitEng (m : Master) (w o : Nat) (b : Block) : Block :=
  let c := engCheck b m w o true
  modEng w o (fun e => if c = cOk then { e with active := e.shadow, valid := true, last := c } else { e with last := c }) b

def clearEng (m : Master) (w o : Nat) (b : Block) : Block :=
  let c := engCheck b m w o false
  modEng w o (fun e => if c = cOk then { e with valid := false, last := c } else { e with last := c }) b

/-- SUES_SEL of a master: the berth and the owner index. -/
def suesSel (m : Master) (sel : Word) : Nat × Nat :=
  (match m with | .berth k => k.val | _ => fld sel 4 0, fld sel 13 8)

/-- A write to an engine register; another master's write is refused (R17, R400). -/
def engWrite (m : Master) (w o off : Nat) (v : Word) (b : Block) : Block :=
  if !engMay b m w o then recordErr (errKey m 0x19) cDenied (errBerthOf m) b
  else if off = 0x044 then
    let b := modEng w o (fun e => { e with shadow := { e.shadow with shape := fld v 1 0 } }) b
    let b := if v.getLsbD 8 then commitEng m w o b else b
    if v.getLsbD 9 then clearEng m w o b else b
  else modEng w o (fun e => { e with shadow :=
    if off = 0x048 then { e.shadow with amax := v.toNat }
    else if off = 0x04C then { e.shadow with amin := v.toNat }
    else if off = 0x050 then { e.shadow with warm := v.toNat }
    else if off = 0x054 then { e.shadow with decay := v.toNat }
    else if off = 0x058 then { e.shadow with cycle := v.toNat }
    else e.shadow }) b

/-- The berth's scrub (R360, R371, R400): its clusters are clear, so a lane command that runs for it is complete. -/
def scrubSue (w : Nat) (b : Block) : Block :=
  let b := { b with sue := { b.sue with berths := tset {} b.sue.berths w {}, clusters := tset 0 b.sue.clusters w 0 } }
  if b.sue.cmd.any fun c => c.2 = w then endLane w cOk b else b

/-! ### Registers (R371, R401) -/

def progCode : ProgState → Nat
  | .none => 0 | .ready => 1 | .gather => 2 | .waitRelease => 3 | .apply => 4 | .stopped => 5 | .failed => 6

/-- SUE registers; `view` is the berth of a window, `sel` the berth selected, `peer` the selected peer entry. -/
def sueRead (b : Block) (view : Option Nat) (sel peer o : Nat) : Word :=
  let w32 (n : Nat) : Word := BitVec.ofNat 32 n
  let p := sueAt b sel
  if o = 0x040 then
    (if view.isSome then 0
     else w32 (16 - popcount 16 (b.sue.clusters.foldl (fun a e => a ||| e.2) 0) +
       256 * (tfind b.sue.berths fun _ p => p.st ≠ .none).length))
  else if o = 0x048 then w32 (b.sue.status.toNat + 256 * b2n b.sue.cmd.isSome)
  else if o = 0x050 then w32 (progCode p.st + 16 * oldestOp p + 65536 * p.code.toNat)
  else if o = 0x054 then w32 p.s
  else if o = 0x058 then w32 (p.s / 2 ^ 32)
  else if o = 0x05C then w32 p.applied
  else if o = 0x060 then w32 (p.applied / 2 ^ 32)
  else if o = 0x064 then w32 p.mask.toNat
  else if o = 0x068 then w32 (p.mask.toNat / 2 ^ 32)
  else if o = 0x06C then w32 p.skips
  else if o = 0x074 then tget 0 p.peers peer
  else if 0x100 ≤ o ∧ o < 0x180 then
    let k := (o - 0x100) / 4
    if view.all fun v => v = k then w32 (clustersOf b k) else 0
  else 0

/-- SUES registers; `may` says that the master reaches the selected engine. -/
def suesRead (b : Block) (may : Bool) (sel eng o : Nat) : Word :=
  let w32 (n : Nat) : Word := BitVec.ofNat 32 n
  let p := sueAt b sel
  let e := engAt b sel eng
  if 0x044 ≤ o ∧ o < 0x060 ∧ !may then 0
  else if o = 0x044 then w32 (e.shadow.shape + 65536 * b2n e.valid + 2 ^ 24 * e.last.toNat)
  else if o = 0x048 then w32 e.shadow.amax
  else if o = 0x04C then w32 e.shadow.amin
  else if o = 0x050 then w32 e.shadow.warm
  else if o = 0x054 then w32 e.shadow.decay
  else if o = 0x058 then w32 e.shadow.cycle
  else if o = 0x05C then w32 e.alpha
  else if o = 0x060 then w32 p.pend.length
  else if o = 0x064 then w32 p.noSched
  else if o = 0x068 then w32 p.wnf
  else if 0x100 ≤ o ∧ o < 0x140 then
    let n := (o - 0x100) / 4
    ((List.range 4).map fun k => BitVec.ofInt 8 (p.gexp.getD (4 * n + k) 0)).foldr (fun x a => (a <<< 8) ||| x.setWidth 32) 0
  else 0

end Sys2Proof.Machine
end

