-- ==== Sys2Proof/Machine/Tide.lean ====
section
/-!
DEFINITION. The tide table's container and its sections as data: their layouts and the checks that need only the table (R124 to
R126, R161, R232, R233, R277, R278, R311 to R313, R335, R336, R354 to R359, R384, R385).
-/

namespace Sys2Proof.Machine

/-! ### Small readers -/

/-- n bytes from offset o on are 0. -/
def zeros (bs : Bytes) (o n : Nat) : Bool := fieldLE bs o n = 0

/-- A section of whole entries of n bytes. -/
def entriesOf (n : Nat) (bs : Bytes) : Option (List Bytes) := if bs.length % n = 0 then some (chunks n bs) else none

/-- Bytes rounded up to a multiple of 16. -/
def pad16 (n : Nat) : Nat := (n + 15) / 16 * 16

def allDistinct (l : List Nat) : Bool := l.eraseDups.length = l.length

/-! ### Container (R311, step 1 of R313) -/

/-- The container's header and its sections by TYPE. -/
structure Container where
  job     : Nat
  device  : Nat
  restore : Bool
  ticks   : Nat
  secs    : Table Bytes

def Container.sec (c : Container) (t : Nat) : Bytes := tget [] c.secs t
def Container.has (c : Container) (t : Nat) : Bool := c.secs.any fun e => e.1 = t

/-- Intervals [a, b) of a list meet. -/
def anyMeet : List (Nat × Nat) → Bool
  | [] => false
  | x :: xs => (xs.any fun y => x.1 < y.2 && y.1 < x.2) || anyMeet xs

def parseContainer (job : Nat) (bs : Bytes) : Option Container :=
  let n := fieldLE bs 6 2
  let len := fieldLE bs 0x10 8
  let tab := (List.range n).map fun i => slice bs (64 + 16 * i) 16
  let spans := tab.map fun e => (fieldLE e 8 8, fieldLE e 8 8 + fieldLE e 4 4)
  let types := tab.map fun e => fieldLE e 0 2
  let ok :=
    fieldLE bs 0 4 = 0x32444954 && fieldLE bs 4 2 = 2 && 1 ≤ n && n ≤ 16 && fieldLE bs 8 8 = job && len ≤ bs.length &&
    64 + 16 * n ≤ len && fieldLE bs 0x18 2 < 2 ^ 13 && fieldLE bs 0x1A 2 < 2 && 1 ≤ fieldLE bs 0x1C 4 && zeros bs 0x20 32 &&
    tab.all (fun e => 1 ≤ fieldLE e 0 2 && fieldLE e 0 2 ≤ 12 && zeros e 2 2 && fieldLE e 8 8 % 64 = 0 &&
      fieldLE e 8 8 + fieldLE e 4 4 ≤ len) &&
    allDistinct types && [1, 2, 6, 7].all types.contains &&
    !anyMeet ((0, 64 + 16 * n) :: spans) &&
    (fieldLE bs 0x1A 2 = 0 || types.contains 8)
  if ok then
    some { job := job, device := fieldLE bs 0x18 2, restore := fieldLE bs 0x1A 2 = 1, ticks := fieldLE bs 0x1C 4,
           secs := tab.foldl (fun t e => tset [] t (fieldLE e 0 2) (slice bs (fieldLE e 8 8) (fieldLE e 4 4))) [] }
  else none

/-! ### Manifest (R124 to R126, step 2) -/

structure Manifest where
  setId   : Nat
  prevSet : Nat
  owners  : List OwnerRec
  labels  : List Label

def ownerOf (r : Bytes) : OwnerRec := ⟨fieldLE r 0 1, fieldLE r 1 1, slice r 0x10 48⟩
def labelOf (r : Bytes) : Label :=
  ⟨fieldLE r 0 2, fieldLE r 2 1, fieldLE r 3 1, fieldLE r 4 4, fieldLE r 8 4, slice r 0x10 48⟩

/-- Purpose, PARENT and context of a label agree (R121, R125). -/
def labelOk (m : Manifest) (l : Label) : Bool :=
  let owner (i bitNo : Nat) : Bool := m.owners.any fun o => o.index = i && (bitNo = 3 || bit o.flags bitNo)
  let plain := l.ctx.all (· = 0)
  match l.purpose with
  | 0x1 => l.parent = 0x40
  | 0x2 => l.parent < 0x40 && owner l.parent 3
  | 0x3 => l.parent = 0x42
  | 0x4 => l.parent = 0x42
  | 0x5 => l.parent = 0x42
  | 0x6 =>
    let s := if l.parent = 0x41 then m.setId else m.prevSet
    (l.parent = 0x41 || l.parent = 0x44) && s ≠ 0 && ctxSet l.ctx = s
  | 0x7 => l.parent = 0x43
  | 0x8 => l.parent = 0xFF && plain
  | 0x9 => owner l.parent 3 && plain
  | 0xA => owner l.parent 2 && plain
  | 0xB => owner l.parent 0 && ctxSet l.ctx ≠ 0 && (ctxSet l.ctx = m.setId || ctxSet l.ctx = m.prevSet) &&
      (l.ctx.drop 8).all (· = 0)
  | _ => false

/-- The number of labels that satisfy p is 1. -/
def exactlyOne (m : Manifest) (p : Label → Bool) : Bool := (m.labels.filter p).length = 1

/-- Checks over the whole Manifest; `first` is the first KID of the berth's range and `count` its length. -/
def manifestOk (m : Manifest) (first count : Nat) : Bool :=
  let kids := m.labels.map Label.kid
  let ckpt (k : Nat) : Bool := m.labels.any fun l => l.kid = k && l.purpose = 0x8
  m.labels.length + 1 ≤ count &&
  allDistinct (m.owners.map OwnerRec.index) && m.owners.all (fun o => o.index < 64 && o.flags < 8) &&
  (m.owners.filter fun o => bit o.flags 2).length = 1 &&
  ((m.setId = 0 && m.prevSet = 0) || m.owners.any fun o => bit o.flags 0) &&
  (m.prevSet = 0 || (m.setId ≠ 0 && m.setId ≠ m.prevSet)) &&
  allDistinct kids && kids.all (fun k => first < k && k < first + count) &&
  m.labels.all (fun l => l.purpose < 16 && labelOk m l && l.activate < l.retire) &&
  m.owners.all (fun o => exactlyOne m fun l => l.purpose = 0x9 && l.parent = o.index) &&
  (exactlyOne m fun l => l.purpose = 0xA) &&
  (m.setId = 0 || exactlyOne m fun l => l.purpose = 0xB && ctxSet l.ctx = m.setId) &&
  (m.prevSet = 0 || exactlyOne m fun l => l.purpose = 0xB && ctxSet l.ctx = m.prevSet) &&
  m.labels.all fun l => l.purpose ≠ 0x8 || (if l.kid % 2 = 0 then ckpt (l.kid + 1) else ckpt (l.kid - 1))

def parseManifest (job first count : Nat) (bs : Bytes) : Option Manifest :=
  let no := fieldLE bs 6 1
  let ne := fieldLE bs 8 4
  if fieldLE bs 0 4 ≠ 0x32464E4D ∨ fieldLE bs 4 2 ≠ 2 ∨ no = 0 ∨ no > 64 ∨ fieldLE bs 0x10 8 ≠ job ∨
      bs.length ≠ 64 * (1 + no + ne) ∨ !zeros bs 7 1 ∨ !zeros bs 0x0C 4 ∨ !zeros bs 0x28 24 then none
  else
    let recs := chunks 64 (bs.drop 64)
    let os := recs.take no
    let ls := recs.drop no
    let m : Manifest := ⟨fieldLE bs 0x18 8, fieldLE bs 0x20 8, os.map ownerOf, ls.map labelOf⟩
    if os.all (fun r => zeros r 2 14) && ls.all (fun r => zeros r 0x0C 4 && fieldLE r 0 2 < 2 ^ 11) && manifestOk m first count
    then some m else none

/-! ### Region list, crossings, maps, gradient keys (R312, steps 3 and 4) -/

def rgnOf (r : Bytes) : RgnEnt :=
  { kind := fieldLE r 0 1, port := fieldLE r 1 1, log2 := fieldLE r 2 1, extra := fieldLE r 4 4, base := fieldLE r 8 8 }

def rgnClean (r : Bytes) : Bool :=
  let x := BitVec.ofNat 32 (fieldLE r 4 4)
  zeros r 3 1 &&
  match fieldLE r 0 1 with
  | 0 => zeros r 2 1
  | 1 => fld x 15 11 = 0 && fld x 31 27 = 0
  | 2 => x = 0
  | 3 => x = 0
  | _ => false

def parseRegions (bs : Bytes) : Option (List RgnEnt) :=
  (entriesOf 16 bs).bind fun es => if es.all rgnClean then some (es.map rgnOf) else none

def xingOf (r : Bytes) : XingEnt :=
  { n := fieldLE r 0 1, x := fieldLE r 1 1, peer := fieldLE r 4 4, kid0 := fieldLE r 8 2, kid1 := fieldLE r 0x0A 2,
    round := fieldLE r 0x0C 4 }

/-- A crossing entry's fields lie in their ranges; `mine` says which KIDs the berth may name. -/
def xingOk (landings : Nat) (mine : Nat → Bool) (r : Bytes) : Bool :=
  let e := xingOf r
  e.n < landings && e.x < 32 && zeros r 2 2 && e.peer < 2 ^ 19 && mine e.kid0 && mine e.kid1

def parseXings (landings : Nat) (mine : Nat → Bool) (bs : Bytes) : Option (List XingEnt) :=
  (entriesOf 16 bs).bind fun es => if es.all (xingOk landings mine) then some (es.map xingOf) else none

def mapOf (r : Bytes) : SlotMap :=
  { n := fieldLE r 0 1, tx := (List.range 61).map fun i => fieldLE r (2 + i) 1, rx := (List.range 61).map fun i => fieldLE r (66 + i) 1 }

def mapClean (landings : Nat) (r : Bytes) : Bool :=
  let m := mapOf r
  m.n < landings && zeros r 1 1 && zeros r 63 3 && zeros r 127 1 && (m.tx ++ m.rx).all fun e => bits e 6 5 = 0

def parseMaps (landings : Nat) (bs : Bytes) : Option (List SlotMap) :=
  (entriesOf 128 bs).bind fun es => if es.all (mapClean landings) then some (es.map mapOf) else none

def parseGkm (mine : Nat → Bool) (bs : Bytes) : Option (List (Nat × Nat × Nat)) :=
  (entriesOf 4 bs).bind fun es =>
    if es.all fun r => fieldLE r 0 1 < 64 && fieldLE r 1 1 < 2 && mine (fieldLE r 2 2)
    then some (es.map fun r => (fieldLE r 0 1, fieldLE r 1 1, fieldLE r 2 2)) else none

/-! ### Hold plan (R232, R233, step 5) -/

def bufOf (r : Bytes) : BufEnt := { first := fieldLE r 0 2, width := fieldLE r 2 2, row := fieldLE r 4 2, lines := fieldLE r 8 4 }

def bufOk (banks : Nat) (r : Bytes) : Bool :=
  let e := bufOf r
  1 ≤ e.width && e.width ≤ 1536 && e.row ≤ 511 && 1 ≤ e.lines && zeros r 6 2 && zeros r 0x0C 4 &&
  e.first + e.width ≤ banks && e.row + (e.lines + e.width - 1) / e.width ≤ 512

/-- Some two buffers share a line. -/
def buffersMeet : List BufEnt → Bool
  | [] => false
  | e :: es => (es.any fun f => rectsMeet (rects e.first e.width e.row e.lines) (rects f.first f.width f.row f.lines)) || buffersMeet es

def parsePlan (count : Nat) (bs : Bytes) : Option (List BufEnt) :=
  let banks := fieldLE bs 4 2
  let n := fieldLE bs 8 4
  if fieldLE bs 0 4 ≠ 0x32444C48 ∨ banks = 0 ∨ banks > 1536 ∨ banks > count ∨ !zeros bs 6 2 ∨ !zeros bs 0x0C 4 ∨ n = 0 ∨
      n > 65536 ∨ bs.length ≠ 16 * (n + 1) then none
  else
    let es := chunks 16 (bs.drop 16)
    if es.all (bufOk banks) && !buffersMeet (es.map bufOf) then some (es.map bufOf) else none

/-! ### Object section (R277, R278, step 6) -/

structure ObjSection where
  ctxs   : List CtxEnt
  fences : List FenceEnt
  dir    : Nat
  dirOff : Nat

def ctxOf (r : Bytes) : CtxEnt := ⟨fieldLE r 0 2, fieldLE r 2 2, fieldLE r 4 2, fieldLE r 8 8⟩
def fenceOf (r : Bytes) : FenceEnt := { init := BitVec.ofNat 64 (fieldLE r 0 8), mregion := fieldLE r 8 2, mslot := fieldLE r 0x0C 4 }

/-- Bytes o to o + n of region k lie inside queue memory (R275, R278). -/
def inQueueMem (rs : List RgnEnt) (k o n : Nat) : Bool :=
  match rs[k]? with
  | some r => queueMem r && o + n ≤ rgnBytes r
  | none => false

/-- The handles a load creates (R279). -/
def handleCount (rs xs bufs fences : Nat) : Nat := rs + xs + bufs + fences

def parseObjects (ccount : Nat) (rs : List RgnEnt) (others : Nat) (bs : Bytes) : Option ObjSection :=
  let nc := fieldLE bs 6 2
  let nf := fieldLE bs 8 2
  if fieldLE bs 0 4 ≠ 0x324A424F ∨ fieldLE bs 4 2 ≠ 2 ∨ nc = 0 ∨ nc > 4096 ∨ nf > 8192 ∨ !zeros bs 0x0C 4 ∨ !zeros bs 0x18 8 ∨
      bs.length ≠ 32 + 16 * (nc + nf) ∨ fieldLE bs 0x10 8 % 64 ≠ 0 then none
  else
    let es := chunks 16 (bs.drop 32)
    let cr := es.take nc
    let fr := es.drop nc
    let o : ObjSection := ⟨cr.map ctxOf, fr.map fenceOf, fieldLE bs 0x0A 2, fieldLE bs 0x10 8⟩
    let ok :=
      cr.all (fun r => zeros r 6 2) && fr.all (fun r => zeros r 0x0A 2) && allDistinct (o.ctxs.map CtxEnt.slot) &&
      o.ctxs.all (fun c => c.slot < ccount && 1 ≤ c.scan && c.off % 64 = 0 && inQueueMem rs c.region c.off 64) &&
      o.fences.all (fun f => f.mregion = 0xFFFF || inQueueMem rs f.mregion (16 * f.mslot) 16) &&
      inQueueMem rs o.dir o.dirOff (4 * (others + nf))
    if ok then some o else none

/-! ### Checkpoint map, export list, rekey schedule (R161, R312, step 7) -/

def extentOf (r : Bytes) : Extent := ⟨fieldLE r 0 4, fieldLE r 4 4, fieldLE r 8 8⟩

/-- Extents lie in HBM or PROT regions of the table; their sectors number at most 2²⁴. -/
def parseExtents (rs : List RgnEnt) (bs : Bytes) : Option (List Extent) :=
  (entriesOf 16 bs).bind fun es =>
    let xs := es.map extentOf
    if xs.length ≤ 1024 && (xs.map Extent.count).sum ≤ 2 ^ 24 &&
      xs.all (fun x => x.off % 4096 = 0 && match rs[x.region]? with
        | some r => r.kind ≤ 1 && x.off + 4096 * x.count ≤ rgnBytes r
        | none => false)
    then some xs else none

/-- Region indices and crossing indices of the export list. -/
def parseExports (nr nx : Nat) (bs : Bytes) : Option (List Nat × List Nat) :=
  (entriesOf 4 bs).bind fun es =>
    let vs := es.map fun r => fieldLE r 0 4
    let isX (v : Nat) : Bool := bit v 31
    if vs.all fun v => bits v 30 16 = 0 && v % 65536 < (if isX v then nx else nr)
    then some ((vs.filter fun v => !isX v).map (· % 65536), (vs.filter isX).map (· % 65536)) else none

def rekeyOf (r : Bytes) : Rekey := { at_ := fieldLE r 0 4, kind := fieldLE r 4 2, idx := fieldLE r 6 2, kidA := fieldLE r 8 2, kidB := fieldLE r 0x0A 2 }

def rekeyOk (rs : List RgnEnt) (nx : Nat) (mine : Nat → Bool) (r : Bytes) : Bool :=
  let e := rekeyOf r
  zeros r 0x0C 4 &&
  match e.kind with
  | 1 => e.idx < nx && mine e.kidA && e.kidB = 0
  | 2 => true
  | 3 => rs[e.idx]?.any (fun x => x.kind = 1) && mine e.kidA && mine e.kidB
  | _ => false

def parseRekey (rs : List RgnEnt) (nx : Nat) (mine : Nat → Bool) (bs : Bytes) : Option (List Rekey) :=
  (entriesOf 16 bs).bind fun es => if es.all (rekeyOk rs nx mine) then some (es.map rekeyOf) else none

/-! ### Barrier tree (R335, R336) -/

/-- A participant word: none is the step program. -/
def partOf (v : Nat) : Option (Nat × Nat) := if bit v 15 then none else some (bits v 11 0, bits v 28 16)

def partClean (nf : Nat) (slots : List Nat) (v : Nat) : Bool :=
  bits v 14 12 = 0 && bits v 31 29 = 0 &&
  (if bit v 15 then bits v 11 0 = 0 && bits v 28 16 = 0 else slots.contains (bits v 11 0) && bits v 28 16 < nf)

def barOfEntry (kids : List Nat) (r : Bytes) : BarEnt :=
  { id := fieldLE r 0 1, node := fieldLE r 1 1 = 1, parent := fieldLE r 4 2
    kids := (kids.drop (fieldLE r 6 2)).take (fieldLE r 3 1)
    release := fieldLE r 8 2, subtree := fieldLE r 0x0C 4
    parts := (List.range (fieldLE r 2 1)).map fun i => partOf (fieldLE r (0x10 + 4 * i) 4) }

/-- An entry's own checks; `xs` holds the crossing of each crossing table index. -/
def barOk (sue : Bool) (xs : List Nat) (nf : Nat) (slots kids : List Nat) (r : Bytes) : Bool :=
  let e := barOfEntry kids r
  let np := fieldLE r 2 1
  let edges := if e.node then e.parent :: e.kids else e.kids
  let fs := e.parts.filterMap fun p => p.map Prod.snd
  fieldLE r 1 1 < 2 && np ≤ 16 && fieldLE r 3 1 ≤ 63 && zeros r 0x0A 2 && zeros r 0x50 16 &&
  (if e.node then e.parent ≠ 0xFFFF else e.parent = 0xFFFF) && edges.all (· < xs.length) && allDistinct (edges.map fun i => xs.getD i 0) &&
  fieldLE r 6 2 + fieldLE r 3 1 ≤ kids.length && e.release < nf && 1 ≤ e.subtree && e.subtree ≤ 8192 &&
  e.kids.length + 1 ≤ e.subtree &&
  (List.range 16).all (fun i => if i < np then partClean nf slots (fieldLE r (0x10 + 4 * i) 4) else zeros r (0x10 + 4 * i) 4) &&
  allDistinct fs && !fs.contains e.release && (e.parts.filter Option.isNone).length ≤ 1 && (sue || e.parts.all Option.isSome)

def parseBars (sue : Bool) (xs : List Nat) (nf : Nat) (slots : List Nat) (bs : Bytes) : Option (List BarEnt) :=
  let n := fieldLE bs 6 2
  let c := fieldLE bs 8 2
  if fieldLE bs 0 4 ≠ 0x32524142 ∨ fieldLE bs 4 2 ≠ 2 ∨ n = 0 ∨ n > 64 ∨ c > 4032 ∨ !zeros bs 0x0A 6 ∨
      bs.length ≠ 16 + 96 * n + pad16 (2 * c) ∨ !zeros bs (16 + 96 * n + 2 * c) (pad16 (2 * c) - 2 * c) then none
  else
    let es := (List.range n).map fun i => slice bs (16 + 96 * i) 96
    let kids := (List.range c).map fun i => fieldLE bs (16 + 96 * n + 2 * i) 2
    if es.all (barOk sue xs nf slots kids) && kids.all (· < xs.length) && allDistinct (es.map fun r => fieldLE r 0 1)
    then some (es.map (barOfEntry kids)) else none

end Sys2Proof.Machine
end

