-- ==== Sys2Proof/Machine/Programs.lean ====
section
/-!
DEFINITION. The step program section (R354 to R359) and its constant table (R384, R385): layout and checks.
-/

namespace Sys2Proof.Machine

/-! ### Groups and constants (R355, R356, R384, R385) -/

def signed8 (v : Nat) : Int := (BitVec.ofNat 8 v).toInt

/-- A group entry and its constant record. -/
def groupOf (consts r : Bytes) : SGroup :=
  let k := slice consts (fieldLE r 0x0C 4) (64 + 16 * fieldLE consts (fieldLE r 0x0C 4 + 0x17) 1)
  { kind := fieldLE r 0 1, sparse := bit (fieldLE r 1 1) 0, nfmt := fieldLE r 2 1, block := fieldLE r 3 1, gfmt := fieldLE r 4 1
    sr := bit (fieldLE r 5 1) 0, cdc1 := bit (fieldLE r 5 1) 1, sched := fieldLE r 6 1, layer := fieldLE r 8 2
    rowWidth := fieldLE r 0x0A 2, params := fieldLE r 0x10 8
    slots := (List.range 8).map fun i => (fieldLE r (0x20 + 12 * i) 2, fieldLE r (0x24 + 12 * i) 8)
    beta1 := fieldLE k 0 4, beta2 := fieldLE k 4 4, eps := fieldLE k 8 4, lambda := fieldLE k 0x0C 4, mu := fieldLE k 0x10 4
    eInit := signed8 (fieldLE k 0x14 1), eMin := signed8 (fieldLE k 0x15 1), eMax := signed8 (fieldLE k 0x16 1)
    grow := fieldLE k 0x18 4, seed := fieldLE k 0x1C 4
    points := (List.range (fieldLE k 0x17 1)).map fun i => (fieldLE k (0x40 + 16 * i) 8, fieldLE k (0x48 + 16 * i) 4) }

/-- Reserved fields and the record's place. -/
def groupClean (consts r : Bytes) : Bool :=
  let o := fieldLE r 0x0C 4
  let n := fieldLE consts (o + 0x17) 1
  fieldLE r 1 1 < 2 && fieldLE r 5 1 < 4 && zeros r 7 1 && zeros r 0x18 8 && o % 16 = 0 && o + 64 ≤ consts.length && n ≤ 64 &&
  o + 64 + 16 * n ≤ consts.length && zeros consts (o + 0x20) 32 &&
  (List.range n).all (fun i => zeros consts (o + 0x4C + 16 * i) 4) &&
  (List.range 8).all fun i => zeros r (0x22 + 12 * i) 2 && fieldLE r (0x24 + 12 * i) 8 % 64 = 0

/-- A binary32 value in [0, 1). -/
def fUnit (v : Nat) : Bool := fnonneg v && !fle fone v

/-- Breakpoints rise in STEP and carry a finite ALPHA of at least 0. -/
def pointsOk : List (Nat × Nat) → Bool
  | [] => true
  | [p] => fnonneg p.2
  | p :: q :: ps => fnonneg p.2 && p.1 < q.1 && pointsOk (q :: ps)

/-- The numerics checks of R385. -/
def numericsOk (owners : List OwnerRec) (g : SGroup) : Bool :=
  let e (x : Int) : Bool := -126 ≤ x && x ≤ 126
  (g.gfmt = 1 || g.gfmt = 2) && 1 ≤ g.nfmt && g.nfmt ≤ 6 && !(g.sr && g.cdc1) && (!g.cdc1 || g.block = 32) &&
  (if g.sched = 0xFF then !g.points.isEmpty
   else g.points.isEmpty && owners.any fun o => o.index = g.sched && bit o.flags 0) &&
  (if g.kind = 1 then fUnit g.beta1 && fUnit g.beta2 && fnonneg g.eps && g.eps % 2 ^ 31 ≠ 0 && g.mu = 0
   else fUnit g.mu && g.beta1 = 0 && g.beta2 = 0 && g.eps = 0) &&
  fnonneg g.lambda && e g.eInit && e g.eMin && e g.eMax && g.eMin ≤ g.eInit && g.eInit ≤ g.eMax && (g.sr || g.seed = 0) &&
  pointsOk g.points

/-- Bytes of a role (R356). -/
def roleBytes (g : SGroup) (k : Nat) : Nat :=
  let rows := if g.rowWidth = 0 then 0 else g.params / g.rowWidth
  match k with
  | 0 => 5 * g.params
  | 1 => 4 * g.params
  | 2 => 4 * g.params
  | 3 => 2 * g.params
  | 4 => g.params * narrowBits g.nfmt / 8
  | 5 => g.params / g.block
  | 6 => 4 * rows
  | _ => (rows + 511) / 512 * 64

def roleWanted (g : SGroup) (k : Nat) : Bool := if k = 2 then g.kind = 1 else if k ≥ 6 then g.sparse else true
def roleSealed (k : Nat) : Bool := k ≠ 4 && k ≠ 5

/-- A tensor slot names its region and fits in it. -/
def slotOk (rs : List RgnEnt) (sealedList : List Nat) (g : SGroup) (k : Nat) : Bool :=
  let s := g.slots.getD k (0xFFFF, 0)
  if !roleWanted g k then s.1 = 0xFFFF
  else match rs[s.1]? with
  | none => false
  | some r =>
    s.2 + roleBytes g k ≤ rgnBytes r &&
    (if roleSealed k then sealedList.contains s.1 else r.kind = 0 && !sealedList.contains s.1)

def groupOk (rs : List RgnEnt) (sealedList : List Nat) (owners : List OwnerRec) (g : SGroup) : Bool :=
  (g.kind = 1 || g.kind = 2) && [16, 32, 64, 128].contains g.block && 1 ≤ g.params && g.params % g.block = 0 &&
  (if g.sparse then g.rowWidth ≠ 0 && g.rowWidth % g.block = 0 && g.params % g.rowWidth = 0 else g.rowWidth = 0) &&
  numericsOk owners g && (List.range 8).all (slotOk rs sealedList g)

/-- The tensors of all groups, by region: no two overlap. -/
def tensorsApart (gs : List SGroup) : Bool :=
  let ts := gs.flatMap fun g => (List.range 8).filterMap fun k =>
    let s := g.slots.getD k (0xFFFF, 0)
    if roleWanted g k then some (s.1, s.2, s.2 + roleBytes g k) else none
  (ts.map Prod.fst).eraseDups.all fun r => !anyMeet ((ts.filter fun t => t.1 = r).map Prod.snd)

/-! ### Declarations (R357) -/

def declOf (r : Bytes) : SDecl := { plan := fieldLE r 0 2, cls := fieldLE r 2 1, owners := fieldLE r 8 8 }

def declOk (bufs : Nat) (owners : List OwnerRec) (r : Bytes) : Bool :=
  let d := declOf r
  d.plan < bufs && 1 ≤ d.cls && d.cls ≤ 4 && zeros r 3 5 &&
  (if d.cls = 4 then d.owners = 0
   else d.owners ≠ 0 && (List.range 64).all fun i => !d.owners.testBit i || owners.any fun o => o.index = i) &&
  (d.cls ≠ 1 || popcount 64 d.owners = 1)

/-! ### Operations (R358, R359) -/

/-- What the checks of an operation need: groups, declarations with their lengths, fences, the export crossings. -/
structure OpEnv where
  groups  : List SGroup
  decls   : List SDecl
  lens    : List Nat
  fences  : Nat
  xings   : Nat
  exports : List Nat

def OpEnv.decl (v : OpEnv) (k : Nat) : SDecl := v.decls.getD k { plan := 0, cls := 0, owners := 0 }
def OpEnv.fits (v : OpEnv) (k first n : Nat) : Bool := k < v.decls.length && first + n ≤ v.lens.getD k 0

/-- Bytes an operation does not list are 0. -/
def opClean (r : Bytes) : Bool :=
  let group := oCode r = 4 || oCode r = 6
  (group || oGroup r = 0) &&
  match oCode r with
  | 1 => zeros r 4 4 && zeros r 0x10 16
  | 2 => zeros r 4 4 && zeros r 0x10 16
  | 3 => zeros r 0x0E 2 && zeros r 0x12 2 && zeros r 0x17 1 && zeros r 0x18 8
  | 4 => zeros r 0x1C 4
  | 5 => zeros r 2 30
  | 6 => zeros r 2 6 && zeros r 0x18 8
  | 7 => zeros r 0x0C 20
  | _ => false

def reduceOk (v : OpEnv) (r : Bytes) : Bool :=
  let srcs := (List.range (oSources r)).map (oDecl r + ·)
  let mask := srcs.foldl (fun a k => a ||| (v.decl k).owners) 0
  1 ≤ oSources r && oSources r ≤ 64 && oDest r < 2 &&
  srcs.all (fun k => 1 ≤ (v.decl k).cls && (v.decl k).cls ≤ 3 && v.fits k (fieldLE r 0x14 4) (oLines r)) &&
  match v.groups[oGroup r]? with
  | none => false
  | some g =>
    (g.sparse || oFirst r % 32 = 0) &&
    (oDest r = 0 && (g.sparse || oFirst r + 32 * oLines r ≤ g.params) ||
     oDest r = 1 && (v.decl (oDestDecl r)).cls = 3 && (v.decl (oDestDecl r)).owners = mask &&
       v.fits (oDestDecl r) (fieldLE r 0x18 4) (oLines r))

def opOk (v : OpEnv) (r : Bytes) : Bool :=
  opClean r &&
  match oCode r with
  | 1 => oDecl r < v.fences
  | 2 => oDecl r < v.fences
  | 3 =>
    let d := v.decl (oDecl r)
    (d.cls = 1 || d.cls = 3) && v.fits (oDecl r) (fieldLE r 4 4) (fieldLE r 8 4) && fieldLE r 0x0C 2 < v.xings &&
    v.exports.contains (fieldLE r 0x0C 2) && fieldLE r 0x10 2 < 1024
  | 4 => reduceOk v r
  | 6 =>
    (match v.groups[oGroup r]? with
     | some g => oFirst r + fieldLE r 0x10 8 ≤ g.params && (g.sparse || (oFirst r % 32 = 0 && fieldLE r 0x10 8 % 32 = 0))
     | none => false)
  | 7 => v.fits (oDecl r) (fieldLE r 4 4) (fieldLE r 8 4)
  | _ => true

/-- ARRIVE stands once, the gathering before it and the applying after it. -/
def orderOk (ops : List Bytes) : Bool :=
  let before := ops.takeWhile fun r => oCode r ≠ 5
  let after := ops.drop (before.length + 1)
  (ops.filter fun r => oCode r = 5).length = 1 && before.all (fun r => oCode r ≠ 6) &&
  after.all fun r => oCode r ≠ 1 && oCode r ≠ 3 && oCode r ≠ 4

def overlap (a c : Nat × Nat) : Nat × Nat := (max a.1 c.1, min a.2 c.2)

/-- Every element an APPLY of a group covers is written by exactly one REDUCE and covered by one APPLY. -/
def coverOk (ops : List Bytes) (gi : Nat) (g : SGroup) : Bool :=
  let mine := ops.filter fun r => oGroup r = gi
  let reds := mine.filter fun r => oCode r = 4 && oDest r = 0
  let apps := (mine.filter fun r => oCode r = 6).map fun r => (oFirst r, oFirst r + fieldLE r 0x10 8)
  if g.sparse then reds.length = 1 && apps.length = 1 && apps.all fun a => a = (0, g.params)
  else
    let rs := reds.map fun r => (oFirst r, oFirst r + 32 * oLines r)
    !anyMeet apps && apps.all fun a =>
      let parts := (rs.map (overlap a)).filter fun p => p.1 < p.2
      !anyMeet parts && (parts.map fun p => p.2 - p.1).sum = a.2 - a.1

/-! ### The section -/

/-- What the section's checks need of the load so far. -/
structure SueEnv where
  sue      : Bool
  clusters : Nat
  regions  : List RgnEnt
  owners   : List OwnerRec
  bufs     : List BufEnt
  fences   : Nat
  xings    : Nat
  exports  : List Nat
  bars     : List BarEnt

/-- The program of a berth at load (R360, R390). -/
def programOf (groups : List SGroup) (clusters : Nat) (decls : List SDecl) (sealedList : List Nat) (ops : List Bytes)
    (bar base : Nat) : SueBerth :=
  { st := .ready, groups := groups, clusters := clusters, decls := decls, sealed_ := sealedList, ops := ops, barrier := bar,
    s := (base + 2) % 2 ^ 64, applied := (base + 1) % 2 ^ 64, gexp := groups.map SGroup.eInit,
    streak := groups.map fun _ => 0 }

/-- Field offsets of the parts: group entries, sealed list, declarations, operations, constants, and the section's length. -/
def partsOf (bs : Bytes) : Nat × Nat × Nat × Nat × Nat :=
  let s := 64 + 128 * fieldLE bs 6 1
  let d := s + pad16 (2 * fieldLE bs 0x0A 2)
  let o := d + 16 * fieldLE bs 8 2
  let c := o + 32 * fieldLE bs 0x0C 2
  (s, d, o, c, c + fieldLE bs 0x18 4)

def headOk (e : SueEnv) (bs : Bytes) : Bool :=
  let p := partsOf bs
  let sl := fieldLE bs 0x0A 2
  fieldLE bs 0 4 = 0x32455553 && fieldLE bs 4 2 = 2 && 1 ≤ fieldLE bs 6 1 && fieldLE bs 6 1 ≤ 64 && 1 ≤ fieldLE bs 7 1 &&
  fieldLE bs 7 1 ≤ 16 && fieldLE bs 8 2 ≤ 1024 && 1 ≤ sl && sl ≤ 256 && 2 ≤ fieldLE bs 0x0C 2 && fieldLE bs 0x0C 2 ≤ 4096 &&
  zeros bs 0x0F 1 && zeros bs 0x1C 36 && bs.length = p.2.2.2.2 && zeros bs (p.1 + 2 * sl) (p.2.1 - p.1 - 2 * sl) &&
  e.sue && fieldLE bs 7 1 ≤ e.clusters &&
  e.bars.any fun x => x.id = fieldLE bs 0x0E 1 && x.parts.any Option.isNone

def parseSue (e : SueEnv) (bs : Bytes) : Option SueBerth :=
  if !headOk e bs then none
  else
    let p := partsOf bs
    let consts := bs.drop p.2.2.2.1
    let gr := (List.range (fieldLE bs 6 1)).map fun i => slice bs (64 + 128 * i) 128
    let groups := gr.map (groupOf consts)
    let sl := (List.range (fieldLE bs 0x0A 2)).map fun i => fieldLE bs (p.1 + 2 * i) 2
    let dr := (List.range (fieldLE bs 8 2)).map fun i => slice bs (p.2.1 + 16 * i) 16
    let decls := dr.map declOf
    let ops := (List.range (fieldLE bs 0x0C 2)).map fun i => slice bs (p.2.2.1 + 32 * i) 32
    let v : OpEnv := { groups := groups, decls := decls, lens := decls.map fun d => (e.bufs[d.plan]?.map BufEnt.lines).getD 0,
                       fences := e.fences, xings := e.xings, exports := e.exports }
    let ok :=
      gr.all (groupClean consts) && sl.all (fun k => e.regions[k]?.any fun r => r.kind ≤ 1) &&
      groups.all (groupOk e.regions sl e.owners) && tensorsApart groups &&
      dr.all (declOk e.bufs.length e.owners) && allDistinct (decls.map SDecl.plan) &&
      ops.all (opOk v) && orderOk ops && (groups.zipIdx.all fun g => coverOk ops g.2 g.1) &&
      (!ops.any (fun r => oCode r = 6) || decls.any fun d => d.cls = 4)
    if ok then some (programOf groups (fieldLE bs 7 1) decls sl ops (fieldLE bs 0x0E 1) (fieldLE bs 0x10 8)) else none

end Sys2Proof.Machine
end

