-- ==== Sys2Proof/Machine/Sessions.lean ====
section
/-!
DEFINITION. Secured sessions and certificate slots as the other units see them (R128, R446, R450, R453): how they end.
-/

namespace Sys2Proof.Machine

def sessionAt (b : Block) (i : Nat) : Session := tget {} b.sess i
def modSession (i : Nat) (f : Session → Session) (b : Block) : Block := { b with sess := tmod {} b.sess i f }
def modMgmt (f : Mgmt → Mgmt) (b : Block) : Block := { b with mgmt := f b.mgmt }

/-- A message that waits on the I3C transport is signalled by an in-band interrupt (R67). -/
def i3cCall (t : Transport) (b : Block) : Block := if t = .i3c then emit .i3cIrq b else b

/-- A patch delivery is given up (R453). -/
def dropDelivery (m : Mgmt) : Mgmt := { m with deliv := .idle, length := 0, stage := [] }

/-- A session ends: its stage is cleared (R128) and its delivery dropped (R453). -/
def endSession (i : Nat) (b : Block) : Block :=
  let s := sessionAt b i
  if !s.up then b
  else
    let b := { b with sess := tset {} b.sess i {} }
    let b := if b.kstg.st ≠ 0 ∧ b.kstg.holder = i then stageIdle b else b
    let b := if b.mgmt.deliv ≠ .idle ∧ b.mgmt.dsess = i then modMgmt dropDelivery b else b
    raise 0x1D 1 b

/-- The berth a slot is bound to, and the slot a berth is bound to (R450). -/
def slotBerth (b : Block) (s : Nat) : Option Nat := tget none b.certs s
def berthSlot (b : Block) (w : Nat) : Option Nat := (List.range 8).find? fun s => slotBerth b s = some w

/-- A slot is released: every session opened on it ends. -/
def releaseSlot (s : Nat) (b : Block) : Block :=
  if (slotBerth b s).isNone then b
  else
    let b := raise 0x1D 3 { b with certs := tset none b.certs s none }
    (tfind b.sess fun _ x => x.slot = s).foldl (fun b i => endSession i b) b

/-- Binds a slot. -/
def bindSlotTo (s w : Nat) (b : Block) : Block := raise 0x1D 3 { b with certs := tset none b.certs s (some w) }

/-- After a LOAD the berth takes the lowest unbound slot from 1 to 7. -/
def bindLowest (w : Nat) (b : Block) : Block :=
  match (List.range 7).find? fun k => (slotBerth b (k + 1)).isNone with
  | some k => bindSlotTo (k + 1) w b
  | none => b

/-- The scrub releases the berth's slot. -/
def unbind (w : Nat) (b : Block) : Block :=
  match berthSlot b w with
  | some s => releaseSlot s b
  | none => b

/-- A TDI moves to ERROR when its berth enters SEALING or SCRUBBING, or the HIF is reset (R65). -/
def tdiFault (w : Nat) : Block → Block := modMgmt fun m => { m with tdis := tset .unlocked m.tdis w .error }

end Sys2Proof.Machine
end

