-- ==== Sys2Proof/Machine/Loading.lean ====
section
/-!
DEFINITION. LOAD (R279, R311 to R313, R450, R454): the steps that unpack a tide table into the units, the tide-table slots and
the rekey schedule (R127, R215, R216, R261).
-/

namespace Sys2Proof.Machine

abbrev LoadM (α : Type) := Except (Byte × Nat) α

/-- A step's result, or its refusal. -/
def orElse {α : Type} (step : Nat) (c : Byte) : Option α → LoadM α
  | some a => .ok a
  | none => .error (c, step)

def need (step : Nat) (c : Byte) (p : Bool) : LoadM Unit := if p then .ok () else .error (c, step)

/-! ### Regions (step 3) -/

/-- May a region list entry become a HIF checkpoint window (R164)? LOG2LINES and BASE are bounded as for engine A (R244, R245). -/
def windowOk (r : RgnEnt) : Bool :=
  r.kind = 2 && r.port = 0 && 6 ≤ r.log2 && r.log2 ≤ 34 && r.base % 4096 = 0 && r.base + 64 * 2 ^ r.log2 ≤ 2 ^ 52

/-- A checkpoint window of another berth covers some of the range (R36). -/
def windowTaken (b : Block) (w : Nat) (r : RgnEnt) : Bool :=
  b.objs.any fun e => e.2.st ≠ .free && e.2.berth ≠ w && match e.2.kind with
    | .window log2 base => base < r.base + 64 * 2 ^ r.log2 && r.base < base + 64 * 2 ^ log2
    | _ => false

/-- Creates one region; without engine A a KIND 2 entry is a HIF checkpoint window, which no unit holds. -/
def createOne (w : Nat) (r : RgnEnt) (b : Block) : Option (RgnEnt × Block) :=
  if r.kind ≠ 0 ∧ !b.build.mema then (if windowOk r && !windowTaken b w r then some (r, b) else none)
  else if r.kind = 0 then (createHbm w r.port r.base r.extra b).map fun p => ({ r with entry := p.1 }, p.2)
  else (createRegion w r.kind r.port r.log2 r.extra r.base b).map fun p => ({ r with entry := p.1 }, p.2)

def createRegions (w : Nat) : List RgnEnt → Block → Option (List RgnEnt × Block)
  | [], b => some ([], b)
  | r :: rs, b =>
    match createOne w r b with
    | none => none
    | some (r, b) => (createRegions w rs b).map fun p => (r :: p.1, p.2)

/-! ### Crossings and slot maps (step 4) -/

def heldByOther (b : Block) (w n x : Nat) : Bool := xingEn b n x && xingBerth b n x ≠ w

/-- The entry a slot has now: in the shadow when that is armed, else in the map in effect. -/
def slotNow (b : Block) (n s : Nat) (rx : Bool) : Nat :=
  if (reg b (lndReg n 0x064)).getLsbD (b2n rx) then
    let o := if rx then 0x0C0 else 0x080
    fld (reg b (lndReg n (o + 4 * (s / 4)))) (8 * (s % 4) + 7) (8 * (s % 4))
  else tget 0 (if rx then (lndAt b n).rxMap else (lndAt b n).txMap) s

def slotTaken (b : Block) (w n e : Nat) : Bool := bit e 7 && heldByOther b w n (e % 32)

/-- A map entry names no crossing of another berth, and its slot is not held by one. -/
def mapFree (b : Block) (w : Nat) (m : SlotMap) : Bool :=
  (List.range 61).all fun s =>
    let ok (e : Nat) (rx : Bool) : Bool := !bit e 7 || (!slotTaken b w m.n e && !slotTaken b w m.n (slotNow b m.n s rx))
    ok (m.tx.getD s 0) false && ok (m.rx.getD s 0) true

/-- Writes a shadow map: the berth's entries, and what other berths hold. -/
def putShadow (w n : Nat) (rx : Bool) (es : List Nat) (b : Block) : Block :=
  let o := if rx then 0x0C0 else 0x080
  let m := (List.range 61).map fun s => let c := slotNow b n s rx; if slotTaken b w n c then c else es.getD s 0
  (List.range 16).foldl (fun b k =>
    setReg (lndReg n (o + 4 * k)) (BitVec.ofNat 32 (leNat ((List.range 4).map fun i => BitVec.ofNat 8 (m.getD (4 * k + i) 0)))) b) b

/-- Arms a berth's maps with the round after the current one (R191). -/
def armMap (w : Nat) (b : Block) (m : SlotMap) : Block :=
  let b := putShadow w m.n true m.rx (putShadow w m.n false m.tx b)
  let l := lndAt b m.n
  setReg (lndReg m.n 0x064) (reg b (lndReg m.n 0x064) ||| 3)
    (setReg (lndReg m.n 0x06C) (BitVec.ofNat 32 (l.roundRx + 1)) (setReg (lndReg m.n 0x068) (BitVec.ofNat 32 (l.roundTx + 1)) b))

/-- A round of the tide table as a register takes it: relative to the berth's round base, modulo 2^32 (R187); all ones stands
for none. -/
def roundFrom (base r : Nat) : Word := if r = 0xFFFFFFFF then 0xFFFFFFFF else BitVec.ofNat 32 (base + r)

/-- Sets a crossing entry up (R197, R221). -/
def installXing (w : Nat) (b : Block) (e : XingEnt) : Block :=
  let b := setReg (lndReg e.n (0x180 + 4 * e.x)) (BitVec.ofNat 32 e.peer) (setReg (lndReg e.n (0x100 + 4 * e.x)) (BitVec.ofNat 32 (w + 32)) b)
  setXswitch e.n e.x (roundFrom (lndAt b e.n).roundTx e.round) (setXkid e.n e.x (BitVec.ofNat 32 (e.kid0 + 65536 * e.kid1)) b)

def installGkm (w : Nat) (b : Block) (e : Nat × Nat × Nat) : Block :=
  setGkm w e.1 (e.2.1 = 1) (BitVec.ofNat 32 (e.2.2 + 2 ^ 15)) b

/-! ### Handles (step 6) -/

/-- New objects in order: their entries. -/
def newObjs (w : Nat) : List ObjKind → Block → Option (List Nat × Block)
  | [], b => some ([], b)
  | k :: ks, b =>
    match newObj w k b with
    | none => none
    | some (i, b) => (newObjs w ks b).map fun p => (i :: p.1, p.2)

def rgnObject (mema : Bool) (r : RgnEnt) : ObjKind :=
  if r.kind = 0 then .hbm r.port r.base r.extra else if mema then .engA r.entry else .window r.log2 r.base

/-- Crossing table indices by Landing and X (R279). -/
def xingOrder (xs : List XingEnt) : List Nat :=
  (sortBy (fun a c => a.1 ≤ c.1) (xs.zipIdx.map fun p => (32 * p.1.n + p.1.x, p.2))).map Prod.snd

def newFences (w : Nat) : List FenceEnt → Block → Option (List FenceEnt × Block)
  | [], b => some ([], b)
  | f :: fs, b =>
    match newFence w f.init (if f.mregion = 0xFFFF then none else some (f.mregion, f.mslot)) b with
    | none => none
    | some (i, b) => (newFences w fs b).map fun p => ({ f with index := i } :: p.1, p.2)

/-- Room for n objects and m fences. -/
def roomFor (b : Block) (n m : Nat) : Bool := (usedObjs b).length + n ≤ 65536 && (usedFences b).length + m ≤ 8192

/-- Object handles of a table in the order of R279. -/
def objHandles (b : Block) (t : Tide) : List Nat :=
  t.regions.map RgnEnt.obj ++ (xingOrder t.xings).filterMap (fun i => t.xings[i]?.map XingEnt.obj) ++ t.bufs.map BufEnt.obj |>.map fun i =>
    (handleOf (objAt b i).gen i).toNat

/-- Creates every handle of the table, and writes the directory. -/
def createHandles (w : Nat) (t : Tide) (b : Block) : Option (Tide × Block) := do
  let (ro, b) ← newObjs w (t.regions.map (rgnObject b.build.mema)) b
  let ord := xingOrder t.xings
  let (xo, b) ← newObjs w (ord.filterMap fun i => t.xings[i]?.map fun e => .crossing e.n e.x) b
  let (bo, b) ← newObjs w (t.bufs.map fun e => .buffer e.first e.width e.row e.lines) b
  let t := { t with
    regions := t.regions.zipIdx.map fun p => { p.1 with obj := ro.getD p.2 0 }
    xings := t.xings.zipIdx.map fun p => { p.1 with obj := ((ord.zip xo).find? fun q => q.1 = p.2).elim 0 Prod.snd }
    bufs := t.bufs.zipIdx.map fun p => { p.1 with obj := bo.getD p.2 0 } }
  let b := modBerth w (fun x => { x with tide := some t }) b
  let (fs, b) ← newFences w t.fences b
  let t := { t with fences := fs }
  let dir := (objHandles b t ++ fs.map fun f => (handleOf (fenceAt b f.index).gen f.index).toNat).flatMap (leBytes 4)
  let b := modBerth w (fun x => { x with tide := some t }) b
  match t.regions[t.dir]? with
  | some r => some (t, blockWrite w r t.dirOff dir .none b)
  | none => none

def installCtx (w : Nat) (b : Block) (c : CtxEnt) : Block :=
  modCtx ((berthAt b w).cbase + c.slot) (fun x => { x with berth := some w, queue := some (c.region, c.off), scan := c.scan }) b

/-! ### Barriers and programs (step 7) -/

def freeBars (b : Block) : List Nat := (List.range 256).filter fun e => (barAt b e).st = .free

def edgeOf (t : Tide) (i : Nat) : Nat := (t.xings[i]?.map fun e => 32 * e.n + e.x).getD 0
def fenceIndex (t : Tide) (i : Nat) : Nat := (t.fences[i]?.map FenceEnt.index).getD 0

/-- One entry of the barrier tree in a barrier entry: GATHER, epoch 1. -/
def installBar (w : Nat) (t : Tide) (b : Block) (p : BarEnt × Nat) : Block :=
  let e := p.1
  modBar p.2 (fun _ =>
    { st := .gather, node := e.node, berth := w, id := e.id, epoch := 1, parent := if e.node then edgeOf t e.parent else 0
      kids := e.kids.map (edgeOf t), release := fenceIndex t e.release, subtree := e.subtree, tick := now b
      parts := e.parts.map fun q => match q with
        | some (s, f) => { slot := s, fence := some (fenceIndex t f) }
        | none => { slot := 0, fence := none } }) b

/-- The declared buffers become the engine's own (R349, R360). -/
def installProgram (w : Nat) (t : Tide) (p : SueBerth) (b : Block) : Block :=
  let p := { p with decls := p.decls.map fun d => { d with obj := (t.bufs[d.plan]?.map BufEnt.obj).getD 0 } }
  let b := p.decls.foldl (fun b d => modObj d.obj (fun o => match o.kind with
    | .buffer f wd r n => { o with kind := .sueBuffer f wd r n d.cls (carrier d.owners) }
    | _ => o) b) b
  modSue w (fun _ => p) b

/-! ### The load (R313) -/

/-- Steps 1 to 4: the table's fields so far, and the block with its regions and crossings. -/
def loadFirst (w : Nat) (bs : Bytes) (b : Block) : LoadM (Container × Tide × Block) := do
  let job := (berthAt b w).job.toNat
  let c ← orElse 1 cDenied (parseContainer job bs)
  let kr := keyRange b w
  let m ← orElse 2 cDenied (parseManifest job kr.1 kr.2 (c.sec 1))
  let rs ← orElse 3 cDenied (parseRegions (c.sec 2))
  need 3 cDenied (b.build.mema || (rs.filter fun r => r.kind = 2).length ≤ 1)
  let (rs, b) ← orElse 3 cDenied (createRegions w rs b)
  let mine := inKeyRange b w
  let xs ← orElse 4 cDenied (parseXings b.build.landings mine (c.sec 3))
  let ms ← orElse 4 cDenied (parseMaps b.build.landings (c.sec 4))
  let gs ← orElse 4 cDenied (parseGkm mine (c.sec 5))
  need 4 cDenied (xs.all (fun e => !heldByOther b w e.n e.x) && ms.all (mapFree b w))
  let b := gs.foldl (installGkm w) (xs.foldl (installXing w) b)
  let b := ms.foldl (armMap w) b
  let t : Tide := { job := job, device := c.device, restore := c.restore, ticks := c.ticks, setId := m.setId, prevSet := m.prevSet,
                    owners := m.owners, labels := m.labels, regions := rs, xings := xs, maps := ms, gkm := gs }
  return (c, t, b)

/-- Steps 5 and 6: buffers, handles, contexts. -/
def loadObjects (w : Nat) (c : Container) (t : Tide) (b : Block) : LoadM (Tide × Block) := do
  let bufs ← orElse 5 cDenied (parsePlan (holdRange b w).2 (c.sec 6))
  let n := t.regions.length + t.xings.length + bufs.length
  let o ← orElse 6 cDenied (parseObjects (berthAt b w).ccount t.regions n (c.sec 7))
  need 6 cBusy (roomFor b n o.fences.length)
  let t := { t with bufs := bufs, ctxs := o.ctxs, fences := o.fences, dir := o.dir, dirOff := o.dirOff }
  let (t, b) ← orElse 6 cBusy (createHandles w t b)
  return (t, o.ctxs.foldl (installCtx w) b)

/-- Step 7. -/
def loadRest (w : Nat) (c : Container) (t : Tide) (b : Block) : LoadM (Tide × Block) := do
  let nx := t.xings.length
  let xs ← orElse 7 cDenied (parseExtents t.regions (c.sec 8))
  let ex ← orElse 7 cDenied (parseExports t.regions.length nx (c.sec 9))
  let rk ← orElse 7 cDenied (parseRekey t.regions nx (inKeyRange b w) (c.sec 10))
  let bars ← if c.has 12 then
      orElse 7 cDenied (parseBars b.build.sue (t.xings.map fun e => 32 * e.n + e.x) t.fences.length (t.ctxs.map CtxEnt.slot)
        (c.sec 12))
    else .ok []
  let free := freeBars b
  need 7 cDenied (bars.length ≤ free.length)
  let t := { t with extents := xs, expRgn := ex.1, expXing := ex.2, rekey := rk, bars := bars }
  let b := (bars.zip free).foldl (installBar w t) b
  if c.has 11 then
    let env : SueEnv := { sue := b.build.sue, clusters := popcount 16 (clustersOf b w), regions := t.regions, owners := t.owners,
                          bufs := t.bufs, fences := t.fences.length, xings := nx, exports := ex.2, bars := bars }
    let p ← orElse 7 cDenied (parseSue env (c.sec 11))
    return (t, installProgram w t p b)
  else return (t, b)

/-- The whole load: the block with the table in place, or the code and step that refuse it. -/
def loadTable (w : Nat) (bs : Bytes) (b : Block) : LoadM Block := do
  let (c, t, b) ← loadFirst w bs b
  let (t, b) ← loadObjects w c t b
  let (t, b) ← loadRest w c t b
  return modBerth w (fun x => { x with tide := some t }) b

/-! ### Tide-table slots (R127, R215, R216, R261, R311) -/

/-- The core that serves a berth: the one assigned, or the lowest-numbered that is not DEAD (R431). -/
def berthCore (b : Block) (w : Nat) : Option Nat :=
  let c := Config.servingCore w % 4
  if (coreAt b c).st = .dead then (List.range 4).find? fun k => (coreAt b k).st ≠ .dead else some c

/-- That core runs: it performs the berth's tide-table actions. -/
def coreServes (b : Block) (w : Nat) : Bool := (berthCore b w).any fun c => (coreAt b c).st = .running

/-- The next crossing switch is written into a crossing whose last one is done and whose free phase's KID is FREE (R215). -/
def nextSwitch (w : Nat) (i : Nat) (late : Bool) (b : Block) : Block :=
  match tideOf b w with
  | none => b
  | some t =>
    match t.xings[i]?, (t.rekey.zipIdx.find? fun r => r.1.kind = 1 && r.1.idx = i && !r.1.done) with
    | some e, some (r, k) =>
      let x := xingAt b e.n e.x
      let p := !x.kphTx
      let settled := (xSwitch b e.n e.x = 0xFFFFFFFF || x.switched) && !x.switching && x.kphTx = x.kphRx
      if !settled ∨ (keyAt b (xKid b e.n e.x p)).st ≠ .free then b
      else
        let old := reg b (lndReg e.n (0x200 + 4 * e.x))
        let v := if p then (old &&& 0xFFFF) ||| BitVec.ofNat 32 (65536 * r.kidA) else (old &&& 0xFFFF0000) ||| BitVec.ofNat 32 r.kidA
        let at_ := roundFrom (tget 0 (berthAt b w).round e.n) r.at_
        let b := if late ∧ reached (lndAt b e.n).roundTx at_ then b else setXswitch e.n e.x at_ (setXkid e.n e.x v b)
        modBerth w (fun y => { y with tide := some { t with rekey := t.rekey.modify k fun r => { r with done := true } } }) b
    | _, _ => b

/-- Every crossing's next switch, where it may be written; `late` says that the core returns after a stop, and then a switch
whose round has passed is not written (R430). -/
def nextSwitches (w : Nat) (late : Bool) (b : Block) : Block :=
  if coreServes b w then ((tideOf b w).map fun t => List.range t.xings.length).getD [] |>.foldl (fun b i => nextSwitch w i late b) b
  else b

/-- A roll or a GPHASE switch whose slot begins. -/
def rekeyAction (w : Nat) (t : Tide) (b : Block) (r : Rekey) : Block :=
  if r.kind = 2 then setReg 0x8050 (reg b 0x8050 ^^^ BitVec.ofNat 32 (1 <<< w)) b
  else if r.kind = 3 then
    match t.regions[r.idx]? with
    | some e =>
      let kids := BitVec.ofNat 32 (r.kidA + 65536 * r.kidB)
      startRoll e.entry (modRgn e.entry (fun a =>
        if a.st ≠ .live then a else if a.phase then { a with kid0 := kids, use0 := 0 } else { a with kid1 := kids, use1 := 0 }) b)
    | none => b
  else b

/-- Performs, in slot order, every roll and GPHASE switch whose slot has begun and that is not done (R430). -/
def rekeyDue (w : Nat) (b : Block) : Block :=
  match tideOf b w with
  | some t =>
    let due (r : Rekey) : Bool := r.kind ≠ 1 && !r.done && r.at_ < (berthAt b w).slot
    let b' := (sortBy (fun x y => x.at_ ≤ y.at_) (t.rekey.filter due)).foldl (rekeyAction w t) b
    modBerth w (fun y => { y with tide := some { t with rekey := t.rekey.map fun r => if due r then { r with done := true } else r } }) b'
  | none => b

/-- The firmware's part of a slot, where the berth's core runs. -/
def firmwareSlot (w : Nat) (late : Bool) (b : Block) : Block :=
  if coreServes b w then nextSwitches w late (rekeyDue w b) else b

/-- What the start of slot s brings; the caller has counted the slot. -/
def slotActions (w s : Nat) (b : Block) : Block :=
  match tideOf b w with
  | some t => firmwareSlot w false (slotKeys w s t b)
  | none => b

/-- The next tide-table slot of a berth begins (R311). -/
def tideSlot (w : Nat) (b : Block) : Block :=
  match tideOf b w with
  | some t =>
    let x := berthAt b w
    let live := x.st = .loaded || x.st = .joined || x.st = .running || x.st = .sealSt
    if live ∧ x.loadTick + x.slot * t.ticks ≤ now b then slotActions w x.slot (modBerth w (fun x => { x with slot := x.slot + 1 }) b)
    else b
  | none => b

/-! ### Confidential mode (R454) -/

def openBit (b : Block) (w : Nat) : Bool := (reg b 0x1E044).getLsbD w

/-- The berth enters confidential mode. -/
def enterConfid (w : Nat) (b : Block) : Block :=
  let off (a : Nat) (b : Block) : Block := setReg a (reg b a &&& ~~~(BitVec.ofNat 32 (1 <<< w))) b
  let b := off 0x11058 (off 0x12090 b)
  let b := setReg (trcKey w 0x058) (reg b (trcKey w 0x058) &&& 0xFFFFFFFE) b
  modBerth w (fun x => { x with confid := true }) { b with trc := { b.trc with recs := tset [] b.trc.recs w [] } }

/-- The table is in: the berth is LOADED (R313, R450, R454), and its slot 0 begins. -/
def enterLoaded (w : Nat) (bs : Bytes) (b : Block) : Block :=
  let dev := ((tideOf b w).map Tide.device).getD 0
  let b := setReg (0x8080 + 4 * w) (BitVec.ofNat 32 (2 ^ 31 + dev)) b
  let b := if openBit b w then b else enterConfid w b
  let bases := (xingsOf b w).foldl (fun t e => tset 0 t e.1 (lndAt b e.1).roundTx) []
  let b := modBerth w (fun x =>
    { x with loadRes := cOk, loadStep := 0, meas := sha384 bs, loadTick := now b, slot := 1, round := bases }) b
  let b := bindLowest w (setBerthState w .loaded b)
  later (.berthCheck w) (slotActions w 0 b)

end Sys2Proof.Machine
end

