-- ==== Sys2Proof/Machine/Berths.lean ====
section
/-!
DEFINITION. Berths (R39, R40, R308 to R332): SCHED_CMD, loading and its failure, resizing, entry to JOINED, RUNNING, SEALING and
SCRUBBING, and the parts of a scrub with its compute-scrub handshake (R51).
-/

namespace Sys2Proof.Machine

def modSched (f : Sched → Sched) (b : Block) : Block := { b with sched := f b.sched }

/-! ### Cores that serve register commands (R431, R458) -/

def coresDead (b : Block) : Bool := (List.range 4).all fun c => (coreAt b c).st = .dead
def anyHalted (b : Block) : Bool := (List.range 4).any fun c => (coreAt b c).st = .halted
def anyBreakpoint (b : Block) : Bool := (List.range 4).any fun c => (coreAt b c).bps.any fun e => e.2.getLsbD 0

/-- The berth a Ferrymen SRAM page of a core serves now: never a page of the ROM's working area nor a retired one (R415). -/
def pageBerth (b : Block) (c page : Nat) : Option Nat :=
  (Config.pageOwner (64 * c + page)).filter fun w =>
    w < 32 && (berthAt b w).st ≠ .free && 8 ≤ page && !b.ecc.fpages.contains (64 * c + page)

/-! ### SCHED_CMD -/

/-- The command ends with its code. -/
def schedEnd (c : Byte) (b : Block) : Block := raise 0x14 1 (modSched (fun s => { s with cmd := none, status := c }) b)

/-- The arguments of CREATE and RESIZE. -/
structure Shares where
  cbase  : Nat
  ccount : Nat
  run    : Nat
  weight : Nat
  cmdq   : Nat
  slice  : Nat

def sharesArg (b : Block) : Shares :=
  { cbase := fld (reg b 0x14054) 11 0, ccount := fld (reg b 0x14054) 28 16, run := fld (reg b 0x14058) 6 0,
    weight := fld (reg b 0x14058) 11 8, cmdq := fld (reg b 0x14058) 25 16, slice := fld (reg b 0x1405C) 15 0 }

def jobArg (b : Block) : BitVec 64 := BitVec.ofNat 64 ((reg b 0x1404C).toNat + 2 ^ 32 * (reg b 0x14050).toNat)

/-- The berths that are not FREE, but for one. -/
def otherBerths (b : Block) (w : Nat) : List Berth := (b.berths.filter fun e => e.1 ≠ w && e.2.st ≠ .free).map Prod.snd

/-- The limits of R309 on a berth's own shares. -/
def sharesBad (a : Shares) : Bool :=
  a.ccount = 0 || 4096 < a.cbase + a.ccount || a.run = 0 || a.weight = 0 || a.cmdq = 0 || a.slice = 0 || 64 < a.run

def ctxOverlap (b : Block) (w : Nat) (a : Shares) : Bool :=
  (otherBerths b w).any fun x => a.cbase < x.cbase + x.ccount && x.cbase < a.cbase + a.ccount

/-- A pool lacks what the shares ask for beside the other berths' (R308). -/
def poolsLack (b : Block) (w : Nat) (a : Shares) : Bool :=
  256 < ((otherBerths b w).map Berth.run).sum + a.run || 512 < ((otherBerths b w).map Berth.cmdq).sum + a.cmdq

/-- The contexts of a range belong to no other berth any more, and those that leave it (all DISABLED, R314) are the
berth's no more: one that enters again later starts with zero pointers. -/
def claimCtxs (w : Nat) (a : Shares) (b : Block) : Block :=
  { b with ctxs := b.ctxs.filter fun e =>
      decide (a.cbase ≤ e.1 ∧ e.1 < a.cbase + a.ccount) = decide (e.2.berth = some w) }

def setShares (w : Nat) (a : Shares) (b : Block) : Block :=
  modBerth w (fun x =>
    { x with cbase := a.cbase, ccount := a.ccount, run := a.run, weight := a.weight, cmdq := a.cmdq, slice := a.slice })
    (claimCtxs w a b)

/-- The checks of CREATE in their order (R309). Without a MIX branch root no berth gets its seed (R116). -/
def createCheck (b : Block) (w : Nat) : Byte :=
  let a := sharesArg b
  if b.lcs.st ≠ .deployed ∨ (berthAt b w).st ≠ .free ∨ !keyLive b 4 then cLifecycle
  else if (otherBerths b w).any (fun x => x.job = jobArg b) ∨ (keyRange b w).2 = 0 ∨ sharesBad a ∨ ctxOverlap b w a then cDenied
  else if poolsLack b w a then cBusy
  else cOk

/-- CREATE (R309, R310): an accepted one completes when the berth's engine S key is loaded. -/
def createCmd (w : Nat) (b : Block) : Block :=
  let c := createCheck b w
  let b := if (berthAt b w).st ≠ .free then berthLifecycle w b else b
  if c ≠ cOk then schedEnd c b
  else
    let b := modBerth w (fun _ => { job := jobArg b }) b
    seedBerth w (setBerthState w .created (setShares w (sharesArg b) b))

/-- The MIX key of a berth is loaded (R239): its CREATE is complete. -/
def mixKeyLoaded (w : Nat) (b : Block) : Block :=
  let (did, b) := mixLoaded w b
  match b.sched.cmd with
  | some c => if did ∧ c.op = 1 ∧ c.berth = w then schedEnd cOk b else b
  | none => b

def setLoadRes (w : Nat) (c : Byte) (step : Nat) : Block → Block := modBerth w fun x => { x with loadRes := c, loadStep := step }

/-- A running LOAD ends without its table (R58, R313, R421, R429). -/
def loadEnds (w : Nat) (c : Byte) (step : Nat) (b : Block) : Block :=
  match b.sched.cmd with
  | some s => if s.op = 2 ∧ s.berth = w then schedEnd c (setLoadRes w c step b) else b
  | none => b

/-- LOAD (R313, R458): the read of the container begins; a HIF that carries nothing fails it (R58). -/
def loadCmd (w : Nat) (b : Block) : Block :=
  let len := (reg b 0x14068).toNat
  if (berthAt b w).st ≠ .created then schedEnd cLifecycle (berthLifecycle w b)
  else if coresDead b then schedEnd cBusy b
  else if !openBit b w ∧ (anyHalted b ∨ anyBreakpoint b) then schedEnd cBusy b
  else if !hifOpen b then loadEnds w cUncorr 1 b
  else
    let b := modSched (fun s => { s with cmd := s.cmd.map fun c => { c with len := len } }) b
    emit (.hostRead ((reg b 0x14060).toNat / 64 * 64 + 2 ^ 32 * (reg b 0x14064).toNat) len (.load w)) b

/-- The container has been read: the load in order, or the first failure (R313). Poison on the read is a fetch trap
(R411); a reply from before a reset of the HIF is dropped (R58). -/
def loadComplete (gen : BitVec 12) (bs : Bytes) (bad : Bool) (b : Block) : Block :=
  if hifStale gen b then staleHif b
  else match b.sched.cmd with
  | some s =>
    if s.op ≠ 2 ∨ (berthCore b s.berth).any (fun c => (coreAt b c).st = .halted) then b
    else if bad then loadEnds s.berth cFetchTrap 1 (eccEvent 8 true (some s.berth) 0 0 0 b)
    else if fieldLE bs 0x10 8 > s.len then loadEnds s.berth cDenied 0 b
    else match loadTable s.berth bs b with
    | .ok t => schedEnd cOk (enterLoaded s.berth bs t)
    | .error e => loadEnds s.berth e.1 e.2 b
  | none => b

/-! ### RESIZE (R314) -/

/-- Contexts of a berth that hold a run slot. -/
def slotHolders (b : Block) (w : Nat) : List Nat := (ctxsOf b w).filter fun c => holdsSlot (ctxAt b c)

/-- The next context to swap out: not pinned, blocked or idle longest, a runnable one last, ties by number. -/
def shrinkVictim (b : Block) (w : Nat) : Option Nat :=
  match victim b w with
  | some c => some c
  | none => (sortBy (· ≤ ·) ((slotHolders b w).filter fun c => !pinned (ctxAt b c))).head?

/-- Swaps contexts out until the berth's holders fit its RUN (fuel: holders). -/
def shrinkSlots (w : Nat) : Nat → Block → Block
  | 0, b => b
  | n + 1, b =>
    if (slotHolders b w).length ≤ (berthAt b w).run then b
    else match shrinkVictim b w with
    | some c => shrinkSlots w n (swapOut c b)
    | none => b

/-- A running RESIZE completes once the holders fit. -/
def resizeStep (b : Block) : Block :=
  match b.sched.cmd with
  | some s =>
    if s.op ≠ 3 then b
    else
      let b := shrinkSlots s.berth (slotHolders b s.berth).length b
      if (slotHolders b s.berth).length ≤ (berthAt b s.berth).run then schedEnd cOk b else b
  | none => b

def resizeCheck (b : Block) (w : Nat) : Byte :=
  let a := sharesArg b
  let x := berthAt b w
  let leaves (c : Nat) : Bool := !(a.cbase ≤ c && c < a.cbase + a.ccount)
  if x.st ≠ .created ∧ x.st ≠ .loaded ∧ x.st ≠ .joined ∧ x.st ≠ .running then cLifecycle
  else if a.cbase ≠ x.cbase ∨ sharesBad a ∨ ctxOverlap b w a then cDenied
  else if (ctxsOf b w).any (fun c => leaves c && (ctxAt b c).st ≠ .disabled) ∨ poolsLack b w a ∨ a.cmdq * 16 < storeUse b w
  then cBusy
  else cOk

/-- Contexts that the object section names and that come back into the range start DISABLED (R314). -/
def enterCtxs (w : Nat) (b : Block) : Block :=
  match tideOf b w with
  | some t =>
    let x := berthAt b w
    (t.ctxs.filter fun c => c.slot < x.ccount && (ctxAt b (x.cbase + c.slot)).berth ≠ some w).foldl (installCtx w) b
  | none => b

def resizeCmd (w : Nat) (b : Block) : Block :=
  let c := resizeCheck b w
  if c ≠ cOk then schedEnd c b else later (.sched w) (resizeStep (enterCtxs w (setShares w (sharesArg b) b)))

/-- What follows a change in a berth's contexts (R315, R318, R314). -/
def reschedule (w : Nat) (b : Block) : Block := resizeStep (schedule w b)

/-! ### SEALING (R327, R328, R40) -/

def lostCount (b : Block) (w : Nat) : Nat := ((ctxsOf b w).filter fun c => (ctxAt b c).st = .lost).length

/-- A berth that takes part in its job enters SEALING; `lost` says that every context is lost (CAUSE 1). -/
def enterSealing (w : Nat) (lost : Bool) (b : Block) : Block :=
  let s := (berthAt b w).st
  if s ≠ .joined ∧ s ≠ .running then b
  else
    let b := if lost then
        record { kind := 11, code := Config.recordCode 11, berth := some w, unit := 0x20, inst := w, gen := (pageAt b (0x20 + w)).gen,
                 d0 := (sueAt b w).applied, d1 := lostCount b w } b
      else b
    let b := sessLeaves w b
    let b := setBerthState w .sealSt (modBerth w (fun x => { x with cause := lost, sealTick := now b, sealOver := false }) b)
    later (.sched w) (progSealing w (stopUnstarted w cLifecycle (tdiFault w b)))

/-- SEAL_MS has passed since the berth's reclaim was accepted (R328). -/
def sealExpiry (w : Nat) (b : Block) : Block :=
  let x := berthAt b w
  if x.st = .sealSt ∧ !x.sealOver ∧ x.sealTick + msTicks b (fld (reg b 0x1406C) 15 0) ≤ now b then
    modBerth w (fun x => { x with sealOver := true }) b
  else b

/-! ### SCRUBBING (R329, R51) -/

/-- Berths in SCRUBBING that an attachment has not acknowledged, in the order in which they entered. -/
def scrubQueue (b : Block) (a : Nat) : List Nat :=
  (sortBy (fun x y => x.1 ≤ y.1) ((b.berths.filter fun e => e.2.st = .scrubSt && !e.2.scrub.acked.contains a).map
    fun e => (e.2.scrub.order, e.1))).map Prod.snd

/-- An attachment whose last handshake has ended is asked for the next berth (R51). -/
def offerScrub (a : Nat) (b : Block) : Block :=
  let t := attAt b a
  if t.scrubReq ∨ t.scrubAck then b
  else match scrubQueue b a with
  | w :: _ => modAtt a (fun t => { t with scrubReq := true, scrubBerth := w }) b
  | [] => b

def offerScrubs (b : Block) : Block := (List.range b.build.attach).foldl (fun b a => offerScrub a b) b

/-- The level of `ce<a>_scrub_ack`. -/
def scrubAckLevel (a : Nat) (level : Bool) : Block → Block := modAtt a fun t => { t with scrubAck := level }

/-- A level of `ce<a>_scrub_ack`: an acknowledge that rises without a request is ignored. -/
def scrubAck (a : Nat) (level : Bool) (b : Block) : Block :=
  let t := attAt b a
  if level = t.scrubAck then b
  else if level then
    if !t.scrubReq then scrubAckLevel a true b
    else
      let b := modAtt a (fun t => { t with scrubReq := false, scrubAck := true }) b
      modBerth t.scrubBerth (fun x =>
        if x.st = .scrubSt then { x with scrub := { x.scrub with acked := x.scrub.acked ++ [a] } } else x) b
  else offerScrub a (scrubAckLevel a false b)

/-- Engine A regions of a berth that are not FREE. -/
def berthRgns (b : Block) (w : Nat) : List Nat := tfind b.mema.regions fun _ a => a.st ≠ .free && rBerth a = w

/-- A berth enters SCRUBBING from CREATED, LOADED or SEALING. -/
def enterScrubbing (w : Nat) (b : Block) : Block :=
  let s := (berthAt b w).st
  if s ≠ .created ∧ s ≠ .loaded ∧ s ≠ .sealSt then b
  else
    let b := modBerth w (fun x => { x with scrub := { order := b.sched.order, since := now b } }) b
    let b := setBerthState w .scrubSt (modSched (fun s => { s with order := s.order + 1 }) b)
    let b := stopUnstarted w cLifecycle (stageScrubbed w (unbind w (tdiFault w b)))
    let b := (xingsOwned b w).foldl (fun b e => scrubXing e.1 e.2 b) (scrubBars w b)
    let b := (berthRgns b w).foldl (fun b r => drainRgn r b) (retireBerth w b)
    later .engineA (offerScrubs b)

/-- The berth an operation belongs to. -/
def opBerth (b : Block) : OpRef → Option Nat
  | .cmd c _ => (ctxAt b c).berth
  | .prog w _ => some w
  | .gse w _ _ => some w
  | .gseOut w _ => some w
  | .gseRec w _ => some w
  | .opd _ w _ _ => some w
  | .load w => some w
  | .sweep r => some (rBerth (rgnAt b r))
  | .queue c => (ctxAt b c).berth
  | .tensor w _ _ _ => some w
  | .port .. => none
  | .dbg => b.dbg.maBerth
  | .none => none

/-- Commands of a berth outstanding on attachments, as (attachment, entry). -/
def attachedOf (b : Block) (w : Nat) : List (Nat × Nat × Nat × Nat) :=
  (b.sched.atts.flatMap fun e => e.2.out.map fun o => (e.1, o)).filter fun o => (ctxAt b o.2.1).berth = some w

/-- Engine A reads and writes of a berth that have not been answered. -/
def rawReads (b : Block) (w : Nat) : List ARead :=
  b.mema.reads.filter fun r => match r.fetch with
    | .raw op => opBerth b op = some w
    | _ => false

/-- No operation of the berth is outstanding at a port (R329 step 2). -/
def portsQuiet (b : Block) (w : Nat) : Bool :=
  (attachedOf b w).isEmpty && !(b.mems.reqs.any fun r => r.berth = w) && !(b.mems.wq.any fun x => x.berth = w) &&
    !gseBusy b w && (rawReads b w).isEmpty

def quiescable (b : Block) (w : Nat) : Bool :=
  portsQuiet b w && (berthRgns b w).isEmpty && (berthKids b w).isEmpty

/-- The number of a master's BERTH_CTX_SEL on page BERTHw among its latches. -/
def ctxSel (w : Nat) : Nat := 32 + w

/-- The berth's internal state of R329 step 3: contexts with their commands and copies, fences and handles (R307), wires,
programs, trace buffers and their registers, and the page's fields. The shares and ranges stay until step 4. -/
def clearInternal (w : Nat) (b : Block) : Block :=
  let cs := ctxsOf b w
  let b := { b with
    copies := b.copies.filter fun j => !cs.contains j.ctx
    ctxs := b.ctxs.filter fun e => e.2.berth ≠ some w }
  let b := scrubLnkc w (scrubSue w (scrubObjects w (scrubWires w b)))
  let b := { b with
    trc := { b.trc with
      owner := b.trc.owner.filter fun e => e.2 ≠ some w
      recs := tset [] b.trc.recs w []
      tail := tset 0 b.trc.tail w 0
      dropped := tset 0 b.trc.dropped w 0 }
    dbg := { b.dbg with per := tset {} b.dbg.per w {} }
    sync := { b.sync with
      wakesOf := tset 0 b.sync.wakesOf w 0, failsOf := tset 0 b.sync.failsOf w 0, armRes := tset 0 b.sync.armRes w 0 }
    pages := b.pages.filter fun e => !(viewKey w 0 ≤ e.1 && e.1 < viewKey w 16)
    regs := b.regs.filter fun e => !(trcKey w 0 ≤ e.1 && e.1 < trcKey w 0x1000)
    latches := b.latches.filter fun e => e.1 % 64 ≠ ctxSel w }
  modBerth w (fun x =>
    { st := x.st, job := x.job, cbase := x.cbase, ccount := x.ccount, run := x.run, weight := x.weight, cmdq := x.cmdq,
      slice := x.slice, ckptRes := x.ckptRes, ckptInc := x.ckptInc, noKey := x.noKey, scrub := x.scrub, confid := x.confid }) b

/-- What the debug unit and the cores' SRAMs hold of a berth is cleared (R30): its line in DBG_MA_DATA, its bit of the DEBUG enables
of engine A, and its pages in every core. -/
def clearTraces (w : Nat) (b : Block) : Block :=
  let b := if b.dbg.maBerth ≠ some w then b
    else { b with
      dbg := { b.dbg with
        maData := []
        maBerth := none
        maWait := false
        maRes := if b.dbg.maWait then cUncorr else b.dbg.maRes } }
  let b := setReg 0x12090 (reg b 0x12090 &&& ~~~(BitVec.ofNat 32 (1 <<< w))) b
  (List.range 4).foldl (fun b c =>
    let mine := (List.range 64).filter fun p => pageBerth b c p = some w
    modCore c (fun x => { x with sram := x.sram.filter (fun e => !mine.contains (e.1 / 1024)), zeroed := x.zeroed ++ mine }) b) b

/-- Step 3 of R329 begins: the berth's banks go to the clear engine, the rest is cleared. -/
def startClears (w : Nat) (b : Block) : Block :=
  let none_ := (holdRange b w).2 = 0
  let b := modBerth w (fun x => { x with scrub := { x.scrub with quiesced := true, hold := none_ } }) b
  let b := if none_ then b else queueScrub w b
  let b := clearSrgns w (clearWays w b)
  let b := modMems (fun m => { m with keys := tset {} m.keys w {} }) b
  scrubSess w (clearTraces w (clearInternal w b))

/-- Step 2 of R329 is complete. -/
def berthQuiesced (w : Nat) (b : Block) : Block :=
  let x := berthAt b w
  if x.st = .scrubSt ∧ !x.scrub.quiesced ∧ quiescable b w then startClears w b else b

/-- The set that the clear engine finished was a berth's scrub. -/
def setFinished (bad : List Nat) (b : Block) : Block :=
  let (b, cause) := bankSetDone bad b
  match cause with
  | some (.scrub w) => modBerth w (fun x => { x with scrub := { x.scrub with hold := true } }) b
  | _ => b

/-- Completions of a berth's commands that were still to be dropped: a compute scrub that is acknowledged leaves none (R51). -/
def forgetTags (w : Nat) (b : Block) : Block :=
  let x := berthAt b w
  (List.range 16).foldl (fun b a => modAtt a (fun t =>
    { t with gone := t.gone.filter fun g => !(x.cbase ≤ g.1 && g.1 < x.cbase + x.ccount) }) b) b

/-- Step 4 of R329: shares and ranges are removed, PAGE_GEN moves on, and the berth is FREE. -/
def scrubComplete (w : Nat) (b : Block) : Block :=
  let x := berthAt b w
  let ce := (List.range b.build.attach).all fun a => x.scrub.acked.contains a
  if x.st ≠ .scrubSt ∨ !x.scrub.quiesced ∨ !x.scrub.hold ∨ !ce then b
  else
    let b := freeRange w (forgetTags w b)
    let b := { b with keys := { b.keys with ranges := tset (0, 0) b.keys.ranges w (0, 0), seedLost := b.keys.seedLost.erase w } }
    let b := modPage (0x20 + w) (fun p => { gen := p.gen + 1 }) b
    let b := modBerth w (fun x => { st := x.st, ckptRes := x.ckptRes, ckptInc := x.ckptInc, noKey := x.noKey }) b
    setBerthState w .free b

/-! ### JOINED and RUNNING (R39, R127) -/

/-- Whether something moves the berth on: the last key of a LOADED one, the last context of a RUNNING one. -/
def berthCheck (w : Nat) (b : Block) : Block :=
  let x := berthAt b w
  match x.st, x.tide with
  | .loaded, some t =>
    if !joinReady b t then b
    else
      let b := setBerthState w .joined b
      let b := t.xings.foldl (fun b e => startProve e.n e.x b) b
      let b := progJoin w b
      let b := (tfind b.sync.bars fun _ y => y.st ≠ .free && y.berth = w).foldl (fun b e => later (.barrierEval e) b) b
      later (.sched w) b
  | .running, _ =>
    if (ctxsOf b w).any (fun c => (ctxAt b c).st = .active) ∨ lostCount b w = 0 then b else enterSealing w true b
  | _, _ => b

/-- The first release of a JOINED berth moves it to RUNNING. -/
def berthReleased (w : Nat) (b : Block) : Block :=
  if (berthAt b w).st ≠ .joined then b else later (.berthCheck w) (setBerthState w .running (sessLeaves w b))

/-! ### RECLAIM (R327) -/

def reclaimCmd (w : Nat) (b : Block) : Block :=
  match (berthAt b w).st with
  | .created => schedEnd cOk (enterScrubbing w b)
  | .loaded => schedEnd cOk (enterScrubbing w b)
  | .joined => schedEnd cOk (enterSealing w false b)
  | .running => schedEnd cOk (enterSealing w false b)
  | .free => schedEnd cLifecycle (berthLifecycle w b)
  | _ => schedEnd cPending b

/-! ### The register -/

/-- GO on SCHED_CMD. A running command refuses another, and so does the Slipway (R331, R434). -/
def schedCmd (m : Master) (val : Word) (b : Block) : Block :=
  let op := fld val 3 0
  let w := fld val 8 4
  if b.slip.st ≠ .idle then recordErr 0x14 cLifecycle (errBerthOf m) b
  else if b.sched.cmd.isSome then recordErr 0x14 cBusy (errBerthOf m) b
  else
    let b := modSched (fun s => { s with cmd := some { op := op, berth := w, since := now b }, op := op % 8, berth := w }) b
    match op with
    | 1 => createCmd w b
    | 2 => loadCmd w b
    | 3 => resizeCmd w b
    | 4 => reclaimCmd w b
    | _ => schedEnd cDenied b

/-- One row of the table: the SCHED_CMD of one OP. -/
def schedRow (op : Nat) (m : Master) (w : Nat) : Block → Block :=
  schedCmd m (BitVec.ofNat 32 (2 ^ 31 + op + 16 * w))

/-! ### Registers (R331, R332) -/

def runCode : RunState → Nat
  | .idle => 0 | .runnable => 1 | .blocked => 2

def ctxCode : CtxState → Nat
  | .disabled => 0 | .active => 1 | .lost => 2

def schedRead (b : Block) (o : Nat) : Word :=
  let w32 (n : Nat) : Word := BitVec.ofNat 32 n
  let bs := (b.berths.filter fun e => e.2.st ≠ .free).map Prod.snd
  let s := b.sched
  if o = 0x040 then w32 (256 - (bs.map Berth.run).sum + 512 * bs.length + 65536 * (8192 - 16 * (bs.map Berth.cmdq).sum))
  else if o = 0x048 then w32 (s.status.toNat + 256 * b2n s.cmd.isSome + 512 * s.op + 4096 * s.berth)
  else if 0x080 ≤ o ∧ o < 0x0C0 then
    let a := (o - 0x080) / 4
    if a < b.build.attach then w32 ((attAt b a).gen.toNat + 4096 * b2n (!(attAt b a).inRst)) else 0
  else 0

/-- BERTH_CTX_INFO of a context slot. -/
def ctxInfo (b : Block) (w slot : Nat) : Word :=
  let c := (berthAt b w).cbase + slot
  if slot < (berthAt b w).ccount then
    let x := ctxAt b c
    let run := if x.st = .active then runCode (runState b c) else 0
    BitVec.ofNat 32 (ctxCode x.st + 4 * b2n x.resident + 8 * run + 32 * b2n (pinned x) +
      256 * (if x.st = .lost then x.cause.toNat else 0))
  else 0

def berthRead (b : Block) (w slot o : Nat) : Word :=
  let w32 (n : Nat) : Word := BitVec.ofNat 32 n
  let x := berthAt b w
  let cnt (p : Ctx → Bool) : Nat := ((ctxsOf b w).filter fun c => p (ctxAt b c)).length
  if o = 0x040 then w32 (berthCode x.st + 8 * b2n (x.cause && x.st = .sealSt))
  else if o = 0x044 then w32 x.job.toNat
  else if o = 0x048 then w32 (x.job.toNat / 2 ^ 32)
  else if o = 0x04C then w32 (x.cbase + 65536 * x.ccount)
  else if o = 0x050 then w32 (x.run + 256 * x.weight + 65536 * x.cmdq)
  else if o = 0x054 then w32 x.slice
  else if o = 0x058 then w32 (cnt (fun c => c.resident) + 256 * cnt fun c => c.st = .active)
  else if o = 0x05C then w32 (lostCount b w)
  else if o = 0x060 then w32 (storeUse b w)
  else if o = 0x064 then w32 x.npFault
  else if o = 0x068 then w32 x.overrun
  else if o = 0x06C then w32 (x.loadRes.toNat + 256 * x.loadStep)
  else if o = 0x070 then w32 (x.ckptRes.toNat + 256 * b2n x.ckptInc + 512 * b2n x.noKey)
  else if 0x080 ≤ o ∧ o < 0x0B0 then w32 (fieldLE x.meas (o - 0x080) 4)
  else if o = 0x0C4 then ctxInfo b w slot
  else 0

end Sys2Proof.Machine
end

