-- ==== Sys2Proof/Machine/LifeCycle.lean ====
section
/-!
DEFINITION. OTP programming, start, life-cycle resolution, requests, moves and their resumption (R63, R112 to R119, R140 to
R156, R463).
-/

namespace Sys2Proof.Machine

/-! ### Codes and records -/

def lcCode : LcState → Word
  | .blank => 0x00000000 | .manufactured => 0x01011111 | .provisioned => 0x03033333
  | .deployed => 0x07077777 | .analysis => 0x0F0FFFFF | .terminated => 0xFFFFFFFF

def lcNum : LcState → Nat
  | .blank => 0 | .manufactured => 1 | .provisioned => 2 | .deployed => 3 | .analysis => 4 | .terminated => 5

def lcStates : List LcState := [.blank, .manufactured, .provisioned, .deployed, .analysis, .terminated]
def lcOfCode (w : Word) : Option LcState := lcStates.find? fun s => lcCode s = w
def lcOfNum (n : Nat) : Option LcState := lcStates[n]?

/-- Bitwise majority of three copies (R142). -/
def majority (x y z : Word) : Word := (x &&& y) ||| (x &&& z) ||| (y &&& z)

def copyOf (b : Block) (i : Nat) : Word := otpData (otpWord b i)
def majorityOf (b : Block) : Word := majority (copyOf b 0) (copyOf b 1) (copyOf b 2)

/-- The words of progress record r (R141). -/
def recordWords' (b : Block) (r : Nat) : List (BitVec 39) := tgets 0 b.otp (0x10 + 4 * r) 4

inductive RecordClass where
  | unused
  | void
  | valid (target source : LcState)
deriving DecidableEq, Repr

/-- SOURCE was not written: it is blank, the block is not, and no step has begun (R463). Log entry 148. -/
def sourceMissing (b : Block) (ws : List (BitVec 39)) : Bool := ws.getD 1 0 = 0 && ws.getD 2 0 = 0 && majorityOf b ≠ 0

/-- Unused, void, or its target and source (R147). -/
def recordClass (b : Block) (r : Nat) : RecordClass :=
  let ws := recordWords' b r
  if ws.all (· = 0) then .unused
  else if sourceMissing b ws then .void
  else match (otpDecode (ws.getD 0 0)).bind lcOfCode, (otpDecode (ws.getD 1 0)).bind lcOfCode with
    | some t, some s => .valid t s
    | _, _ => .void

def stepsWord (b : Block) (r : Nat) : Word := otpData (otpWord b (0x10 + 4 * r + 2))

/-- Nibble k is set when at least three of its bits read 1 (R147). -/
def nibbleSet (w : Word) (k : Nat) : Bool :=
  3 ≤ ((List.range 4).filter fun i => w.getLsbD (4 * k + i)).length

/-- The newest record that is not unused (R156). -/
def newestRecord (b : Block) : Option Nat :=
  ((List.range 8).filter fun r => recordClass b r ≠ .unused).getLast?

def recordsUsed (b : Block) : Nat := ((List.range 8).filter fun r => recordClass b r ≠ .unused).length
def unusedRecord (b : Block) : Option Nat := (List.range 8).find? fun r => recordClass b r = .unused

/-- The number of steps of a move (R148). -/
def stepCount : LcState → Nat
  | .manufactured => 4
  | .provisioned => 4
  | .deployed => 3
  | .analysis => 5
  | .terminated => 5
  | .blank => 0

/-- The incomplete record, if any (R153). -/
def incompleteRecord (b : Block) : Option (Nat × LcState × LcState) :=
  match ((List.range 8).filter fun r => match recordClass b r with | .valid _ _ => true | _ => false).getLast? with
  | some r => match recordClass b r with
    | .valid t s =>
      let w := stepsWord b r
      if nibbleSet w 7 ∨ nibbleSet w (stepCount t - 1) then none else some (r, t, s)
    | _ => none
  | none => none

/-! ### Root slots (R113, R114, R463) -/

inductive SlotClass where
  | blank
  | void
  | whole (secret : BitVec 256)
  | torn
deriving DecidableEq, Repr

/-- Class of nine words that start at address a: eight of a secret and its seal. -/
def slotClass (b : Block) (a : Nat) : SlotClass :=
  let ws := tgets 0 b.otp a 9
  match otpClass ws with
  | .blank => .blank
  | .void => .void
  | .torn => .torn
  | .whole =>
    let vs := ws.map fun w => ((otpDecode w).getD 0).toNat
    let key := bytesKey ((vs.take 8).map (leBytes 4)).flatten
    if sealWord key = BitVec.ofNat 32 (vs.getD 8 0) then .whole key else .torn

def rootSlotAddr (k : Nat) : Nat := 0xC0 + 9 * k

/-- The lowest-numbered SEALED slot and its secret (R116). -/
def sealedSlot (b : Block) : Option (Nat × BitVec 256) :=
  (List.range 4).findSome? fun k => match slotClass b (rootSlotAddr k) with
    | .whole s => some (k, s)
    | _ => none

def testRootOf (b : Block) : Option (BitVec 256) :=
  match slotClass b 0x80 with
  | .whole s => some s
  | _ => none

/-! ### Start (R52, R114, R116, R118, R119, R142, R153) -/

/-- The branch KIDs a state allows (R118, R119). -/
def branchKids : LcState → List Nat
  | .manufactured => [0]
  | .analysis => [0]
  | .provisioned => [1, 2, 6]
  | .deployed => [1, 2, 3, 4, 5, 6]
  | _ => []

/-- Derives one branch root at start (R118, R119). -/
def deriveBranch (k : Nat) (b : Block) : Block :=
  let parent := if k = 0 then KeyParent.testRoot else if k = 6 then .kid 1 else .root
  match parentValue b parent with
  | none => b
  | some p =>
    let b := modKey k (fun e =>
      { e with source := 1, purpose := 0xC, ctx := List.replicate 48 0, parent := parent }) b
    makeLive k (kdf p (keyLabel 0xC k) (List.replicate 48 0)) b

/-- The ROM reads OTP: it classifies the slots, resolves or resumes the state, and derives the branches. A resumed move to
MANUFACTURED has lost LCS_DATA and goes on with an all-zero test root (DESIGN CHOICE, log entry 146). -/
def startRead (b : Block) : Block :=
  let void := (List.range 4).foldl (fun v k => if slotClass b (rootSlotAddr k) = .void then v + 2 ^ k else v) 0
  let sl := sealedSlot b
  let b := { b with
    keys := { b.keys with
      root := sl.map Prod.snd, rootSlot := (sl.map Prod.fst).getD 7, slotVoid := void, testRoot := testRootOf b },
    gse := { b.gse with drbgUses := 0 },
    draws := b.draws + 1 }
  match incompleteRecord b with
  | some (r, t, s) =>
    let wipe := t = .analysis ∨ t = .terminated
    let first := ((List.range (stepCount t)).find? fun k => !nibbleSet (stepsWord b r) k).getD 0
    let mv : Move := { target := t, source := s, record := some r, resumed := true, step := first, clearing := wipe }
    let b := { b with lcs := { b.lcs with st := s, invalid := false, move := some mv } }
    if wipe then { b with keys := { b.keys with root := none } } else b
  | none =>
    let st := lcOfCode (majorityOf b)
    let b := { b with lcs := { b.lcs with st := st.getD .terminated, invalid := st.isNone, move := none } }
    (branchKids b.lcs.st).foldl (fun b k => deriveBranch k b) b

/-! ### Programming OTP words (R63, R149) -/

/-- A word that already holds the bits asked for needs no programming (R149). -/
def holds (have_ want : BitVec 39) : Bool := have_ &&& want = want

/-- Drops the words of a run that are already written. -/
def skipWritten (b : Block) : List (Nat × BitVec 39) → List (Nat × BitVec 39)
  | [] => []
  | (a, w) :: ws => if holds (otpWord b a) w then skipWritten b ws else (a, w) :: ws

/-- Puts the next word of the first run on the OTP port, or reports the run's end. -/
def otpStart (b : Block) : Block × Option OtpJob :=
  match b.otpRuns with
  | [] => ({ b with pins := { b.pins with otpVppEn := false } }, none)
  | r :: rs =>
    match skipWritten b r.words with
    | [] => ({ b with otpRuns := rs, pins := { b.pins with otpVppEn := false } }, some r.job)
    | (a, w) :: ws =>
      (emit (.otpProgram a (otpWord b a ||| w))
        { b with otpRuns := { r with words := (a, w) :: ws, busy := true } :: rs, pins := { b.pins with otpVppEn := true } },
       none)

/-- All-ones words from address a on (void and wipe, R148). -/
def onesFrom (a n : Nat) : List (Nat × BitVec 39) := (List.range n).map fun i => (a + i, otpOnes)

/-- A data word with its check bits. -/
def coded (a : Nat) (v : Word) : Nat × BitVec 39 := (a, otpEncode v)

/-- A word whose check bits are programmed to 0 (R141). -/
def bare (a : Nat) (v : Word) : Nat × BitVec 39 := (a, v.setWidth 39)

/-- The words of a secret and its seal at address a (R113, R115). -/
def secretWords (a : Nat) (s : BitVec 256) : List (Nat × BitVec 39) :=
  ((List.range 8).map fun i => coded (a + i) (s.extractLsb' (32 * i) 32)) ++ [coded (a + 8) (sealWord s)]

/-- The words a step of a move programs (R148, R117); step 1 of a move to PROVISIONED goes by `writeSecret`. -/
def stepWords (m : Move) : List (Nat × BitVec 39) :=
  let copy (i : Nat) := [bare i (lcCode m.target)]
  match m.target with
  | .manufactured => if m.step = 0 then secretWords 0x80 m.data else copy (m.step - 1)
  | .provisioned => copy (m.step - 1)
  | .deployed => copy m.step
  | .analysis => if m.step = 0 then onesFrom 0xC0 36 else if m.step = 1 then onesFrom 0x100 1792 else copy (m.step - 2)
  | .terminated =>
    if m.step = 0 then onesFrom 0xC0 36 ++ onesFrom 0x80 9 else if m.step = 1 then onesFrom 0x100 1792 else copy (m.step - 2)
  | .blank => []

/-- A word whose target would need a 1 turned to 0 (R149). -/
def conflicts (b : Block) (ws : List (Nat × BitVec 39)) : Bool := ws.any fun p => otpWord b p.1 &&& ~~~p.2 ≠ 0

/-- The first step that programs copy A (R154). -/
def copyAStep : LcState → Nat
  | .manufactured => 1 | .provisioned => 1 | .deployed => 0 | _ => 2

def pushRun (job : OtpJob) (ws : List (Nat × BitVec 39)) (b : Block) : Block :=
  { b with otpRuns := b.otpRuns ++ [{ words := ws, job := job }] }

/-- The draw of a new root secret: a sample that fails the health tests is discarded, up to 16 times (R112; fuel: attempts). -/
def drawSecret : Nat → Block → Option (BitVec 256) × Block
  | 0, b => (none, b)
  | n + 1, b =>
    let good := Config.drawHealthy b.draws
    let (s, b) := draw b
    if good then (some (condition s), b) else drawSecret n b

/-- A step fails before copy A: the move is abandoned with its code (R154). -/
def abandonMove (c : Byte) (b : Block) : Block :=
  match b.lcs.move with
  | none => b
  | some m =>
    let b := { b with otpRuns := b.otpRuns.filter fun r => match r.job with
      | .lcsRecord | .lcsVoid | .lcsStep | .lcsNibble | .lcsAbandon => false | _ => true }
    let b := raise 0x01 1 { b with lcs := { b.lcs with move := none, res := c } }
    match m.record with
    | some r => pushRun .lcsAbandon [bare (0x10 + 4 * r + 2) 0xF0000000] b
    | none => b

/-- A step of the move fails: it is abandoned until copy A is written, and afterwards waits for repair (R154). -/
def stepFails (c : Byte) (b : Block) : Block :=
  match b.lcs.move with
  | none => b
  | some m =>
    if m.step ≤ copyAStep m.target then abandonMove c b else { b with lcs := { b.lcs with move := some { m with paused := true } } }

/-- Queues the words of a step. -/
def stepRun (ws : List (Nat × BitVec 39)) (b : Block) : Block :=
  if conflicts b ws then stepFails cLifecycle b else pushRun .lcsStep ws b

/-- The TORN root slots, voided (R115 step 1). -/
def tornWords (b : Block) : List (Nat × BitVec 39) :=
  ((List.range 4).filter fun k => slotClass b (rootSlotAddr k) = .torn).flatMap fun k => onesFrom (rootSlotAddr k) 9

/-- The secret of the move goes into the lowest-numbered BLANK slot, its seal last (R115 steps 2 to 4). -/
def writeSecret (m : Move) (b : Block) : Block :=
  match (List.range 4).find? fun k => slotClass b (rootSlotAddr k) = .blank with
  | some k => stepRun (secretWords (rootSlotAddr k) m.data) b
  | none => stepFails cLifecycle b

/-- Begins the move's current step. A root secret is drawn before any word is programmed (R112); then TORN slots become VOID. -/
def startStep (b : Block) : Block :=
  match b.lcs.move with
  | none => b
  | some m =>
    if m.target = .provisioned ∧ m.step = 0 then
      match drawSecret 16 b with
      | (none, b) => stepFails cUncorr b
      | (some s, b) =>
        let m := { m with data := s }
        let b := { b with lcs := { b.lcs with move := some m } }
        let torn := tornWords b
        if torn.isEmpty then writeSecret m b else pushRun .lcsVoid torn b
    else stepRun (stepWords m) b

/-- The block restarts itself into the new state, as `rst_warm_n` does (R151); the rest of that reset is done by the caller. -/
def moveFinished (b : Block) : Bool :=
  match b.lcs.move with
  | some m => m.step ≥ stepCount m.target && !m.clearing
  | none => false

/-- What follows the last word of a life-cycle run. -/
def lcsJobDone (j : OtpJob) (b : Block) : Block :=
  match b.lcs.move, j with
  | some m, .lcsRecord =>
    if m.target = .analysis ∨ m.target = .terminated then
      { b with lcs := { b.lcs with move := some { m with clearing := true } } }
    else startStep b
  | some m, .lcsVoid => writeSecret m b
  | some m, .lcsStep =>
    match m.record with
    | some r => pushRun .lcsNibble [bare (0x10 + 4 * r + 2) (BitVec.ofNat 32 (0xF <<< (4 * m.step)))] b
    | none =>
      let m := { m with step := m.step + 1 }
      let b := { b with lcs := { b.lcs with move := some m } }
      if m.step < stepCount m.target then startStep b else b
  | some m, .lcsNibble =>
    let m := { m with step := m.step + 1 }
    let b := { b with lcs := { b.lcs with move := some m } }
    if m.step < stepCount m.target then startStep b else b
  | _, _ => b

/-- Advances the OTP port: starts the next word, and follows life-cycle runs to their next words (fuel: runs). -/
def otpAdvance : Nat → (OtpJob → Block → Block) → Block → Block
  | 0, _, b => b
  | n + 1, other, b =>
    if (b.otpRuns.head?.any (·.busy)) ∨ b.lcs.move.any (·.paused) then b
    else match otpStart b with
    | (b, none) => b
    | (b, some j) => otpAdvance n other (match j with
      | .lcsRecord | .lcsVoid | .lcsStep | .lcsNibble | .lcsAbandon => lcsJobDone j b
      | _ => other j b)

/-- A program operation ends (R63): the read-back is what the word now holds; a mismatch is tried up to 4 times (R154). -/
def otpDone (readback : BitVec 39) (fail : OtpJob → Block → Block) (b : Block) : Block :=
  match b.otpRuns with
  | [] => b
  | r :: rs =>
    match r.words with
    | [] => b
    | (a, w) :: ws =>
      if !r.busy then b
      else
        let want := otpWord b a ||| w
        let b := { b with otp := tset 0 b.otp a (otpWord b a ||| readback), pins := { b.pins with otpVppEn := false } }
        if readback = want then { b with otpRuns := { r with words := ws, tries := 0, busy := false } :: rs }
        else if r.tries + 1 < 4 then { b with otpRuns := { r with tries := r.tries + 1, busy := false } :: rs }
        else
          match b.lcs.move, r.job with
          | some m, .lcsStep =>
            if m.step ≤ copyAStep m.target then abandonMove cUncorr { b with otpRuns := rs }
            else { b with otpRuns := { r with tries := 0, busy := false } :: rs,
                          lcs := { b.lcs with move := some { m with paused := true } } }
          | some m, .lcsNibble =>
            if m.step < copyAStep m.target then abandonMove cUncorr { b with otpRuns := rs }
            else { b with otpRuns := { r with tries := 0, busy := false } :: rs,
                          lcs := { b.lcs with move := some { m with paused := true } } }
          | some _, .lcsRecord => abandonMove cUncorr { b with otpRuns := rs }
          | some _, .lcsVoid => abandonMove cUncorr { b with otpRuns := rs }
          | _, j => fail j { b with otpRuns := rs }

/-! ### Requests (R144 to R146, R156) -/

/-- The four words of a 128-bit value as the 16-byte string of R462. -/
def tokenBytes (l : Lcs) : Bytes := ((tgets 0 l.token 0 4).map fun w => leBytes 4 w.toNat).flatten

def testData (l : Lcs) : BitVec 256 := bytesKey ((tgets 0 l.data 0 8).map fun w => leBytes 4 w.toNat).flatten

/-- The token a requester must bring (R145). -/
def wantedToken (b : Block) (f t : LcState) : Bytes :=
  cmac (keyBytes (keyAt b 0).key) ([0x4C, 0x43, 0x53, 0x32] ++ leBytes 16 b.lcs.nonce.toNat ++
    leBytes 4 (lcCode f).toNat ++ leBytes 4 (lcCode t).toNat)

def testValid (b : Block) : Bool := b.keys.testRoot.isSome

/-- Is the move in R144, with its state condition on TEST_VALID or ROOT_VALID? -/
def moveListed (b : Block) (f t : LcState) : Bool :=
  match f, t with
  | .blank, .manufactured => true
  | .blank, .terminated => true
  | .manufactured, .provisioned => testValid b
  | .manufactured, .analysis => testValid b
  | .manufactured, .terminated => testValid b
  | .provisioned, .deployed => b.keys.root.isSome
  | .provisioned, .analysis => true
  | .provisioned, .terminated => true
  | .deployed, .analysis => true
  | .deployed, .terminated => true
  | .analysis, .terminated => testValid b
  | _, _ => false

/-- The authorisation of R144: a token under TEST, or a session with the LCS right. An all-zero test root, for which R146 names no
code, fails here with DENIED (DESIGN CHOICE, log entry 145). -/
def moveAuthorised (b : Block) (m : Master) (f t : LcState) : Bool :=
  match f with
  | .blank => t ≠ .manufactured || testData b.lcs ≠ 0
  | .manufactured | .analysis => b.lcs.nonceOk && keyLive b 0 && tokenBytes b.lcs = wantedToken b f t
  | _ => match m with
    | .session i => (sessRights b i.val).testBit 0
    | _ => false

/-- A move from PROVISIONED or DEPLOYED to ANALYSIS or TERMINATED needs every berth FREE. -/
def needsFree (f t : LcState) : Bool :=
  (f = .provisioned || f = .deployed) && (t = .analysis || t = .terminated)

def allBerthsFree (b : Block) : Bool := b.berths.all fun e => e.2.st = .free

/-- The checks of R146 in their order. -/
def lcsCheck (b : Block) (m : Master) (target : Nat) : Byte :=
  match lcOfNum target with
  | none => cLifecycle
  | some t =>
    let f := b.lcs.st
    if !moveListed b f t then cLifecycle
    else if (unusedRecord b).isNone ∧ t ≠ .terminated then cLifecycle
    else if !moveAuthorised b m f t then cDenied
    else if b.lcs.move.isSome then cBusy
    else if needsFree f t ∧ !allBerthsFree b then cBusy
    else cPending

/-- GO on LCS_REQ (R146): completes with a code, or starts the move. -/
def lcsRequest (m : Master) (val : Word) (b : Block) : Block :=
  let c := lcsCheck b m (fld val 2 0)
  let data := testData b.lcs
  let b := { b with lcs := { b.lcs with nonceOk := false, token := [], data := [], res := c } }
  if c ≠ cPending then raise 0x01 1 b
  else
    let t := (lcOfNum (fld val 2 0)).getD .terminated
    let f := b.lcs.st
    let r := unusedRecord b
    let mv : Move := { target := t, source := f, record := r, resumed := false, data := data }
    let b := { b with lcs := { b.lcs with move := some mv } }
    match r with
    | some k => pushRun .lcsRecord [coded (0x10 + 4 * k) (lcCode t), coded (0x10 + 4 * k + 1) (lcCode f)] b
    | none => { b with lcs := { b.lcs with move := b.lcs.move.map fun x => { x with clearing := true } } }

/-- A read of LCS_NONCE0 draws a fresh nonce and returns its bits 31:0 (R145, R156). -/
def lcsNonce (b : Block) : Word × Block :=
  let (r, b) := draw b
  let n := r.setWidth 128
  (n.setWidth 32, { b with lcs := { b.lcs with nonce := n, nonceOk := true } })

/-- A write to LCS_DATA is accepted in BLANK only (R156). -/
def lcsData (i : Nat) (v : Word) (b : Block) : Block :=
  if b.lcs.st = .blank then { b with lcs := { b.lcs with data := tset 0 b.lcs.data i v } }
  else recordErr 0x01 cLifecycle none b

def lcsToken (i : Nat) (v : Word) (b : Block) : Block := { b with lcs := { b.lcs with token := tset 0 b.lcs.token i v } }

/-- A core's SRAM is cleared but for the ROM's working area, pages 0 to 7 (R150). -/
def clearSram (x : Core) : Core :=
  { x with sram := x.sram.filter fun s => s.1 / 1024 < 8, zeroed := x.zeroed ++ (List.range 56).map (· + 8) }

/-- The clear ahead of a move to ANALYSIS or TERMINATED (R150): keys, root shadow, Hold, cache and core SRAMs. -/
def lcsClear (b : Block) : Block :=
  let b := { b with
    keys := { b.keys with cache := [], root := none, engine := [] }
    hold := { b.hold with mem := [], tags := [], upsets := [] }
    mema := { b.mema with cache := [] } }
  (List.range 4).foldl (fun b c => modCore c clearSram b) b

/-- The clear completes, and the move's steps begin (R150). -/
def lcsClearDone (b : Block) : Block :=
  match b.lcs.move with
  | some m =>
    if m.clearing then startStep { lcsClear b with lcs := { b.lcs with move := some { m with clearing := false } } } else b
  | none => b

end Sys2Proof.Machine
end

