-- ==== Sys2Proof/Machine/Units.lean ====
section
/-!
DEFINITION. Unit shutdown and re-enable (R92, R93, R180, R219, R236, R324 to R326): PAGE_CTRL of every page with a unit enable.
-/

namespace Sys2Proof.Machine

/-- PAGE_GEN of the page is a port generation (R97, R326). -/
def portPage (p : Nat) : Bool := p = 0x12 || (0x40 ≤ p && p < 0x80)

/-- The unit's chapter refuses a shutdown now. -/
def shutdownHeld (b : Block) (p : Nat) : Bool :=
  match p with
  | 0x04 => gseHeld b
  | 0x10 => !allBerthsFree b
  | 0x11 => b.mems.keys.any fun e => e.2.loaded
  | 0x12 => b.mema.regions.any fun e => e.2.st ≠ .free
  | 0x14 => !allBerthsFree b
  | 0x15 => b.sync.bars.any fun e => e.2.st ≠ .free
  | 0x18 => b.sue.clusters.any (fun e => e.2 ≠ 0) || b.sue.berths.any fun e => e.2.st ≠ .none
  | _ => false

/-- Work in flight at a unit. -/
def unitWork (b : Block) (p : Nat) : Bool :=
  match p with
  | 0x04 => !b.gse.run.isEmpty || !b.gse.keyOps.isEmpty
  | 0x10 => !b.hold.sets.isEmpty
  | 0x11 => !b.mems.reqs.isEmpty || !b.mems.wq.isEmpty
  | 0x12 => !b.mema.ops.isEmpty || !b.mema.reads.isEmpty || !b.mema.writes.isEmpty || b.mema.cmd.isSome
  | 0x14 => b.sched.cmd.isSome || b.sched.atts.any fun e => !e.2.out.isEmpty
  | 0x18 => b.sue.cmd.isSome
  | _ => if 0x40 ≤ p ∧ p < 0x80 then (lndAt b (p - 0x40)).drainRound.isSome else false

def setUnit (p : Nat) (u : UnitState) (last : Byte) : Block → Block :=
  modPage p fun x => { x with unit := u, lastStatus := last }

/-- A bank set given up before its clear ends leaves its banks as they were before the command. -/
def dropSets (b : Block) : Block :=
  let old := (b.hold.cmd.map fun c => (c.berth, c.old)).getD (0, (0, 0))
  let ks := b.hold.sets.flatMap BankSet.banks
  let b := ks.foldl (fun b k => setBank k (if (banksOf old.2).contains k then .owned old.1 else .free) b) b
  let b := modHold (fun h => { h with sets := [] }) b
  if b.hold.cmd.isSome then endRange cBusy (modHold (fun h => { h with ranges := tset (0, 0) h.ranges old.1 old.2 }) b) else b

/-- The work in flight that a squash abandons completes BUSY (R325); crossings and engine A operations stay for replay. -/
def abandon (p : Nat) (b : Block) : Block :=
  match p with
  | 0x04 =>
    let cs := b.gse.run ++ b.gse.keyOps
    let b := if b.kstg.rest.isSome then stageIdle b else b
    cs.foldl (fun b c => gseComplete c cBusy b) (modGse (fun g => { g with run := [], keyOps := [], secs := [] }) b)
  | 0x10 => dropSets b
  | 0x11 =>
    let ops := b.mems.reqs.map SReq.op ++ b.mems.wq.map SWrite.op
    ops.foldl (fun b o => later (.opDone o cBusy) b) (modMems (fun m => { m with reqs := [], wq := [] }) b)
  | 0x12 => if b.mema.cmd.isSome then raise 0x12 4 (modMema (fun m => { m with status := cBusy, cmd := none }) b) else b
  | 0x18 => match b.sue.cmd with
    | some (_, w) => endLane w cBusy b
    | none => b
  | _ => if 0x40 ≤ p ∧ p < 0x80 then portDown (p - 0x40) b else b

/-- The internal state that SCRUBBING clears beside what was abandoned: the watches of the sync hub, the GSE's queues, trace
records and cached lines. A GSE command still queued completes BUSY. -/
def clearUnit (p : Nat) (b : Block) : Block :=
  match p with
  | 0x04 =>
    let cs := b.gse.opq ++ b.gse.fwq
    cs.foldl (fun b c => gseComplete c cBusy b) (modGse (fun g => { g with opq := [], fwq := [], sess := [] }) b)
  | 0x12 => modMema (fun m => { m with cache := [] }) b
  | 0x15 => modSync (fun s => { s with wires := s.wires.map fun e => (e.1, { e.2 with armed := false }) }) b
  | 0x1F => { b with trc := { b.trc with recs := [] } }
  | _ => b

/-- A shutdown counts as one port reset on the MEMA page, for every port; a Landing's generation moved on at its entry to DOWN. -/
def shutdownGen (p : Nat) (b : Block) : Block :=
  if p = 0x12 then
    let b := (List.range b.build.memaPorts).foldl (fun b k => modPort k (fun x => { x with gen := x.gen + 1 }) b) b
    modPage 0x12 (fun x => { x with gen := (portAt b 0).gen }) b
  else b

/-- The unit has reached OFF: every command that names it and has not started completes BUSY (R324). -/
def refuseWaiting (p : Nat) (b : Block) : Block :=
  let b := (b.ctxs.map Prod.fst).foldl (fun b c => modCtx c (fun x => { x with
    cmds := x.cmds.map fun m =>
      if !m.started && m.done.isNone && (cmdPages b m.raw).contains p then { m with done := some cBusy } else m }) b) b
  (List.range 32).foldl (fun b w => later (.sched w) b) b

/-- ENABLE written 1 (R324). -/
def enableUnit (p : Nat) (b : Block) : Block :=
  match (pageAt b p).unit with
  | .off =>
    let b := modPage p (fun x => { x with unit := .on, lastStatus := cOk, gen := if portPage p then x.gen else x.gen + 1 }) b
    if p = 0x12 then portsTurn b else b
  | .on => setUnit p .on cOk b
  | _ => setUnit p .enablePending cPending b

/-- ENABLE written 0 with SQUASH 0: a drain begins; DRAINING passes straight on where a withdrawn re-enable left no work. -/
def drainUnit (p : Nat) (b : Block) : Block :=
  match (pageAt b p).unit with
  | .on =>
    let b := modPage p (fun x => { x with unit := .draining, lastStatus := cPending, since := now b }) b
    if 0x40 ≤ p ∧ p < 0x80 then modLnd (p - 0x40) (fun l => { l with drainRound := some l.roundTx }) b else b
  | .enablePending => setUnit p (if unitWork b p then .draining else .scrubbing) cPending b
  | .off => setUnit p .off cOk b
  | u => setUnit p u cPending b

/-- ENABLE written 0 with SQUASH 1: work in flight is abandoned. -/
def squashUnit (p : Nat) (b : Block) : Block :=
  match (pageAt b p).unit with
  | .on => setUnit p .scrubbing cPending (abandon p b)
  | .draining => setUnit p .scrubbing cPending (abandon p b)
  | .enablePending => setUnit p .scrubbing cPending (if unitWork b p then abandon p b else b)
  | .off => setUnit p .off cOk b
  | .scrubbing => setUnit p .scrubbing cPending b

/-- A write to PAGE_CTRL (R92). A shutdown that the unit's chapter refuses leaves ENABLE at 1 and LAST_STATUS BUSY. -/
def pageCtrlWrite (p : Nat) (v : Word) (b : Block) : Block :=
  if !present b.build p then b
  else if !hasEnable p then modPage p (fun x => { x with ctrl := (x.ctrl &&& 3) ||| (v &&& 0xFFFFFFFC), lastStatus := cOk }) b
  else if v.getLsbD 0 then enableUnit p (modPage p (fun x => { x with ctrl := v }) b)
  else if (pageAt b p).unit = .on ∧ shutdownHeld b p then modPage p (fun x => { x with ctrl := v ||| 1, lastStatus := cBusy }) b
  else if v.getLsbD 1 then squashUnit p (modPage p (fun x => { x with ctrl := v }) b)
  else drainUnit p (modPage p (fun x => { x with ctrl := v }) b)

/-- PAGE_CTRL as it reads. -/
def pageCtrl (b : Block) (p : Nat) : Word :=
  let v := (pageAt b p).ctrl
  if !present b.build p then v &&& 0xFFFFFFFE
  else if hasEnable p then v else v ||| 1

/-- The last work in flight of a draining unit completes. -/
def drainComplete (p : Nat) (b : Block) : Block :=
  if 0x40 ≤ p ∧ p < 0x80 then landingDrained (p - 0x40) b
  else if (pageAt b p).unit = .draining ∧ !unitWork b p then modPage p (fun x => { x with unit := .scrubbing }) b
  else b

/-- A draining unit's watch runs out: it goes on as under a squash (R421). -/
def drainExpired (p : Nat) (b : Block) : Block := squashUnit p b

/-- The unit's internal state has cleared: OFF, or ON again for a re-enable that waits. -/
def scrubUnitDone (p : Nat) (b : Block) : Block :=
  match (pageAt b p).unit with
  | .scrubbing =>
    let b := refuseWaiting p (shutdownGen p (setUnit p .off cOk (clearUnit p b)))
    if p = 0x12 then portsTurn b else b
  | .enablePending =>
    if unitWork b p then b
    else
      let b := shutdownGen p (clearUnit p b)
      modPage p (fun x => { x with unit := .on, lastStatus := cOk, gen := if portPage p then x.gen else x.gen + 1 }) b
  | _ => b

end Sys2Proof.Machine
end

