-- ==== Sys2Proof/Machine/Recovery.lean ====
section
/-!
DEFINITION. Ferrymen cores (R429 to R431), the watches (R421 to R424), the record ring (R425 to R428) and notices (R432).
-/

namespace Sys2Proof.Machine

/-! ### Cores -/

/-- The firmware's part of every berth's tide table, after a stop. -/
def catchUp (b : Block) : Block := (b.berths.map Prod.fst).foldl (fun b w => firmwareSlot w true b) b

/-- A core's registers and working pages are cleared; the pages of berths are kept. -/
def clearCore (b : Block) (c : Nat) (x : Core) : Core :=
  { x with sram := x.sram.filter fun e => (pageBerth b c (e.1 / 1024)).isSome }

/-- The register command the core serves, if it serves one: a running LOAD of its berth. -/
def stopServing (c : Nat) (b : Block) : Block :=
  match b.sched.cmd with
  | some s => if s.op = 2 ∧ berthCore b s.berth = some c then loadEnds s.berth cBusy 1 b else b
  | none => b

/-- A core faults: cause 1 fetch trap, 2 watchdog, 3 illegal instruction; `page` is the SRAM page of an uncorrectable error. -/
def coreFaults (c cause : Nat) (pc : Word) (page : Option Nat) (b : Block) : Block :=
  let x := coreAt b c
  if x.st = .dead ∨ x.st = .restarting then b
  else
    let fs := (x.faults.filter fun t => now b < t + msTicks b 10000) ++ [now b]
    let dead := 3 ≤ fs.length
    let code := if cause = 1 then cFetchTrap else cUncorr
    let g := x.gen + 1
    let b := record { kind := 8, code := code, inst := c, unit := 0x1B, gen := g, d0 := cause, d1 := pc.toNat, d2 := fs.length } b
    let b := stopServing c b
    let b := modCore c (fun x =>
      { clearCore b c x with st := if dead then .dead else .restarting, gen := g, faults := fs, cause := cause, pc := pc,
                             since := now b }) b
    let b := if dead then record { kind := 9, code := Config.recordCode 9, inst := c, unit := 0x1B, gen := g } b else b
    let b := raise 0x1B 3 b
    let b := if dead then catchUp b else b
    match page.bind (pageBerth b c) with
    | some w => later (.enterSealing w true) (loseAll w cFetchTrap 0x1B b)
    | none => b

/-- A restarted core resumes (R429 step 5, R430). -/
def coreRestarted (c : Nat) (patchGood : Bool) (b : Block) : Block :=
  if (coreAt b c).st ≠ .restarting then b
  else catchUp (raise 0x1B 3 (modCore c (fun x => { x with st := .running, kick := now b, patch := !patchGood }) b))

/-- A write to RECV_KICKc. -/
def kickCore (c : Nat) (v : Word) (b : Block) : Block :=
  if v.getLsbD 0 then modCore c (fun x => { x with kick := now b }) b else b

/-! ### Watches -/

/-- Limit of watch n in ticks; 0 disables it. -/
def limitOf (b : Block) (n : Nat) : Nat := (reg b (0x1B0C0 + 4 * n)).toNat * b.build.mgmtMhz

/-- A wait that began at a tick has lasted watch n's limit. -/
def expired (b : Block) (n since : Nat) : Bool := limitOf b n ≠ 0 && since + limitOf b n ≤ now b

/-- Watches act while no power failure has been accepted; PORT acts beyond it (R423). -/
def watching (b : Block) (n : Nat) : Bool := b.slip.st = .idle || n = 0

/-- The record of an expiry, which is counted (R421, R455). -/
def hang (n since : Nat) (r : Rec) (b : Block) : Block :=
  count 13 r.berth 1 (record { r with kind := 6, code := cUncorr, d0 := n, d1 := (now b - since) / b.build.mgmtMhz } b)

/-- A port of engine A is reset by its watch: R58 on the block's side, and at once R264's replay. -/
def watchPort (k since : Nat) (b : Block) : Block :=
  let b := hang 0 since { kind := 6, code := 0, inst := k, unit := 0x12, gen := (portAt b k).gen + 1 } b
  let b := record { kind := 7, code := Config.recordCode 7, inst := k, unit := 0x12, gen := (portAt b k).gen + 1, d0 := 1 } b
  portReturn k (portReset k b)

/-- The oldest unanswered transaction of an engine A port. -/
def portSince (b : Block) (k : Nat) : Option Nat :=
  ((b.mema.reads.filter fun x => x.port = k && x.sent).map ARead.since ++
   (b.mema.writes.filter fun x => x.port = k && x.sent).map AWrite.since).min?

/-- An operation whose transaction the PORT watch or a reset of the HIF abandons completes UNCORRECTABLE; a COPY does not halt its
channel, for no line was read. -/
def abandonOp (op : OpRef) (b : Block) : Block :=
  match op with
  | .cmd c i =>
    (match copyOfCmd b c i, cmdAt b c i with
     | some j, some m => faultCopy c i cUncorr (fieldLE m.raw 0x28 2) (fieldLE m.raw 0x30 4 + j.line) b
     | _, _ => later (.opLost op cUncorr) b)
  | _ => later (.opLost op cUncorr) b

/-- PORT watch on an internal-path read of engine S; its tag stays reserved (R420). -/
def watchInternal (g tid : Nat) (b : Block) : Block :=
  match b.mems.reqs.find? fun r => r.group = g && r.tid = tid && !r.fabric && expired b 0 r.since with
  | some r =>
    let b := hang 0 r.since { kind := 6, code := 0, berth := some r.berth, inst := g, unit := 0x11, gen := (pageAt b 0x11).gen } b
    let b := { b with recv := { b.recv with lostTags := b.recv.lostTags ++ [(lostKey r.group r.slice, r.tid)] } }
    pumpWrites r.berth b.mems.wq.length (abandonOp r.op (modMems (fun m => { m with reqs := m.reqs.erase r }) b))
  | none => b

/-- PORT watch on the read of a tide table. -/
def watchLoad (b : Block) : Block :=
  match b.sched.cmd with
  | some s =>
    if s.op = 2 ∧ expired b 0 s.since then
      loadEnds s.berth cUncorr 1 (hang 0 s.since { kind := 6, code := 0, berth := some s.berth, gen := b.recv.hifGen } b)
    else b
  | none => b

/-- The oldest read of a berth through a HIF checkpoint window that has no answer: a sector's or a record's. -/
def windowSince (b : Block) (w : Nat) : Option Nat :=
  let viaWindow (s : GseSec) : Bool := (runOf b w).any fun c => (secSource b c s.sector).any fun p => isWindow b p.1
  ((b.gse.secs.filter fun s => s.berth = w && !s.out && viaWindow s).map GseSec.since ++
   (b.gse.keyOps.filter fun c => c.d.berth.val = w && c.reading && isWindow b (fld c.d.record 15 0)).map GseCmd.since).min?

/-- The transfers of a berth through a HIF checkpoint window fail (R58, R421). -/
def windowFails (w : Nat) (b : Block) : Block :=
  match recReader b w with
  | some c => if isWindow b (fld c.d.record 15 0) then recDone w cUncorr b else gseFail w cUncorr b
  | none => gseFail w cUncorr b

/-- PORT watch on the sector and record transfers of a berth's GSE commands. -/
def watchSector (w : Nat) (b : Block) : Block :=
  match windowSince b w with
  | some t =>
    if expired b 0 t then windowFails w (hang 0 t { kind := 6, code := 0, berth := some w, gen := b.recv.hifGen } b) else b
  | none => b

/-- PORT watch on a queue scan's read: abandoned without fault, retried at the next window. The wait itself is the scan's, which
one step holds, so its age is the limit. -/
def watchScan (c : Nat) (b : Block) : Block :=
  match (ctxAt b c).berth, (ctxAt b c).queue with
  | some w, some _ =>
    if ((berthAt b w).st = .joined ∨ (berthAt b w).st = .running) ∧ limitOf b 0 ≤ now b then
      hang 0 (now b - limitOf b 0) { kind := 6, code := 0, berth := some w, ctx := some c, gen := b.recv.hifGen } b
    else b
  | _, _ => b

/-- ATTACH: a command outstanding too long; NP commands are R320's. -/
def watchAttach (a : Nat) (b : Block) : Block :=
  let old := ((attAt b a).out.filter fun o => !((cmdAt b o.1 o.2.1).any fun m => fNp m.raw)).map fun o => o.2.2
  match old.min? with
  | some t =>
    if expired b 1 t ∧ !(attAt b a).inRst then
      resetAttach a true (hang 1 t { kind := 6, code := 0, inst := a, unit := 0x14, gen := (attAt b a).gen + 1 } b)
    else b
  | none => b

/-- HOLD: a consumer read waiting on a line whose verdict does not come. -/
def watchHold (id : Nat) (b : Block) : Block :=
  match b.hold.waits.find? fun r => r.id = id with
  | some r =>
    if expired b 2 r.since ∧ !r.ready then
      let b := hang 2 r.since { kind := 6, code := 0, berth := opBerth b r.op, inst := lineBank r.line, unit := 0x10,
                                gen := (pageAt b 0x10).gen } b
      later (.opLost r.op cUncorr) (poisonLine r.line (modHold (fun h => { h with waits := h.waits.erase r }) b))
    else b
  | none => b

/-- XING: a crossing that is not OPEN and holds operations or frames, on a Landing that is not in reset (R423). -/
def watchXingDue (n x : Nat) (b : Block) : Block :=
  let i := xingAt b n x
  if !(lndAt b n).inRst ∧ i.st ≠ .opened ∧ i.st ≠ .failed ∧ i.waitTick ≠ 0 ∧ expired b 3 (i.waitTick - 1) then
    failXing n x cUncorr
      (hang 3 (i.waitTick - 1) { kind := 6, code := 0, berth := some (xingBerth b n x), inst := n, unit := 0x09, gen := lndGen b n } b)
  else b

/-- BARRIER: an entry that hears nothing. -/
def watchBarrier (e : Nat) (b : Block) : Block :=
  if limitOf b 4 ≠ 0 ∧ barWatchDue b e (limitOf b 4) then
    failBar e cUncorr none
      (hang 4 (barAt b e).tick { kind := 6, code := 0, berth := some (barAt b e).berth, inst := e, unit := 0x15,
                                 gen := (pageAt b 0x15).gen } b)
  else b

/-- What the QUIESCE watch abandons (R424): the berth's transactions at every port, with their tags, engine A's held writes and the
footprints of its regions, and the keys that waited for them. -/
def abandonBerth (w : Nat) (b : Block) : Block :=
  let outs := attachedOf b w
  let b := outs.foldl (fun b o => modAtt o.1 (giveUp o.2) b) b
  let reqs := b.mems.reqs.filter fun r => r.berth = w
  let raws := rawReads b w
  let rs := berthRgns b w
  let held := b.mema.writes.filter fun x => rs.contains x.region
  let feet := rs.map fun r => (rPort (rgnAt b r), rBase (rgnAt b r), rBase (rgnAt b r) + footBytes (rType (rgnAt b r) = 0) (rLog (rgnAt b r)))
  let tags := reqs.map (fun r => (lostKey r.group r.slice, r.tid)) ++
    raws.map (fun x => (x.port, x.tag)) ++ held.map fun x => (x.port, x.tag)
  let b := { b with recv := { b.recv with lostTags := b.recv.lostTags ++ tags, deadFeet := b.recv.deadFeet ++ feet } }
  let b := modMems (fun m => { m with reqs := m.reqs.filter (fun r => r.berth ≠ w), wq := m.wq.filter fun x => x.berth ≠ w }) b
  let b := modMema (fun m => { m with
    reads := m.reads.filter fun x => !raws.contains x
    writes := m.writes.filter fun x => !rs.contains x.region }) b
  let b := rs.foldl (fun b r => modRgn r (fun _ => {}) b) b
  let b := dropSession w cUncorr false b
  (berthKids b w).foldl (fun b k => modKey k (fun e => freedKey e true) b) b

/-- QUIESCE: the block abandons what is outstanding and goes on to step 3. -/
def watchQuiesce (w : Nat) (b : Block) : Block :=
  let s := (berthAt b w).scrub
  if (berthAt b w).st = .scrubSt ∧ !s.quiesced ∧ expired b 5 s.since then
    startClears w (abandonBerth w
      (hang 5 s.since { kind := 6, code := 0, berth := some w, inst := w, unit := 0x20, gen := (pageAt b (0x20 + w)).gen } b))
  else b

/-- Queues a notice for a record just written that its mask bit does not select. -/
def noticeAnyway (b : Block) : Block :=
  match b.recv.ring.getLast? with
  | some ws =>
    if b.recv.notices.getLast? = some ws then b
    else if b.recv.notices.length < 64 then { b with recv := { b.recv with notices := b.recv.notices ++ [ws] } }
    else { b with recv := { b.recv with ndropped := min 0xFFFF (b.recv.ndropped + 1) } }
  | none => b

/-- CESCRUB: a record and a notice, once; the block keeps waiting. -/
def watchCeScrub (w : Nat) (b : Block) : Block :=
  let s := (berthAt b w).scrub
  let acked := (List.range b.build.attach).all fun a => s.acked.contains a
  if (berthAt b w).st = .scrubSt ∧ !acked ∧ !s.hung ∧ expired b 6 s.since then
    noticeAnyway (hang 6 s.since { kind := 6, code := 0, berth := some w, inst := w, unit := 0x20, gen := (pageAt b (0x20 + w)).gen }
      (modBerth w (fun x => { x with scrub := { x.scrub with hung := true } }) b))
  else b

/-- DRAIN: a unit that stays in DRAINING goes on as under a squash; a Landing is R219's. -/
def watchDrain (p : Nat) (b : Block) : Block :=
  let x := pageAt b p
  if hasEnable p ∧ !(0x40 ≤ p ∧ p < 0x80) ∧ x.unit = .draining ∧ expired b 7 x.since then
    drainExpired p (hang 7 x.since { kind := 6, code := 0, unit := (kindOf p).getD 0, gen := x.gen } b)
  else b

/-- CORE: no kick for the limit. -/
def watchCore (c : Nat) (pc : Word) (b : Block) : Block :=
  let x := coreAt b c
  if x.st = .running ∧ expired b 8 x.kick then
    coreFaults c 2 pc none (hang 8 x.kick { kind := 6, code := 0, inst := c, unit := 0x1B, gen := x.gen + 1 } b)
  else b

/-- Runs the handler of watch n where the watch acts. -/
def onWatch (n : Nat) (h : Block → Block) (b : Block) : Block := if watching b n then h b else b

/-! ### The ring and the notices -/

/-- May a master read words 3 to 5 of a record (R428): SEALED, and a session whose credential is an owner's of the record's berth? -/
def seesCommand (b : Block) (m : Master) (ws : List Word) : Bool :=
  let w0 := ws.getD 0 0
  match m with
  | .sealed => true
  | .session i =>
    w0.getLsbD 21 && (match (sessionAt b i.val).digest, tideOf b (fld w0 20 16) with
      | some d, some t => t.owners.any fun o => o.digest = d
      | _, _ => false)
  | _ => false

def maskWords (see : Bool) (ws : List Word) : List Word :=
  if see then ws else ws.zipIdx.map fun e => if 3 ≤ e.2 ∧ e.2 ≤ 5 then 0 else e.1

/-- A read of RECV_REC0 pops the oldest record and latches its words 1 to 15 for the master. -/
def recPop (m : Master) (b : Block) : Word × Block :=
  match b.recv.ring with
  | [] => (0, (List.range 15).foldl (fun b k => setLatch m (4 + k) 0 b) b)
  | ws :: rest =>
    let ws := maskWords (seesCommand b m ws) ws
    let b := { b with recv := { b.recv with ring := rest } }
    (ws.getD 0 0, (List.range 15).foldl (fun b k => setLatch m (4 + k) (ws.getD (k + 1) 0) b) b)

/-- The session a notice leaves on: the lowest-numbered one that the endpoint of RECV_NOTIFY opened on the transport it names (R432). -/
def noticeSession (b : Block) : Option Nat :=
  let t := if (reg b 0x1B090).getLsbD 8 then Transport.oob else Transport.i3c
  (List.range 16).find? fun i =>
    let s := sessionAt b i
    s.up && s.fin && s.via = t && s.eid = bits (reg b 0x1B090).toNat 7 0

/-- The transport takes the oldest notice: a RECOVERY_NOTICE with TAG 0 (R432, R444). -/
def sendNotice (b : Block) : Block :=
  match b.recv.notices, noticeSession b with
  | ws :: rest, some i =>
    if (reg b 0x1B090).getLsbD 31 then
      let see := seesCommand b (.session (Fin.ofNat 16 i)) ws
      let body := ((maskWords see ws).map fun w => leBytes 4 w.toNat).flatten
      emit (.notice i ([0x90, 0x02, 0, 0, 0] ++ leBytes 3 64 ++ body))
        (i3cCall (sessionAt b i).via { b with recv := { b.recv with notices := rest } })
    else b
  | _, _ => b

/-! ### Registers (R439) -/

def coreCode : CoreState → Nat
  | .running => 0 | .restarting => 1 | .dead => 2 | .halted => 0

def recvRead (b : Block) (m : Master) (o : Nat) : Word :=
  let w32 (n : Nat) : Word := BitVec.ofNat 32 n
  let v := b.recv
  let mask (p : CoreState → Bool) : Nat :=
    ((List.range 4).map fun c => 2 ^ c * b2n (p (coreAt b c).st)).sum
  if o = 0x040 then
    w32 (v.ring.length + 256 * mask (fun s => s = .running || s = .halted) + 4096 * mask (fun s => s = .dead) +
      65536 * v.notices.length + 2 ^ 23 * b2n (coresDead b))
  else if o = 0x044 then w32 (v.dropped + 65536 * v.ndropped)
  else if 0x04C ≤ o ∧ o < 0x088 then latch b m (4 + (o - 0x04C) / 4)
  else if o = 0x088 then w32 v.hangs
  else if o = 0x08C then w32 v.hifGen.toNat
  else if 0x100 ≤ o ∧ o < 0x110 then
    let x := coreAt b ((o - 0x100) / 4)
    let fs := (x.faults.filter fun t => now b < t + msTicks b 10000).length
    w32 (coreCode x.st + 4 * b2n x.patch + 16 * fs + 256 * x.gen.toNat)
  else if 0x140 ≤ o ∧ o < 0x150 then (coreAt b ((o - 0x140) / 4)).pc
  else 0

end Sys2Proof.Machine
end

