-- ==== Sys2Proof/Machine/Ecc.lean ====
section
/-!
DEFINITION. Error detection and correction (R402 to R418): what the patrol finds in each SRAM, the error log, retirement, DMA halts
and the check-bit test.
-/

namespace Sys2Proof.Machine

def modEcc (f : Ecc → Ecc) (b : Block) : Block := { b with ecc := f b.ecc }

/-! ### What the patrol finds (R137, R258, R404 to R409) -/

/-- SITE, INSTANCE and the berth of a store (R414). -/
def siteOf (b : Block) (s : EccSite) (addr : Nat) : Nat × Nat × Option Nat :=
  match s with
  | .hold =>
    let k := addr / 32768
    (0, k, match bankState b k with | .owned w => some w | _ => none)
  | .core c => (1, c.val, pageBerth b c.val (addr / 4096))
  | .keyCache k => (2, k.val, (keyAt b k.val).berth)
  | .rootTable r => (3, r.val, some (rBerth (rgnAt b r.val)))
  | .ctCache way r _ _ => (4, way.val, some (rBerth (rgnAt b r.val)))
  | .contextTable c => (5, 0, (ctxAt b c.val).berth)
  | .commandStore c _ => (5, 0, (ctxAt b c.val).berth)
  | .crossing n x => (6, n.val, some (xingBerth b n.val x.val))
  | .barrier e => (6, 0, some (barAt b e.val).berth)
  | .sueStore w => (6, 0, some w.val)
  | .gseStore w => (6, 0, some w.val)
  | .traceBuffer k => (6, 0, tget none b.trc.owner k.val)

/-- The patrol may read the place: no bank in a clear set, no line that is HELD (R407). -/
def patrols (b : Block) (s : EccSite) (addr : Nat) : Bool :=
  match s with
  | .hold =>
    addr < 1536 * 32768 && !(b.hold.sets.any fun x => x.banks.contains (addr / 32768)) && (tagAt b (addr / 64)).st ≠ .held
  | _ => true

/-- Operations of the GSE under a lost key complete UNCORRECTABLE, and so does the CREATE of a berth that loses its seed. -/
def loseKeyOps (k : Nat) (b : Block) : Block :=
  let b := (b.gse.run.filter (gseUsesKey b k)).foldl (fun b c => endSectors c cUncorr b) b
  let b := (b.gse.keyOps.filter (gseUsesKey b k)).foldl (fun b c => keyOpEnds c cUncorr b) b
  if b.sched.cmd.any fun s => s.op = 1 ∧ k = 0x20 + s.berth then schedEnd cUncorr b else b

/-- Entries that wait for a lost parent, or derive from it: PENDING again, or FREE where the parent was the berth's seed. -/
def orphanKeys (k : Nat) (seed : Bool) (b : Block) : Block :=
  (tfind b.keys.cache fun _ e => e.parent = .kid k && (e.st = .pending || e.st = .derivation)).foldl (fun b c =>
    let b := leaveEngine c b
    if seed then later (.keyFree c) (modKey c (fun e => freedKey e false) b) else modKey c (fun e => { e with st := .pending }) b) b

/-- An uncorrectable error in an entry of the key cache (R137). A derived entry derives again; an imported or generated one is lost,
and with it every context of the berth that named it (log entry 149). -/
def loseKey (k : Nat) (b : Block) : Block :=
  let e := keyAt b k
  let seed := 0x20 ≤ k && k < 0x40
  if e.st = .free then b
  else if e.source = 1 ∧ !seed then
    match e.st with
    | .live =>
      let st := if (engineNext.startValue b e.parent).isSome then KeyState.derivation else .pending
      fillEngine (modKey k (fun e => { e with st := st, again := true }) b)
    | .derivation => fillEngine (leaveEngine k b)
    | _ => b
  else
    let b := loseKeyOps k b
    let b := raise 0x02 2 (leaveEngine k (modKey k (fun e => freedKey e true) b))
    let b := fillEngine (orphanKeys k seed b)
    let b := if seed then { b with keys := { b.keys with seedLost := (k - 0x20) :: b.keys.seedLost } } else b
    let b := match e.berth with
      | some w => loseAll w cUncorr 0x02 b
      | none => b
    later (.keyFree k) b

/-- An uncorrectable error in a cached line (R258): a clean line is dropped and fetched again, a dirty one loses the region. -/
def loseCached (r level index : Nat) (b : Block) : Block :=
  match cacheFind b r level index with
  | some l => if l.dirty then loseRegion r cUncorr level index b else later .engineA (dropLine l b)
  | none => b

/-- The record of a trace buffer at a byte offset is dropped. -/
def dropTrace (k addr : Nat) (b : Block) : Block :=
  match tget none b.trc.owner k with
  | some w =>
    let rs := trcRecs b w
    (match ((rs.filter fun e => e.1 = k)[addr / 32]?) with
     | some e => { b with trc := { b.trc with recs := tset [] b.trc.recs w (rs.erase e) } }
     | none => b)
  | none => b

/-- What an uncorrectable error does in each store (R407, R409). -/
def spoilSite (s : EccSite) (addr : Nat) (b : Block) : Block :=
  match s with
  | .hold => poisonLine (addr / 64) b
  | .core c =>
    let (_, b) := draw b
    coreFaults c.val 1 (Config.corePc b.draws) (some (addr / 4096)) b
  | .keyCache k => loseKey k.val b
  | .rootTable r => loseRegion r.val cUncorr 14 0 b
  | .ctCache _ r level index => loseCached r.val level index b
  | .contextTable c => loseCtx c.val cUncorr 0x14 0 0 b
  | .commandStore c i => faultCmd c.val i cUncorr 0x14 0 0 b
  | .crossing n x => failXing n.val x.val cUncorr b
  | .barrier e => failBar e.val cUncorr none b
  | .sueStore w => later (.progFail w.val cUncorr) b
  | .gseStore w =>
    let b := if (sessAt b w.val).st = .sealSt then modSess w.val (fun s => { s with incomplete := true }) b else b
    gseFail w.val cUncorr b
  | .traceBuffer k => dropTrace k.val addr b

/-- The patrol reads a line of the Hold, or a byte of another store, whose stored bits have flipped so. A store other than the Hold
keeps its contents wherever the code reports no uncorrectable error (log entry 19). -/
def patrol (s : EccSite) (addr : Nat) (flipData : Byte) (flipCheck : BitVec 5) (b : Block) : Block :=
  if !patrols b s addr then b
  else if s = .hold then (senseLines none [addr / 64] (addUpset ⟨addr, flipData, flipCheck⟩ b)).2
  else
    let (site, inst, w) := siteOf b s addr
    let syn := byteSyndrome (flipData, flipCheck)
    match checkedByte 0 (flipData, flipCheck) with
    | none => spoilSite s addr (eccEvent site true w syn inst addr b)
    | some _ => if syn = 0 then b else eccEvent site false w syn inst addr b

/-! ### The log (R413, R418) -/

/-- A read of ECC_LOG0 pops the oldest entry and latches its words 1 to 3 for the master. -/
def eccPop (m : Master) (b : Block) : Word × Block :=
  match b.ecc.log with
  | [] => (0, (List.range 3).foldl (fun b k => setLatch m (1 + k) 0 b) b)
  | e :: rest =>
    let b := modEcc (fun x => { x with log := rest }) b
    (e.getD 0 0, (List.range 3).foldl (fun b k => setLatch m (1 + k) (e.getD (k + 1) 0) b) b)

/-- Every berth's contexts are looked at again. -/
def rescheduleAll (b : Block) : Block :=
  ((b.berths.filter fun e => e.2.st ≠ .free).map Prod.fst).foldl (fun b w => later (.sched w) b) b

/-- A write of 1 to a channel's bit of ECC_DMA_HALT releases it. -/
def dmaRelease (v : Word) (b : Block) : Block :=
  rescheduleAll (modEcc (fun x => { x with halted := x.halted &&& ~~~v }) b)

/-! ### Retirement (R415) -/

def retireDone' (c : Byte) (b : Block) : Block := raise 0x1A 4 (modEcc (fun x => { x with status := c }) b)

def retireCheck (b : Block) (kind i : Nat) : Byte :=
  match kind with
  | 0 =>
    if 1536 ≤ i then cDenied
    else if b.ecc.retired.contains i then cOk
    else if bankState b i ≠ .free then cBusy else cOk
  | 1 =>
    if 256 ≤ i ∨ i % 64 < 8 then cDenied
    else if b.ecc.fpages.contains i then cOk
    else if (pageBerth b (i / 64) (i % 64)).isSome then cBusy else cOk
  | 2 =>
    if 16 ≤ i then cDenied
    else if b.ecc.ways.testBit i then cOk
    else if b.mema.ways.any fun e => e.2.testBit i then cBusy else cOk
  | _ => cDenied

/-- GO on ECC_RETIRE_CMD. -/
def retireCmd' (v : Word) (b : Block) : Block :=
  let i := fld v 10 0
  let kind := fld v 12 11
  let c := retireCheck b kind i
  if c ≠ cOk then retireDone' c b
  else
    let put (l : List Nat) : List Nat := if l.contains i then l else l ++ [i]
    retireDone' cOk (match kind with
      | 0 => setBank i .faulted (modEcc (fun x => { x with retired := put x.retired }) b)
      | 1 => modEcc (fun x => { x with fpages := put x.fpages }) b
      | _ => modEcc (fun x => { x with ways := x.ways ||| 1 <<< i }) b)

/-! ### The check-bit test (R416) -/

/-- A write to ECC_INJ_CTRL: its RW fields, and with GO a test. -/
def injCtrl (v : Word) (b : Block) : Block :=
  let b := setReg 0x1A064 (v &&& 0x7FFFFFFF) b
  if !v.getLsbD 31 then b
  else
    let bank := fld v 10 0
    let refuse (c : Byte) (b : Block) : Block :=
      raise 0x1A 5 (modEcc (fun x => { x with injRes := (x.injRes &&& 0xFFFFFF00) ||| c.setWidth 32 }) b)
    if !v.getLsbD 26 ∧ (1536 ≤ bank ∨ bankState b bank ≠ .free) then refuse cDenied b
    else if b.ecc.test.isSome then refuse cBusy b
    else modEcc (fun x =>
      { x with test := some { ctrl := v, data := reg b 0x1A068, lo := reg b 0x1A06C, hi := reg b 0x1A070 } }) b

/-- What the checker finds of a test: syndrome, outcome and the value it delivers where it delivers one. -/
def injFinds (cols : List Nat) (data flip check : Nat) : Nat × Nat × Option Nat :=
  let syn := checkBits cols flip ^^^ check
  match classify cols syn with
  | .clean => (syn, 0, some (data ^^^ flip))
  | .uncorrectable => (syn, 2, none)
  | _ => (syn, 1, corrected cols syn (data ^^^ flip))

/-- A test ends: its result, its log entry, and the clear of its Hold line. What the checker delivers of an uncorrectable word is a
free value. -/
def injComplete (b : Block) : Block :=
  match b.ecc.test with
  | none => b
  | some t =>
    let path := t.ctrl.getLsbD 26
    let i := fld t.ctrl 10 0
    let line := 512 * i + fld t.ctrl 19 11
    let (syn, outcome, out) :=
      if path then injFinds col39 t.data.toNat t.lo.toNat (fld t.hi 6 0)
      else injFinds col13 (fld t.data 7 0) (fld t.lo 7 0) (fld t.hi 4 0)
    let (r, b) := draw b
    let v := match out with
      | some v => BitVec.ofNat 32 v
      | none => if path then r.setWidth 32 else (r.setWidth 8).setWidth 32
    let b := if outcome = 0 then b
      else if path then eccLog 7 (outcome = 2) true none syn i 0 b
      else eccLog 0 (outcome = 2) true none syn i (line + 2 ^ 20 * fld t.ctrl 25 20) b
    let b := if path then b else emptyLine line b
    raise 0x1A 5 (modEcc (fun x =>
      { x with test := none, injOut := v, injRes := BitVec.ofNat 32 (256 * outcome + 65536 * syn) }) b)

/-- A bank set that includes the bank of a running Hold test starts only after the test's clear. -/
def setBlocked (b : Block) : Bool :=
  match b.ecc.test, b.hold.sets with
  | some t, s :: _ => !t.ctrl.getLsbD 26 && s.banks.contains (fld t.ctrl 10 0)
  | _, _ => false

/-! ### Registers (R418) -/

def eccRead (b : Block) (m : Master) (o : Nat) : Word :=
  let w32 (n : Nat) : Word := BitVec.ofNat 32 n
  let x := b.ecc
  let maskOf (l : List Nat) (n : Nat) : Word := w32 ((l.filter fun i => i / 32 = n).map fun i => 2 ^ (i % 32)).sum
  if o = 0x040 then w32 (x.log.length + 128 * b2n x.test.isSome)
  else if 0x048 ≤ o ∧ o < 0x054 then latch b m (1 + (o - 0x048) / 4)
  else if o = 0x054 then w32 x.dropped
  else if o = 0x058 then x.halted
  else if o = 0x060 then x.status.setWidth 32
  else if o = 0x074 then x.injRes
  else if o = 0x078 then x.injOut
  else if 0x080 ≤ o ∧ o < 0x0C0 then w32 (tget 0 x.ce ((o - 0x080) / 4))
  else if 0x0C0 ≤ o ∧ o < 0x100 then w32 (tget 0 x.ue ((o - 0x0C0) / 4))
  else if 0x100 ≤ o ∧ o < 0x1C0 then maskOf x.retired ((o - 0x100) / 4)
  else if 0x1C0 ≤ o ∧ o < 0x1E0 then maskOf x.fpages ((o - 0x1C0) / 4)
  else if o = 0x1E0 then w32 x.ways
  else 0

end Sys2Proof.Machine
end

