-- ==== Sys2Proof/Machine/Resets.lean ====
section
/-!
DEFINITION. Resets, start, ports and test inputs (R47, R52, R56 to R58, R73, R97, R151, R153, R155, R264, R425), and the Slipway
(R61, R62, R433 to R440).
-/

namespace Sys2Proof.Machine

/-! ### What a reset leaves -/

/-- The levels of input pins outlive a reset of the block. -/
def inputLevels (b : Block) : Block :=
  { build := b.build, draws := b.draws, out := b.out, otp := b.otp
    pins := { slipPf := b.pins.slipPf, hifUp := b.pins.hifUp, tstScanEn := b.pins.tstScanEn, tstFreeze := b.pins.tstFreeze,
              tstMbist := b.pins.tstMbist }
    lnds := b.lnds.foldl (fun t e => tset {} t e.1 { inRst := e.2.inRst, phyUp := e.2.phyUp }) []
    mema := { ports := b.mema.ports.foldl (fun t e => tset {} t e.1 { inRst := e.2.inRst }) [] }
    sched := { atts := b.sched.atts.foldl (fun t e => tset {} t e.1 { inRst := e.2.inRst, scrubAck := e.2.scrubAck }) [] }
    sync := { wires := b.sync.wires.foldl (fun t e => tset {} t e.1 { ack := e.2.ack }) [] } }

/-- The OTP word under way when power is lost: each of its bits may or may not be programmed (R63, R155). -/
def tornWord (b : Block) : Block :=
  match b.otpRuns with
  | r :: _ =>
    (match r.busy, r.words with
     | true, (a, w) :: _ =>
       let (v, b) := draw b
       { b with otp := tset 0 b.otp a (otpWord b a ||| (w &&& v.setWidth 39)) }
     | _, _ => b)
  | [] => b

/-- `rst_por_n` asserts: everything but OTP is lost. -/
def powerOn (b : Block) : Block := inputLevels (tornWord b)

/-- Pages of the map, in order. -/
def mapPages : List Nat := (List.range 128).filter fun p => (kindOf p).isSome

/-- Every generation moves on (R97, R419); ECC and RECV keep PAGE_ERR (R95). -/
def warmPages (old b : Block) : Block :=
  let b := mapPages.foldl (fun b p =>
    let o := pageAt old p
    let keep := p = 0x1A ∨ p = 0x1B
    let n : Page := if keep then { errValid := o.errValid, errCode := o.errCode, errCount := o.errCount, errBerth := o.errBerth } else {}
    { b with pages := tset {} b.pages p { n with gen := o.gen + 1 } }) b
  let b := (List.range 16).foldl (fun b a => modAtt a (fun t => { t with gen := (attAt old a).gen + 1 }) b) b
  let b := (List.range 4).foldl (fun b k => modPort k (fun x => { x with gen := (portAt old k).gen + 1 }) b) b
  let b := (List.range 4).foldl (fun b c => modCore c (fun x => { x with gen := (coreAt old c).gen + 1 }) b) b
  { b with recv := { b.recv with hifGen := old.recv.hifGen + 1 } }

/-- What `rst_warm_n` leaves (R56): the error log and its counters, the newest record, the patch store, OTP. -/
def warmKeep (old : Block) : Block :=
  let b := inputLevels old
  let b := { b with
    porN := old.porN
    ecc := { log := old.ecc.log, dropped := old.ecc.dropped, ce := old.ecc.ce, ue := old.ecc.ue }
    recv := { ring := old.recv.ring.drop (old.recv.ring.length - 1), seq := old.recv.seq }
    mgmt := { store := old.mgmt.store } }
  warmPages old b

/-- Transactions outstanding across every port (R427). -/
def outstanding (b : Block) : Nat :=
  (b.sched.atts.map fun e => e.2.out.length).sum + (b.mema.reads.filter ARead.sent).length + (b.mema.writes.filter AWrite.sent).length +
    b.mems.reqs.length + (if b.sched.cmd.any fun s => s.op = 2 then 1 else 0) +
    ((List.range 32).filter fun w => (windowSince b w).isSome).length

/-- The record that captures what the reset destroys; the ring is emptied first, so that it is the newest (R425). -/
def warmRecord (b : Block) : Block :=
  let busy := ((b.berths.filter fun e => e.2.st ≠ .free).map fun e => 2 ^ e.1).sum
  let active := (b.ctxs.filter fun e => e.2.st = .active).length
  record { kind := 10, code := Config.recordCode 10, gen := (pageAt b 0).gen + 1, d0 := busy, d1 := active, d2 := outstanding b }
    { b with recv := { b.recv with ring := [] } }

/-- The level that a port's reset input has (R56). -/
def portLevel (p : Port) (down : Bool) (b : Block) : Block :=
  match p with
  | .landing n => modLnd n.val (fun l => { l with inRst := down }) b
  | .engineA k => if b.build.hostPort = some k.val then b else modPort k.val (fun x => { x with inRst := down }) b
  | .attach a => modAtt a.val (fun t => { t with inRst := down }) b
  | .hif => { b with pins := { b.pins with hifUp := !down } }

/-- `rst_warm_n` takes effect. A power failure that the Slipway has accepted stays accepted: it goes on to CLEARING with the outcomes
it has (R57, R62, R438). Log entry 153. -/
def warmNow (b : Block) : Block :=
  let s := b.slip
  let w := s.resets.foldl (fun b p => portLevel p.1 (!p.2) b) (warmKeep (warmRecord (tornWord b)))
  if s.st = .idle then w
  else { w with
    slip := { s with st := .clearing, queue := [], warm := false, warmGone := false, resets := [] }
    pins := { w.pins with slipBusy := true } }

/-- An OTP word of a life-cycle move is being programmed. -/
def wordBusy (b : Block) : Bool := b.lcs.move.isSome && b.otpRuns.head?.any fun r => r.busy

/-- `rst_warm_n` asserts: at once, after the OTP word in progress (R155), or when sealing ends (R57). After `slip_done` only
`rst_por_n` acts (R62). -/
def warmReset (b : Block) : Block :=
  if !b.porN ∨ b.slip.st = .done then b
  else if b.slip.st = .sealSt ∨ wordBusy b then { b with slip := { b.slip with warm := true, warmGone := false } }
  else warmNow b

/-! ### Start (R52, R153) -/

/-- A job that does not belong to a life-cycle move is followed by the caller's handler. -/
abbrev OtpFollow := OtpJob → Block → Block

/-- A resumed move goes on, unless the clear of R150 comes first. -/
def resumeMove (follow : OtpFollow) (b : Block) : Block :=
  match b.lcs.move with
  | some m =>
    if m.clearing then b
    else otpAdvance 16 follow (if m.step < stepCount m.target then startStep b else b)
  | none => b

/-- The ROM starts (R52). A block whose power failure is accepted stays inactive (R62). -/
def start (b : Block) : Block :=
  if b.phase ≠ .inReset then b
  else if b.slip.st ≠ .idle then { b with porN := true }
  else { startRead b with phase := .starting, porN := true }

/-- A reset input deasserts: the ROM starts, or the reset that waits is released before it takes effect (R57, R155). -/
def release (b : Block) : Block := if b.slip.warm then { b with slip := { b.slip with warmGone := true } } else start b

/-- The ROM enables every present unit and starts the cores. -/
def enableUnits (b : Block) : Block :=
  let b := (mapPages.filter fun p => hasEnable p && present b.build p).foldl (fun b p =>
    modPage p (fun x => { x with unit := .on, ctrl := 1, lastStatus := cOk }) b) b
  (List.range 4).foldl (fun b c => modCore c (fun x => { x with kick := now b }) b) b

/-- The life-cycle states that accept the test inputs (R73). -/
def testState (b : Block) : Bool := b.lcs.st = .blank || b.lcs.st = .manufactured || b.lcs.st = .analysis

/-- A test input that is high where the state accepts none is an entry attempt (R73). -/
def testEntry (high : Bool) (b : Block) : Block :=
  if high ∧ b.phase = .running ∧ !testState b then recordErr 0x00 cLifecycle none b else b

/-- The window is published and `cdc_ready` rises (R52); an incomplete move goes on (R153), and the test inputs count from here. -/
def startDone (follow : OtpFollow) (b : Block) : Block :=
  if b.phase ≠ .starting then b
  else
    let b := enableUnits { b with phase := .running, pins := { b.pins with cdcReady := true } }
    resumeMove follow (testEntry (b.pins.tstScanEn || b.pins.tstFreeze || b.pins.tstMbist) b)

/-- The block restarts itself, with the effect of `rst_warm_n` (R151). -/
def selfRestart (b : Block) : Block := start (warmKeep b)

/-- Follows a move to its end: the block restarts into its new state, and DONE is raised after that (R151, R156). -/
def settleMove (b : Block) : Block :=
  if moveFinished b ∧ b.otpRuns.isEmpty then
    let b := selfRestart { b with lcs := { b.lcs with move := none } }
    raise 0x01 1 { b with lcs := { b.lcs with res := cOk } }
  else b

/-- The word that ended was the last of a step of a move: what is left to program is the step's nibble. -/
def nibbleNext (b : Block) : Bool :=
  b.otpRuns.head?.any fun r => (match r.job with | .lcsStep => true | _ => false) && !r.busy && (skipWritten b r.words).isEmpty

/-- After a word the port goes on. A warm reset that waits takes effect instead, and once a power failure is accepted only the nibble
of the step that the word ended is programmed (R155). -/
def afterWord (follow : OtpFollow) (b : Block) : Block :=
  if b.slip.warm ∧ b.slip.st = .idle then
    (if wordBusy b then b else if b.slip.warmGone then start (warmNow b) else warmNow b)
  else if b.slip.st = .idle then settleMove (otpAdvance 16 follow b)
  else if nibbleNext b then otpAdvance 16 follow b
  else b

/-- A program operation ends. -/
def otpEnds (readback : BitVec 39) (fail follow : OtpFollow) (b : Block) : Block := afterWord follow (otpDone readback fail b)

/-- The clear of R150 ends, once the window is published (R153). -/
def clearEnds (follow : OtpFollow) (b : Block) : Block :=
  if b.slip.st ≠ .idle ∨ b.phase ≠ .running then b else settleMove (otpAdvance 16 follow (lcsClearDone b))

/-! ### Test inputs (R73) -/

def setPin (t : TestPin) (level : Bool) (p : Pins) : Pins :=
  match t with
  | .scanEn => { p with tstScanEn := level }
  | .freeze => { p with tstFreeze := level }
  | .mbist => { p with tstMbist := level }

def pinOf (t : TestPin) (p : Pins) : Bool :=
  match t with
  | .scanEn => p.tstScanEn
  | .freeze => p.tstFreeze
  | .mbist => p.tstMbist

/-- A test input takes a level; a rise where the state accepts none is an entry attempt. -/
def testInput (t : TestPin) (level : Bool) (b : Block) : Block :=
  testEntry (level && !pinOf t b.pins) { b with pins := setPin t level b.pins }

/-- `tst_freeze`, where it is accepted, halts the interior. -/
def frozen (b : Block) : Bool := b.phase = .running && b.pins.tstFreeze && testState b

/-! ### Ports (R47, R58, R264, R323) -/

/-- The objects that the sealing and restoring commands of a berth read and write: buffers and records. -/
def sealObjs (b : Block) (w : Nat) : List ObjKind :=
  ((b.gse.run ++ b.gse.keyOps).filter fun c => c.d.berth.val = w).flatMap fun c =>
    [(objAt b (fld c.d.buffer 15 0)).kind, (objAt b (fld c.d.record 15 0)).kind]

def onHif (k : ObjKind) : Bool :=
  match k with
  | .window .. => true
  | _ => false

/-- Engine A port k carries the data of an object. -/
def onPort (b : Block) (k : Nat) (o : ObjKind) : Bool :=
  match o with
  | .engA r => rPort (rgnAt b r) = k
  | _ => false

/-- An object's data goes over a port; a HOST port's over the HIF (R53). -/
def viaPort (b : Block) (p : Port) (o : ObjKind) : Bool :=
  match p with
  | .engineA k => onPort b k.val o && b.build.hostPort ≠ some k.val
  | .hif => onHif o || (b.build.hostPort.any fun k => onPort b k o)
  | _ => false

/-- Port that carries the sealing writes of the Slipway. -/
def carriesSealing (b : Block) (p : Port) : Bool :=
  b.slip.st = .sealSt && (b.slip.queue.head?.any fun w => (sealObjs b w).any (viaPort b p))

/-- An engine A port resets from its input. -/
def enginePortDown (k : Nat) (b : Block) : Block :=
  portReset k (record { kind := 7, code := Config.recordCode 7, inst := k, unit := 0x12, gen := (portAt b k).gen + 1 } b)

/-- The HIF resets: what it carried completes UNCORRECTABLE, its TDIs and IDE keys are lost, and the HOST port resets with it. -/
def hifDown (b : Block) : Block :=
  let ws := (List.range 32).filter fun w => (windowSince b w).isSome
  let load := b.sched.cmd.filter fun s => s.op = 2
  let n := ws.length + (if load.isSome then 1 else 0)
  let b := record { kind := 7, code := Config.recordCode 7, gen := b.recv.hifGen + 1, d2 := n } b
  let b := { b with recv := { b.recv with hifGen := b.recv.hifGen + 1 }, pins := { b.pins with hifUp := false } }
  let b := ws.foldl (fun b w => windowFails w b) b
  let b := match load with
    | some s => loadEnds s.berth cUncorr 1 b
    | none => b
  let b := (List.range 32).foldl (fun b w => tdiFault w b) (modMgmt (fun m => { m with ide := [], ideSet := [] }) b)
  match b.build.hostPort with
  | some k => enginePortDown k b
  | none => b

/-- The HIF returns; a HOST port carries traffic again once the IDE keys are back (R58). -/
def hifReturn (b : Block) : Block :=
  let b := { b with pins := { b.pins with hifUp := true } }
  match b.build.hostPort with
  | some k => portReturn k b
  | none => b

/-- The effect of a port's reset input. A HOST port has no pins of its own (R53). -/
def portInput (p : Port) (b : Block) : Block :=
  match p with
  | .landing n =>
    if n.val < b.build.landings ∧ !(lndAt b n.val).inRst then resetLanding n.val (modLnd n.val (fun l => { l with inRst := true }) b)
    else b
  | .engineA k =>
    if k.val < b.build.memaPorts ∧ b.build.hostPort ≠ some k.val ∧ !(portAt b k.val).inRst then enginePortDown k.val b else b
  | .attach a => if a.val < b.build.attach ∧ !(attAt b a.val).inRst then resetAttach a.val false b else b
  | .hif => if b.pins.hifUp then hifDown b else b

/-- The effect of the return of a port's reset input. -/
def portBack (p : Port) (b : Block) : Block :=
  match p with
  | .landing n => modLnd n.val (fun l => { l with inRst := false }) b
  | .engineA k => if b.build.hostPort = some k.val then b else portReturn k.val b
  | .attach a => if (attAt b a.val).inRst then raise 0x14 2 (modAtt a.val (fun t => { t with inRst := false }) b) else b
  | .hif => if b.pins.hifUp then b else hifReturn b

/-- A port's reset input asserts: at once, or when sealing ends on the port that carries the sealing writes (R57). -/
def portDownInput (p : Port) (b : Block) : Block :=
  if carriesSealing b p ∨ b.slip.resets.any (fun r => r.1 = p) then
    { b with slip := { b.slip with resets := b.slip.resets.filter (fun r => r.1 ≠ p) ++ [(p, false)] } }
  else portInput p b

/-- A port's reset input deasserts; a reset that waits takes effect all the same (R57). Log entry 153. -/
def portUpInput (p : Port) (b : Block) : Block :=
  if b.slip.resets.any fun r => r.1 = p then
    { b with slip := { b.slip with resets := b.slip.resets.filter (fun r => r.1 ≠ p) ++ [(p, true)] } }
  else portBack p b

def phyLow (n : Nat) : Block → Block := modLnd n fun l => { l with phyUp := false }

/-- `lnd<n>_phy_up` falls: as a port reset (R47). -/
def phyFalls (n : Nat) (b : Block) : Block :=
  if n < b.build.landings ∧ (lndAt b n).phyUp then resetLanding n (phyLow n b) else b

/-! ### The Slipway -/

def modSlip (f : Slip → Slip) (b : Block) : Block := { b with slip := f b.slip }

/-- `slip_pf_n` falls. -/
def slipFalls (b : Block) : Block := { b with pins := { b.pins with slipPf := false } }

/-- `slip_pf_n` returns within the filter's time (R61). A block that power-on reset or `tst_freeze` holds counts no pulse. -/
def slipPulse (b : Block) : Block :=
  if b.pins.slipPf ∨ b.slip.st ≠ .idle ∨ !b.porN ∨ frozen b then { b with pins := { b.pins with slipPf := true } }
  else raise 0x1C 1 (modSlip (fun s => { s with pulses := inc32 s.pulses }) { b with pins := { b.pins with slipPf := true } })

/-- A program stops for the power failure (R434). -/
def progHalts (w : Nat) (b : Block) : Block :=
  let p := sueAt b w
  let stop (s : ProgState) (b : Block) : Block :=
    let b := modSue w (fun p => { p with st := s, code := cLifecycle }) b
    raiseSue w 2 (record { kind := 5, code := cLifecycle, berth := some w, gen := (pageAt b (0x20 + w)).gen, unit := 0x18,
                           d0 := p.applied % 2 ^ 32, d1 := oldestOp p } b)
  match p.st with
  | .ready => stop .stopped b
  | .gather => stop .stopped b
  | .waitRelease => stop .stopped b
  | .apply => stop .failed b
  | _ => b

/-- The last words the Landings send: ABORT on every OPEN edge, then FAIL on every OPEN crossing. -/
def lastWords (b : Block) : Block :=
  let b := (tfind b.sync.bars fun _ x => x.st ≠ .free).foldl (fun b e =>
    let x := barAt b e
    (barEdges x).foldl (fun b k => sendNow (k / 32) (k % 32) (barMsg 3 x.id cLifecycle x.epoch 0 0 0) b) b) b
  ((b.xings.filter fun e => e.2.st = .opened).map Prod.fst).foldl (fun b k =>
    queueCtl (k / 32) 4 (leBytes 1 (k % 32) ++ [cLifecycle]) b) b

/-- What stops at acceptance (R434). -/
def stopAdmission (b : Block) : Block :=
  let b := stageIdle b
  let b := (List.range 4).foldl (fun b c => modCore c (fun x => { x with st := if x.st = .running then .halted else x.st }) b) b
  let ws := (b.berths.filter fun e => e.2.st = .joined || e.2.st = .running).map Prod.fst
  let b := lastWords b
  let b := (b.sue.berths.map Prod.fst).foldl (fun b w => progHalts w b) b
  ws.foldl (fun b w => enterSealing w false b) b

/-- `slip_pf_n` has been low for the filter's time: the power failure is accepted (R433, R438). -/
def slipAccept (b : Block) : Block :=
  if b.pins.slipPf ∨ b.slip.st ≠ .idle ∨ !b.porN then b
  else
    let b := if b.phase = .running then stopAdmission b else b
    let b := { b with pins := { b.pins with slipBusy := true } }
    raise 0x1C 2 (modSlip (fun s =>
      { s with st := .stopping, cores := fld (reg b 0x1C044) 6 0, en := reg b 0x1C048, budget := fld (reg b 0x1C04C) 24 0,
               tick := now b }) b)

/-- A berth's cost in sectors (R435); a program in APPLY fails at acceptance (R434). -/
def slipCost (b : Block) (w : Nat) : Nat :=
  let s := (sessAt b w).st
  if s = .unsealSt ∨ s = .failed ∨ (sueAt b w).st = .failed ∨ (sueAt b w).st = .apply then 0
  else if s = .sealSt then mapCount b w - (sessAt b w).next
  else mapCount b w

def slipEligible (b : Block) (en : Word) (w : Nat) : Bool :=
  let s := (berthAt b w).st
  en.getLsbD w && (s = .joined || s = .running || s = .sealSt) && (wrapKey b w).isSome

/-- The berths to seal and those skipped for budget, in ascending order. -/
def slipPlan (b : Block) (en : Word) (budget : Nat) : List Nat × List Nat :=
  let r := ((List.range 32).filter (slipEligible b en)).foldl (fun (r : Nat × List Nat × List Nat) w =>
    let c := slipCost b w
    if r.1 + c ≤ budget then (r.1 + c, r.2.1 ++ [w], r.2.2) else (r.1, r.2.1, r.2.2 ++ [w])) (0, [], [])
  r.2

/-- Sealing ends: the resets that waited take effect (R57). -/
def sealingEnds (b : Block) : Block :=
  let ps := b.slip.resets
  let b := modSlip (fun s => { s with st := .draining, since := now b, resets := [] }) b
  let b := ps.foldl (fun b p => if p.2 then portBack p.1 (portInput p.1 b) else portInput p.1 b) b
  if b.slip.warm then warmNow b else b

/-- Admission has stopped: the berths are chosen. With no active berth the clear follows at once. -/
def slipStopped (b : Block) : Block :=
  if b.slip.st ≠ .stopping then b
  else if b.phase ≠ .running ∨ b.lcs.move.isSome then modSlip (fun s => { s with st := .clearing }) b
  else
    let (q, k) := slipPlan b b.slip.en b.slip.budget
    let b := modSlip (fun s => { s with st := .sealSt, queue := q, skipped := k }) b
    if q.isEmpty then sealingEnds b else b

/-- The berth under way is done; `good` says that its record is complete. -/
def slipNext (good : Bool) (b : Block) : Block :=
  match b.slip.queue with
  | w :: rest =>
    let b := modSlip (fun s =>
      { s with queue := rest, sealed_ := if good then s.sealed_ ++ [w] else s.sealed_,
               failed := if good then s.failed else s.failed ++ [w] }) b
    if rest.isEmpty then sealingEnds b else b
  | [] => b

/-- A checkpoint step is complete: the Slipway goes on, and otherwise the berth enters SCRUBBING (R328, R433). -/
def ckptDone (w : Nat) (b : Block) : Block :=
  if b.slip.st = .idle then enterScrubbing w b
  else if b.slip.st = .sealSt ∧ b.slip.queue.head? = some w then
    let x := berthAt b w
    slipNext (x.ckptRes = cOk && !x.ckptInc && !x.noKey) b
  else b

/-- The sealer abandons the berth under way and issues nothing more for it (R436). -/
def slipAbandon (w : Nat) (b : Block) : Block :=
  let b := dropSession w cUncorr false b
  let b := modGse (fun g => { g with fwq := g.fwq.filter fun c => c.d.berth.val ≠ w }) b
  slipNext false (endSess w .failed b)

/-- The PORT watch during sealing: it acts on the ports that carry sealing writes (R423, R436). -/
def slipWatch (p : PortWait) (b : Block) : Block :=
  match b.slip.queue.head? with
  | none => b
  | some w =>
    match p with
    | .cxl k =>
      (match portSince b k.val with
       | some t =>
         if (sealObjs b w).any (onPort b k.val) ∧ expired b 0 t then
           slipAbandon w (hang 0 t { kind := 6, code := 0, berth := some w, inst := k.val, unit := 0x12, gen := (portAt b k.val).gen } b)
         else b
       | none => b)
    | .hifSector v =>
      (match windowSince b w with
       | some t =>
         if v.val = w ∧ expired b 0 t then slipAbandon w (hang 0 t { kind := 6, code := 0, berth := some w, gen := b.recv.hifGen } b)
         else b
       | none => b)
    | _ => b

/-- The PORT watch (R421, R423). -/
def portWatch (p : PortWait) (b : Block) : Block :=
  if b.slip.st = .sealSt then slipWatch p b
  else if b.slip.st ≠ .idle then b
  else match p with
  | .cxl k => (match portSince b k.val with
    | some t => if expired b 0 t ∧ !(portAt b k.val).inRst then watchPort k.val t b else b
    | none => b)
  | .hifLoad => watchLoad b
  | .hifSector w => watchSector w.val b
  | .hifScan c => watchScan c.val b
  | .internal g tid => watchInternal g.val tid.toNat b

/-- Every write at every port is acknowledged, or the PORT limit has passed. -/
def slipDrained (b : Block) : Block :=
  if b.slip.st = .draining ∧ (b.mema.writes.isEmpty ∨ expired b 0 b.slip.since) then modSlip (fun s => { s with st := .clearing }) b
  else b

/-- The clear ends, scrubs in progress included: DONE, and the block stays inactive (R62, R433). -/
def slipCleared (b : Block) : Block :=
  if b.slip.st ≠ .clearing ∨ wordBusy b then b
  else
    let b := (tfind b.berths fun _ x => x.st = .scrubSt).foldl (fun b w =>
      let b := if (berthAt b w).scrub.quiesced then b else startClears w (abandonBerth w b)
      scrubComplete w (modBerth w (fun x => { x with scrub := { x.scrub with hold := true } }) b)) b
    let b := modSlip (fun s => { s with st := .done }) (modHold (fun h => { h with sets := [] }) (lcsClear b))
    { b with phase := .inactive, pins := { b.pins with slipBusy := false, slipDone := true } }

/-! ### Registers (R440) -/

def slipCode : SlipState → Nat
  | .idle => 0 | .stopping => 1 | .sealSt => 2 | .draining => 3 | .clearing => 4 | .done => 5

def maskOf (l : List Nat) : Word := BitVec.ofNat 32 (l.map fun w => 2 ^ w).sum

def slipRead (b : Block) (o : Nat) : Word :=
  let w32 (n : Nat) : Word := BitVec.ofNat 32 n
  let s := b.slip
  if o = 0x040 then
    match s.st, s.queue with
    | .sealSt, w :: _ => w32 (2 + 256 * w + 8192)
    | st, _ => w32 (slipCode st)
  else if o = 0x050 then
    if s.st = .idle then maskOf (slipPlan b (reg b 0x1C048) (fld (reg b 0x1C04C) 24 0)).1 else 0
  else if o = 0x054 then maskOf s.sealed_
  else if o = 0x058 then maskOf s.skipped
  else if o = 0x05C then maskOf s.failed
  else if o = 0x060 then w32 s.pulses
  else if o = 0x064 then w32 s.tick
  else if o = 0x068 then w32 (s.tick / 2 ^ 32)
  else 0

end Sys2Proof.Machine
end

