-- ==== Sys2Proof/Machine/Debug.lean ====
section
/-!
DEFINITION. Breakpoints and halting (R454, R458, R460), the debug unit's memory read (R268), counters (R455) and the trace unit
(R456, R457, R461).
-/

namespace Sys2Proof.Machine

/-- The core DBG_CORE_SEL selects. -/
def dbgCore (b : Block) : Nat := fld (reg b 0x1E048) 1 0

def anyConfid (b : Block) : Bool := b.berths.any fun e => e.2.confid

def secureState (b : Block) : Bool := b.lcs.st = .provisioned || b.lcs.st = .deployed

/-- HALT, STEP and setting BPn.EN are refused (R458). -/
def haltRefused (b : Block) : Bool := secureState b && anyConfid b

/-! ### Halting -/

/-- Pages of a core's SRAM that stay cleared while its program runs: those of a berth that is still FREE (R30). -/
def stayZero (b : Block) (c : Nat) (x : Core) : List Nat :=
  x.zeroed.filter fun p => (Config.pageOwner (64 * c + p)).any fun w => (berthAt b w).st = .free

/-- The program counter of a core that halts is a free value; what its SRAM holds is read anew. -/
def coreStops (c : Nat) (b : Block) : Block :=
  { modCore c (fun x => { x with st := .halted, pc := Config.corePc b.draws, sram := [], zeroed := stayZero b c x }) b with
    draws := b.draws + 1 }

/-- A core halts: HALT is raised, DEBUG_USED latches. -/
def haltCore (c : Nat) (drain : Bool) (b : Block) : Block :=
  raise 0x1E 1 (modDbg (fun d => { d with used := true, drain := d.drain || drain }) (coreStops c b))

/-- A halted core is released: it performs what it missed; the last one ends the drain. -/
def resumeCore (c : Nat) (b : Block) : Block :=
  let b := modCore c (fun x => { x with st := .running, kick := now b, sram := [], zeroed := stayZero b c x }) b
  rescheduleAll (catchUp (modDbg (fun d => { d with drain := d.drain && anyHalted b }) b))

/-- What a DBG_CMD does to the selected core and its code. -/
def dbgRun (op : Nat) (drain : Bool) (b : Block) : Byte × Block :=
  let c := dbgCore b
  let st := (coreAt b c).st
  match op with
  | 1 =>
    if haltRefused b then (cDenied, b)
    else if st = .running then (cOk, haltCore c drain b)
    else if st = .halted then (cOk, modDbg (fun d => { d with drain := d.drain || drain }) b)
    else (cBusy, b)
  | 2 => if st = .halted then (cOk, resumeCore c b) else (cOk, b)
  | 3 =>
    if haltRefused b then (cDenied, b)
    else if st = .halted then (cOk, haltCore c false b)
    else (cBusy, b)
  | _ => (cDenied, b)

/-- GO on DBG_CMD. -/
def dbgCmd (val : Word) : Block → Block :=
  onGo val fun b =>
    let r := dbgRun (fld val 2 0) (val.getLsbD 4) b
    modDbg (fun d => { d with res := r.1 }) r.2

/-- A running core reaches an instruction whose enabled breakpoint matches. -/
def breakpointHit (c : Nat) (pc : Word) (b : Block) : Block :=
  let hit := (List.range 4).any fun n =>
    let v := tget 0 (coreAt b c).bps n
    v.getLsbD 0 && v.toNat / 4 = pc.toNat / 4
  if (coreAt b c).st = .running ∧ hit then modCore c (fun x => { x with pc := pc }) (haltCore c false b) else b

/-- A write to DBG_BPn of the selected core. -/
def bpWrite (n : Nat) (v : Word) (b : Block) : Block :=
  if v.getLsbD 0 ∧ haltRefused b then recordErr 0x1E cDenied none b
  else modCore (dbgCore b) (fun x => { x with bps := tset 0 x.bps n v }) b

/-- DBG_OPEN: a berth's bit takes writes while the berth is FREE, or CREATED with no LOAD of it running. -/
def openWritable (b : Block) (w : Nat) : Bool :=
  let st := (berthAt b w).st
  st = .free || (st = .created && !b.sched.cmd.any fun s => s.op = 2 && s.berth = w)

/-- A write to DBG_OPEN; the bits it may not change stay, with BUSY. -/
def openWrite (v : Word) (b : Block) : Block :=
  let old := reg b 0x1E044
  let held := (List.range 32).filter fun w => old.getLsbD w ≠ v.getLsbD w && !openWritable b w
  let keep := maskOf held
  let b := setReg 0x1E044 ((v &&& ~~~keep) ||| (old &&& keep)) b
  if held.isEmpty then b else recordErr 0x1E cBusy none b

/-- A read of DBG_MEM_DATA: the word of the halted core, and ADDR advances. What a core's program left in its SRAM is a free
value, the same until the core runs again; the ROM working area reads 0 in PROVISIONED and DEPLOYED, a cleared page reads 0 (R30,
R150). -/
def memData (b : Block) : Word × Block :=
  let c := dbgCore b
  let a := fld (reg b 0x1E068) 17 2
  let on := setReg 0x1E068 (BitVec.ofNat 32 (4 * ((a + 1) % 65536) + fld (reg b 0x1E068) 1 0 +
    2 ^ 18 * fld (reg b 0x1E068) 31 18)) b
  if (coreAt b c).st ≠ .halted ∨ (secureState b ∧ a / 1024 < 8) ∨ (coreAt b c).zeroed.contains (a / 1024) then (0, on)
  else match tget none (coreAt b c).sram a with
  | some v => (v, on)
  | none =>
    let v := Config.coreStore b.draws
    (v, { modCore c (fun x => { x with sram := tset none x.sram a (some v) }) on with draws := b.draws + 1 })

/-! ### The DEBUG read (R268) -/

/-- The DEBUG read ends with a code and its bytes. -/
def maEnd (c : Byte) (d : Bytes) : Block → Block :=
  modDbg fun x => { x with maRes := c, maData := if c = cOk then d else [], maWait := false }

/-- A refused access is counted in the page of the engine that refuses it. -/
def maRefused (page : Nat) (c : Byte) (w : Nat) (b : Block) : Block :=
  maEnd c [] (if c = cDenied then recordErr page cDenied (some w) b else b)

/-- The engine whose rights refuse a DEBUG read of line k of an object (R268, R351): the berth's enable bit is clear, the region is
sealed, or the line lies outside it; 0 for an object that is no readable region. -/
def maDenied (b : Block) (i k : Nat) : Option Nat :=
  let w := (objAt b i).berth
  match (objAt b i).kind with
  | .hbm _ _ len => if !(reg b 0x11058).getLsbD w ∨ isSealed b w i ∨ len * 1024 ≤ k then some 0x11 else none
  | .engA r =>
    if !(reg b 0x12090).getLsbD w ∨ isSealed b w i ∨ rType (rgnAt b r) ≠ 0 ∨ 2 ^ rLog (rgnAt b r) ≤ k then some 0x12 else none
  | _ => some 0

/-- GO on DBG_MA_GO: one line of a berth's region, decrypted and verified as any other access; DENIED comes before STALE_HANDLE
(R20). -/
def maGo (val : Word) (b : Block) : Block :=
  let h := reg b 0x1E070
  let k := (reg b 0x1E074).toNat
  let i := fld h 15 0
  let o := objAt b i
  let w := o.berth
  if !val.getLsbD 0 then b
  else if b.dbg.maWait then recordErr 0x1E cBusy none b
  else if h = 0 then maEnd cDenied [] b
  else match (if o.st = .free then none else maDenied b i k) with
  | some 0 => maEnd cDenied [] b
  | some p => maRefused p cDenied w b
  | none =>
    if o.st = .free ∨ o.gen.toNat ≠ fld h 31 16 then maEnd cStale [] b
    else
      let b := modDbg (fun x => { x with maRes := cPending, maData := [], maWait := true, maBerth := some w }) b
      match o.kind with
      | .hbm g base _ => internalRead w g (base + k) .dbg b
      | .engA r => access r k (.read none) .dbg b
      | _ => maEnd cDenied [] b

/-! ### Counters (R455) -/

/-- A write to DBG_CNT_PERIOD or TRC_CNT_PERIOD: windows count from here. -/
def periodWrite (w : Option Nat) (v : Word) (b : Block) : Block :=
  let fresh (c : Counters) : Counters := { run := [], shown := c.shown, origin := now b }
  match w with
  | none => setReg 0x1E0C0 v (modDbg (fun d => { d with glob := fresh d.glob }) b)
  | some w => setReg (trcKey w 0x088) v (modDbg (fun d => { d with per := tmod {} d.per w fresh }) b)

/-! ### The trace unit -/

def modTrc (f : Trc → Trc) (b : Block) : Block := { b with trc := f b.trc }

/-- Records that lie in a buffer go with it. -/
def zeroBuffer (k : Nat) : Block → Block :=
  modTrc fun t => { t with recs := t.recs.foldl (fun r e => tset [] r e.1 (e.2.filter fun x => x.1 ≠ k)) t.recs }

/-- TRC_BUF_CMD. -/
def bufRun (op k w : Nat) (b : Block) : Byte × Block :=
  let held := tget none b.trc.owner k
  let give (o : Option Nat) : Block := modTrc (fun t => { t with owner := tset none t.owner k o }) (zeroBuffer k b)
  match op with
  | 1 => if held = some w then (cOk, b) else if held.isSome then (cDenied, b) else (cOk, give (some w))
  | 2 => (cOk, if held.isSome then give none else b)
  | _ => (cDenied, b)

/-- GO on TRC_BUF_CMD; a unit that is not ON takes none. -/
def bufCmd (val : Word) : Block → Block :=
  onGo val fun b =>
    let r := if (pageAt b 0x1F).unit = .on then bufRun (fld val 17 16) (fld val 5 0) (fld val 12 8) b else (cBusy, b)
    modTrc (fun t => { t with res := r.1 }) r.2

/-- TRC_CTRL of a berth: ENABLE stays 0 in confidential mode. -/
def trcCtrl (m : Master) (w : Nat) (v : Word) (b : Block) : Block :=
  if (berthAt b w).confid ∧ v.getLsbD 0 then recordErr (errKey m 0x1F) cDenied (errBerthOf m) (setReg (trcKey w 0x058) (v &&& 0xFFFFFFFE) b)
  else setReg (trcKey w 0x058) v b

/-- TRC_RING_LOG2 takes 6 to 20. -/
def trcLog2 (m : Master) (w : Nat) (v : Word) (b : Block) : Block :=
  let k := fld v 4 0
  if 6 ≤ k ∧ k ≤ 20 then setReg (trcKey w 0x078) v b else recordErr (errKey m 0x1F) cDenied (errBerthOf m) b

/-- The ring of a berth: the region list entry, its offset and its log2; none where the handle names no such region. -/
def trcRing (b : Block) (w : Nat) : Option (RgnEnt × Nat × Nat) :=
  let at_ (o : Nat) : Nat := (reg b (trcKey w o)).toNat
  let k := fld (reg b (trcKey w 0x078)) 4 0
  let off := at_ 0x070 / 64 * 64 + 2 ^ 32 * at_ 0x074
  let c := objCheck b w (reg b (trcKey w 0x06C)) isRegion
  if c.1 ≠ cOk then none
  else match (rgnIndex b w c.2).bind (rgnEnt b w) with
  | some r => if queueMem r ∧ off + 32 * 2 ^ k ≤ rgnBytes r then some (r, off, k) else none
  | none => none

/-- Writes records into the ring from a count on. -/
def ringWrite (w : Nat) (r : RgnEnt) (off k : Nat) : Nat → List (Nat × Bytes) → Block → Block
  | _, [], b => b
  | n, e :: es, b => ringWrite w r off k (n + 1) es (blockWrite w r (off + 32 * (n % 2 ^ k)) e.2 .none b)

/-- TRACE_DRAIN: the oldest records of a berth go to its ring, while it has room. -/
def traceDrain (w : Nat) (b : Block) : Block :=
  let rs := trcRecs b w
  if (pageAt b 0x1F).unit ≠ .on ∨ rs.isEmpty ∨ !berthInJob b w ∧ (berthAt b w).st ≠ .loaded then b
  else match trcRing b w with
  | none => recordErr (viewKey w 5) cDenied (some w) (recordErr 0x1F cDenied (some w) b)
  | some (r, off, k) =>
    let tail := tget 0 b.trc.tail w
    let used := (BitVec.ofNat 32 tail - reg b (trcKey w 0x080)).toNat
    let n := min (2 ^ k - used) rs.length
    if n = 0 then b
    else
      let b := ringWrite w r off k tail (rs.take n) b
      let b := modTrc (fun t => { t with recs := tset [] t.recs w (rs.drop n), tail := tset 0 t.tail w ((tail + n) % 2 ^ 32) }) b
      raise (viewKey w 5) 1 (raise 0x1F 1 b)

/-! ### Registers -/

/-- Work in flight anywhere in the block (R458). -/
def anyInFlight (b : Block) : Bool :=
  b.ctxs.any (fun e => e.2.cmds.any fun m => m.started && m.done.isNone) || !b.gse.run.isEmpty || !b.gse.keyOps.isEmpty ||
  b.sue.berths.any (fun e => e.2.fin.length < e.2.next) || b.xings.any (fun e => !e.2.unacked.isEmpty) ||
  !b.gse.secs.isEmpty || !b.mema.ops.isEmpty || !b.mema.reads.isEmpty || !b.mema.writes.isEmpty || !b.mems.wq.isEmpty ||
  b.mems.reqs.any (fun r => !r.fabric) ||
  b.sched.atts.any fun e => !e.2.out.isEmpty

def dbgRead (b : Block) (o : Nat) : Word :=
  let w32 (n : Nat) : Word := BitVec.ofNat 32 n
  let per (p : Core → Bool) : Nat := ((List.range 4).map fun c => 2 ^ c * b2n (p (coreAt b c))).sum
  let c := coreAt b (dbgCore b)
  if o = 0x040 then
    w32 (per (fun x => x.bps.any fun e => e.2.getLsbD 0) + 16 * per (fun x => x.st = .halted) +
      256 * b2n (b.dbg.drain && !anyInFlight b) + 512 * b2n b.dbg.used + 1024 * b2n (anyConfid b))
  else if 0x04C ≤ o ∧ o < 0x05C then tget 0 c.bps ((o - 0x04C) / 4)
  else if o = 0x060 then w32 b.dbg.res.toNat
  else if o = 0x064 then (if c.st = .halted then c.pc else 0)
  else if o = 0x07C then w32 b.dbg.maRes.toNat
  else if 0x080 ≤ o ∧ o < 0x0C0 then w32 (fieldLE b.dbg.maData (o - 0x080) 4)
  else if 0x0E0 ≤ o ∧ o < 0x100 then w32 (tget 0 b.dbg.glob.shown ((o - 0x0E0) / 4))
  else 0

/-- A per-berth register of TRC. -/
def trcRead (b : Block) (w : Nat) (o : Nat) : Word :=
  let w32 (n : Nat) : Word := BitVec.ofNat 32 n
  let held := ((trcBufs b w).map fun k => 2 ^ k).sum
  if o = 0x044 then w32 b.trc.res.toNat
  else if o = 0x050 then w32 held
  else if o = 0x054 then w32 (held / 2 ^ 32)
  else if o = 0x07C then w32 (tget 0 b.trc.tail w)
  else if o = 0x084 then w32 (tget 0 b.trc.dropped w)
  else if 0x0A0 ≤ o ∧ o < 0x0C0 then
    (if (berthAt b w).confid then 0 else w32 (tget 0 (tget {} b.dbg.per w).shown ((o - 0x0A0) / 4)))
  else 0

end Sys2Proof.Machine
end

