-- ==== Sys2Proof/Machine/Mgmt.lean ====
section
/-!
DEFINITION. Management: the SPDM responder, certificates and measurements (R64 to R69, R448 to R451), the Denkan messages (R443 to
R446), the realm table (R441, R442), certificate slots (R450), patch delivery (R452, R453), IDE, TDISP and I3C.
-/

namespace Sys2Proof.Machine

/-! ### Keys and certificates (R448, R449) -/

/-- SHA-384 of the active patch image; 48 zero bytes when there is none. -/
def patchMeas (b : Block) : Bytes := if b.mgmt.store.isEmpty then List.replicate 48 0 else sha384 b.mgmt.store

/-- SVN of a patch image. -/
def imageSvn (img : Bytes) : Nat := fieldLE img 6 2

def zeros48 : Bytes := List.replicate 48 0

/-- A P-384 private scalar from two derivations. -/
def scalarOf (parent : BitVec 256) (la lb ctx : Bytes) : Nat :=
  beNat (keyBytes (kdf parent la ctx) ++ keyBytes (kdf parent lb ctx)) % (p384N - 1) + 1

/-- The public point of a scalar, as X and Y. -/
def publicOf (d : Nat) : Bytes :=
  match p384Mul d p384Gx p384Gy with
  | some (x, y) => beBytes 48 x ++ beBytes 48 y
  | none => []

def deviceIdKey (ident : BitVec 256) : Nat := scalarOf ident (ascii4 0x44 0x56 0x49 0x41) (ascii4 0x44 0x56 0x49 0x42) zeros48

def cdi1 (ident : BitVec 256) (b : Block) : BitVec 256 := kdf ident (ascii4 0x43 0x44 0x49 0x31) (patchMeas b)

def aliasKey (ident : BitVec 256) (b : Block) : Nat :=
  scalarOf (cdi1 ident b) (ascii4 0x41 0x4C 0x49 0x41) (ascii4 0x41 0x4C 0x49 0x42) zeros48

/-- The domain credential of a berth. -/
def domainKey (domain : BitVec 256) (b : Block) (w : Nat) : Nat :=
  let x := berthAt b w
  scalarOf domain (ascii4 0x44 0x43 0x52 0x41) (ascii4 0x44 0x43 0x52 0x42)
    (sha384 (leBytes 8 x.job.toNat ++ slice x.meas 0 48 ++ patchMeas b))

/-- The lower-case hexadecimal digits of a byte string, in ASCII. -/
def hexOf (bs : Bytes) : Bytes :=
  let digit (n : Nat) : Byte := BitVec.ofNat 8 (if n < 10 then 48 + n else 87 + n)
  bs.flatMap fun x => [digit (x.toNat / 16), digit (x.toNat % 16)]

/-- A signature the block makes. -/
def sign (b : Block) : Bytes × Block := (beBytes 96 (Config.signature b.draws).toNat, { b with draws := b.draws + 1 })

/-- The berth of a slot's domain credential is open (R454). -/
def berthOpen (b : Block) (w : Nat) : Bool := !(berthAt b w).confid

/-- Slots that GET_DIGESTS reports as populated. -/
def slotPopulated (b : Block) (s : Nat) : Bool := s = 0 || (slotBerth b s).isSome

/-- The certificate chain of a slot; empty where a branch key is not LIVE. -/
def chainOf (s : Nat) (b : Block) : List Cert × Block :=
  match parentValue b (.kid 2) with
  | none => ([], b)
  | some ident =>
    let dev := publicOf (deviceIdKey ident)
    let ali := publicOf (aliasKey ident b)
    let (g0, b) := sign b
    let (g1, b) := sign b
    let c0 : Cert := { subject := dev, issuer := dev, serial := hexOf ((sha384 dev).take 20), layer := 0, fwid := Config.romDigest, sig := g0 }
    let c1 : Cert :=
      { subject := ali, issuer := dev, layer := 1, fwid := patchMeas b, svn := some (imageSvn b.mgmt.store),
        debug := some b.dbg.used, sig := g1 }
    match slotBerth b s, parentValue b (.kid 3) with
    | some w, some domain =>
      let (g2, b) := sign b
      ([c0, c1, { subject := publicOf (domainKey domain b w), issuer := ali, layer := 2, fwid := slice (berthAt b w).meas 0 48,
                  vendorInfo := some (leBytes 8 (berthAt b w).job.toNat), debug := some (berthOpen b w), sig := g2 }], b)
    | _, _ => (if s = 0 then [c0, c1] else [], b)

/-! ### Measurements (R451) -/

/-- OTP words of the patch security floor that read all ones (R441). -/
def patchFloor (b : Block) : Nat := ((tgets 0 b.otp 0x200 256).filter fun w => w = otpOnes).length

def glbVersion (bd : Build) : Word := BitVec.ofNat 32 (0x02000000 + 65536 * bd.minor.toNat + 256 * bd.stepping.toNat)

def glbUnits (bd : Build) : Word :=
  BitVec.ofNat 32 (2 ^ 24 * (bd.attach - 1) + 2 ^ 20 * bd.groups + 2 ^ 16 * bd.memaPorts + 2 ^ 8 * bd.landings +
    16 * b2n bd.gseSerial + 8 * b2n bd.trc + 4 * b2n bd.gseMasked + 2 * b2n bd.mema + b2n bd.sue)

/-- A berth's measurement block, in a session on its slot and while it has a schedule. -/
def berthMeas (b : Block) (slot : Option Nat) (w : Nat) : Option Bytes :=
  let x := berthAt b w
  let shown := x.st = .loaded || x.st = .joined || x.st = .running || x.st = .sealSt
  if shown ∧ slot.isSome ∧ slot = berthSlot b w then
    some (slice x.meas 0 48 ++ leBytes 8 x.job.toNat ++ leBytes 1 (berthCode x.st) ++ leBytes 1 (b2n (berthOpen b w)) ++
      List.replicate 6 0)
  else none

/-- A measurement block by its index; `slot` is that of the session that asks. -/
def measOf (b : Block) (slot : Option Nat) (i : Nat) : Option Bytes :=
  match i with
  | 1 => some Config.romDigest
  | 2 => some (patchMeas b)
  | 3 => some (leBytes 4 (patchFloor b))
  | 4 => some (leBytes 4 (majorityOf b).toNat)
  | 5 => some (leBytes 4 (b2n b.dbg.used + 2 * b2n (anyHalted b)))
  | 6 => some (leBytes 4 (glbVersion b.build).toNat ++ leBytes 4 b.build.buildId.toNat ++ leBytes 4 (glbUnits b.build).toNat)
  | _ => if 0x10 ≤ i ∧ i < 0x30 then berthMeas b slot (i - 0x10) else none

/-- The blocks of a request: one index, or every one for 0xFF. -/
def measBlocks (b : Block) (slot : Option Nat) (i : Nat) : List (Nat × Bytes) :=
  (if i = 0xFF then List.range 0x30 else [i]).filterMap fun k => (measOf b slot k).map fun d => (k, d)

/-! ### The SPDM responder (R68) -/

def answer (t : Transport) (m : SpdmMsg) (b : Block) : Block := emit (.spdm t m) (i3cCall t b)

/-- A resumed move runs: every operation but reads of the GLB and LCS pages completes LIFECYCLE (R153). -/
def resuming (b : Block) : Bool := b.lcs.move.any Move.resumed

/-- The responder stands on the two MCTP transports and the DOE mailbox in PROVISIONED and DEPLOYED (R143); it completes a request with
LIFECYCLE in every other state and while a move resumes (R153). Log entry 150. -/
def spdm (t : Transport) (f : Block → Block) (b : Block) : Block :=
  if secureState b ∧ !resuming b then f b else answer t (.refused cLifecycle) b

/-- SPDM 1.3 only. -/
def getVersion (t : Transport) : Block → Block := spdm t (answer t (.version [(1, 3)]))

/-- The requests that R68 lists; no PSK_EXCHANGE, no mutual authentication, no GET_CSR, no SET_CERTIFICATE. -/
def getCapabilities (t : Transport) : Block → Block :=
  spdm t (answer t (.capabilities [.cert, .chal, .meas, .keyEx, .encrypt, .mac, .hbeat, .keyUpd]))

/-- The algorithms of R68 that the requester offers. -/
def negotiate (t : Transport) (offer : List SpdmAlg) : Block → Block :=
  spdm t (answer t (.algorithms (([.ecdsaP384, .sha384, .dheSecp384r1, .aes256Gcm] : List SpdmAlg).filter offer.contains)))

def getDigests (t : Transport) : Block → Block :=
  spdm t fun b => answer t (.digests ((List.range 8).filter (slotPopulated b))) b

def getCertificate (t : Transport) (s : Nat) : Block → Block :=
  spdm t fun b =>
    if slotPopulated b s then
      let r := chainOf s b
      answer t (.certificate s r.1) r.2
    else answer t .invalid b

def challenge (t : Transport) (s : Nat) : Block → Block :=
  spdm t fun b =>
    if slotPopulated b s then
      let (v, b) := draw b
      let r := sign b
      answer t (.challengeAuth s (v.setWidth 256) r.1) r.2
    else answer t .invalid b

/-- A message of a session reaches it on the transport it was opened on; on the other it is discarded and logged (R55). -/
def inSession (src : MgmtSrc) (f : Nat → Session → Block → Block) : Block → Block :=
  spdm src.via fun b =>
    match src.sess with
    | some i =>
      let s := sessionAt b i.val
      if !s.up then b
      else if s.via ≠ src.via then recordErr 0x1D cDenied none b
      else f i.val s b
    | none => answer src.via .invalid b

def getMeasurements (src : MgmtSrc) (i : Nat) : Block → Block :=
  match src.sess with
  | none => spdm src.via fun b => answer src.via (.measurements (measBlocks b none i)) b
  | some _ => inSession src fun _ s b => answer src.via (.measurements (measBlocks b (some s.slot) i)) b

/-- The 96 bytes are the coordinates of a point of secp384r1. -/
def onCurve (point : Bytes) : Bool :=
  let x := beNat (slice point 0 48)
  let y := beNat (slice point 48 48)
  x < p384P && y < p384P && (y * y + 3 * x) % p384P = (x * x * x + p384B) % p384P

/-- What two ephemeral keys agree on (secp384r1): the X coordinate of the product. The curve's order is prime, so with d from 1 to the
order less 1 and a point of the curve the product is never the point at infinity, which has none. -/
def sharedSecret (d : Nat) (point : Bytes) : Bytes :=
  beBytes 48 ((p384Mul d (beNat (slice point 0 48)) (beNat (slice point 48 48))).getD (0, 0)).1

/-- KEY_EXCHANGE takes the lowest free session; the responder's half of the session identifier and its ephemeral key are draws. A
seventeenth session is Busy (R68). -/
def keyExchange (t : Transport) (eid : Byte) (s : Nat) (req : BitVec 16) (point : Bytes) : Block → Block :=
  spdm t fun b =>
    if !slotPopulated b s then answer t .invalid b
    else match (List.range 16).find? fun i => !(sessionAt b i).up with
    | none => answer t .busy b
    | some i =>
      if !onCurve point then answer t .invalid b
      else
        let (v, b) := draw b
        let (e, b) := draw b
        let d := e.toNat % (p384N - 1) + 1
        let sid : BitVec 32 := v.setWidth 16 ++ req
        let (g, b) := sign b
        let b := { b with
          sess := tset {} b.sess i { up := true, sid := sid, via := t, eid := if t = .doe then 0 else eid, slot := s,
                                     secret := sharedSecret d point } }
        answer t (.keyExchangeRsp i sid (publicOf d) g) (raise 0x1D 1 b)

/-- FINISH completes the handshake; `good` says that the requester's verify data match the session's keys. Where they do not, the
handshake ends with an error. Log entry 151. -/
def finish (src : MgmtSrc) (transcript : Bytes) (good : Bool) : Block → Block :=
  inSession src fun i s b =>
    if s.fin then answer src.via .invalid b
    else if !good then endSession i (answer src.via .decryptError b)
    else answer src.via (.finishRsp i) (modSession i (fun s => { s with fin := true, transcript := transcript }) b)

/-- Requests of a session whose handshake is complete. -/
def secured (src : MgmtSrc) (f : Nat → Session → Block → Block) : Block → Block :=
  inSession src fun i s b => if s.fin then f i s b else answer src.via .invalid b

def keyUpdate (src : MgmtSrc) : Block → Block :=
  secured src fun i _ b => answer src.via (.keyUpdateAck i) (modSession i (fun s => { s with keys := s.keys + 1 }) b)

def heartbeat (src : MgmtSrc) : Block → Block := secured src fun i _ b => answer src.via (.heartbeatAck i) b

def spdmEnd (src : MgmtSrc) : Block → Block := secured src fun i _ b => endSession i (answer src.via (.endSessionAck i) b)

/-- A HOST port carries traffic from the moment the HIF's keys are in place (R53, R58). -/
def hostResumes (old b : Block) : Block :=
  match b.build.hostPort with
  | some k => if portUp b k ∧ !portUp old k then resumePort k (raise 0x12 5 b) else b
  | none => b

/-- IDE_KM on the DOE mailbox (R64): a key programs a key set of a stream, none switches to the set. -/
def ideKm (src : MgmtSrc) (stream keySet : Nat) (key : Option (BitVec 256)) : Block → Block :=
  secured src fun _ s b =>
    if s.via ≠ .doe then answer src.via .invalid b
    else
      hostResumes b (match key with
        | some k => emit (.ideKey stream keySet) (modMgmt (fun m => { m with ide := tset none m.ide (2 * stream + keySet) (some k) })
            (answer .doe (.ideKmAck stream keySet) b))
        | none => emit (.ideSwitch stream keySet) (modMgmt (fun m => { m with ideSet := tset none m.ideSet stream (some keySet) })
            (answer .doe (.ideKmAck stream keySet) b)))

/-! ### TDISP and I3C (R65, R67) -/

def tdiAt (b : Block) (w : Nat) : TdiState := tget .unlocked b.mgmt.tdis w
def setTdi (w : Nat) (s : TdiState) : Block → Block := modMgmt fun m => { m with tdis := tset .unlocked m.tdis w s }

/-- The berth's states in which its TDI may be locked (R65). -/
def mayLock (b : Block) (w : Nat) : Bool :=
  let st := (berthAt b w).st
  st = .created || st = .loaded || st = .joined || st = .running

/-- The TDISP messages that move a TDI (R65): LOCK_INTERFACE from an unlocked one, START_INTERFACE with the nonce of the lock, and
STOP_INTERFACE, which unlocks it. Log entry 157. -/
def lockInterface (w : Nat) (req : TdiLock) (b : Block) : Block :=
  match req with
  | .lock =>
    if mayLock b w ∧ tdiAt b w = .unlocked then
      let (v, b) := draw b
      let n : BitVec 256 := v.setWidth 256
      emit (.tdisp w (.lockRsp n)) (setTdi w .locked (modMgmt (fun m => { m with nonces := tset 0 m.nonces w n }) b))
    else emit (.tdisp w .error) b
  | .start n =>
    if tdiAt b w = .locked ∧ tget 0 b.mgmt.nonces w = n then emit (.tdisp w .startRsp) (setTdi w .run b)
    else emit (.tdisp w .error) b
  | .stop => emit (.tdisp w .stopRsp) (setTdi w .unlocked b)

/-- The TDISP messages that report (R65): the TDI's only MMIO range is the berth window. -/
def interfaceReport (w : Nat) (q : TdiQuery) (b : Block) : Block :=
  match q with
  | .report => emit (.tdisp w (if tdiAt b w = .locked ∨ tdiAt b w = .run then .report [(0, 65536)] else .error)) b
  | .state => emit (.tdisp w (.state (tdiAt b w))) b
  | .version => emit (.tdisp w (.version [(1, 0)])) b
  | .capabilities => emit (.tdisp w .capabilities) b

def takeI3c (a : Nat) (b : Block) : Block := emit (.i3cAddr a) (modMgmt (fun m => { m with i3c := some a }) b)

/-! ### Denkan (R443 to R446) -/

/-- A reply: the request's CODE and TAG, the status and the body. -/
def denkanReply (src : MgmtSrc) (code : Nat) (tag : BitVec 16) (status : Byte) (body : Bytes) (b : Block) : Block :=
  emit (.mgmt src (leBytes 1 code ++ [0x02] ++ leBytes 2 tag.toNat ++ [status] ++ leBytes 3 body.length ++ body)) (i3cCall src.via b)

/-- What a request answers: a status and a body now, or nothing yet. -/
abbrev Denkan := Option (Byte × Bytes) × Block

def replyNow (c : Byte) (body : Bytes) (b : Block) : Denkan := (some (c, body), b)

/-- Runs a request once its header passes, and replies where it answers. While a move resumes only REG_READ and REG_WRITE run, and each
of their accesses meets the gate (R153). -/
def denkanRun (src : MgmtSrc) (h : DenkanHdr) (code : Nat) (f : Block → Denkan) (b : Block) : Block :=
  if resuming b ∧ code ≠ 0x02 ∧ code ≠ 0x03 then denkanReply src code h.tag cLifecycle [] b
  else if h.ver ≠ 2 ∨ h.len > 4096 then denkanReply src code h.tag cDenied [] b
  else match f b with
  | (some (c, body), b) => denkanReply src code h.tag c (if c = cOk then body else []) b
  | (none, b) => b

/-- A Denkan request, in a session or outside any. DOE carries no request outside a session. -/
def denkan (src : MgmtSrc) (h : DenkanHdr) (code : Nat) (f : Option (Fin 16) → Block → Denkan) (b : Block) : Block :=
  match src.sess with
  | some i => secured src (fun _ _ b => denkanRun src h code (f (some i)) b) b
  | none =>
    if src.via = .doe then b
    else if b.lcs.st = .blank ∨ b.lcs.st = .manufactured ∨ b.lcs.st = .analysis then denkanRun src h code (f none) b
    else denkanReply src code h.tag cLifecycle [] b

/-- A request that needs a session; `c` answers it outside any (R143, R446). -/
def needSession (c : Byte) (f : Nat → Block → Denkan) (s : Option (Fin 16)) (b : Block) : Denkan :=
  match s with
  | some i => f i.val b
  | none => replyNow c [] b

/-- The master a request's register accesses are made as. -/
def srcMaster (src : MgmtSrc) : Master :=
  match src.sess with
  | some i => .session i
  | none => .unsecured

/-- The string REALM_AUTH signs (R445). -/
def authString (s : Session) : Bytes :=
  ascii4 0x44 0x4E 0x4B 0x32 ++ leBytes 4 s.sid.toNat ++ slice s.transcript 0 48 ++ leBytes 1 s.slot ++ [0, 0, 0]

def realmAuth (src : MgmtSrc) (h : DenkanHdr) (point sig : Bytes) : Block → Block :=
  denkan src h 0x01 (needSession cDenied fun i b =>
    let s := sessionAt b i
    if s.digest.isSome ∨ !ecdsaVerify point (authString s) sig then replyNow cDenied [] b
    else replyNow cOk [] (modSession i (fun s => { s with digest := some (sha384 point) }) b))

/-! ### The realm table (R441, R442) -/

/-- The words of a realm record. -/
def recordWords (r : Nat) (digest : Bytes) (rights enroller : Nat) : List (Nat × BitVec 39) :=
  let a := 0x100 + 16 * r
  ((List.range 12).map fun i => coded (a + i) (BitVec.ofNat 32 (fieldLE digest (4 * i) 4))) ++
    [coded (a + 12) (BitVec.ofNat 32 rights), coded (a + 13) (BitVec.ofNat 32 enroller), coded (a + 14) 0, coded (a + 15) 0]

/-- Records that a run of the OTP port is about to program. -/
def runRecords (b : Block) : List Nat :=
  b.otpRuns.filterMap fun r => match r.job with
    | .enroll _ _ k => some k
    | _ => none

def blankRecord (b : Block) : Option Nat :=
  (List.range 16).find? fun r => realmClass b r = .blank && !(runRecords b).contains r

def tornRecords (b : Block) : List Nat :=
  (List.range 16).filter fun r => realmClass b r = .torn && !(runRecords b).contains r

def liveRecords (b : Block) : List Nat := (List.range 16).filter fun r => realmClass b r = .whole

/-- May a session enroll: it holds ENROLL, or this is the first enrollment. -/
def mayEnroll (b : Block) (i : Nat) (digest : Bytes) (rights : Nat) : Bool :=
  let s := sessionAt b i
  (sessRights b i).testBit 3 ||
    ((liveRecords b).isEmpty && (runRecords b).isEmpty && b.lcs.st = .provisioned && s.slot = 0 && s.digest = some digest && rights = 15)

/-- Puts a run of words on the OTP port. -/
def startRun (follow : OtpFollow) (job : OtpJob) (ws : List (Nat × BitVec 39)) (b : Block) : Block :=
  otpAdvance 16 follow (pushRun job ws b)

/-- ENROLL: every TORN record becomes VOID, then the lowest BLANK one is programmed; with none it ends BUSY. -/
def enroll (follow : OtpFollow) (src : MgmtSrc) (h : DenkanHdr) (digest : Bytes) (rights : Word) : Block → Block :=
  denkan src h 0x04 (needSession cDenied fun i b =>
    if !mayEnroll b i digest rights.toNat ∨ rights.toNat > 15 then replyNow cDenied [] b
    else match blankRecord b with
    | none => (none, startRun follow (.enroll src h.tag 16) ((tornRecords b).flatMap fun k => onesFrom (0x100 + 16 * k) 16) b)
    | some r =>
      let by_ := ((sessionAt b i).digest.bind (realmOf b)).getD 0xFF
      let torn := (tornRecords b).flatMap fun k => onesFrom (0x100 + 16 * k) 16
      (none, startRun follow (.enroll src h.tag r) (torn ++ recordWords r digest rights.toNat by_) b))

def revoke (follow : OtpFollow) (src : MgmtSrc) (h : DenkanHdr) (r : Nat) : Block → Block :=
  denkan src h 0x05 (needSession cDenied fun i b =>
    let left := (liveRecords b).filter fun k => k ≠ r && (realmRights b k).testBit 3
    if !(sessRights b i).testBit 3 ∨ r ≥ 16 ∨ left.isEmpty then replyNow cDenied [] b
    else
      let b := (List.range 16).foldl (fun b k => if k = i ∨ (sessionAt b k).slot ≠ 0 ∨
        (sessionAt b k).digest ≠ some (realmDigest b r) ∨ realmClass b r ≠ .whole then b else endSession k b) b
      (none, startRun follow (.revoke src h.tag r) (onesFrom (0x100 + 16 * r) 16) b))

/-- A realm session that no LIVE record authenticates any more ends. -/
def endRevoked (src : MgmtSrc) (b : Block) : Block :=
  match src.sess with
  | some i => if (sessionAt b i.val).digest.any fun d => (realmOf b d).isNone then endSession i.val b else b
  | none => b

/-! ### Certificate slots (R450) -/

def slotCheck (b : Block) (op s w : Nat) (clean : Bool) : Byte :=
  let st := (berthAt b w).st
  if op = 1 ∧ st ≠ .loaded ∧ st ≠ .joined ∧ st ≠ .running then cLifecycle
  else if s = 0 ∨ (op ≠ 1 ∧ op ≠ 2) ∨ !clean ∨ (op = 1 ∧ (berthSlot b w).isSome) then cDenied
  else if op = 1 ∧ (slotBerth b s).isSome then cBusy
  else cOk

/-- GO on MGMT_SLOT_CMD. -/
def slotCmd (val : Word) : Block → Block :=
  onGo val fun b =>
    let op := fld val 9 8
    let s := fld val 2 0
    let w := fld val 7 3
    let c := slotCheck b op s w (fld val 30 10 = 0)
    let b := if c ≠ cOk then b else if op = 1 then bindSlotTo s w b else releaseSlot s b
    modMgmt (fun m => { m with slotRes := c }) b

/-! ### Patch images (R452, R453) -/

/-- The first failure of a delivered image. -/
def imageCheck (b : Block) (img : Bytes) : Byte :=
  let head := slice img 0 4 = [0x50, 0x43, 0x48, 0x32] && fieldLE img 4 2 = 2 && fieldLE img 6 2 ≤ 256 &&
    fieldLE img 8 4 = img.length && zeros img 0x12 14 && zeros img 0xE0 32 && 256 ≤ img.length
  let key := sha384 (slice img 0x80 96) = b.build.patchKey
  let minor := fieldLE img 0x10 1 ≤ b.build.minor.toNat && b.build.minor.toNat ≤ fieldLE img 0x11 1
  if !head ∨ !key ∨ !minor ∨ imageSvn img < patchFloor b then cDenied
  else if !ecdsaVerify (slice img 0x80 96) (img.take 0x20 ++ List.replicate 96 0 ++ img.drop 0x80) (slice img 0x20 96) then cTagFail
  else cOk

def patchBegin (src : MgmtSrc) (h : DenkanHdr) (length : Nat) : Block → Block :=
  denkan src h 0x06 (needSession cLifecycle fun i b =>
    if !(sessRights b i).testBit 1 then replyNow cDenied [] b
    else if length = 0 ∨ length > 262144 ∨ length % 64 ≠ 0 then replyNow cDenied [] b
    else if b.mgmt.deliv ≠ .idle then replyNow cBusy [] b
    else replyNow cOk [] (modMgmt (fun m => { m with deliv := .receiving, dsess := i, length := length, stage := [] }) b))

def patchData (src : MgmtSrc) (h : DenkanHdr) (off : Nat) (image : Bytes) : Block → Block :=
  denkan src h 0x07 (needSession cLifecycle fun i b =>
    let m := b.mgmt
    if m.deliv ≠ .receiving ∨ m.dsess ≠ i ∨ off ≠ m.stage.length ∨ image.isEmpty ∨ image.length > 4088 ∨
       m.stage.length + image.length > m.length then replyNow cDenied [] b
    else replyNow cOk [] (modMgmt (fun m => { m with stage := m.stage ++ image }) b))

/-- The staged image is the active one. -/
def sameImage (b : Block) : Bool := !b.mgmt.store.isEmpty && sha384 b.mgmt.stage = sha384 b.mgmt.store

/-- An image in VERIFIED may be activated. -/
def mayActivate (b : Block) : Bool := sameImage b || allBerthsFree b

/-- ACTIVATE in VERIFIED: refused with BUSY, or left for PATCH_ACTIVATE. -/
def askActivate (activate floor : Bool) (b : Block) : Denkan :=
  if activate ∧ !mayActivate b then replyNow cBusy [] (modMgmt (fun m => { m with last := cBusy }) b)
  else
    let act := if activate then some floor else none
    replyNow cOk (sha384 b.mgmt.stage) (modMgmt (fun m => { m with act := act, last := cOk }) b)

def patchEnd (src : MgmtSrc) (h : DenkanHdr) (activate floor : Bool) : Block → Block :=
  denkan src h 0x08 (needSession cLifecycle fun i b =>
    let m := b.mgmt
    let b := raise 0x1D 2 b
    if m.deliv = .idle ∨ m.dsess ≠ i ∨ (m.deliv = .receiving ∧ m.stage.length ≠ m.length) then
      replyNow cDenied [] (modMgmt (fun m => { m with last := cDenied }) b)
    else
      if m.deliv = .verified then askActivate activate floor b
      else
        let c := imageCheck b m.stage
        if c ≠ cOk then replyNow c [] (modMgmt (fun m => { dropDelivery m with last := c }) b)
        else askActivate activate floor (modMgmt (fun m => { m with deliv := .verified }) b))

/-- An activation ends without the image: the delivery stays VERIFIED. -/
def activationFails (c : Byte) (b : Block) : Block := raise 0x1D 2 (modMgmt (fun m => { m with act := none, last := c }) b)

/-- The stage is copied to the store. -/
def storeImage (m : Mgmt) : Mgmt := { dropDelivery m with store := m.stage, act := none }

/-- The cores that run ROM code only are restarted with the image: steps 4 and 5 of R429. -/
def restartPatchLost (b : Block) : Block :=
  (List.range 4).foldl (fun b c =>
    let x := coreAt b c
    if x.patch ∧ (x.st = .running ∨ x.st = .halted) then
      modCore c (fun x => { clearCore b c x with st := .restarting, since := now b }) (stopServing c b)
    else b) b

/-- The new image takes effect: the block restarts itself as after a life-cycle move (R151). -/
def activateNew (b : Block) : Block :=
  if b.mgmt.deliv ≠ .verified ∨ b.mgmt.act.isNone then b
  else if !allBerthsFree b then activationFails cBusy b
  else raise 0x1D 2 (selfRestart (modMgmt storeImage b))

/-- Floor words still to program. -/
def floorWords (b : Block) : List (Nat × BitVec 39) := onesFrom 0x200 (min (imageSvn b.mgmt.stage) 256)

def floorRuns (b : Block) : Bool :=
  b.otpRuns.any fun r => match r.job with
    | .floor => true
    | _ => false

def patchActivate (follow : OtpFollow) (b : Block) : Block :=
  match b.mgmt.act with
  | none => b
  | some floor =>
    if b.mgmt.deliv ≠ .verified ∨ floorRuns b then b
    else if sameImage b then raise 0x1D 2 (restartPatchLost (modMgmt storeImage b))
    else if !allBerthsFree b then activationFails cBusy b
    else if floor ∧ patchFloor b < imageSvn b.mgmt.stage then startRun follow .floor (floorWords b) b
    else activateNew b

/-- What follows the last word of a run that no life-cycle move made. -/
def otpFollow (j : OtpJob) (b : Block) : Block :=
  match j with
  | .enroll src tag r => if r < 16 then denkanReply src 0x04 tag cOk (leBytes 1 r) b else denkanReply src 0x04 tag cBusy [] b
  | .revoke src tag _ => endRevoked src (denkanReply src 0x05 tag cOk [] b)
  | .floor => activateNew b
  | _ => b

/-- A word of such a run failed four times. -/
def otpFails (j : OtpJob) (b : Block) : Block :=
  match j with
  | .enroll src tag _ => denkanReply src 0x04 tag cUncorr [] b
  | .revoke src tag _ => endRevoked src (denkanReply src 0x05 tag cUncorr [] b)
  | .floor => activationFails cUncorr b
  | _ => b

/-! ### REWRAP (R136, R175) -/

/-- The descriptor of a Denkan REWRAP on berth w. -/
def rewrapDesc (w : Nat) (tag : BitVec 16) (record : Word) (recOff kidA kidB : Nat) : GseDesc :=
  { op := .rewrap, berth := Fin.ofNat 32 w, masked := false, tag := BitVec.ofNat 32 tag.toNat, kidA := kidA, kidB := kidB, first := 0,
    count := 0, buffer := 0, record := record, bufOff := 0, recOff := recOff, clean := true }

/-- The firmware takes the request; its STATUS is the GSE's completion. -/
def denkanRewrap (src : MgmtSrc) (h : DenkanHdr) (record : Word) (recOff kidA kidB : Nat) : Block → Block :=
  denkan src h 0x09 (needSession cDenied fun i b =>
    match sessOwner b i with
    | some (w, o) =>
      if !bit o.flags 0 then replyNow cDenied [] b
      else if b.gse.drbgFail then replyNow cUncorr [] b
      else
        let c := { fwSubmit (rewrapDesc w h.tag record recOff kidA kidB) b with via := some (src, h.tag) }
        (none, modGse (fun g => { g with fwq := g.fwq ++ [c] }) b)
    | none => replyNow cDenied [] b)

/-- A GSE command that a Denkan request issued has completed. -/
def denkanDone (src : MgmtSrc) (tag : BitVec 16) (code : Byte) : Block → Block := denkanReply src 0x09 tag code []

/-! ### Registers (R459) -/

def transportCode : Transport → Nat
  | .i3c => 0 | .oob => 1 | .doe => 2

def delivCode : Deliv → Nat
  | .idle => 0 | .receiving => 1 | .verified => 2

def classCode : OtpClass → Nat
  | .blank => 0 | .whole => 1 | .void => 2 | .torn => 3

/-- MGMT_SESS_INFO of a session. -/
def sessInfo (b : Block) (i : Nat) : Nat :=
  let s := sessionAt b i
  if !s.up then 0
  else
    let own := sessOwner b i
    let index := (match own with
      | some (_, o) => o.index
      | none => (if s.slot = 0 then (s.digest.bind (realmOf b)).getD 0 else 0))
    1 + 2 * transportCode s.via + 8 * s.slot + 64 * b2n s.digest.isSome + 128 * b2n own.isSome + 256 * sessRights b i +
      4096 * index + 2 ^ 18 * (own.map Prod.fst).getD 0

def mgmtRead (b : Block) (o : Nat) : Word :=
  let w32 (n : Nat) : Word := BitVec.ofNat 32 n
  let m := b.mgmt
  let rec_ := fld (reg b 0x1D05C) 3 0
  if o = 0x040 then
    let patch := if (List.range 4).any fun c => (coreAt b c).patch then 2 else if m.store.isEmpty then 0 else 1
    w32 ((b.sess.filter fun e => e.2.up).length + 256 * (liveRecords b).length + 65536 * patch + 2 ^ 18 * delivCode m.deliv)
  else if o = 0x048 then w32 (sessInfo b (fld (reg b 0x1D044) 3 0))
  else if o = 0x050 then w32 m.slotRes.toNat
  else if o = 0x054 then w32 (m.stage.length + 2 ^ 19 * (if m.deliv = .idle then 0 else m.dsess) + 2 ^ 24 * m.last.toNat)
  else if o = 0x058 then w32 ((if m.store.isEmpty then 0 else imageSvn m.store) + 65536 * patchFloor b)
  else if o = 0x060 then
    w32 (classCode (realmClass b rec_) + 256 * (if realmClass b rec_ = .whole then realmRights b rec_ else 0))
  else if 0x064 ≤ o ∧ o < 0x080 then
    (match slotBerth b ((o - 0x060) / 4) with
     | some w => w32 (2 ^ 31 + w)
     | none => 0)
  else if 0x080 ≤ o ∧ o < 0x0B0 then (realmWords b rec_).getD ((o - 0x080) / 4) 0 |>.setWidth 32
  else if 0x0C0 ≤ o ∧ o < 0x0F0 then (if m.store.isEmpty then 0 else w32 (fieldLE (patchMeas b) (o - 0x0C0) 4))
  else 0

end Sys2Proof.Machine
end

