-- ==== Sys2Proof/Machine/Registers.lean ====
section
/-!
DEFINITION. The register window: what a read of each register returns and does, and what a write does (R4, R5, R13, R85 to R105, and
the register tables of the units' chapters).
-/

namespace Sys2Proof.Machine

def w32 (n : Nat) : Word := BitVec.ofNat 32 n

/-! ### Views and selections -/

/-- The berth of a view. -/
def viewBerth : Master → Option Nat
  | .berth w => some w.val
  | _ => none

/-- The berth that the TRC registers from 0x050 on show. -/
def trcSel (b : Block) (m : Master) : Nat := (viewBerth m).getD (fld (reg b 0x1F048) 4 0)

/-- The berth that the SUE registers show a master. -/
def sueSel (b : Block) (m : Master) : Nat := (viewBerth m).getD (fld (latch b m 20) 4 0)

/-! ### The common header (R88 to R97, R102) -/

/-- A write view that is not the BERTH page (R101, R102). -/
def inView (m : Master) (p : Nat) : Bool :=
  match m with
  | .berth w => p ≠ 0x20 + w.val
  | _ => false

/-- STATE of a page: a page without a unit enable is ON while present, SUES follows SUE. -/
def unitCode (b : Block) (p : Nat) : Nat :=
  let code : UnitState → Nat
    | .off => 0 | .on => 1 | .draining => 2 | .enablePending => 3 | .scrubbing => 4
  if p = 0x19 then code (pageAt b 0x18).unit
  else if hasEnable p then code (pageAt b p).unit
  else b2n (present b.build p)

def pageErr (x : Page) : Word :=
  w32 (x.errCode.toNat + 256 * x.errCount + 65536 * b2n x.errValid +
    (match x.errBerth with
     | some w => 2 ^ 29 + 2 ^ 24 * w
     | none => 0))

def headerRead (b : Block) (m : Master) (p o : Nat) : Word :=
  let k := errKey m p
  let v := inView m p
  if o = 0x000 then pageId p (viewBerth m).isSome
  else if o = 0x004 then w32 (0x02000000 + 65536 * b.build.minor.toNat)
  else if o = 0x008 then pageCap b.build p
  else if o = 0x00C then
    (if v then 0 else if p = 0x19 then pageCtrl b 0x18 &&& 1 else if p = 0x04 then pageCtrl b p &&& 0xFFFF else pageCtrl b p)
  else if o = 0x010 then w32 (unitCode b p + (if v then 0 else 256 * (pageAt b p).lastStatus.toNat))
  else if o = 0x014 then pageErr (pageAt b k)
  else if o = 0x018 then rawOf (pageAt b k)
  else if o = 0x01C then (pageAt b k).irqEn
  else if o = 0x024 then
    (match viewBerth m with
     | some w => (pageAt b (0x20 + w)).gen.setWidth 32
     | none => (pageAt b p).gen.setWidth 32)
  else 0

def headerWrite (m : Master) (p o : Nat) (v : Word) (b : Block) : Block :=
  let k := errKey m p
  if o = 0x00C then
    (if inView m p then recordErr k cDenied (errBerthOf m) b else if p = 0x19 then b else pageCtrlWrite p v b)
  else if o = 0x014 then (if v.getLsbD 16 then modPage k clearErr b else b)
  else if o = 0x01C then modPage k (fun x => { x with irqEn := v }) b
  else if o = 0x020 then modPage k (fun x => { x with irqRaw := x.irqRaw &&& ~~~(v &&& 0xFFFFFFFE) }) b
  else b

/-! ### The registers of each page -/

/-- GLB (R104). -/
def glbRead (b : Block) (m : Master) (o : Nat) : Word :=
  let bits32 (f : Nat → Bool) : Word := w32 ((List.range 32).map fun j => 2 ^ j * b2n (f j)).sum
  if o = 0x040 then glbVersion b.build
  else if o = 0x044 then b.build.buildId
  else if o = 0x048 then glbUnits b.build
  else if o = 0x04C then w32 b.build.mgmtMhz
  else if o = 0x050 then b.tick.setWidth 32
  else if o = 0x054 then latch b m 0
  else if o = 0x058 then reg b 0x00058
  else if 0x060 ≤ o ∧ o < 0x080 then bits32 fun j => present b.build (8 * (o - 0x060) + j)
  else if 0x080 ≤ o ∧ o < 0x0A0 then bits32 fun j => irqPending (pageAt b (8 * (o - 0x080) + j))
  else 0

/-- LCS (R156). -/
def lcsRead (b : Block) (o : Nat) : Word :=
  let l := b.lcs
  if o = 0x040 then
    let copies := ((List.range 3).map fun i => 2 ^ i * b2n (copyOf b i = majorityOf b)).sum
    let mv := (match l.move with
      | some m => 128 + 256 * lcNum m.target + 2048 * b2n m.resumed
      | none => 0)
    w32 (lcNum l.st + 8 * b2n l.invalid + 16 * copies + mv)
  else if o = 0x044 then majorityOf b
  else if 0x048 ≤ o ∧ o < 0x054 then copyOf b ((o - 0x048) / 4)
  else if o = 0x054 then
    (match newestRecord b with
     | some r =>
       let s := stepsWord b r
       let good := (match recordClass b r with
         | .valid _ _ => true
         | _ => false)
       w32 (r + 8 * b2n good + 128 * b2n (nibbleSet s 7) + 256 * ((List.range 7).map fun k => 2 ^ k * b2n (nibbleSet s k)).sum +
         65536 * recordsUsed b)
     | none => 0)
  else if 0x060 ≤ o ∧ o < 0x070 then l.nonce.extractLsb' (8 * (o - 0x060)) 32
  else if o = 0x074 then l.res.setWidth 32
  else 0

/-- KEY (R138). -/
def keyRead (b : Block) (o : Nat) : Word :=
  let k := fld (reg b 0x02048) 10 0
  let e := keyAt b k
  let cnt (p : KeyState → Bool) : Nat := (b.keys.cache.filter fun x => p x.2.st).length
  let code : KeyState → Nat
    | .free => 0 | .pending => 1 | .derivation => 2 | .live => 3 | .retiring => 4
  if o = 0x040 then
    w32 (b.keys.rootSlot + 8 * b2n b.keys.root.isSome + 16 * b2n b.keys.testRoot.isSome + 256 * b.keys.slotVoid +
      65536 * ((List.range 7).map fun j => 2 ^ j * b2n (keyLive b j)).sum)
  else if o = 0x044 then w32 (cnt (· = .live) + 65536 * cnt (fun s => s = .pending || s = .derivation))
  else if o = 0x048 then reg b 0x02048
  else if o = 0x04C then
    w32 (code e.st + 8 * e.source + 256 * e.purpose + 4096 * e.owner + 2 ^ 18 * e.berth.getD 0 + 2 ^ 23 * b2n e.berth.isSome +
      2 ^ 24 * e.epoch.toNat)
  else if o = 0x050 then (if e.st = .live then kcv e.key else 0)
  else if o = 0x058 then w32 (b.keys.status.toNat + 256 * b2n b.keys.cmd.isSome)
  else if 0x100 ≤ o ∧ o < 0x180 then
    let r := keyRange b ((o - 0x100) / 4)
    w32 (r.1 + 65536 * r.2)
  else 0

/-- KSTG (R139). -/
def kstgRead (b : Block) (o : Nat) : Word :=
  if o = 0x044 then w32 (b.kstg.st + 256 * b.kstg.last.toNat + 65536 * b.kstg.holder)
  else if 0x048 ≤ o ∧ o < 0x054 then reg b (0x03000 + o)
  else 0

/-- SYNC (R345): its own registers, and those of a view. -/
def syncPage (b : Block) (m : Master) (o : Nat) : Word :=
  if o = 0x04C then latch b m 19
  else if 0x070 ≤ o ∧ o < 0x07C then
    (match viewBerth m with
     | some w => reg b (armReg w o)
     | none => 0)
  else syncRead b (viewBerth m) (fld (latch b m 19) 7 0) o

/-- SUE (R371). -/
def suePage (b : Block) (m : Master) (o : Nat) : Word :=
  let w := sueSel b m
  if o = 0x04C then (match viewBerth m with
    | some k => w32 k
    | none => latch b m 20)
  else if o = 0x070 then reg b (trcKey w 0x970)
  else sueRead b (viewBerth m) w (fld (reg b (trcKey w 0x970)) 9 0) o

/-- SUES (R400, R401). -/
def suesPage (b : Block) (m : Master) (o : Nat) : Word :=
  let s := latch b m 21
  let (w, e) := suesSel m s
  if o = 0x040 then (match viewBerth m with
    | some k => (s &&& 0xFFFFFFE0) ||| w32 k
    | none => s)
  else suesRead b ((viewBerth m).isNone && engMay b m w e) w e o

/-- TRC (R461). -/
def trcPage (b : Block) (m : Master) (o : Nat) : Word :=
  let w := trcSel b m
  if o = 0x048 then (match viewBerth m with
    | some k => w32 k
    | none => reg b 0x1F048)
  else if (0x058 ≤ o ∧ o < 0x07C) ∨ o = 0x080 ∨ (0x088 ≤ o ∧ o < 0x090) then reg b (trcKey w o)
  else trcRead b w o

/-- DBG and MGMT keep some RW registers in the register store. -/
def stored (p o : Nat) : Bool :=
  match p with
  | 0x04 => false
  | 0x10 => o = 0x04C
  | 0x11 => o = 0x048 || o = 0x058
  | 0x12 => o = 0x060 || o = 0x090
  | 0x14 => 0x04C ≤ o && o < 0x070
  | 0x1A => 0x064 ≤ o && o < 0x074
  | 0x1B => (0x090 ≤ o && o < 0x098) || (0x0C0 ≤ o && o < 0x0E4)
  | 0x1C => 0x044 ≤ o && o < 0x050
  | 0x1D => o = 0x044 || o = 0x05C
  | 0x1E => o = 0x044 || o = 0x048 || o = 0x068 || o = 0x070 || o = 0x074 || o = 0x0C0 || o = 0x0C4
  | _ => false

/-- The value of a page-specific register, without a read's side effect. -/
def unitRead (b : Block) (m : Master) (p o : Nat) : Word :=
  if stored p o then reg b (0x1000 * p + o)
  else if 0x40 ≤ p then lndRead b (p - 0x40) o
  else if 0x20 ≤ p then
    (if o = 0x0C0 then latch b m (32 + (p - 0x20)) else berthRead b (p - 0x20) (fld (latch b m (32 + (p - 0x20))) 11 0) o)
  else match p with
  | 0x00 => glbRead b m o
  | 0x01 => lcsRead b o
  | 0x02 => keyRead b o
  | 0x03 => kstgRead b o
  | 0x04 => gseRead b o
  | 0x08 => lnkcRead b o
  | 0x10 => holdRead b o
  | 0x11 => memsRead b o
  | 0x12 => memaRead b o
  | 0x14 => schedRead b o
  | 0x15 => syncPage b m o
  | 0x18 => suePage b m o
  | 0x19 => suesPage b m o
  | 0x1A => eccRead b m o
  | 0x1B => recvRead b m o
  | 0x1C => slipRead b o
  | 0x1D => mgmtRead b o
  | 0x1E => dbgRead b o
  | 0x1F => trcPage b m o
  | _ => 0

/-- A register's value. -/
def regValue (b : Block) (m : Master) (p o : Nat) : Word := if o < 0x40 then headerRead b m p o else unitRead b m p o

/-- A read of GLB_TICK_LO latches the high word for the master (R104). -/
def tickRead (m : Master) (b : Block) : Word × Block :=
  (b.tick.setWidth 32, setLatch m 0 ((b.tick >>> 32).setWidth 32) b)

/-- A read that reaches its register: the value, and the side effect of an RS field. -/
def doRead (m : Master) (p o : Nat) (b : Block) : Word × Block :=
  if p = 0x00 ∧ o = 0x050 then tickRead m b
  else if p = 0x01 ∧ o = 0x060 then lcsNonce b
  else if p = 0x04 ∧ o = 0x0C8 then gsePop b
  else if p = 0x1A ∧ o = 0x044 then eccPop m b
  else if p = 0x1B ∧ o = 0x048 then recPop m b
  else if p = 0x1E ∧ o = 0x06C then memData b
  else (regValue b m p o, if p = 0x03 then touchStage m b else b)

/-! ### Writes -/

/-- An LCS request, and the first OTP word of the move it starts. -/
def lcsGo (m : Master) (val : Word) : Block → Block := onGo val fun b => otpAdvance 16 otpFollow (lcsRequest m val b)

def lcsWrite (m : Master) (o : Nat) (v : Word) (b : Block) : Block :=
  if o = 0x070 then lcsGo m v b
  else if 0x080 ≤ o ∧ o < 0x090 then lcsToken ((o - 0x080) / 4) v b
  else if 0x0A0 ≤ o ∧ o < 0x0C0 then lcsData ((o - 0x0A0) / 4) v b
  else b

def kstgWrite (m : Master) (o : Nat) (v : Word) (b : Block) : Block :=
  if o = 0x040 then kstgCmd m v b
  else if 0x048 ≤ o ∧ o < 0x054 then kstgSetup m (0x03000 + o) v b
  else if 0x060 ≤ o ∧ o < 0x080 then kstgKeyWrite m ((o - 0x060) / 4) v b
  else if 0x080 ≤ o ∧ o < 0x0A8 then kstgBlobWrite m ((o - 0x080) / 4) v b
  else b

def gseWrite (o : Nat) (v : Word) (b : Block) : Block :=
  if 0x080 ≤ o ∧ o < 0x0C0 then modGse (fun g => { g with desc := tset 0 g.desc ((o - 0x080) / 4) v }) b
  else if o = 0x0C0 then (if v.getLsbD 0 then gseSubmit b else b)
  else b

/-- LNKC: a device index may let crossings open. -/
def lnkcWrite (o : Nat) (v : Word) (b : Block) : Block :=
  if o = 0x04C then
    let s := reg b 0x08048
    setGkm (fld s 11 7) (fld s 5 0) (s.getLsbD 6) v b
  else
    let b := setReg (0x08000 + o) v b
    if 0x080 ≤ o then (List.range b.build.landings).foldl (fun b n => startProves n b) b else b

def lndWrite (m : Master) (n o : Nat) (v : Word) (b : Block) : Block :=
  if 0x100 ≤ o ∧ o < 0x300 then xingWrite n o v (errBerthOf m) b else setReg (0x1000 * (0x40 + n) + o) v b

/-- A debug enable ignores the bits of berths in confidential mode (R268). -/
def dbgEnable (a : Nat) (v : Word) (b : Block) : Block :=
  setReg a (v &&& ~~~maskOf ((List.range 32).filter fun w => (berthAt b w).confid)) b

def memsWrite (o : Nat) (v : Word) (b : Block) : Block :=
  if o = 0x048 then setReg 0x11048 v b
  else if o = 0x058 then dbgEnable 0x11058 v b
  else if 0x04C ≤ o ∧ o < 0x058 then srgnWrite o v b
  else b

/-- GO on a command of a unit that is not ON is refused with BUSY. -/
def ifOn (m : Master) (p : Nat) (h : Block → Block) (b : Block) : Block :=
  if (pageAt b p).unit = .on then h b else recordErr (errKey m p) cBusy (errBerthOf m) b

def memaWrite (m : Master) (o : Nat) (v : Word) (b : Block) : Block :=
  if o = 0x060 then setReg 0x12060 v b
  else if 0x064 ≤ o ∧ o < 0x078 then rgnWrite o v b
  else if o = 0x088 then onGo v (ifOn m 0x12 (startRoll (fld v 7 0))) b
  else if o = 0x090 then dbgEnable 0x12090 v b
  else if o = 0x094 then onGo v (ifOn m 0x12 (wayCmd m v)) b
  else b

/-- SYNC (R345): the SYNC_ARM registers exist in a view only, a write of any other master to them follows R17. -/
def syncWrite (m : Master) (o : Nat) (v : Word) (b : Block) : Block :=
  if o = 0x04C then setLatch m 19 v b
  else if 0x100 ≤ o ∧ o < 0x200 then wireWrite ((o - 0x100) / 4) v b
  else match viewBerth m with
  | some w =>
    if 0x070 ≤ o ∧ o < 0x07C then setReg (armReg w o) v b
    else if o = 0x07C then onGo v (ifOn m 0x15 (armCmd w v)) b
    else b
  | none => if 0x070 ≤ o ∧ o < 0x084 then recordErr 0x15 cDenied none b else b

def sueWrite (m : Master) (o : Nat) (v : Word) (b : Block) : Block :=
  let w := sueSel b m
  if o = 0x044 then onGo v (ifOn m 0x18 (laneCmd m v)) b
  else if o = 0x04C then (if (viewBerth m).isSome then b else setLatch m 20 v b)
  else if o = 0x070 then setReg (trcKey w 0x970) v b
  else if o = 0x074 then
    let k := fld (reg b (trcKey w 0x970)) 9 0
    modSue w (fun p => { p with peers := tset 0 p.peers k v }) b
  else b

def suesWrite (m : Master) (o : Nat) (v : Word) (b : Block) : Block :=
  if o = 0x040 then setLatch m 21 (match viewBerth m with
    | some _ => v &&& 0xFFFFFFE0
    | none => v) b
  else if 0x044 ≤ o ∧ o < 0x05C then
    let (w, e) := suesSel m (latch b m 21)
    engWrite m w e o v b
  else b

def eccWrite (o : Nat) (v : Word) (b : Block) : Block :=
  if o = 0x058 then dmaRelease v b
  else if o = 0x05C then onGo v (retireCmd' v) b
  else if o = 0x064 then injCtrl v b
  else if 0x068 ≤ o ∧ o < 0x074 then setReg (0x1A000 + o) v b
  else b

/-- RECV: the limits of watches 0, 1 and 8 take no 0 (R421). -/
def recvWrite (m : Master) (o : Nat) (v : Word) (b : Block) : Block :=
  if 0x0C0 ≤ o ∧ o < 0x0E4 then
    (if v = 0 ∧ (o = 0x0C0 ∨ o = 0x0C4 ∨ o = 0x0E0) then recordErr 0x1B cDenied (errBerthOf m) b else setReg (0x1B000 + o) v b)
  else if o = 0x090 ∨ o = 0x094 then setReg (0x1B000 + o) v b
  else if 0x120 ≤ o ∧ o < 0x130 then kickCore ((o - 0x120) / 4) v b
  else b

/-- SLIP: nothing after acceptance, and CORES from 1 to 64 (R440). -/
def slipWrite (m : Master) (o : Nat) (v : Word) (b : Block) : Block :=
  if b.slip.st ≠ .idle then recordErr 0x1C cLifecycle (errBerthOf m) b
  else if o = 0x044 then
    (if 1 ≤ fld v 6 0 ∧ fld v 6 0 ≤ 64 then setReg 0x1C044 v b else recordErr 0x1C cDenied (errBerthOf m) b)
  else if o = 0x048 ∨ o = 0x04C then setReg (0x1C000 + o) v b
  else b

def mgmtWrite (o : Nat) (v : Word) (b : Block) : Block :=
  if o = 0x044 ∨ o = 0x05C then setReg (0x1D000 + o) v b else if o = 0x04C then slotCmd v b else b

def dbgWrite (o : Nat) (v : Word) (b : Block) : Block :=
  if o = 0x044 then openWrite v b
  else if 0x04C ≤ o ∧ o < 0x05C then bpWrite ((o - 0x04C) / 4) v b
  else if o = 0x05C then dbgCmd v b
  else if o = 0x078 then maGo v b
  else if o = 0x0C0 then periodWrite none v b
  else if o = 0x048 ∨ o = 0x068 ∨ o = 0x070 ∨ o = 0x074 ∨ o = 0x0C4 then setReg (0x1E000 + o) v b
  else b

def trcWrite (m : Master) (o : Nat) (v : Word) (b : Block) : Block :=
  let w := trcSel b m
  if o = 0x040 then bufCmd v b
  else if o = 0x048 then (if (viewBerth m).isSome then b else setReg 0x1F048 v b)
  else if o = 0x058 then trcCtrl m w v b
  else if o = 0x078 then trcLog2 m w v b
  else if o = 0x088 then periodWrite (some w) v b
  else if (0x05C ≤ o ∧ o < 0x078) ∨ o = 0x080 ∨ o = 0x08C then setReg (trcKey w o) v b
  else b

/-- A write of a page-specific register. -/
def unitWrite (m : Master) (p o : Nat) (v : Word) (b : Block) : Block :=
  if 0x40 ≤ p then lndWrite m (p - 0x40) o v b
  else if 0x20 ≤ p then (if o = 0x0C0 then setLatch m (32 + (p - 0x20)) v b else b)
  else match p with
  | 0x00 => if o = 0x058 then setReg 0x00058 v b else b
  | 0x01 => lcsWrite m o v b
  | 0x02 => if o = 0x048 then setReg 0x02048 v b else if o = 0x054 then onGo v (keyRangeCmd m v) b else b
  | 0x03 => kstgWrite m o v b
  | 0x04 => gseWrite o v b
  | 0x08 => lnkcWrite o v b
  | 0x10 => if o = 0x044 then onGo v (ifOn m 0x10 (holdRangeCmd m v)) b else if o = 0x04C then setReg 0x1004C v b else b
  | 0x11 => memsWrite o v b
  | 0x12 => memaWrite m o v b
  | 0x14 =>
    if o = 0x044 then onGo v (ifOn m 0x14 (schedCmd m v)) b
    else if 0x04C ≤ o ∧ o < 0x070 then setReg (0x14000 + o) v b else b
  | 0x15 => syncWrite m o v b
  | 0x18 => sueWrite m o v b
  | 0x19 => suesWrite m o v b
  | 0x1A => eccWrite o v b
  | 0x1B => recvWrite m o v b
  | 0x1C => slipWrite m o v b
  | 0x1D => mgmtWrite o v b
  | 0x1E => dbgWrite o v b
  | 0x1F => trcWrite m o v b
  | _ => b

/-- A write that reaches its register. -/
def doWrite (m : Master) (p o : Nat) (v : Word) (b : Block) : Block :=
  if o < 0x40 then headerWrite m p o v b else unitWrite m p o v b

/-- The value an alias write leaves in the RW fields; its other bits are 0 (R98, R99). -/
def aliasValue (set : Bool) (rw cur v : Word) : Word :=
  let cur := cur &&& rw
  if set then cur ||| (v &&& rw) else cur &&& ~~~(v &&& rw)

/-! ### One access (R17, R98 to R100) -/

/-- An aligned 32-bit read. -/
def readWord (m : Master) (off : Nat) (b : Block) : Word × Block :=
  let b := fresh b
  match gate b m off false with
  | .pass p r none => doRead m p r b
  | .pass p r (some _) => (regValue b m p r, b)
  | .quiet => (0, b)
  | .unsupported => (0, emit .unsupported b)
  | .refuse k c => (0, recordErr k c (errBerthOf m) b)

/-- An aligned 32-bit write, plain or through an alias. -/
def writeWord (m : Master) (off : Nat) (v : Word) (b : Block) : Block :=
  let b := fresh b
  match gate b m off true with
  | .pass p r none => doWrite m p r v b
  | .pass p r (some set) =>
    let rw := w32 (((regRow ((kindOf p).getD 0) r).map RegRow.rw).getD 0)
    doWrite m p r (aliasValue set rw (regValue b m p r) v) b
  | .quiet => b
  | .unsupported => emit .unsupported b
  | .refuse k c => recordErr k c (errBerthOf m) b

/-- An access that no size rule admits has no effect; its page records DENIED, where the window shows it. -/
def badAccess (m : Master) (off : Nat) (wr : Bool) (b : Block) : Block :=
  let b := fresh b
  match gate b m (off / 4 * 4) wr with
  | .quiet => b
  | .unsupported => emit .unsupported b
  | .pass p _ _ => recordErr (errKey m p) cDenied (errBerthOf m) b
  | .refuse k c => recordErr k c (errBerthOf m) b

/-- A write of some bytes at an offset (R100). -/
def writeAccess (m : Master) (off size val : Nat) (b : Block) : Block :=
  if size = 4 ∧ off % 4 = 0 then writeWord m off (w32 val) b
  else if size = 8 ∧ off % 8 = 0 then writeWord m (off + 4) (w32 (val / 2 ^ 32)) (writeWord m off (w32 val) b)
  else badAccess m off true b

/-- A read of some bytes at an offset: the words it returns (R100). -/
def readAccess (m : Master) (off size : Nat) (b : Block) : List Word × Block :=
  if size = 4 ∧ off % 4 = 0 then
    let r := readWord m off b
    ([r.1], r.2)
  else if size = 8 ∧ off % 8 = 0 then
    let lo := readWord m off b
    let hi := readWord m (off + 4) lo.2
    ([lo.1, hi.1], hi.2)
  else if 0 < size ∧ off % 4 + size ≤ 4 then
    let r := readWord m (off / 4 * 4) b
    ([w32 (fld r.1 (8 * (off % 4 + size) - 1) (8 * (off % 4)))], r.2)
  else ([0], badAccess m off false b)

/-! ### Denkan register access (R447) -/

/-- The words at rising offsets, one access each; the code of the first access that was refused. -/
def readWords (m : Master) : Nat → Nat → Block → Byte × List Word × Block
  | 0, _, b => (cOk, [], b)
  | n + 1, off, b =>
    let r := readWord m off b
    let c := r.2.errSeen.getD cOk
    let rest := readWords m n (off + 4) r.2
    (if c = cOk then rest.1 else c, r.1 :: rest.2.1, rest.2.2)

def regReads (src : MgmtSrc) (h : DenkanHdr) (off n : Nat) : Block → Block :=
  denkan src h 0x02 fun _ b =>
    if off % 4 ≠ 0 ∨ n = 0 ∨ n > 16 then replyNow cDenied [] b
    else
      let r := readWords (srcMaster src) n off b
      replyNow r.1 (r.2.1.map fun w => leBytes 4 w.toNat).flatten r.2.2

/-- Words written in order; the first refused one ends the request with its code. -/
def writeWords (m : Master) : List Word → Nat → Block → Byte × Block
  | [], _, b => (cOk, b)
  | w :: ws, off, b =>
    let b := writeWord m off w b
    match b.errSeen with
    | some c => (c, b)
    | none => writeWords m ws (off + 4) b

def regWrites (src : MgmtSrc) (h : DenkanHdr) (off : Nat) (ws : List Word) : Block → Block :=
  denkan src h 0x03 fun _ b =>
    if off % 4 ≠ 0 ∨ ws.isEmpty ∨ ws.length > 16 then replyNow cDenied [] b
    else
      let r := writeWords (srcMaster src) ws off b
      replyNow r.1 [] r.2

/-! ### The rows that are one register access -/

/-- A row's read of its page, which puts its words on the master's path; a rejected TLP returns none (R64). -/
def readRow (m : Master) (p off size : Nat) (b : Block) : Block :=
  let r := readAccess m (offsetFor m p off) size b
  if arrives b m then r.1.foldl (fun b w => emit (.readData w) b) r.2 else r.2

/-- A write to register r of page p that meets an event of the page in the same handshake (R14): h takes both in one step of the page,
told whether the write reaches the register. -/
def withEvent (m : Master) (p r : Nat) (b : Block) (h : Bool → Block → Block) : Block :=
  let f (clear : Bool) (b : Block) : Block := if present b.build p then h clear b else b
  match gate (fresh b) m (offsetFor m p r) true with
  | .pass _ _ _ => f true (fresh b)
  | .quiet => f false b
  | .unsupported => f false (emit .unsupported b)
  | .refuse k c => f false (recordErr k c (errBerthOf m) b)

/-- PAGE_ERR.VALID written 1, with an error that the page records in the same handshake (R94, R95). -/
def errClear (m : Master) (p : Nat) (ev : Option ErrEvent) (b : Block) : Block :=
  let k := errKey m p
  match ev with
  | some e =>
    withEvent m p 0x014 b fun clear b =>
      { modPage k (fun x => noteErr (code e.code) (e.berth.map Fin.val) (if clear then clearErr x else x)) b with
        errSeen := some (code e.code) }
  | none => guarded m p 0x014 true (modPage k clearErr) b

/-- PAGE_IRQ_CLR written, with events of the same handshake: their bits stay set (R14, R96). -/
def irqClear (m : Master) (p : Nat) (val ev : Word) (b : Block) : Block :=
  withEvent m p 0x020 b fun clear => modPage (errKey m p) fun x =>
    { x with irqRaw := (if clear then x.irqRaw &&& ~~~(val &&& 0xFFFFFFFE) else x.irqRaw) ||| (ev &&& 0xFFFFFFFE) }

/-- A word with a field put in place of its own. -/
def setFld (v : Word) (hi lo n : Nat) : Word :=
  w32 (v.toNat - fld v hi lo * 2 ^ lo + (n % 2 ^ (hi - lo + 1)) * 2 ^ lo)

end Sys2Proof.Machine
end

