-- ==== Sys2Proof/Machine/Settle.lean ====
section
/-!
DEFINITION. What one step of the block brings about beyond the unit it began in, settled in the order in which it arose,
and the frame every command's meaning shares. The rules are cited where the work is left.
-/

namespace Sys2Proof.Machine

/-- A fence changed (R298): watches, barriers, wake scans and waiting commands see it. -/
def fenceChanged (f : Nat) (b : Block) : Block :=
  later (.sched (fenceAt b f).berth) (wakeScans f (barFence f (watchFence f b)))

/-- Work of an operation that is no command and no program step ended with a code. -/
def opEnds (op : OpRef) (code : Byte) (b : Block) : Block :=
  match op with
  | .gse w id _ => secFails w id code b
  | .gseOut w id => secWritten w id code b
  | .gseRec w _ => recDone w code b
  | .dbg => maEnd code [] b
  | .opd a w index line => operandLost a w index line code b
  | .queue c => if code = cOk then b else loseCtx c code 0x14 0 0 b
  | .tensor w i _ _ => if code = cOk then b else progLost w i code b
  | _ => b

/-- Work of an operation ended with a code. -/
def opDone (op : OpRef) (code : Byte) (b : Block) : Block :=
  match op with
  | .cmd c i => cmdDone c i code b
  | .prog w i => progDone w i code b
  | op => opEnds op code b

/-- Work of an operation was lost, with a code. -/
def opLost (op : OpRef) (code : Byte) (b : Block) : Block :=
  match op with
  | .cmd c i => cmdLost c i code b
  | .prog w i => progLost w i code b
  | op => opEnds op code b

/-- Work of an operation met an uncorrectable word on a memory path (R410): a COPY halts its channel (R412). -/
def opHurt (op : OpRef) (code : Byte) (b : Block) : Block :=
  match op with
  | .cmd c i => cmdHurt c i code b
  | op => opLost op code b

/-- A line that an operation read has arrived. -/
def opLine (op : OpRef) (data : Bytes) (b : Block) : Block :=
  match op with
  | .cmd c i => copyLine c i data b
  | .gse _ id line => secLine id line data b
  | .gseRec w line => recLine w line data b
  | .tensor w i slot line => tensorLine w i slot line data b
  | .dbg => maEnd cOk data b
  | _ => b

/-- An entry became LIVE: crossings of its berth may prove (R214), and the berth may join (R314). -/
def keyBecameLive (k : Nat) (b : Block) : Block :=
  match (keyAt b k).berth with
  | none => b
  | some w => berthCheck w (((tideOf b w).map (·.xings)).getD [] |>.foldl (fun b e => startProve e.n e.x b) b)

/-- An entry is FREE again: a crossing's next switch may be written (R215). -/
def keyBecameFree (b : Block) : Block := (List.range 32).foldl (fun b w => nextSwitches w false b) b

def settleOne (x : Work) (b : Block) : Block :=
  match x with
  | .ctxLost c code => loseCtx c code 0x14 0 0 b
  | .fenceChanged f => fenceChanged f b
  | .fenceError f => progFence f (excludeFence f b)
  | .barrierEval e => evalBar e b
  | .released w e _ skip => progReleased w (barAt b e).id skip (berthReleased w b)
  | .edgeFailed n x code => barEdgeFailed n x code b
  | .syncMsg n x msg => takeMsg n x msg b
  | .opDone op code => opDone op code b
  | .opLost op code => opLost op code b
  | .opHurt op code => opHurt op code b
  | .opLine op data => opLine op data b
  | .progFail w code => progFail w code b
  | .keyLive k => keyBecameLive k b
  | .keyFree _ => keyBecameFree b
  | .berthCheck w => berthCheck w b
  | .enterSealing w lost => enterSealing w lost b
  | .fenceFreed f => watchFence f b
  | .sched w => reschedule w b
  | .engineA => engineA b
  | .ckptDone w => ckptDone w b
  | .denkanDone src tag code => denkanDone src tag code b
  | .stageFree => claimRestore b
  | .restoreEnds w code => restoreEnds w code b

/-- Settles the work that waits in order; what a piece of work brings about comes before what waits behind it (fuel: pieces of
work). -/
def settle : Nat → Block → Block
  | 0, b => b
  | n + 1, b => match b.work with
    | [] => b
    | x :: xs =>
      let b := settleOne x { b with work := [] }
      settle n { b with work := b.work ++ xs }

/-! ### What every meaning shares -/

/-- Pieces of work one step settles; what is left waits for the next command. -/
def settleFuel : Nat := 4096

/-- A command's effect on the block, settled. -/
def act (f : Block → Block) (s : State) : Host.Outcome State Fault Refusal :=
  .next { s with blk := settle settleFuel (f s.blk) }

/-- A change of an input: its effect while the block runs, its level alone otherwise (R56, R73). -/
def atLevel (level f : Block → Block) (b : Block) : Block := if b.phase = .running ∧ !frozen b then f b else level b

/-- Acts unless `tst_freeze` halts the interior (R73). -/
def thawed (f : Block → Block) (b : Block) : Block := if frozen b then b else f b

/-- Acts while the block runs (R52, R62) and is not frozen. -/
def running (f : Block → Block) (b : Block) : Block := if b.phase = .running ∧ !frozen b then f b else b

/-- Acts until a power failure is accepted (R434). -/
def powered (f : Block → Block) : Block → Block := running fun b => if b.slip.st = .idle then f b else b

/-- A register's command: a write of the master to the register at offset o of page p (R17). -/
def regCmd (m : Master) (p o : Nat) (val : Word) : Block → Block := thawed (guarded m p o true (doWrite m p o val))

/-- A read of some bytes of page p, with the side effect of what it reads (R13, R100). -/
def regPop (m : Master) (p off size : Nat) : Block → Block := thawed (readRow m p off size)

/-- A write of ENABLE and SQUASH to a page's PAGE_CTRL, its other bits as they are (R92). -/
def ctrlCmd (m : Master) (p : Nat) (bits : Word) : Block → Block :=
  thawed (guarded m p 0x00C true fun b => doWrite m p 0x00C ((pageCtrl b p &&& 0xFFFFFFFC) ||| bits) b)

end Sys2Proof.Machine
end

