-- ==== Sys2Proof/Machine/CmdBus.lean ====
section
/-!
DEFINITION. The meanings of the register access rows, the unit rows, the resets, the pins and the Slipway rows.
-/

namespace Sys2Proof.Machine

/-! ### Register access -/

/-- REGISTER_WRITE (R13, R100): a write of some bytes by a master at an offset of its window. -/
def execRegisterWrite (m : Master) (off size val : Nat) : State → Host.Outcome State Fault Refusal :=
  act (thawed (writeAccess m off size val))

/-- SET_ALIAS_WRITE (R98): a write at the SET alias of the register at an offset. -/
def execSetAliasWrite (m : Master) (off : Nat) (val : Word) : State → Host.Outcome State Fault Refusal :=
  act (thawed (writeWord m (off + 0x800) val))

/-- CLR_ALIAS_WRITE (R98): a write at the CLR alias of the register at an offset. -/
def execClrAliasWrite (m : Master) (off : Nat) (val : Word) : State → Host.Outcome State Fault Refusal :=
  act (thawed (writeWord m (off + 0xC00) val))

/-- PAGE_ERR_CLEAR (R94, R95). -/
def execPageErrClear (m : Master) (page : Nat) (ev : Option ErrEvent) : State → Host.Outcome State Fault Refusal :=
  act (thawed (errClear m page ev))

/-- PAGE_IRQ_CLR_WRITE (R96). -/
def execPageIrqClrWrite (m : Master) (page : Nat) (val ev : Word) : State → Host.Outcome State Fault Refusal :=
  act (thawed (irqClear m page val ev))

/-- GLB_TICK_LO_READ (R100, R104). -/
def execGlbTickLoRead (m : Master) (off size : Nat) : State → Host.Outcome State Fault Refusal :=
  act (regPop m 0x00 off size)

/-! ### Unit enables (R92, R324, R325) -/

/-- UNIT_ENABLE (R324). -/
def execUnitEnable (m : Master) (page : Nat) : State → Host.Outcome State Fault Refusal :=
  act (ctrlCmd m page 1)

/-- UNIT_DRAIN (R324). -/
def execUnitDrain (m : Master) (page : Nat) : State → Host.Outcome State Fault Refusal :=
  act (ctrlCmd m page 0)

/-- UNIT_SQUASH (R325). -/
def execUnitSquash (m : Master) (page : Nat) : State → Host.Outcome State Fault Refusal :=
  act (ctrlCmd m page 2)

/-- UNIT_DRAIN_COMPLETE (R324). -/
def execUnitDrainComplete (page : Nat) : State → Host.Outcome State Fault Refusal :=
  act (running (drainComplete page))

/-- UNIT_SCRUB_COMPLETE (R324). -/
def execUnitScrubComplete (page : Nat) : State → Host.Outcome State Fault Refusal :=
  act (running (scrubUnitDone page))

/-! ### Resets and pins -/

/-- POWER_ON_RESET (R56). -/
def execPowerOnReset : State → Host.Outcome State Fault Refusal :=
  act powerOn

/-- WARM_RESET (R425). -/
def execWarmReset : State → Host.Outcome State Fault Refusal :=
  act warmReset

/-- RESET_RELEASE (R52). -/
def execResetRelease : State → Host.Outcome State Fault Refusal :=
  act release

/-- START_COMPLETE (R52). -/
def execStartComplete : State → Host.Outcome State Fault Refusal :=
  act (thawed (startDone otpFollow))

/-- PORT_RESET (R57, R58). -/
def execPortReset (p : Port) : State → Host.Outcome State Fault Refusal :=
  act (atLevel (portLevel p true) (portDownInput p))

/-- PORT_RESET_RELEASE (R264). -/
def execPortResetRelease (p : Port) : State → Host.Outcome State Fault Refusal :=
  act (atLevel (portLevel p false) (portUpInput p))

/-- PHY_DOWN (R47). -/
def execPhyDown (n : Fin 64) : State → Host.Outcome State Fault Refusal :=
  act (atLevel (phyLow n) (phyFalls n))

/-- TEST_INPUT (R73). -/
def execTestInput (t : TestPin) (level : Bool) : State → Host.Outcome State Fault Refusal :=
  act (testInput t level)

/-! ### The Slipway (R433) -/

/-- SLIP_PF_FALL (R61). -/
def execSlipPfFall : State → Host.Outcome State Fault Refusal :=
  act slipFalls

/-- SLIP_PULSE (R61, R433). -/
def execSlipPulse : State → Host.Outcome State Fault Refusal :=
  act slipPulse

/-- SLIP_ACCEPT (R433, R434). -/
def execSlipAccept : State → Host.Outcome State Fault Refusal :=
  act (thawed slipAccept)

/-- SLIP_STOP_COMPLETE (R434, R435). -/
def execSlipStopComplete : State → Host.Outcome State Fault Refusal :=
  act (thawed slipStopped)

/-- SLIP_DRAIN_COMPLETE (R433). -/
def execSlipDrainComplete : State → Host.Outcome State Fault Refusal :=
  act (thawed slipDrained)

/-- SLIP_CLEAR_COMPLETE (R433, R62). -/
def execSlipClearComplete : State → Host.Outcome State Fault Refusal :=
  act (thawed slipCleared)

/-! ### Ports -/

/-- HBM_FABRIC_REQUEST (R48, R240). -/
def execHbmFabricRequest (g : Fin 8) (slice : Fin 32) (addr : BitVec 40) (b : Fin 32) (tid : BitVec 10)
    (wdata : Option Bytes) : State → Host.Outcome State Fault Refusal :=
  act (running (fabricRequest g slice addr.toNat b tid.toNat wdata))

/-- HBM_MC_RESPONSE (R48, R237, R406). -/
def execHbmMcResponse (g : Fin 8) (slice : Fin 32) (tid : BitVec 10) (rdata : Bytes) (poison : Bool)
    (errs : List WordErr) : State → Host.Outcome State Fault Refusal :=
  act (running (mcResponse g slice tid.toNat rdata poison errs))

/-- CE_COMMAND_ISSUE (R322). -/
def execCeCommandIssue (a : Fin 16) : State → Host.Outcome State Fault Refusal :=
  act (running (ceIssue a))

/-- CE_COMPLETION (R295). -/
def execCeCompletion (a : Fin 16) (status : Byte) (ctx gen : BitVec 12) : State → Host.Outcome State Fault Refusal :=
  act (running (ceComplete a status ctx.toNat gen))

/-- OPERAND_TRANSFER (R295). -/
def execOperandTransfer (a : Fin 16) (b : Fin 32) (index : BitVec 16) (line : Nat) (wdata : Option Bytes)
    (ups : List Upset) : State → Host.Outcome State Fault Refusal :=
  act (running fun s => operandTransfer a b index.toNat line wdata (addUpsets ups s))

/-- CE_SCRUB_ACK_CHANGE (R51). -/
def execCeScrubAckChange (a : Fin 16) (level : Bool) : State → Host.Outcome State Fault Refusal :=
  act (atLevel (scrubAckLevel a level) (scrubAck a level))

/-- WAKE_ACK_CHANGE (R60). -/
def execWakeAckChange (w : Fin 64) (level : Bool) : State → Host.Outcome State Fault Refusal :=
  act (wakeAck w level)

/-- CXL_DRS_RESPONSE (R253, R406). -/
def execCxlDrsResponse (k : Fin 4) (tag : Nat) (gen : BitVec 12) (line : Bytes) (poison : Bool)
    (errs : List WordErr) : State → Host.Outcome State Fault Refusal :=
  act (running (drsArrives k tag gen line poison errs))

/-- CXL_NDR_RESPONSE (R254). -/
def execCxlNdrResponse (k : Fin 4) (tag : Nat) (gen : BitVec 12) : State → Host.Outcome State Fault Refusal :=
  act (running (ndrArrives k tag gen))

/-- OTP_PROGRAM_DONE (R63). -/
def execOtpProgramDone (readback : BitVec 39) : State → Host.Outcome State Fault Refusal :=
  act (thawed (otpEnds readback otpFails otpFollow))

end Sys2Proof.Machine
end

