-- ==== Sys2Proof/Machine/CmdContext.lean ====
section
/-!
DEFINITION. The meanings of the context, command and berth rows.
-/

namespace Sys2Proof.Machine

/-! ### Queues -/

/-- QUEUE_SCAN (R288). -/
def execQueueScan (c : Fin 4096) (cause : ScanCause) (gen : BitVec 12) (desc : Bytes) (bad : Bool) (cmds : List FetchedCmd) : State → Host.Outcome State Fault Refusal :=
  act (powered (scanQueue c cause gen desc bad cmds))

/-- COMMAND_START (R294). -/
def execCommandStart (c : Fin 4096) : State → Host.Outcome State Fault Refusal :=
  act (powered (startCmd c))

/-- COMMAND_RETIRE (R296). -/
def execCommandRetire (c : Fin 4096) (i : Nat) : State → Host.Outcome State Fault Refusal :=
  act (powered (retireCmd c i))

/-! ### CTRL commands (R292) -/

/-- NOP (R292). -/
def execNop (c : Fin 4096) (i : Nat) : State → Host.Outcome State Fault Refusal :=
  act (running (nopCmd c i))

/-- FENCE_NEW (R292). -/
def execFenceNew (c : Fin 4096) (i : Nat) : State → Host.Outcome State Fault Refusal :=
  act (running (fenceNew c i))

/-- FENCE_RESET (R298). -/
def execFenceReset (c : Fin 4096) (i : Nat) : State → Host.Outcome State Fault Refusal :=
  act (running (fenceReset c i))

/-- BUFFER_NEW (R292). -/
def execBufferNew (c : Fin 4096) (i : Nat) : State → Host.Outcome State Fault Refusal :=
  act (running (bufferNew c i))

/-- OBJ_FREE (R281). -/
def execObjFree (c : Fin 4096) (i : Nat) : State → Host.Outcome State Fault Refusal :=
  act (running (objFree c i))

/-- OBJ_FREE_DEFERRED_COMPLETE (R281, R297). -/
def execObjFreeDeferredComplete (fence : Bool) (index : Nat) : State → Host.Outcome State Fault Refusal :=
  act (running (deferredFree fence index))

/-- RECYCLE (R229). -/
def execRecycle (c : Fin 4096) (i : Nat) : State → Host.Outcome State Fault Refusal :=
  act (running (recycleCmd c i))

/-- COPY (R292); `errs` are what its lines meet on their path to engine A (R406, R410). -/
def execCopy (c : Fin 4096) (i : Nat) (errs : List LineErr) (ups : List Upset) : State → Host.Outcome State Fault Refusal :=
  act (running fun s => copyCmd c i errs (addUpsets ups s))

/-- SEND (R292). -/
def execSend (c : Fin 4096) (i : Nat) : State → Host.Outcome State Fault Refusal :=
  act (running (sendCmd c i))

/-! ### Berths -/

/-- CREATE (R309): SCHED_CMD with this OP and GO. -/
def execCreate (m : Master) (b : Fin 32) : State → Host.Outcome State Fault Refusal :=
  act (regCmd m 0x14 0x044 (w32 (2 ^ 31 + 1 + 16 * b)))

/-- LOAD (R313): SCHED_CMD with this OP and GO. -/
def execLoad (m : Master) (b : Fin 32) : State → Host.Outcome State Fault Refusal :=
  act (regCmd m 0x14 0x044 (w32 (2 ^ 31 + 2 + 16 * b)))

/-- RESIZE (R314): SCHED_CMD with this OP and GO. -/
def execResize (m : Master) (b : Fin 32) : State → Host.Outcome State Fault Refusal :=
  act (regCmd m 0x14 0x044 (w32 (2 ^ 31 + 3 + 16 * b)))

/-- RECLAIM (R327): SCHED_CMD with this OP and GO. -/
def execReclaim (m : Master) (b : Fin 32) : State → Host.Outcome State Fault Refusal :=
  act (regCmd m 0x14 0x044 (w32 (2 ^ 31 + 4 + 16 * b)))

/-- LOAD_COMPLETE (R313); `container` is what the HOST port read. -/
def execLoadComplete (gen : BitVec 12) (container : Bytes) (bad : Bool) : State → Host.Outcome State Fault Refusal :=
  act (running (loadComplete gen container bad))

/-- SEAL_MS_EXPIRY (R328). -/
def execSealMsExpiry (b : Fin 32) : State → Host.Outcome State Fault Refusal :=
  act (running (sealExpiry b))

/-- BERTH_QUIESCED (R329). -/
def execBerthQuiesced (b : Fin 32) : State → Host.Outcome State Fault Refusal :=
  act (running (berthQuiesced b))

/-- BERTH_SCRUB_COMPLETE (R329). -/
def execBerthScrubComplete (b : Fin 32) : State → Host.Outcome State Fault Refusal :=
  act (running (scrubComplete b))

/-! ### Run slots -/

/-- SLICE_END (R316). -/
def execSliceEnd (c : Fin 4096) : State → Host.Outcome State Fault Refusal :=
  act (running (sliceEnded c))

/-- CONTEXT_SWAP_COMPLETE (R317). -/
def execContextSwapComplete (c : Fin 4096) : State → Host.Outcome State Fault Refusal :=
  act (running (swapDone c))

/-- NP_CAP_EXPIRY (R320). -/
def execNpCapExpiry (c : Fin 4096) : State → Host.Outcome State Fault Refusal :=
  act (powered (npExpired c))

end Sys2Proof.Machine
end

