-- ==== Sys2Proof/Machine/CmdKey.lean ====
section
/-!
DEFINITION. The meanings of the life-cycle, key, KEY_STAGE and GSE rows.
-/

namespace Sys2Proof.Machine

/-! ### Life cycle -/

/-- LCS_CLEAR_COMPLETE (R150). -/
def execLcsClearComplete : State → Host.Outcome State Fault Refusal :=
  act (thawed (clearEnds otpFollow))

/-- LCS_REQUEST (R146). -/
def execLcsRequest (m : Master) (val : Word) : State → Host.Outcome State Fault Refusal :=
  act (regCmd m 0x01 0x070 val)

/-- LCS_NONCE_READ (R145, R156). -/
def execLcsNonceRead (m : Master) (off size : Nat) : State → Host.Outcome State Fault Refusal :=
  act (regPop m 0x01 off size)

/-- LCS_DATA_WRITE (R156). -/
def execLcsDataWrite (m : Master) (i : Fin 8) (val : Word) : State → Host.Outcome State Fault Refusal :=
  act (regCmd m 0x01 (0x0A0 + 4 * i) val)

/-! ### Keys -/

/-- KEY_RANGE_CMD (R109, R138). -/
def execKeyRangeCmd (m : Master) (val : Word) : State → Host.Outcome State Fault Refusal :=
  act (regCmd m 0x02 0x054 val)

/-- KEY_RANGE_COMPLETE (R109). -/
def execKeyRangeComplete : State → Host.Outcome State Fault Refusal :=
  act (running keyRangeDone)

/-- TIDE_SLOT_START (R311). -/
def execTideSlotStart (b : Fin 32) : State → Host.Outcome State Fault Refusal :=
  act (powered (tideSlot b))

/-- DERIVATION_COMPLETE (R111, R122). -/
def execDerivationComplete (kid : Fin 2048) : State → Host.Outcome State Fault Refusal :=
  act (running (derivationDone kid))

/-- RETIRE_DRAIN_COMPLETE (R132). -/
def execRetireDrainComplete (kid : Fin 2048) : State → Host.Outcome State Fault Refusal :=
  act (running (retireDone kid))

/-! ### KEY_STAGE (R128) -/

/-- KSTG_CLAIM (R128). -/
def execKstgClaim (m : Master) : State → Host.Outcome State Fault Refusal :=
  act (thawed (guarded m 0x03 0x040 true (kstgClaim m)))

/-- KSTG_UNWRAP (R128). -/
def execKstgUnwrap (m : Master) : State → Host.Outcome State Fault Refusal :=
  act (thawed (guarded m 0x03 0x040 true (kstgUnwrap m)))

/-- KSTG_VERIFY (R129). -/
def execKstgVerify (m : Master) : State → Host.Outcome State Fault Refusal :=
  act (thawed (guarded m 0x03 0x040 true (kstgVerify m)))

/-- KSTG_COMMIT (R130). -/
def execKstgCommit (m : Master) : State → Host.Outcome State Fault Refusal :=
  act (thawed (guarded m 0x03 0x040 true (kstgCommit m)))

/-- KSTG_ABORT (R128). -/
def execKstgAbort (m : Master) : State → Host.Outcome State Fault Refusal :=
  act (thawed (guarded m 0x03 0x040 true (kstgAbort m)))

/-- KSTG_RELEASE (R128). -/
def execKstgRelease (m : Master) : State → Host.Outcome State Fault Refusal :=
  act (thawed (guarded m 0x03 0x040 true (kstgRelease m)))

/-- KSTG_UNWRAP_COMPLETE (R128). -/
def execKstgUnwrapComplete : State → Host.Outcome State Fault Refusal :=
  act (running kstgUnwrapDone)

/-- KSTG_VERIFY_COMPLETE (R129). -/
def execKstgVerifyComplete : State → Host.Outcome State Fault Refusal :=
  act (running kstgVerifyDone)

/-- KSTG_KEY_WRITE (R128). -/
def execKstgKeyWrite (m : Master) (i : Fin 8) (val : Word) : State → Host.Outcome State Fault Refusal :=
  act (regCmd m 0x03 (0x060 + 4 * i) val)

/-- KSTG_BLOB_WRITE (R128). -/
def execKstgBlobWrite (m : Master) (i : Fin 10) (val : Word) : State → Host.Outcome State Fault Refusal :=
  act (regCmd m 0x03 (0x080 + 4 * i) val)

/-- KSTG_SETUP_WRITE (R128). -/
def execKstgSetupWrite (m : Master) (r : StageReg) (val : Word) : State → Host.Outcome State Fault Refusal :=
  act (regCmd m 0x03 (stageRegAddr r - 0x03000) val)

/-- KSTG_IDLE_TIMEOUT (R128). -/
def execKstgIdleTimeout : State → Host.Outcome State Fault Refusal :=
  act (running kstgIdleTimeout)

/-! ### GSE -/

/-- GSE_SUBMIT (R178). -/
def execGseSubmit (m : Master) (val : Word) : State → Host.Outcome State Fault Refusal :=
  act (regCmd m 0x04 0x0C0 val)

/-- GSE_CPL_POP (R184). -/
def execGseCplPop (m : Master) (off size : Nat) : State → Host.Outcome State Fault Refusal :=
  act (regPop m 0x04 off size)

/-- SEAL_OPEN (R170, R172). -/
def execSealOpen (d : GseDesc) : State → Host.Outcome State Fault Refusal :=
  act (running (sealOpen d))

/-- SEAL (R167). -/
def execSealSectors (d : GseDesc) : State → Host.Outcome State Fault Refusal :=
  act (running (sealSectors d))

/-- SEAL_CLOSE (R168, R170). -/
def execSealClose (d : GseDesc) : State → Host.Outcome State Fault Refusal :=
  act (running (sealClose d))

/-- UNSEAL_OPEN (R173); `record` is the checkpoint record where it is read through a HIF checkpoint window. -/
def execUnsealOpen (gen : BitVec 12) (record : Bytes) : State → Host.Outcome State Fault Refusal :=
  act (running (unsealOpen gen record))

/-- UNSEAL (R167). -/
def execUnsealSectors : State → Host.Outcome State Fault Refusal :=
  act (running unsealSectors)

/-- UNSEAL_CLOSE (R170). -/
def execUnsealClose : State → Host.Outcome State Fault Refusal :=
  act (running unsealClose)

/-- REWRAP (R175); `record` is the record where it is read through a HIF checkpoint window. -/
def execRewrap (d : GseDesc) (gen : BitVec 12) (record : Bytes) : State → Host.Outcome State Fault Refusal :=
  act (running (rewrap d gen record))

/-- RESTORE_STAGE_TIMEOUT (R174). -/
def execRestoreStageTimeout : State → Host.Outcome State Fault Refusal :=
  act (running restoreTimeout)

/-- GSE_SECTOR_DONE (R166, R179). -/
def execGseSectorDone (b : Fin 32) (i : Nat) (gen : BitVec 12) (data : Bytes) (err : Option Status) : State → Host.Outcome State Fault Refusal :=
  act (running (sectorDone b i gen data (err.map code)))

/-- GSE_KEY_OP_COMPLETE (R182). -/
def execGseKeyOpComplete (b : Fin 32) : State → Host.Outcome State Fault Refusal :=
  act (running (keyOpDone b))

/-- DRBG_RESEED (R159). -/
def execDrbgReseed (healthy : Bool) : State → Host.Outcome State Fault Refusal :=
  act (running (drbgReseed healthy))

end Sys2Proof.Machine
end

