-- ==== Sys2Proof/Machine/CmdLink.lean ====
section
/-!
DEFINITION. The meanings of the Landing and barrier message rows.
-/

namespace Sys2Proof.Machine

/-! ### Rounds and slots -/

/-- ROUND_START (R187). -/
def execRoundStart (n : Fin 64) : State → Host.Outcome State Fault Refusal :=
  act (running (startRound n))

/-- MARKER_RECEIVE (R188). -/
def execMarkerReceive (n : Fin 64) (words : List Bytes) : State → Host.Outcome State Fault Refusal :=
  act (running (takeMarker n words))

/-- FRAME_TRANSMIT (R192, R200). -/
def execFrameTransmit (n : Fin 64) (slot : Fin 62) (errs : List WordErr) (ups : List Upset) :
    State → Host.Outcome State Fault Refusal :=
  act (running fun s => transmitSlot n slot errs (addUpsets ups s))

/-- FRAME_RECEIVE (R202). -/
def execFrameReceive (n : Fin 64) (slot : Fin 62) (raw : Bytes) (errs : List WordErr) : State → Host.Outcome State Fault Refusal :=
  act (running (receiveFrame n slot raw errs))

/-! ### Frames of one TYPE (R194) -/

/-- DATA_FRAME (R201). -/
def execDataFrame (n : Fin 64) (slot : Fin 62) (raw : Bytes) : State → Host.Outcome State Fault Refusal :=
  act (running (receiveType 1 n slot raw))

/-- GRAD_FRAME (R350). -/
def execGradFrame (n : Fin 64) (slot : Fin 62) (raw : Bytes) : State → Host.Outcome State Fault Refusal :=
  act (running (receiveType 2 n slot raw))

/-- SYNC_FRAME (R340). -/
def execSyncFrame (n : Fin 64) (slot : Fin 62) (raw : Bytes) : State → Host.Outcome State Fault Refusal :=
  act (running (receiveType 3 n slot raw))

/-- HELLO (R210). -/
def execHello (n : Fin 64) (slot : Fin 62) (raw : Bytes) : State → Host.Outcome State Fault Refusal :=
  act (running (receiveType 8 n slot raw))

/-- PROVE (R211). -/
def execProve (n : Fin 64) (slot : Fin 62) (raw : Bytes) : State → Host.Outcome State Fault Refusal :=
  act (running (receiveType 9 n slot raw))

/-! ### Control words (R196) -/

/-- ACK (R203, R214). -/
def execAck (n : Fin 64) (slot : Fin 62) (raw : Bytes) : State → Host.Outcome State Fault Refusal :=
  act (running (receiveControl 1 n slot raw (takeAck n)))

/-- NAK (R204). -/
def execNak (n : Fin 64) (slot : Fin 62) (raw : Bytes) : State → Host.Outcome State Fault Refusal :=
  act (running (receiveControl 2 n slot raw (nakArrives n)))

/-- TOLL (R209). -/
def execToll (n : Fin 64) (slot : Fin 62) (raw : Bytes) : State → Host.Outcome State Fault Refusal :=
  act (running (receiveControl 3 n slot raw (takeToll n)))

/-- FAIL (R206). -/
def execFail (n : Fin 64) (slot : Fin 62) (raw : Bytes) : State → Host.Outcome State Fault Refusal :=
  act (running (receiveControl 4 n slot raw (takeFail n)))

/-- IDLE (R196). -/
def execIdle (n : Fin 64) (slot : Fin 62) (raw : Bytes) : State → Host.Outcome State Fault Refusal :=
  act (running (receiveControl 0 n slot raw (fun _ => id)))

/-! ### Time on a link -/

/-- RETRANSMIT_TIMEOUT (R204). -/
def execRetransmitTimeout (n : Fin 64) (x : Fin 32) : State → Host.Outcome State Fault Refusal :=
  act (powered (resendTimeout n x))

/-- LANDING_ENTER_FORD (R207). -/
def execLandingEnterFord (n : Fin 64) : State → Host.Outcome State Fault Refusal :=
  act (powered (enterFord n))

/-- FORD_TIMEOUT (R207). -/
def execFordTimeout (n : Fin 64) : State → Host.Outcome State Fault Refusal :=
  act (powered (fordTimeout n))

/-- PROVE_TIMEOUT (R214). -/
def execProveTimeout (n : Fin 64) (x : Fin 32) : State → Host.Outcome State Fault Refusal :=
  act (powered (proveTimeout n x))

/-- LANDING_DRAIN_COMPLETE (R219). -/
def execLandingDrainComplete (n : Fin 64) : State → Host.Outcome State Fault Refusal :=
  act (running (landingDrained n))

/-- LANDING_DRAIN_TIMEOUT (R219). -/
def execLandingDrainTimeout (n : Fin 64) : State → Host.Outcome State Fault Refusal :=
  act (running (landingDrainTimeout n))

/-! ### Barrier messages (R338 to R341) -/

/-- ARRIVE (R338): the payload of a verified SYNC frame of crossing x. -/
def execArrive (n : Fin 64) (x : Fin 32) (msg : Bytes) : State → Host.Outcome State Fault Refusal :=
  act (powered (takeKind 1 n x msg))

/-- RELEASE (R339): the payload of a verified SYNC frame of crossing x. -/
def execRelease (n : Fin 64) (x : Fin 32) (msg : Bytes) : State → Host.Outcome State Fault Refusal :=
  act (powered (takeKind 2 n x msg))

/-- ABORT (R341): the payload of a verified SYNC frame of crossing x. -/
def execAbort (n : Fin 64) (x : Fin 32) (msg : Bytes) : State → Host.Outcome State Fault Refusal :=
  act (powered (takeKind 3 n x msg))

/-! ### Wires (R333, R346) -/

/-- SYNC_ARM (R333, R346): DISARM is 0. -/
def execSyncArm (b : Fin 32) (val : Word) : State → Host.Outcome State Fault Refusal :=
  act (regCmd (.berth b) 0x15 0x07C (setFld val 9 9 0))

/-- SYNC_DISARM (R346): DISARM is 1. -/
def execSyncDisarm (b : Fin 32) (val : Word) : State → Host.Outcome State Fault Refusal :=
  act (regCmd (.berth b) 0x15 0x07C (setFld val 9 9 1))

/-- SYNC_WIRE_WRITE (R333). -/
def execSyncWireWrite (m : Master) (w : Fin 64) (val : Word) : State → Host.Outcome State Fault Refusal :=
  act (regCmd m 0x15 (0x100 + 4 * w) val)

end Sys2Proof.Machine
end

