-- ==== Sys2Proof/Machine/CmdMemory.lean ====
section
/-!
DEFINITION. The meanings of the Hold, memory protection, object and copy rows.
-/

namespace Sys2Proof.Machine

/-- A read goes on whose line has become RELEASED or POISONED, or whose bank has been cleared (R227, R235). -/
def resumeRead (id : Nat) (b : Block) : Block :=
  match b.hold.waits.find? fun r => r.id = id with
  | none => b
  | some r =>
    if !r.ready then b
    else
      let b := modHold (fun h => { h with waits := h.waits.erase r }) b
      match r.op with
      | .cmd c i => cmdResume c i b
      | .prog w i => progResume w i b
      | .opd a w index line => operandGo a w index line none b
      | _ => b

/-- A recycle that waited on pins or verdicts acts and performs its signal (R229, R297). -/
def resumeRecycle (id : Nat) (b : Block) : Block :=
  match b.hold.recycles.find? fun r => r.id = id with
  | none => b
  | some r =>
    if !recycleReady b r.lines then b
    else
      let b := modHold (fun h => { h with recycles := h.recycles.erase r }) b
      let b := r.lines.foldl (fun b l => emptyLine l b) b
      let b := deferredSignal r.sig b
      match r.op with
      | .prog w i => progDone w i cOk b
      | _ => b

/-- The running bank set completes; one that includes the bank of a running test waits (R234, R416). -/
def bankSetEnds (bad : List Nat) (b : Block) : Block := if setBlocked b then b else setFinished bad b

/-! ### The Hold -/

/-- HOLD_RANGE_CMD (R231). -/
def execHoldRangeCmd (m : Master) (val : Word) : State → Host.Outcome State Fault Refusal :=
  act (regCmd m 0x10 0x044 val)

/-- BANK_SET_COMPLETE (R234, R235). -/
def execBankSetComplete (bad : List Nat) : State → Host.Outcome State Fault Refusal :=
  act (running (bankSetEnds bad))

/-- HOLD_READ_RESUME (R227). -/
def execHoldReadResume (w : Nat) : State → Host.Outcome State Fault Refusal :=
  act (running (resumeRead w))

/-- PIN_WAIT_RESUME (R229). -/
def execPinWaitResume (n : Fin 64) (x : Fin 32) : State → Host.Outcome State Fault Refusal :=
  act (running (pinResume n x))

/-- RECYCLE_DEFERRED_COMPLETE (R229). -/
def execRecycleDeferredComplete (i : Nat) : State → Host.Outcome State Fault Refusal :=
  act (running (resumeRecycle i))

/-! ### Memory protection engines -/

/-- MIX_KEY_LOADED (R239, R310). -/
def execMixKeyLoaded (b : Fin 32) : State → Host.Outcome State Fault Refusal :=
  act (running (mixKeyLoaded b))

/-- MIX_KEY_UNLOAD (R239). -/
def execMixKeyUnload (b : Fin 32) : State → Host.Outcome State Fault Refusal :=
  act (running (mixUnload b))

/-- MEMS_REGION_WRITE (R240, R271). -/
def execMemsRegionWrite (m : Master) (val : Word) : State → Host.Outcome State Fault Refusal :=
  act (regCmd m 0x11 0x054 val)

/-- MEMA_REGION_CREATE (R266, R267): VALID is 1. -/
def execMemaRegionCreate (m : Master) (val : Word) : State → Host.Outcome State Fault Refusal :=
  act (regCmd m 0x12 0x064 (setFld val 31 31 1))

/-- MEMA_REGION_DESTROY (R266): VALID is 0. -/
def execMemaRegionDestroy (m : Master) (val : Word) : State → Host.Outcome State Fault Refusal :=
  act (regCmd m 0x12 0x064 (setFld val 31 31 0))

/-- MEMA_ROLL (R261). -/
def execMemaRoll (m : Master) (val : Word) : State → Host.Outcome State Fault Refusal :=
  act (regCmd m 0x12 0x088 val)

/-- ROLL_COMPLETE (R261). -/
def execRollComplete (r : Fin 256) : State → Host.Outcome State Fault Refusal :=
  act (running (rollDone r))

/-- MEMA_WAY_CMD (R273). -/
def execMemaWayCmd (m : Master) (val : Word) : State → Host.Outcome State Fault Refusal :=
  act (regCmd m 0x12 0x094 val)

/-- MEMA_WAY_COMPLETE (R252). -/
def execMemaWayComplete : State → Host.Outcome State Fault Refusal :=
  act (running wayDone)

/-- DEBUG_READ (R268, R460). -/
def execDebugRead (m : Master) (val : Word) : State → Host.Outcome State Fault Refusal :=
  act (regCmd m 0x1E 0x078 val)

end Sys2Proof.Machine
end

