-- ==== Sys2Proof/Machine/CmdMgmt.lean ====
section
/-!
DEFINITION. The meanings of the SPDM, IDE, TDISP, Denkan, I3C, debug and trace rows.
-/

namespace Sys2Proof.Machine

/-! ### SPDM (R68, R449, R451) -/

/-- GET_VERSION (R68). -/
def execGetVersion (t : Transport) : State → Host.Outcome State Fault Refusal :=
  act (running (getVersion t))

/-- GET_CAPABILITIES (R68). -/
def execGetCapabilities (t : Transport) : State → Host.Outcome State Fault Refusal :=
  act (running (getCapabilities t))

/-- NEGOTIATE_ALGORITHMS (R68). -/
def execNegotiateAlgorithms (t : Transport) (offer : List SpdmAlg) : State → Host.Outcome State Fault Refusal :=
  act (running (negotiate t offer))

/-- GET_DIGESTS (R449). -/
def execGetDigests (t : Transport) : State → Host.Outcome State Fault Refusal :=
  act (running (getDigests t))

/-- GET_CERTIFICATE (R449). -/
def execGetCertificate (t : Transport) (slot : Fin 8) : State → Host.Outcome State Fault Refusal :=
  act (running (getCertificate t slot))

/-- CHALLENGE (R68). -/
def execChallenge (t : Transport) (slot : Fin 8) (_nonce : BitVec 256) : State → Host.Outcome State Fault Refusal :=
  act (running (challenge t slot))

/-- GET_MEASUREMENTS (R451). -/
def execGetMeasurements (src : MgmtSrc) (index : Byte) : State → Host.Outcome State Fault Refusal :=
  act (running (getMeasurements src index.toNat))

/-- KEY_EXCHANGE (R68). -/
def execKeyExchange (t : Transport) (eid : Byte) (slot : Fin 8) (reqId : BitVec 16) (point : Bytes) :
    State → Host.Outcome State Fault Refusal :=
  act (running (keyExchange t eid slot reqId point))

/-- FINISH (R68). -/
def execFinish (src : MgmtSrc) (transcript : Bytes) (good : Bool) : State → Host.Outcome State Fault Refusal :=
  act (running (finish src transcript good))

/-- KEY_UPDATE (R68). -/
def execKeyUpdate (src : MgmtSrc) : State → Host.Outcome State Fault Refusal :=
  act (running (keyUpdate src))

/-- HEARTBEAT (R68). -/
def execHeartbeat (src : MgmtSrc) : State → Host.Outcome State Fault Refusal :=
  act (running (heartbeat src))

/-- END_SESSION (R68, R128). -/
def execEndSession (src : MgmtSrc) : State → Host.Outcome State Fault Refusal :=
  act (running (spdmEnd src))

/-- IDE_KM (R64). -/
def execIdeKm (src : MgmtSrc) (stream : Fin 33) (keySet : Fin 2) (key : Option (BitVec 256)) :
    State → Host.Outcome State Fault Refusal :=
  act (running (ideKm src stream keySet key))

/-- LOCK_INTERFACE, START_INTERFACE and STOP_INTERFACE (R65). -/
def execLockInterface (b : Fin 32) (req : TdiLock) : State → Host.Outcome State Fault Refusal :=
  act (running (lockInterface b req))

/-- INTERFACE_REPORT, and the state, version and capability requests (R65). -/
def execInterfaceReport (b : Fin 32) (query : TdiQuery) : State → Host.Outcome State Fault Refusal :=
  act (running (interfaceReport b query))

/-! ### Denkan (R443 to R447) -/

/-- REALM_AUTH (R445). -/
def execRealmAuth (src : MgmtSrc) (h : DenkanHdr) (point sig : Bytes) : State → Host.Outcome State Fault Refusal :=
  act (running (realmAuth src h point sig))

/-- REG_READ (R447). -/
def execRegRead (src : MgmtSrc) (h : DenkanHdr) (off count : Nat) : State → Host.Outcome State Fault Refusal :=
  act (running (regReads src h off count))

/-- REG_WRITE (R447). -/
def execRegWrite (src : MgmtSrc) (h : DenkanHdr) (off : Nat) (words : List Word) : State → Host.Outcome State Fault Refusal :=
  act (running (regWrites src h off words))

/-- ENROLL (R442). -/
def execEnroll (src : MgmtSrc) (h : DenkanHdr) (digest : Bytes) (rights : Word) : State → Host.Outcome State Fault Refusal :=
  act (running (enroll otpFollow src h digest rights))

/-- REVOKE (R442). -/
def execRevoke (src : MgmtSrc) (h : DenkanHdr) (r : Nat) : State → Host.Outcome State Fault Refusal :=
  act (running (revoke otpFollow src h r))

/-- PATCH_BEGIN (R453). -/
def execPatchBegin (src : MgmtSrc) (h : DenkanHdr) (length : Nat) : State → Host.Outcome State Fault Refusal :=
  act (running (patchBegin src h length))

/-- PATCH_DATA (R453). -/
def execPatchData (src : MgmtSrc) (h : DenkanHdr) (off : Nat) (image : Bytes) : State → Host.Outcome State Fault Refusal :=
  act (running (patchData src h off image))

/-- PATCH_END (R453). -/
def execPatchEnd (src : MgmtSrc) (h : DenkanHdr) (activate floor : Bool) : State → Host.Outcome State Fault Refusal :=
  act (running (patchEnd src h activate floor))

/-- PATCH_ACTIVATE (R453). -/
def execPatchActivate : State → Host.Outcome State Fault Refusal :=
  act (running (patchActivate otpFollow))

/-- DENKAN_REWRAP (R444). -/
def execDenkanRewrap (src : MgmtSrc) (h : DenkanHdr) (record : Word) (recOff kidA kidB : Nat) : State → Host.Outcome State Fault Refusal :=
  act (running (denkanRewrap src h record recOff kidA kidB))

/-! ### Certificate slots (R450) -/

/-- SLOT_BIND (R450): MGMT_SLOT_CMD with OP 1. -/
def execSlotBind (m : Master) (val : Word) : State → Host.Outcome State Fault Refusal :=
  act (regCmd m 0x1D 0x04C (setFld val 9 8 1))

/-- SLOT_RELEASE (R450): MGMT_SLOT_CMD with OP 2. -/
def execSlotRelease (m : Master) (val : Word) : State → Host.Outcome State Fault Refusal :=
  act (regCmd m 0x1D 0x04C (setFld val 9 8 2))

/-! ### Debug (R454, R455, R458) -/

/-- DBG_OPEN_WRITE (R454). -/
def execDbgOpenWrite (m : Master) (val : Word) : State → Host.Outcome State Fault Refusal :=
  act (regCmd m 0x1E 0x044 val)

/-- HALT (R458): DBG_CMD with OP 1. -/
def execHalt (m : Master) (val : Word) : State → Host.Outcome State Fault Refusal :=
  act (regCmd m 0x1E 0x05C (setFld val 2 0 1))

/-- RESUME (R458): DBG_CMD with OP 2. -/
def execResume (m : Master) (val : Word) : State → Host.Outcome State Fault Refusal :=
  act (regCmd m 0x1E 0x05C (setFld val 2 0 2))

/-- STEP (R458): DBG_CMD with OP 3. -/
def execStep (m : Master) (val : Word) : State → Host.Outcome State Fault Refusal :=
  act (regCmd m 0x1E 0x05C (setFld val 2 0 3))

/-- BREAKPOINT_HIT (R458). -/
def execBreakpointHit (c : Fin 4) (pc : Word) : State → Host.Outcome State Fault Refusal :=
  act (running (breakpointHit c pc))

/-- DBG_MEM_DATA_READ (R460). -/
def execDbgMemDataRead (m : Master) (off size : Nat) : State → Host.Outcome State Fault Refusal :=
  act (regPop m 0x1E off size)

/-- COUNTER_WINDOW_END (R455). -/
def execCounterWindowEnd (b : Option (Fin 32)) : State → Host.Outcome State Fault Refusal :=
  act (running (windowEnd (b.map Fin.val)))

/-! ### Trace (R456, R457) -/

/-- ASSIGN (R456): TRC_BUF_CMD with OP 1. -/
def execAssign (m : Master) (val : Word) : State → Host.Outcome State Fault Refusal :=
  act (regCmd m 0x1F 0x040 (setFld val 17 16 1))

/-- UNASSIGN (R456): TRC_BUF_CMD with OP 2. -/
def execUnassign (m : Master) (val : Word) : State → Host.Outcome State Fault Refusal :=
  act (regCmd m 0x1F 0x040 (setFld val 17 16 2))

/-- TRACE_DRAIN (R457). -/
def execTraceDrain (b : Fin 32) : State → Host.Outcome State Fault Refusal :=
  act (running (traceDrain b))

/-! ### I3C (R67) -/

/-- ENTDAA (R67). -/
def execEntdaa (addr : BitVec 7) : State → Host.Outcome State Fault Refusal :=
  act (thawed (takeI3c addr.toNat))

/-- SETDASA (R67). -/
def execSetdasa (addr : BitVec 7) : State → Host.Outcome State Fault Refusal :=
  act (thawed (takeI3c addr.toNat))

end Sys2Proof.Machine
end

