-- ==== Sys2Proof/Machine/CmdRecovery.lean ====
section
/-!
DEFINITION. The meanings of the ECC, watch and recovery rows.
-/

namespace Sys2Proof.Machine

/-! ### ECC -/

/-- PATROL_READ (R407): the place holds upset bits. -/
def execPatrolRead (site : EccSite) (addr : Nat) (flipData : Byte) (flipCheck : BitVec 5) : State → Host.Outcome State Fault Refusal :=
  act (running (patrol site addr flipData flipCheck))

/-- ECC_LOG_POP (R418). -/
def execEccLogPop (m : Master) (off size : Nat) : State → Host.Outcome State Fault Refusal :=
  act (regPop m 0x1A off size)

/-- ECC_DMA_HALT_WRITE (R412). -/
def execEccDmaHaltWrite (m : Master) (val : Word) : State → Host.Outcome State Fault Refusal :=
  act (regCmd m 0x1A 0x058 val)

/-- ECC_RETIRE_CMD (R415). -/
def execEccRetireCmd (m : Master) (val : Word) : State → Host.Outcome State Fault Refusal :=
  act (regCmd m 0x1A 0x05C val)

/-- ECC_INJ_CTRL (R416). -/
def execEccInjCtrl (m : Master) (val : Word) : State → Host.Outcome State Fault Refusal :=
  act (regCmd m 0x1A 0x064 val)

/-- ECC_INJ_COMPLETE (R416). -/
def execEccInjComplete : State → Host.Outcome State Fault Refusal :=
  act (running injComplete)

/-! ### Watches (R421) -/

/-- PORT_WATCH_EXPIRY (R421, R423). -/
def execPortWatchExpiry (w : PortWait) : State → Host.Outcome State Fault Refusal :=
  act (running (portWatch w))

/-- ATTACH_WATCH_EXPIRY (R421). -/
def execAttachWatchExpiry (a : Fin 16) : State → Host.Outcome State Fault Refusal :=
  act (running (onWatch 1 (watchAttach a)))

/-- HOLD_WATCH_EXPIRY (R421). -/
def execHoldWatchExpiry (w : Nat) : State → Host.Outcome State Fault Refusal :=
  act (running (onWatch 2 (watchHold w)))

/-- XING_WATCH_EXPIRY (R421). -/
def execXingWatchExpiry (n : Fin 64) (x : Fin 32) : State → Host.Outcome State Fault Refusal :=
  act (running (onWatch 3 (watchXingDue n x)))

/-- BARRIER_WATCH_EXPIRY (R421). -/
def execBarrierWatchExpiry (e : Fin 256) : State → Host.Outcome State Fault Refusal :=
  act (running (onWatch 4 (watchBarrier e)))

/-- QUIESCE_WATCH_EXPIRY (R424). -/
def execQuiesceWatchExpiry (b : Fin 32) : State → Host.Outcome State Fault Refusal :=
  act (running (onWatch 5 (watchQuiesce b)))

/-- CESCRUB_WATCH_EXPIRY (R421). -/
def execCescrubWatchExpiry (b : Fin 32) : State → Host.Outcome State Fault Refusal :=
  act (running (onWatch 6 (watchCeScrub b)))

/-- DRAIN_WATCH_EXPIRY (R421). -/
def execDrainWatchExpiry (page : Nat) : State → Host.Outcome State Fault Refusal :=
  act (running (onWatch 7 (watchDrain page)))

/-- CORE_WATCH_EXPIRY (R421, R429). -/
def execCoreWatchExpiry (c : Fin 4) (pc : Word) : State → Host.Outcome State Fault Refusal :=
  act (running (onWatch 8 (watchCore c pc)))

/-! ### Cores and records -/

/-- RECV_REC_POP (R428). -/
def execRecvRecPop (m : Master) (off size : Nat) : State → Host.Outcome State Fault Refusal :=
  act (regPop m 0x1B off size)

/-- RECV_KICK (R439). -/
def execRecvKick (m : Master) (c : Fin 4) (val : Word) : State → Host.Outcome State Fault Refusal :=
  act (regCmd m 0x1B (0x120 + 4 * c) val)

/-- DETAIL0 of CORE_FAULT (R427). -/
def causeCode : CoreCause → Nat
  | .fetchTrap => 1
  | .watchdog => 2
  | .illegal => 3

/-- CORE_FAULT (R429, R431). -/
def execCoreFault (c : Fin 4) (cause : CoreCause) (pc : Word) (page : Option Nat) : State → Host.Outcome State Fault Refusal :=
  act (powered (coreFaults c (causeCode cause) pc page))

/-- CORE_RESTART_COMPLETE (R429, R430). -/
def execCoreRestartComplete (c : Fin 4) (patchGood : Bool) : State → Host.Outcome State Fault Refusal :=
  act (powered (coreRestarted c patchGood))

/-- RECOVERY_NOTICE (R432). -/
def execRecoveryNotice : State → Host.Outcome State Fault Refusal :=
  act (running sendNotice)

end Sys2Proof.Machine
end

