-- ==== Sys2Proof/Machine/CmdSue.lean ====
section
/-!
DEFINITION. The meanings of the SUE and schedule engine rows.
-/

namespace Sys2Proof.Machine

/-! ### Lanes -/

/-- SUE_LANE_CMD (R348). -/
def execSueLaneCmd (m : Master) (val : Word) : State → Host.Outcome State Fault Refusal :=
  act (regCmd m 0x18 0x044 val)

/-- SUE_LANE_COMPLETE (R348). -/
def execSueLaneComplete : State → Host.Outcome State Fault Refusal :=
  act (running laneDone)

/-! ### Program operations (R358) -/

/-- WAIT (R358). -/
def execWait (b : Fin 32) (op : Nat) : State → Host.Outcome State Fault Refusal :=
  act (running (waitOp b op))

/-- SIGNAL (R358). -/
def execSignal (b : Fin 32) (op : Nat) : State → Host.Outcome State Fault Refusal :=
  act (running (signalOp b op))

/-- SEND_GRAD (R364). -/
def execSendGrad (b : Fin 32) (op : Nat) : State → Host.Outcome State Fault Refusal :=
  act (running (sendGradOp b op))

/-- REDUCE (R362). -/
def execReduce (b : Fin 32) (op : Nat) (ups : List Upset) : State → Host.Outcome State Fault Refusal :=
  act (running fun s => reduceOp b op (addUpsets ups s))

/-- PROGRAM_ARRIVE (R360). -/
def execProgramArrive (b : Fin 32) (op : Nat) : State → Host.Outcome State Fault Refusal :=
  act (running (arriveOp b op))

/-- APPLY (R365). -/
def execApply (b : Fin 32) (op : Nat) : State → Host.Outcome State Fault Refusal :=
  act (running (applyOp b op))

/-- PROGRAM_RECYCLE (R358). -/
def execProgramRecycle (b : Fin 32) (op : Nat) : State → Host.Outcome State Fault Refusal :=
  act (running (recycleOp b op))

/-- SUE_OP_COMPLETE (R361). -/
def execSueOpComplete (b : Fin 32) (op : Nat) : State → Host.Outcome State Fault Refusal :=
  act (running (completeOp b op))

/-! ### SUE commands (R369) -/

/-- LAYER_SCALE (R369). -/
def execLayerScale (c : Fin 4096) (i : Nat) : State → Host.Outcome State Fault Refusal :=
  act (running (layerScale c i))

/-- STEP_INFO (R369). -/
def execStepInfo (c : Fin 4096) (i : Nat) : State → Host.Outcome State Fault Refusal :=
  act (running (stepInfo c i))

/-! ### Schedule engines (R395) -/

/-- COMMIT (R395): SUES_ENG_CTRL with COMMIT 1 and CLEAR 0. -/
def execCommit (m : Master) (val : Word) : State → Host.Outcome State Fault Refusal :=
  act (regCmd m 0x19 0x044 (setFld val 9 8 1))

/-- CLEAR (R395): SUES_ENG_CTRL with CLEAR 1 and COMMIT 0. -/
def execClear (m : Master) (val : Word) : State → Host.Outcome State Fault Refusal :=
  act (regCmd m 0x19 0x044 (setFld val 9 8 2))

end Sys2Proof.Machine
end

