-- ==== Sys2Proof/Machine/Dispatch.lean ====
section
/-!
DEFINITION. One arm per command: its meaning, on the block and the rest of the queue.
-/

namespace Sys2Proof.Machine

def exec (i : Instr) (s : State) : Host.Outcome State Fault Refusal :=
  match i with
  | .registerWrite m off size val => Sys2Proof.Machine.execRegisterWrite m off size val s
  | .setAliasWrite m off val => Sys2Proof.Machine.execSetAliasWrite m off val s
  | .clrAliasWrite m off val => Sys2Proof.Machine.execClrAliasWrite m off val s
  | .pageErrClear m page ev => Sys2Proof.Machine.execPageErrClear m page ev s
  | .pageIrqClrWrite m page val ev => Sys2Proof.Machine.execPageIrqClrWrite m page val ev s
  | .glbTickLoRead m off size => Sys2Proof.Machine.execGlbTickLoRead m off size s
  | .unitEnable m page => Sys2Proof.Machine.execUnitEnable m page s
  | .unitDrain m page => Sys2Proof.Machine.execUnitDrain m page s
  | .unitSquash m page => Sys2Proof.Machine.execUnitSquash m page s
  | .unitDrainComplete page => Sys2Proof.Machine.execUnitDrainComplete page s
  | .unitScrubComplete page => Sys2Proof.Machine.execUnitScrubComplete page s
  | .powerOnReset => Sys2Proof.Machine.execPowerOnReset s
  | .warmReset => Sys2Proof.Machine.execWarmReset s
  | .resetRelease => Sys2Proof.Machine.execResetRelease s
  | .startComplete => Sys2Proof.Machine.execStartComplete s
  | .portReset p => Sys2Proof.Machine.execPortReset p s
  | .portResetRelease p => Sys2Proof.Machine.execPortResetRelease p s
  | .phyDown n => Sys2Proof.Machine.execPhyDown n s
  | .testInput t level => Sys2Proof.Machine.execTestInput t level s
  | .slipPfFall => Sys2Proof.Machine.execSlipPfFall s
  | .slipPulse => Sys2Proof.Machine.execSlipPulse s
  | .slipAccept => Sys2Proof.Machine.execSlipAccept s
  | .slipStopComplete => Sys2Proof.Machine.execSlipStopComplete s
  | .slipDrainComplete => Sys2Proof.Machine.execSlipDrainComplete s
  | .slipClearComplete => Sys2Proof.Machine.execSlipClearComplete s
  | .hbmFabricRequest g slice addr b tid wdata => Sys2Proof.Machine.execHbmFabricRequest g slice addr b tid wdata s
  | .hbmMcResponse g slice tid rdata poison errs => Sys2Proof.Machine.execHbmMcResponse g slice tid rdata poison errs s
  | .ceCommandIssue a => Sys2Proof.Machine.execCeCommandIssue a s
  | .ceCompletion a status ctx gen => Sys2Proof.Machine.execCeCompletion a status ctx gen s
  | .operandTransfer a b index line wdata ups => Sys2Proof.Machine.execOperandTransfer a b index line wdata ups s
  | .ceScrubAckChange a level => Sys2Proof.Machine.execCeScrubAckChange a level s
  | .wakeAckChange w level => Sys2Proof.Machine.execWakeAckChange w level s
  | .cxlDrsResponse k tag gen line poison errs => Sys2Proof.Machine.execCxlDrsResponse k tag gen line poison errs s
  | .cxlNdrResponse k tag gen => Sys2Proof.Machine.execCxlNdrResponse k tag gen s
  | .otpProgramDone readback => Sys2Proof.Machine.execOtpProgramDone readback s
  | .lcsClearComplete => Sys2Proof.Machine.execLcsClearComplete s
  | .lcsRequest m val => Sys2Proof.Machine.execLcsRequest m val s
  | .lcsNonceRead m off size => Sys2Proof.Machine.execLcsNonceRead m off size s
  | .lcsDataWrite m k val => Sys2Proof.Machine.execLcsDataWrite m k val s
  | .keyRangeCmd m val => Sys2Proof.Machine.execKeyRangeCmd m val s
  | .keyRangeComplete => Sys2Proof.Machine.execKeyRangeComplete s
  | .tideSlotStart b => Sys2Proof.Machine.execTideSlotStart b s
  | .derivationComplete kid => Sys2Proof.Machine.execDerivationComplete kid s
  | .retireDrainComplete kid => Sys2Proof.Machine.execRetireDrainComplete kid s
  | .kstgClaim m => Sys2Proof.Machine.execKstgClaim m s
  | .kstgUnwrap m => Sys2Proof.Machine.execKstgUnwrap m s
  | .kstgUnwrapComplete => Sys2Proof.Machine.execKstgUnwrapComplete s
  | .kstgVerify m => Sys2Proof.Machine.execKstgVerify m s
  | .kstgVerifyComplete => Sys2Proof.Machine.execKstgVerifyComplete s
  | .kstgCommit m => Sys2Proof.Machine.execKstgCommit m s
  | .kstgAbort m => Sys2Proof.Machine.execKstgAbort m s
  | .kstgRelease m => Sys2Proof.Machine.execKstgRelease m s
  | .kstgKeyWrite m k val => Sys2Proof.Machine.execKstgKeyWrite m k val s
  | .kstgBlobWrite m k val => Sys2Proof.Machine.execKstgBlobWrite m k val s
  | .kstgSetupWrite m r val => Sys2Proof.Machine.execKstgSetupWrite m r val s
  | .kstgIdleTimeout => Sys2Proof.Machine.execKstgIdleTimeout s
  | .gseSubmit m val => Sys2Proof.Machine.execGseSubmit m val s
  | .gseCplPop m off size => Sys2Proof.Machine.execGseCplPop m off size s
  | .sealOpen d => Sys2Proof.Machine.execSealOpen d s
  | .sealSectors d => Sys2Proof.Machine.execSealSectors d s
  | .sealClose d => Sys2Proof.Machine.execSealClose d s
  | .unsealOpen gen record => Sys2Proof.Machine.execUnsealOpen gen record s
  | .unsealSectors => Sys2Proof.Machine.execUnsealSectors s
  | .unsealClose => Sys2Proof.Machine.execUnsealClose s
  | .rewrap d gen record => Sys2Proof.Machine.execRewrap d gen record s
  | .restoreStageTimeout => Sys2Proof.Machine.execRestoreStageTimeout s
  | .gseSectorDone b k gen data err => Sys2Proof.Machine.execGseSectorDone b k gen data err s
  | .gseKeyOpComplete b => Sys2Proof.Machine.execGseKeyOpComplete b s
  | .drbgReseed healthy => Sys2Proof.Machine.execDrbgReseed healthy s
  | .roundStart n => Sys2Proof.Machine.execRoundStart n s
  | .markerReceive n words => Sys2Proof.Machine.execMarkerReceive n words s
  | .frameTransmit n slot errs ups => Sys2Proof.Machine.execFrameTransmit n slot errs ups s
  | .frameReceive n slot raw errs => Sys2Proof.Machine.execFrameReceive n slot raw errs s
  | .dataFrame n slot raw => Sys2Proof.Machine.execDataFrame n slot raw s
  | .gradFrame n slot raw => Sys2Proof.Machine.execGradFrame n slot raw s
  | .syncFrame n slot raw => Sys2Proof.Machine.execSyncFrame n slot raw s
  | .hello n slot raw => Sys2Proof.Machine.execHello n slot raw s
  | .prove n slot raw => Sys2Proof.Machine.execProve n slot raw s
  | .ack n slot raw => Sys2Proof.Machine.execAck n slot raw s
  | .nak n slot raw => Sys2Proof.Machine.execNak n slot raw s
  | .toll n slot raw => Sys2Proof.Machine.execToll n slot raw s
  | .fail n slot raw => Sys2Proof.Machine.execFail n slot raw s
  | .idle n slot raw => Sys2Proof.Machine.execIdle n slot raw s
  | .retransmitTimeout n x => Sys2Proof.Machine.execRetransmitTimeout n x s
  | .landingEnterFord n => Sys2Proof.Machine.execLandingEnterFord n s
  | .fordTimeout n => Sys2Proof.Machine.execFordTimeout n s
  | .proveTimeout n x => Sys2Proof.Machine.execProveTimeout n x s
  | .landingDrainComplete n => Sys2Proof.Machine.execLandingDrainComplete n s
  | .landingDrainTimeout n => Sys2Proof.Machine.execLandingDrainTimeout n s
  | .holdRangeCmd m val => Sys2Proof.Machine.execHoldRangeCmd m val s
  | .bankSetComplete bad => Sys2Proof.Machine.execBankSetComplete bad s
  | .holdReadResume w => Sys2Proof.Machine.execHoldReadResume w s
  | .pinWaitResume n x => Sys2Proof.Machine.execPinWaitResume n x s
  | .recycleDeferredComplete k => Sys2Proof.Machine.execRecycleDeferredComplete k s
  | .mixKeyLoaded b => Sys2Proof.Machine.execMixKeyLoaded b s
  | .mixKeyUnload b => Sys2Proof.Machine.execMixKeyUnload b s
  | .memsRegionWrite m val => Sys2Proof.Machine.execMemsRegionWrite m val s
  | .memaRegionCreate m val => Sys2Proof.Machine.execMemaRegionCreate m val s
  | .memaRegionDestroy m val => Sys2Proof.Machine.execMemaRegionDestroy m val s
  | .memaRoll m val => Sys2Proof.Machine.execMemaRoll m val s
  | .rollComplete r => Sys2Proof.Machine.execRollComplete r s
  | .memaWayCmd m val => Sys2Proof.Machine.execMemaWayCmd m val s
  | .memaWayComplete => Sys2Proof.Machine.execMemaWayComplete s
  | .debugRead m val => Sys2Proof.Machine.execDebugRead m val s
  | .queueScan c cause gen desc bad cmds => Sys2Proof.Machine.execQueueScan c cause gen desc bad cmds s
  | .commandStart c => Sys2Proof.Machine.execCommandStart c s
  | .commandRetire c k => Sys2Proof.Machine.execCommandRetire c k s
  | .nop c k => Sys2Proof.Machine.execNop c k s
  | .fenceNew c k => Sys2Proof.Machine.execFenceNew c k s
  | .fenceReset c k => Sys2Proof.Machine.execFenceReset c k s
  | .bufferNew c k => Sys2Proof.Machine.execBufferNew c k s
  | .objFree c k => Sys2Proof.Machine.execObjFree c k s
  | .objFreeDeferredComplete fence index => Sys2Proof.Machine.execObjFreeDeferredComplete fence index s
  | .recycle c k => Sys2Proof.Machine.execRecycle c k s
  | .copy c k errs ups => Sys2Proof.Machine.execCopy c k errs ups s
  | .send c k => Sys2Proof.Machine.execSend c k s
  | .create m b => Sys2Proof.Machine.execCreate m b s
  | .load m b => Sys2Proof.Machine.execLoad m b s
  | .loadComplete gen container bad => Sys2Proof.Machine.execLoadComplete gen container bad s
  | .resize m b => Sys2Proof.Machine.execResize m b s
  | .reclaim m b => Sys2Proof.Machine.execReclaim m b s
  | .sealMsExpiry b => Sys2Proof.Machine.execSealMsExpiry b s
  | .berthQuiesced b => Sys2Proof.Machine.execBerthQuiesced b s
  | .berthScrubComplete b => Sys2Proof.Machine.execBerthScrubComplete b s
  | .sliceEnd c => Sys2Proof.Machine.execSliceEnd c s
  | .contextSwapComplete c => Sys2Proof.Machine.execContextSwapComplete c s
  | .npCapExpiry c => Sys2Proof.Machine.execNpCapExpiry c s
  | .syncArm b val => Sys2Proof.Machine.execSyncArm b val s
  | .syncDisarm b val => Sys2Proof.Machine.execSyncDisarm b val s
  | .syncWireWrite m w val => Sys2Proof.Machine.execSyncWireWrite m w val s
  | .arrive n x msg => Sys2Proof.Machine.execArrive n x msg s
  | .release n x msg => Sys2Proof.Machine.execRelease n x msg s
  | .abort n x msg => Sys2Proof.Machine.execAbort n x msg s
  | .sueLaneCmd m val => Sys2Proof.Machine.execSueLaneCmd m val s
  | .sueLaneComplete => Sys2Proof.Machine.execSueLaneComplete s
  | .wait b op => Sys2Proof.Machine.execWait b op s
  | .signal b op => Sys2Proof.Machine.execSignal b op s
  | .sendGrad b op => Sys2Proof.Machine.execSendGrad b op s
  | .reduce b op ups => Sys2Proof.Machine.execReduce b op ups s
  | .programArrive b op => Sys2Proof.Machine.execProgramArrive b op s
  | .apply b op => Sys2Proof.Machine.execApply b op s
  | .programRecycle b op => Sys2Proof.Machine.execProgramRecycle b op s
  | .sueOpComplete b op => Sys2Proof.Machine.execSueOpComplete b op s
  | .layerScale c k => Sys2Proof.Machine.execLayerScale c k s
  | .stepInfo c k => Sys2Proof.Machine.execStepInfo c k s
  | .commit m val => Sys2Proof.Machine.execCommit m val s
  | .clear m val => Sys2Proof.Machine.execClear m val s
  | .patrolRead site addr flipData flipCheck => Sys2Proof.Machine.execPatrolRead site addr flipData flipCheck s
  | .eccLogPop m off size => Sys2Proof.Machine.execEccLogPop m off size s
  | .eccDmaHaltWrite m val => Sys2Proof.Machine.execEccDmaHaltWrite m val s
  | .eccRetireCmd m val => Sys2Proof.Machine.execEccRetireCmd m val s
  | .eccInjCtrl m val => Sys2Proof.Machine.execEccInjCtrl m val s
  | .eccInjComplete => Sys2Proof.Machine.execEccInjComplete s
  | .portWatchExpiry w => Sys2Proof.Machine.execPortWatchExpiry w s
  | .attachWatchExpiry a => Sys2Proof.Machine.execAttachWatchExpiry a s
  | .holdWatchExpiry w => Sys2Proof.Machine.execHoldWatchExpiry w s
  | .xingWatchExpiry n x => Sys2Proof.Machine.execXingWatchExpiry n x s
  | .barrierWatchExpiry e => Sys2Proof.Machine.execBarrierWatchExpiry e s
  | .quiesceWatchExpiry b => Sys2Proof.Machine.execQuiesceWatchExpiry b s
  | .cescrubWatchExpiry b => Sys2Proof.Machine.execCescrubWatchExpiry b s
  | .drainWatchExpiry page => Sys2Proof.Machine.execDrainWatchExpiry page s
  | .coreWatchExpiry c pc => Sys2Proof.Machine.execCoreWatchExpiry c pc s
  | .recvRecPop m off size => Sys2Proof.Machine.execRecvRecPop m off size s
  | .recvKick m c val => Sys2Proof.Machine.execRecvKick m c val s
  | .coreFault c cause pc page => Sys2Proof.Machine.execCoreFault c cause pc page s
  | .coreRestartComplete c patchGood => Sys2Proof.Machine.execCoreRestartComplete c patchGood s
  | .recoveryNotice => Sys2Proof.Machine.execRecoveryNotice s
  | .getVersion t => Sys2Proof.Machine.execGetVersion t s
  | .getCapabilities t => Sys2Proof.Machine.execGetCapabilities t s
  | .negotiateAlgorithms t offer => Sys2Proof.Machine.execNegotiateAlgorithms t offer s
  | .getDigests t => Sys2Proof.Machine.execGetDigests t s
  | .getCertificate t slot => Sys2Proof.Machine.execGetCertificate t slot s
  | .challenge t slot nonce => Sys2Proof.Machine.execChallenge t slot nonce s
  | .getMeasurements src index => Sys2Proof.Machine.execGetMeasurements src index s
  | .keyExchange t eid slot reqId point => Sys2Proof.Machine.execKeyExchange t eid slot reqId point s
  | .finish src transcript good => Sys2Proof.Machine.execFinish src transcript good s
  | .keyUpdate src => Sys2Proof.Machine.execKeyUpdate src s
  | .heartbeat src => Sys2Proof.Machine.execHeartbeat src s
  | .endSession src => Sys2Proof.Machine.execEndSession src s
  | .ideKm src stream keySet key => Sys2Proof.Machine.execIdeKm src stream keySet key s
  | .lockInterface b req => Sys2Proof.Machine.execLockInterface b req s
  | .realmAuth src h point sig => Sys2Proof.Machine.execRealmAuth src h point sig s
  | .regRead src h off count => Sys2Proof.Machine.execRegRead src h off count s
  | .regWrite src h off words => Sys2Proof.Machine.execRegWrite src h off words s
  | .enroll src h digest rights => Sys2Proof.Machine.execEnroll src h digest rights s
  | .revoke src h r => Sys2Proof.Machine.execRevoke src h r s
  | .patchBegin src h length => Sys2Proof.Machine.execPatchBegin src h length s
  | .patchData src h off image => Sys2Proof.Machine.execPatchData src h off image s
  | .patchEnd src h activate floor => Sys2Proof.Machine.execPatchEnd src h activate floor s
  | .patchActivate => Sys2Proof.Machine.execPatchActivate s
  | .denkanRewrap src h record recOff kidA kidB => Sys2Proof.Machine.execDenkanRewrap src h record recOff kidA kidB s
  | .slotBind m val => Sys2Proof.Machine.execSlotBind m val s
  | .slotRelease m val => Sys2Proof.Machine.execSlotRelease m val s
  | .dbgOpenWrite m val => Sys2Proof.Machine.execDbgOpenWrite m val s
  | .halt m val => Sys2Proof.Machine.execHalt m val s
  | .resume m val => Sys2Proof.Machine.execResume m val s
  | .step m val => Sys2Proof.Machine.execStep m val s
  | .breakpointHit c pc => Sys2Proof.Machine.execBreakpointHit c pc s
  | .dbgMemDataRead m off size => Sys2Proof.Machine.execDbgMemDataRead m off size s
  | .counterWindowEnd b => Sys2Proof.Machine.execCounterWindowEnd b s
  | .assign m val => Sys2Proof.Machine.execAssign m val s
  | .unassign m val => Sys2Proof.Machine.execUnassign m val s
  | .traceDrain b => Sys2Proof.Machine.execTraceDrain b s
  | .entdaa addr => Sys2Proof.Machine.execEntdaa addr s
  | .setdasa addr => Sys2Proof.Machine.execSetdasa addr s
  | .interfaceReport b query => Sys2Proof.Machine.execInterfaceReport b query s

end Sys2Proof.Machine
end

