-- ==== Sys2Proof/Machine/Step.lean ====
section
/-!
DEFINITION. One step: the command at the front of the queue runs on the block with the queue's rest; with nothing waiting the
timebase ticks (log entry 10).
-/

namespace Sys2Proof.Machine

/-- An empty queue: the block idles and its timebase advances by one tick (R79). -/
def idle (s : State) : State := { s with blk := { s.blk with tick := s.blk.tick + 1 } }

/-- One step of the block. -/
def step (s : State) : Host.Outcome State Fault Refusal :=
  match s.pending with
  | [] => .next (idle s)
  | c :: rest => exec c { s with pending := rest }

/-- The state with the command that a word spells put at the front of its queue; unchanged where the word spells none. -/
def State.withFetchWord (s : State) (nbits w : Nat) : State :=
  match decodeTableWord nbits w with
  | some c => { s with pending := c :: s.pending }
  | none => s

end Sys2Proof.Machine
end

