-- ==== Sys2Proof/Safety.lean ====
section
/-!
DEFINITION. What counts as a sound state and a sound run of the block, and the conditions under which the statements say that a
command has its effect, in the terms the statements use.
-/

namespace Sys2Proof

open Machine

/-- Memory of the Hold in its one canonical form: addresses strictly rising, no byte equal to what an unlisted byte reads
as, which is 0 (R223, EMPTY lines are all zeros). -/
def Memory.wf (m : List Host.Cell) : Bool := tcanon (0 : Byte) m

/-- The block's memory is in canonical form. -/
def memSound (s : State) : Prop := Memory.wf s.blk.hold.mem = true

/-- Every bit that is 1 in an OTP word of a is 1 in the same word of b. -/
def otpGrows (a b : Block) : Prop := ∀ k, otpWord a k ||| otpWord b k = otpWord b k

/-- The state with another block; the queue as it is. -/
def after (s : State) (b : Block) : State := { s with blk := b }

/-- The block runs (R52), `tst_freeze` halts nothing (R73), and no work of an earlier step waits. -/
def awake (b : Block) : Prop := b.phase = .running ∧ frozen b = false ∧ b.work = []

/-- A write of the master to the register at offset o of page p reaches it (R17), and the block is awake. -/
def writable (b : Block) (m : Master) (p o : Nat) : Prop :=
  awake b ∧ ∃ al, gate (fresh b) m (offsetFor m p o) true = .pass p o al

/-- A read of the register reaches it, and the block is awake. -/
def readable (b : Block) (m : Master) (p o : Nat) : Prop :=
  awake b ∧ gate (fresh b) m (offsetFor m p o) false = .pass p o none

/-- The command's own effect on s makes the block b; what b's work brings about in other units is then settled. -/
def begins (c : Instr) (s : State) (b : Block) : Prop := exec c s = .next (after s (settle settleFuel b))

/-- The command takes s to the block b, with nothing left to settle. -/
def becomes (c : Instr) (s : State) (b : Block) : Prop := exec c s = .next (after s b)

end Sys2Proof
end

