-- ==== Sys2Proof/Certificates/Slice0/Obligations.lean ====
section
/-!
DEFINITION. The statements for the provers. Each is named for what it states; `becomes` and `begins` (Safety.lean) say that the
command answers a next state, so every statement whose conclusion is one of them says that the command completes, and gives the
whole next block, which is the command's frame: what the expression does not change stays.
-/

open Sys2Proof Sys2Proof.Machine

/-! ### The queue -/

/-- One step takes the command in front and runs it on the block with the queue's rest. -/
def Obligations.StepRunsFrontCommand : Prop :=
  ∀ (s : State) (c : Instr) (rest : List Instr), s.pending = c :: rest → step s = exec c { s with pending := rest }

/-- Every command answers a next state with the queue as it is, from every state: none faults and none is refused. -/
def Obligations.EveryCommandAnswers : Prop :=
  ∀ (c : Instr) (s : State), ∃ b, becomes c s b

/-- With nothing waiting only the timebase moves (the model's choice, log entry 10). -/
def Obligations.EmptyQueueTicks : Prop :=
  ∀ s : State, s.pending = [] → step s = .next { s with blk := { s.blk with tick := s.blk.tick + 1 } }

/-! ### Register access -/

/-- REGISTER_WRITE, SET_ALIAS_WRITE, CLR_ALIAS_WRITE on PAGE_IRQ_EN, the control register every page has: a plain write sets its RW bits, the SET
alias at +0x800 sets the bits written 1, the CLR alias at +0xC00 clears them, and nothing else changes. -/
def Obligations.AliasWritesSetAndClear : Prop :=
  ∀ (s : State) (m : Master) (p off : Nat) (v : Word), awake s.blk → off % 4 = 0 →
    (gate (fresh s.blk) m off true = .pass p 0x01C none →
      becomes (.registerWrite m off 4 v.toNat) s (modPage (errKey m p) (fun x => { x with irqEn := v }) (fresh s.blk))) ∧
    (gate (fresh s.blk) m (off + 0x800) true = .pass p 0x01C (some true) →
      becomes (.setAliasWrite m off v) s
        (modPage (errKey m p) (fun x => { x with irqEn := (pageAt s.blk (errKey m p)).irqEn ||| v }) (fresh s.blk))) ∧
    (gate (fresh s.blk) m (off + 0xC00) true = .pass p 0x01C (some false) →
      becomes (.clrAliasWrite m off v) s
        (modPage (errKey m p) (fun x => { x with irqEn := (pageAt s.blk (errKey m p)).irqEn &&& ~~~v }) (fresh s.blk)))

/-- REGISTER_WRITE that its master's class may not make has no effect, and the page's PAGE_ERR records it; one of a size or alignment no rule
admits is ignored and recorded as DENIED; one outside the IDE stream of its function is an Unsupported Request. -/
def Obligations.RefusedWriteRecordsError : Prop :=
  ∀ (s : State) (m : Master) (off size val k : Nat) (c : Byte), awake s.blk →
    (off % 4 = 0 → gate (fresh s.blk) m off true = .refuse k c →
      becomes (.registerWrite m off 4 val) s (recordErr k c (errBerthOf m) (fresh s.blk))) ∧
    (∀ (p r : Nat) (al : Option Bool), ¬(size = 4 ∧ off % 4 = 0) → ¬(size = 8 ∧ off % 8 = 0) →
      gate (fresh s.blk) m (off / 4 * 4) true = .pass p r al →
      becomes (.registerWrite m off size val) s (recordErr (errKey m p) cDenied (errBerthOf m) (fresh s.blk))) ∧
    (off % 4 = 0 → gate (fresh s.blk) m off true = .unsupported →
      becomes (.registerWrite m off 4 val) s (emit .unsupported (fresh s.blk)))

/-- PAGE_ERR_CLEAR and PAGE_IRQ_CLR_WRITE: writing VALID clears the record; an error or an event of the same handshake stays set. GLB_TICK_LO_READ
answers the low word and latches the high word for the master. -/
def Obligations.HeaderClearsKeepNewEvents : Prop :=
  ∀ (s : State) (m : Master) (p : Nat) (v ev : Word) (e : ErrEvent), present s.blk.build p = true →
    (writable s.blk m p 0x014 → becomes (.pageErrClear m p none) s (modPage (errKey m p) clearErr (fresh s.blk))) ∧
    (writable s.blk m p 0x014 → becomes (.pageErrClear m p (some e)) s
      { modPage (errKey m p) (fun x => noteErr (code e.code) (e.berth.map Fin.val) (clearErr x)) (fresh s.blk) with
        errSeen := some (code e.code) }) ∧
    (writable s.blk m p 0x020 → becomes (.pageIrqClrWrite m p v ev) s (modPage (errKey m p)
      (fun x => { x with irqRaw := (x.irqRaw &&& ~~~(v &&& 0xFFFFFFFE)) ||| (ev &&& 0xFFFFFFFE) }) (fresh s.blk))) ∧
    (readable s.blk m 0x00 0x050 → becomes (.glbTickLoRead m 0x050 4) s
      (emit (.readData (s.blk.tick.setWidth 32)) (setLatch m 0 ((s.blk.tick >>> 32).setWidth 32) (fresh s.blk))))

/-! ### Unit enables -/

/-- UNIT_ENABLE, UNIT_DRAIN, UNIT_SQUASH through the 1 MiB window or a BERTH page's own, UNIT_DRAIN_COMPLETE and UNIT_SCRUB_COMPLETE: an OFF unit
is ON at once with OK and its generation moves on (a port generation does not); a unit that is ON drains with PENDING, or under SQUASH abandons
its work and scrubs; drained it scrubs; scrubbed it is OFF with OK, and the commands that
wait for it complete BUSY. -/
def Obligations.UnitEnableDrainSquash : Prop :=
  ∀ (s : State) (m : Master) (p : Nat) (b : Word → Block), present s.blk.build p = true → hasEnable p = true → inView m p = false → p ≠ 0x19 →
    (∀ v, b v = modPage p (fun x => { x with ctrl := (pageCtrl s.blk p &&& 0xFFFFFFFC) ||| v }) (fresh s.blk)) →
    (writable s.blk m p 0x00C → (pageAt s.blk p).unit = .off → begins (.unitEnable m p) s
      ((if p = 0x12 then portsTurn else id) (modPage p (fun x =>
        { x with unit := .on, lastStatus := cOk, gen := if portPage p then x.gen else x.gen + 1 }) (b 1)))) ∧
    (writable s.blk m p 0x00C → (pageAt s.blk p).unit = .on → shutdownHeld s.blk p = false →
      begins (.unitDrain m p) s ((if 0x40 ≤ p ∧ p < 0x80 then
          modLnd (p - 0x40) (fun l => { l with drainRound := some l.roundTx }) else id)
        (modPage p (fun x => { x with unit := .draining, lastStatus := cPending, since := now s.blk }) (b 0))) ∧
      begins (.unitSquash m p) s (setUnit p .scrubbing cPending (abandon p (b 2)))) ∧
    (awake s.blk → p < 0x40 ∨ 0x80 ≤ p → (pageAt s.blk p).unit = .draining → unitWork s.blk p = false →
      becomes (.unitDrainComplete p) s (modPage p (fun x => { x with unit := .scrubbing }) s.blk)) ∧
    (awake s.blk → (pageAt s.blk p).unit = .scrubbing → begins (.unitScrubComplete p) s
      ((if p = 0x12 then portsTurn else id) (refuseWaiting p (shutdownGen p (setUnit p .off cOk (clearUnit p s.blk))))))

/-- Clearing PAGE_CTRL.ENABLE of the sealing engine while any session is SEALING or UNSEALING is refused: ENABLE stays 1, the unit stays ON and
LAST_STATUS reads BUSY; with no such session the unit drains and LAST_STATUS reads PENDING, as any other unit. -/
def Obligations.SealingSessionHoldsTheEngineOn : Prop :=
  ∀ (s : State) (m : Master), writable s.blk m 0x04 0x00C → (pageAt s.blk 0x04).unit = .on → inView m 0x04 = false →
    ((∃ e ∈ s.blk.gse.sess, e.2.st = .sealSt ∨ e.2.st = .unsealSt) → ∃ b, becomes (.unitDrain m 0x04) s b ∧
      (pageAt b 0x04).unit = .on ∧ (pageCtrl b 0x04).getLsbD 0 = true ∧ (pageAt b 0x04).lastStatus = cBusy ∧
      b = { fresh s.blk with pages := b.pages }) ∧
    ((∀ e ∈ s.blk.gse.sess, e.2.st ≠ .sealSt ∧ e.2.st ≠ .unsealSt) → ∃ b, becomes (.unitDrain m 0x04) s b ∧
      (pageAt b 0x04).unit = .draining ∧ (pageAt b 0x04).lastStatus = cPending ∧ b = { fresh s.blk with pages := b.pages })
/-! ### Resets, start and ports -/

/-- POWER_ON_RESET loses everything but OTP: every register, key, berth, line and record is at its reset value; OTP holds what it held (a word
under way may hold more, and none when none is under way). Of the inputs only their levels outlive it. -/
def Obligations.PowerOnResetKeepsOnlyOtp : Prop :=
  ∀ (s : State) (b : Block), b = inputLevels (tornWord s.blk) → becomes .powerOnReset s b ∧ otpGrows s.blk b ∧
    (s.blk.otpRuns = [] → b.otp = s.blk.otp) ∧
    b.build = s.blk.build ∧ b.phase = .inReset ∧ b.tick = 0 ∧ b.pages = [] ∧ b.regs = [] ∧ b.latches = [] ∧ b.lcs = {} ∧ b.keys = {} ∧
    b.kstg = {} ∧ b.gse = {} ∧ b.xings = [] ∧ b.hold = {} ∧ b.mems = {} ∧ b.objs = [] ∧ b.fences = [] ∧ b.ctxs = [] ∧ b.berths = [] ∧
    b.sue = {} ∧ b.ecc = {} ∧ b.recv = {} ∧ b.sess = [] ∧ b.dbg = {} ∧ b.trc = {} ∧ b.mgmt = {} ∧ b.slip = {}

/-- WARM_RESET, while no life-cycle word is being programmed and no power failure is accepted, keeps OTP, the ECC log with its counters, the patch
store and one recovery record, that of this reset; the generation of every page moves on by one; keys, berths, contexts, lines and sessions are
lost. While a life-cycle word is being programmed it waits. -/
def Obligations.WarmResetKeepsLogAndMovesGenerations : Prop :=
  ∀ s : State, s.blk.porN = true → s.blk.slip.st = .idle →
    (wordBusy s.blk = false → ∃ b, becomes .warmReset s b ∧
      b.phase = .inReset ∧ otpGrows s.blk b ∧ (s.blk.otpRuns = [] → b.otp = s.blk.otp) ∧ b.build = s.blk.build ∧
      b.ecc.log = s.blk.ecc.log ∧ b.ecc.ce = s.blk.ecc.ce ∧ b.ecc.ue = s.blk.ecc.ue ∧ b.mgmt.store = s.blk.mgmt.store ∧
      b.recv.ring.length = 1 ∧ b.regs = [] ∧ b.keys = {} ∧ b.hold = {} ∧ b.berths = [] ∧ b.ctxs = [] ∧ b.objs = [] ∧
      b.fences = [] ∧ b.sess = [] ∧ (∀ p ∈ mapPages, (pageAt b p).gen = (pageAt s.blk p).gen + 1)) ∧
    (wordBusy s.blk = true → s.blk.work = [] →
      becomes .warmReset s { s.blk with slip := { s.blk.slip with warm := true, warmGone := false } })

/-- RESET_RELEASE starts the ROM: the block is what the ROM reads from OTP, in start. -/
def Obligations.ResetReleaseStartsRom : Prop :=
  ∀ s : State, s.blk.phase = .inReset → s.blk.slip.st = .idle → s.blk.slip.warm = false →
    begins .resetRelease s { startRead s.blk with phase := .starting, porN := true }

/-- START_COMPLETE publishes the window: when `cdc_ready` rises, every present unit with a unit enable reads ON and LAST_STATUS OK, and no
generation moves; a move that a reset broke off goes on. -/
def Obligations.StartCompleteEnablesEveryUnit : Prop :=
  ∀ (s : State) (b : Block), s.blk.phase = .starting →
    b = enableUnits { s.blk with phase := .running, pins := { s.blk.pins with cdcReady := true } } →
    begins .startComplete s (resumeMove otpFollow
      (testEntry (s.blk.pins.tstScanEn || s.blk.pins.tstFreeze || s.blk.pins.tstMbist) b)) ∧
    b.phase = .running ∧ b.pins.cdcReady = true ∧
    (∀ p ∈ mapPages, hasEnable p = true → present s.blk.build p = true →
      (pageAt b p).unit = .on ∧ (pageAt b p).lastStatus = cOk ∧ (pageAt b p).gen = (pageAt s.blk p).gen) ∧
    b.otp = s.blk.otp ∧ b.keys = s.blk.keys ∧ b.lcs = s.blk.lcs ∧ b.regs = s.blk.regs ∧ b.hold = s.blk.hold

/-- PORT_RESET of each kind of port and PHY_DOWN, while no sealing is under way: the port is held in reset and its record and generation are
written; a Landing's phy falling is its port reset; PORT_RESET of a port already in reset does nothing. -/
def portResets : Prop :=
  ∀ (s : State), awake s.blk → s.blk.slip.st = .idle → s.blk.slip.resets = [] →
    (∀ n : Fin 64, n.val < s.blk.build.landings → (lndAt s.blk n).inRst = false →
      begins (.portReset (.landing n)) s (resetLanding n (modLnd n (fun l => { l with inRst := true }) s.blk))) ∧
    (∀ k : Fin 4, k.val < s.blk.build.memaPorts → s.blk.build.hostPort ≠ some k.val → (portAt s.blk k).inRst = false →
      begins (.portReset (.engineA k)) s (enginePortDown k s.blk)) ∧
    (∀ a : Fin 16, a.val < s.blk.build.attach → (attAt s.blk a).inRst = false →
      begins (.portReset (.attach a)) s (resetAttach a false s.blk)) ∧
    (s.blk.pins.hifUp = true → begins (.portReset .hif) s (hifDown s.blk)) ∧
    (∀ n : Fin 64, n.val < s.blk.build.landings → (lndAt s.blk n).phyUp = true →
      begins (.phyDown n) s (resetLanding n (modLnd n (fun l => { l with phyUp := false }) s.blk))) ∧
    (∀ k : Fin 4, (portAt s.blk k).inRst = true → becomes (.portReset (.engineA k)) s s.blk)

/-- An engine A port's reset moves its generation on and holds the port in reset; every transaction on it is to be sent again. -/
def enginePortResetMovesGeneration : Prop :=
  ∀ (b : Block) (k : Nat), (portAt (enginePortDown k b) k).inRst = true ∧
    (portAt (enginePortDown k b) k).gen = (portAt b k).gen + 1 ∧
    (∀ j, j ≠ k → portAt (enginePortDown k b) j = portAt b j) ∧
    (∀ x ∈ (enginePortDown k b).mema.reads, x.port = k → x.sent = false) ∧
    (enginePortDown k b).hold = b.hold ∧ (enginePortDown k b).keys = b.keys

/-- PORT_RESET_RELEASE: the port's input is high again. -/
def portResetReleases : Prop :=
  ∀ (s : State), awake s.blk → s.blk.slip.resets = [] →
    (∀ n : Fin 64, becomes (.portResetRelease (.landing n)) s (modLnd n (fun l => { l with inRst := false }) s.blk)) ∧
    (∀ a : Fin 16, (attAt s.blk a).inRst = true →
      becomes (.portResetRelease (.attach a)) s (raise 0x14 2 (modAtt a (fun t => { t with inRst := false }) s.blk))) ∧
    (∀ k : Fin 4, s.blk.build.hostPort ≠ some k.val → begins (.portResetRelease (.engineA k)) s (portReturn k s.blk)) ∧
    (s.blk.pins.hifUp = false → begins (.portResetRelease .hif) s (hifReturn s.blk))

/-- Port resets: what each loses, that an engine A port's generation moves on, and what its release starts. -/
def Obligations.PortsResetAndReturn : Prop :=
  portResets ∧ enginePortResetMovesGeneration ∧ portResetReleases

/-- TEST_INPUT: the input takes the level; in a state other than BLANK, MANUFACTURED and ANALYSIS a rise is recorded as LIFECYCLE in the GLB page.
-/
def Obligations.TestInputsOnlyInTestStates : Prop :=
  ∀ (s : State) (t : TestPin) (level : Bool), s.blk.phase = .running → s.blk.work = [] →
    becomes (.testInput t level) s
      (if level = true ∧ pinOf t s.blk.pins = false ∧ testState s.blk = false then
        recordErr 0x00 cLifecycle none { s.blk with pins := setPin t level s.blk.pins }
       else { s.blk with pins := setPin t level s.blk.pins })

/-! ### The Slipway -/

/-- SLIP_PF_FALL, SLIP_PULSE, SLIP_ACCEPT, SLIP_STOP_COMPLETE, SLIP_DRAIN_COMPLETE and SLIP_CLEAR_COMPLETE, in their order: the pin falls; a short
pulse is counted and raises PULSE; an accepted failure latches its registers, raises ACCEPTED and drives `slip_busy`; the plan chooses the berths,
and with none the sealing ends at once; the drain ends when no write waits; the clear loses the lines and the keys and leaves the block inactive
with `slip_done`. -/
def slipwayRows : Prop :=
  ∀ (s : State), awake s.blk →
    becomes .slipPfFall s { s.blk with pins := { s.blk.pins with slipPf := false } } ∧
    (s.blk.pins.slipPf = false → s.blk.slip.st = .idle → s.blk.porN = true → becomes .slipPulse s
      (raise 0x1C 1 (modSlip (fun x => { x with pulses := inc32 x.pulses }) { s.blk with pins := { s.blk.pins with slipPf := true } }))) ∧
    (∀ b, s.blk.pins.slipPf = false → s.blk.slip.st = .idle → s.blk.porN = true →
      b = { stopAdmission s.blk with pins := { (stopAdmission s.blk).pins with slipBusy := true } } →
      begins .slipAccept s (raise 0x1C 2 (modSlip (fun x => { x with
        st := .stopping, cores := fld (reg b 0x1C044) 6 0, en := reg b 0x1C048, budget := fld (reg b 0x1C04C) 24 0, tick := now b }) b))) ∧
    (∀ q k, s.blk.slip.st = .stopping → s.blk.lcs.move = none → slipPlan s.blk s.blk.slip.en s.blk.slip.budget = (q, k) →
      (q ≠ [] → becomes .slipStopComplete s (modSlip (fun x => { x with st := .sealSt, queue := q, skipped := k }) s.blk)) ∧
      (q = [] → begins .slipStopComplete s
        (sealingEnds (modSlip (fun x => { x with st := .sealSt, queue := [], skipped := k }) s.blk)))) ∧
    (s.blk.slip.st = .draining → s.blk.mema.writes = [] →
      becomes .slipDrainComplete s (modSlip (fun x => { x with st := .clearing }) s.blk)) ∧
    (s.blk.slip.st = .clearing → wordBusy s.blk = false → (∀ e ∈ s.blk.berths, e.2.st ≠ .scrubSt) → ∃ b, becomes .slipClearComplete s b ∧
      b.phase = .inactive ∧ b.slip.st = .done ∧ b.pins.slipDone = true ∧ b.pins.slipBusy = false ∧ b.hold.mem = [] ∧
      b.keys.cache = [] ∧ b.keys.root = none ∧ b.otp = s.blk.otp ∧ b.regs = s.blk.regs)

/-- The plan of the Slipway stays in its budget: the sectors of the berths it chooses are no more than the budget, and it chooses only eligible
berths, each once, in ascending order. -/
def slipwayPlanStaysInBudget : Prop :=
  ∀ (b : Block) (en : Word) (budget : Nat),
    ((slipPlan b en budget).1.map (slipCost b)).sum ≤ budget ∧
    (∀ w ∈ (slipPlan b en budget).1, w < 32 ∧ slipEligible b en w = true) ∧
    (slipPlan b en budget).1.Pairwise (· < ·)

/-- The Slipway's rows act as its table gives them, and the plan it computes stays in its budget. -/
def Obligations.SlipwayFollowsItsPlan : Prop :=
  slipwayRows ∧ slipwayPlanStaysInBudget

/-! ### Life cycle and OTP -/

/-- LCS_NONCE_READ draws a fresh nonce and answers its low word; LCS_DATA_WRITE in BLANK keeps the word. The nonce is a free value. -/
def lcsNonceAndData : Prop :=
  ∀ (s : State) (m : Master),
    (readable s.blk m 0x01 0x060 → becomes (.lcsNonceRead m 0x060 4) s
      (emit (.readData ((Config.draw s.blk.draws).setWidth 128 |>.setWidth 32))
        { fresh s.blk with draws := s.blk.draws + 1,
                           lcs := { s.blk.lcs with nonce := (Config.draw s.blk.draws).setWidth 128, nonceOk := true } })) ∧
    (∀ (i : Fin 8) (v : Word), writable s.blk m 0x01 (0x0A0 + 4 * i) → s.blk.lcs.st = .blank →
      becomes (.lcsDataWrite m i v) s { fresh s.blk with lcs := { s.blk.lcs with data := tset 0 s.blk.lcs.data i v } })

/-- LCS_REQUEST with GO: an accepted request starts a move from the present state to the target and its progress record; the nonce and the token
are used up whether it is accepted or not; a refused request leaves its code in LCS_RES and raises DONE. -/
def lcsRequestStartsMove : Prop :=
  ∀ (s : State) (m : Master) (v : Word), writable s.blk m 0x01 0x070 → v.getLsbD 31 = true →
    begins (.lcsRequest m v) s (otpAdvance 16 otpFollow (lcsRequest m v (fresh s.blk))) ∧
    (lcsRequest m v (fresh s.blk)).lcs.nonceOk = false ∧ (lcsRequest m v (fresh s.blk)).lcs.token = [] ∧
    (lcsRequest m v (fresh s.blk)).lcs.res = lcsCheck s.blk m (fld v 2 0) ∧
    (lcsRequest m v (fresh s.blk)).otp = s.blk.otp ∧ (lcsRequest m v (fresh s.blk)).lcs.st = s.blk.lcs.st ∧
    (lcsCheck s.blk m (fld v 2 0) = cPending → ∃ mv, (lcsRequest m v (fresh s.blk)).lcs.move = some mv ∧
      mv.source = s.blk.lcs.st ∧ lcOfNum (fld v 2 0) = some mv.target) ∧
    (lcsCheck s.blk m (fld v 2 0) ≠ cPending → (lcsRequest m v (fresh s.blk)).lcs.move = s.blk.lcs.move)

/-- The life-cycle unit: its nonce and data registers, and the requests that start a move. -/
def Obligations.LifeCycleRequests : Prop :=
  lcsNonceAndData ∧ lcsRequestStartsMove

/-- OTP_PROGRAM_DONE and LCS_CLEAR_COMPLETE: the word under way holds what it held and what the read back shows, and no bit of any other word
changes; the clear of a move loses every line, key and cached node before its first nibble. -/
def Obligations.OtpWordAndClear : Prop :=
  ∀ (s : State), frozen s.blk = false →
    (∀ (rb : BitVec 39), begins (.otpProgramDone rb) s (afterWord otpFollow (otpDone rb otpFails s.blk))) ∧
    (∀ (b : Block) (r : OtpRun) (rs : List OtpRun) (a : Nat) (w : BitVec 39) (ws : List (Nat × BitVec 39)),
      b.otpRuns = r :: rs → r.words = (a, w) :: ws → r.busy = true →
      (otpDone (otpWord b a ||| w) otpFails b).otpRuns = { r with words := ws, tries := 0, busy := false } :: rs ∧
      otpGrows b (otpDone (otpWord b a ||| w) otpFails b) ∧
      (∀ k, k ≠ a → otpWord (otpDone (otpWord b a ||| w) otpFails b) k = otpWord b k) ∧
      otpWord (otpDone (otpWord b a ||| w) otpFails b) a = otpWord b a ||| w) ∧
    (∀ mv, s.blk.phase = .running → s.blk.slip.st = .idle → s.blk.lcs.move = some mv → mv.clearing = true →
      begins .lcsClearComplete s (settleMove (otpAdvance 16 otpFollow
        (startStep { lcsClear s.blk with lcs := { s.blk.lcs with move := some { mv with clearing := false } } })))) ∧
    (lcsClear s.blk).hold.mem = [] ∧ (lcsClear s.blk).keys.cache = [] ∧ (lcsClear s.blk).keys.root = none

/-! ### Keys -/

/-- KEY_RANGE_CMD and KEY_RANGE_COMPLETE: a command is taken while none runs; a good one gives the berth its range and frees the entries that
change hands, and its end writes STATUS and raises RANGE_DONE. -/
def keyRangeCommand : Prop :=
  ∀ (s : State) (m : Master) (v : Word),
    (writable s.blk m 0x02 0x054 → v.getLsbD 31 = true → s.blk.keys.cmd = none →
      becomes (.keyRangeCmd m v) s { fresh s.blk with keys := { s.blk.keys with
        cmd := some { base := fld v 10 0, count := fld v 21 11, berth := fld v 26 22
                      code := keyRangeCheck s.blk (fld v 10 0) (fld v 21 11) (fld v 26 22) } } }) ∧
    (∀ c, awake s.blk → s.blk.keys.cmd = some c → c.code ≠ cOk →
      becomes .keyRangeComplete s (raise 0x02 1 { s.blk with keys := { s.blk.keys with cmd := none, status := c.code } })) ∧
    (∀ c, awake s.blk → s.blk.keys.cmd = some c → c.code = cOk →
      (∀ e ∈ s.blk.keys.cache, e.2.st ≠ .free → inKeyRange s.blk c.berth e.1 = true → c.base ≤ e.1 ∧ e.1 < c.base + c.count) →
      ∃ b, becomes .keyRangeComplete s b ∧ b.keys.cmd = none ∧ b.keys.status = cOk ∧
      b.keys.ranges = tset (0, 0) s.blk.keys.ranges c.berth (if c.count = 0 then (0, 0) else (c.base, c.count)) ∧
      b.otp = s.blk.otp ∧ b.regs = s.blk.regs ∧ b.berths = s.blk.berths ∧ b.hold = s.blk.hold)

/-- DERIVATION_COMPLETE, RETIRE_DRAIN_COMPLETE and TIDE_SLOT_START: a derivation makes its entry LIVE with the KDF of its parent's value, one that
repeats a lost entry's gives the same value; a retiring entry that nothing uses is freed with its EPOCH moved on; a slot that is due begins. -/
def keySchedule : Prop :=
  ∀ (s : State), awake s.blk →
    (∀ (k : Fin 2048) (p : BitVec 256), s.blk.keys.engine.find? (fun r => r.1 = k.val) = some (k.val, p) →
      begins (.derivationComplete k) s (fillEngine (makeLive k
        (if (keyAt s.blk k).again then (keyAt s.blk k).key else kdf p (keyLabel (keyAt s.blk k).purpose k) (keyAt s.blk k).ctx)
        (leaveEngine k s.blk)))) ∧
    (∀ (k : Fin 2048), (keyAt s.blk k).st = .retiring → keyInUse s.blk k = false →
      begins (.retireDrainComplete k) s (later (.keyFree k) (modKey k (fun _ => { epoch := (keyAt s.blk k).epoch + 1 }) s.blk))) ∧
    (∀ (w : Fin 32) (t : Tide), s.blk.slip.st = .idle → tideOf s.blk w = some t → (berthAt s.blk w).st = .running →
      (berthAt s.blk w).loadTick + (berthAt s.blk w).slot * t.ticks ≤ now s.blk →
      begins (.tideSlotStart w) s (slotActions w (berthAt s.blk w).slot (modBerth w (fun x => { x with slot := x.slot + 1 }) s.blk)))

/-- Key ranges are given and taken by commands, and keys become live and leave by the schedule. -/
def Obligations.KeyRangesAndSchedule : Prop :=
  keyRangeCommand ∧ keySchedule

/-! ### KEY_STAGE -/

/-- KSTG_CLAIM of an idle stage makes the claimer its holder; the holder's KSTG_ABORT empties the stage and KSTG_RELEASE gives it up; a master
that does not hold it is recorded as DENIED and changes nothing else. -/
def Obligations.StageClaimAbortRelease : Prop :=
  ∀ (s : State) (m : Master), writable s.blk m 0x03 0x040 →
    (∀ h, holderOf m = some h → s.blk.kstg.st = 0 → becomes (.kstgClaim m) s
      (modKstg (fun k => { clearStage k with st := 1, holder := h, last := cOk, tick := now s.blk }) (fresh s.blk))) ∧
    (isHolder s.blk m = true → stageRuns s.blk = false → becomes (.kstgAbort m) s
      (modKstg (fun k => { clearStage k with st := 1, last := cOk }) (touchStage m (fresh s.blk)))) ∧
    (isHolder s.blk m = true → stageRuns s.blk = false → begins (.kstgRelease m) s
      (stageIdle (setLast cOk (touchStage m (fresh s.blk))))) ∧
    (isHolder s.blk m = false → becomes (.kstgAbort m) s (recordErr 0x03 cDenied none (fresh s.blk)) ∧
      becomes (.kstgCommit m) s (recordErr 0x03 cDenied none (fresh s.blk)))

/-- KSTG_UNWRAP, KSTG_VERIFY, KSTG_COMMIT of the holder, where the stage is in the state each needs: UNWRAP and VERIFY start; COMMIT of a record
that passes every check imports the key, of the firmware or of an owner, whose berth's last one lets its first derivations start, and leaves the
stage empty with OK and raises its interrupt. -/
def Obligations.StageUnwrapVerifyCommit : Prop :=
  ∀ (s : State) (m : Master) (b : Block), writable s.blk m 0x03 0x040 → isHolder s.blk m = true → stageRuns s.blk = false →
    b = touchStage m (fresh s.blk) →
    (s.blk.kstg.st = 1 → kstgForm s.blk = true → s.blk.kstg.blobSet = 0x3FF → wrapAdmitted s.blk = true →
      becomes (.kstgUnwrap m) s (modKstg (fun k => { k with run := some .unwrap, last := cBusy }) b)) ∧
    (s.blk.kstg.st = 2 → becomes (.kstgVerify m) s (modKstg (fun k => { k with run := some .verify, last := cBusy }) b)) ∧
    (s.blk.kstg.st = 3 → importState s.blk = cOk → importBerth s.blk = cOk → importTarget s.blk = cOk →
      (firmwareRecord s.blk = true → begins (.kstgCommit m) s (raise 0x03 1 (modKstg (fun k => { clearStage k with st := 1, last := cOk })
        (importKey (kstgKid s.blk) (kstgPurpose s.blk) (kstgOwner s.blk) none (stagedKey s.blk.kstg) b)))) ∧
      (firmwareRecord s.blk = false → begins (.kstgCommit m) s (raise 0x03 1 (modKstg (fun k => { clearStage k with st := 1, last := cOk })
        (later (.berthCheck (kstgBerth s.blk)) ((if allCommitted s.blk (kstgBerth s.blk) then id else deriveFirst (kstgBerth s.blk))
          (importKey (kstgKid s.blk) (kstgPurpose s.blk) (kstgOwner s.blk) (some (kstgBerth s.blk)) (stagedKey s.blk.kstg) b)))))))

/-- KSTG_UNWRAP_COMPLETE, KSTG_VERIFY_COMPLETE and KSTG_IDLE_TIMEOUT: a good unwrap leaves the key in the stage, a bad one TAG_FAIL and nothing; a
good verification leaves the stage verified; a stage its holder has not touched for 100 ms is emptied. -/
def stageEngineEnds : Prop :=
  ∀ (s : State), awake s.blk →
    (s.blk.kstg.run = some .unwrap → s.blk.kstg.rest = none → ∀ w, startedKey s.blk (kstgWrapKid s.blk) = some w →
      (∀ key, kwUnwrap (keyBytes w) (blobBytes s.blk.kstg) = some key → becomes .kstgUnwrapComplete s
        (raise 0x03 1 (modKstg (fun k => { k with st := 2, run := none, key := keyWords key, keySet := 0xFF, last := cOk }) s.blk))) ∧
      (kwUnwrap (keyBytes w) (blobBytes s.blk.kstg) = none → becomes .kstgUnwrapComplete s
        (raise 0x03 1 (modKstg (fun k => { clearStage k with st := 1, last := cTagFail }) s.blk)))) ∧
    (s.blk.kstg.run = some .verify → s.blk.kstg.rest = none → importState s.blk = cOk → importBerth s.blk = cOk →
      importHolder s.blk = cOk → importTarget s.blk = cOk → importKcv s.blk = cOk →
      becomes .kstgVerifyComplete s (raise 0x03 1 (modKstg (fun k => { k with st := 3, run := none, last := cOk }) s.blk))) ∧
    (s.blk.kstg.st ≠ 0 → s.blk.kstg.tick + msTicks s.blk 100 ≤ now s.blk → begins .kstgIdleTimeout s (stageIdle s.blk)) ∧
    ((stageIdle s.blk).kstg.st = 0 ∧ (stageIdle s.blk).kstg.key = [] ∧ (stageIdle s.blk).kstg.blob = [] ∧ (stageIdle s.blk).kstg.keySet = 0)

/-- KSTG_KEY_WRITE, KSTG_BLOB_WRITE and KSTG_SETUP_WRITE of the holder: the word is kept, and a verified stage has to be verified again. -/
def stageWrites : Prop :=
  ∀ (s : State) (m : Master) (v : Word), isHolder s.blk m = true → stageRuns s.blk = false →
    (∀ i : Fin 8, writable s.blk m 0x03 (0x060 + 4 * i) → ∃ b, becomes (.kstgKeyWrite m i v) s b ∧
      b.kstg.key = tset 0 s.blk.kstg.key i v ∧ b.kstg.keySet = s.blk.kstg.keySet ||| 1 <<< i.val ∧ b.kstg.st ≠ 3 ∧
      b = { fresh s.blk with kstg := b.kstg }) ∧
    (∀ i : Fin 10, writable s.blk m 0x03 (0x080 + 4 * i) → ∃ b, becomes (.kstgBlobWrite m i v) s b ∧
      b.kstg.blob = tset 0 s.blk.kstg.blob i v ∧ b.kstg.blobSet = s.blk.kstg.blobSet ||| 1 <<< i.val ∧ b.kstg.st ≠ 3 ∧
      b = { fresh s.blk with kstg := b.kstg }) ∧
    (∀ r : StageReg, writable s.blk m 0x03 (stageRegAddr r - 0x03000) → ∃ b, becomes (.kstgSetupWrite m r v) s b ∧
      b.regs = tset 0 s.blk.regs (stageRegAddr r) v ∧ b.kstg.st ≠ 3 ∧ b = { fresh s.blk with kstg := b.kstg, regs := b.regs })

/-- The key stage: what its engines' ends leave, and what its written words do. -/
def Obligations.StageEndsAndWrites : Prop :=
  stageEngineEnds ∧ stageWrites

/-! ### The General Symmetric Engine -/

/-- GSE_SUBMIT queues the staged descriptor and empties the stage; GSE_CPL_POP answers the oldest completion and takes it off the queue;
DRBG_RESEED, due after 2^20 generate requests, counts a healthy reseed, and a failure is counted. -/
def Obligations.GseQueues : Prop :=
  ∀ (s : State) (m : Master),
    (∀ v : Word, writable s.blk m 0x04 0x0C0 → v.getLsbD 0 = true → s.blk.gse.drbgFail = false → s.blk.gse.opq.length < 8 →
      s.blk.slip.st = .idle → ∃ c : GseCmd,
      c.d = parseGse (((tgets 0 s.blk.gse.desc 0 16).map fun w => leBytes 4 w.toNat).flatten) ∧ c.fw = false ∧
      begins (.gseSubmit m v) s (gsePump (modGse (fun g => { g with opq := g.opq ++ [c], desc := [], submitRes := cOk }) (fresh s.blk)))) ∧
    (∀ e es, readable s.blk m 0x04 0x0C8 → s.blk.gse.cplq = e :: es → begins (.gseCplPop m 0x0C8 4) s
      (emit (.readData (BitVec.ofNat 32 (2 ^ 31 + e.code.toNat + 256 * e.op + 4096 * e.berth)))
        (gsePump (modGse (fun g => { g with cplq := es ++ g.held.take 1, held := g.held.drop 1, lastTag := e.tag }) (fresh s.blk))))) ∧
    (awake s.blk → s.blk.gse.drbgFail = false → 2 ^ 20 ≤ s.blk.gse.drbgUses →
      becomes (.drbgReseed true) s (modGse (fun g => { g with reseeds := inc32 g.reseeds, drbgUses := 0, drbgTries := 0 }) s.blk) ∧
      (s.blk.gse.drbgTries + 1 < 16 →
        becomes (.drbgReseed false) s (modGse (fun g => { g with drbgTries := g.drbgTries + 1 }) s.blk)))

/-- SEAL_OPEN, SEAL and SEAL_CLOSE: a sealing command that passes its checks is queued as a key operation, or its sectors start. -/
def sealCommandsStart : Prop :=
  ∀ (s : State) (d : GseDesc), awake s.blk → gseMayStart s.blk = true → gseBusy s.blk d.berth = false → d.clean = true →
    (berthAt s.blk d.berth).st = .sealSt → sealReady s.blk d.berth = true → maskedCode s.blk d = cOk →
    (d.op = .sealOpen → (wrapKey s.blk d.berth).isSome = true → (sessAt s.blk d.berth).st = .none → (ckptKid s.blk d.berth).isSome = true →
      (rawTarget s.blk d.berth d.record d.recOff 192).1 = cOk →
      begins (.sealOpen d) s (queueKeyOp (fwSubmit d s.blk) (fwRead d.berth s.blk))) ∧
    (d.op = .sealRun → (berthAt s.blk d.berth).sealOver = false → sectorCheck (fwRead d.berth s.blk) d .sealSt true = cOk →
      ckptServes s.blk d.berth = true → begins (.sealSectors d) s
        (fillCores 64 (modGse (fun g => { g with run := g.run ++ [fwSubmit d s.blk] }) (fwRead d.berth s.blk)))) ∧
    (d.op = .sealClose → (sessAt s.blk d.berth).st = .sealSt → (rawTarget s.blk d.berth d.record d.recOff 192).1 = cOk →
      begins (.sealClose d) s (queueKeyOp (fwSubmit d s.blk) (fwRead d.berth s.blk)))

/-- UNSEAL_OPEN, UNSEAL and UNSEAL_CLOSE: the command at the head of its berth's queue that passes its checks is taken off the queue and starts:
an UNSEAL_OPEN reads its record. -/
def unsealCommandsStart : Prop :=
  ∀ (s : State) (c : GseCmd) (b : Block), awake s.blk → gseMayStart s.blk = true → s.blk.slip.st = .idle →
    s.blk.gse.cplq.length < 8 → b = modGse (fun g => { g with opq := g.opq.erase c }) s.blk →
    (∀ (gen : BitVec 12) (r : Bytes),
      (s.blk.gse.opq.find? fun c => c.d.clean && c.d.op = .unsealOpen && gseFirst s.blk c) = some c →
      (s.blk.gse.keyOps.find? fun c => c.reading && c.d.op = .unsealOpen && isWindow s.blk (fld c.d.record 15 0)) = none →
      (sessAt s.blk c.d.berth).st = .none → (berthAt s.blk c.d.berth).st = .joined → (tideOf s.blk c.d.berth).any Tide.restore = true →
      (ckptKid s.blk c.d.berth).isSome = true → (rawTarget s.blk c.d.berth c.d.record c.d.recOff 192).1 = cOk →
      begins (.unsealOpen gen r) s (gsePump (readRecord c b))) ∧
    ((s.blk.gse.opq.find? fun c => c.d.clean && c.d.op = .unsealRun && gseFirst s.blk c) = some c →
      sectorCheck b c.d .unsealSt true = cOk → ckptServes s.blk c.d.berth = true →
      begins .unsealSectors s (gsePump (fillCores 64 (modGse (fun g => { g with run := g.run ++ [c] }) b)))) ∧
    ((s.blk.gse.opq.find? fun c => c.d.clean && c.d.op = .unsealClose && gseFirst s.blk c) = some c → maskedCode s.blk c.d = cOk →
      (sessAt s.blk c.d.berth).st = .unsealSt → (sessAt s.blk c.d.berth).total ≤ (sessAt s.blk c.d.berth).next →
      (rawTarget s.blk c.d.berth c.d.record c.d.recOff 192).1 = cOk →
      begins .unsealClose s (gsePump (queueKeyOp c b)))

/-- The commands of the sealing engine start their work. -/
def Obligations.SealAndUnsealStart : Prop :=
  sealCommandsStart ∧ unsealCommandsStart

/-- REWRAP, GSE_SECTOR_DONE, GSE_KEY_OP_COMPLETE and RESTORE_STAGE_TIMEOUT: a queued rewrap that passes its checks reads its record; a sector of a
sealing command whose lines have arrived is encrypted under the checkpoint pair, digested and on its way to the buffer; a finished key operation
acts; a restore that waited 100 ms for the stage completes BUSY. -/
def Obligations.GseWorkEnds : Prop :=
  ∀ (s : State) (w : Fin 32) (c : GseCmd), awake s.blk →
    (∀ (gen : BitVec 12) (d : GseDesc) (r : Bytes) (b : Block), d.op = .rewrap → gseMayStart s.blk = true → s.blk.slip.st = .idle →
      recReader s.blk d.berth = none → c.d = d → c ∈ s.blk.gse.fwq → (∀ x ∈ s.blk.gse.fwq, x = c) → d.recOff % 64 = 0 →
      (keyAt s.blk d.kidA).purpose = 6 → (keyAt s.blk d.kidB).purpose = 6 →
      (cipherKey s.blk d.berth d.kidA).isSome = true → (cipherKey s.blk d.berth d.kidB).isSome = true →
      (rawTarget s.blk d.berth d.record d.recOff 192).1 = cOk →
      b = fwRead d.berth (modGse (fun g => { g with fwq := g.fwq.erase c }) s.blk) → begins (.rewrap d gen r) s (readRecord c b)) ∧
    (∀ (sec : GseSec) (gen : BitVec 12) (i k o off : Nat) (a t : BitVec 256) (data ct : Bytes) (b : Block),
      (s.blk.gse.secs.find? fun x => x.berth = w.val && x.sector = i && !x.out) = some sec → sec.berth = w.val → sec.sector = i →
      runOf s.blk w = some c → c.d.op = .sealRun → (secSource s.blk c i).any (fun p => isWindow s.blk p.1) = false →
      (∀ l, l < 64 → sec.lines.any (fun e => e.1 = l) = true) → ckptKid s.blk w = some k →
      heldKey s.blk w k = some a → heldKey s.blk w (k + 1) = some t → secDest s.blk c i = some (o, off) →
      ct = xtsEnc (keyBytes a) (keyBytes t) (leBytes 16 i) (secBytes sec) →
      b = modSec sec.id (fun x => { x with out := true, left := 64, lines := [] }) (drawPiece (count 11 (some w) 1 s.blk)) →
      begins (.gseSectorDone w i gen data none) s (fillCores 64 (objWrite w o off ct (.gseOut w sec.id)
        (modGse (fun g => { g with run := g.run.map fun x => if x.d.berth = c.d.berth then
          { x with data := if x.data.isEmpty then sectorDigest (sessAt s.blk w).h i ct
                           else xorBytes x.data (sectorDigest (sessAt s.blk w).h i ct) } else x }) b)))) ∧
    (((keyCores s.blk).find? fun c => c.d.berth.val = w.val && c.left = 0 && gseServes s.blk c) = some c →
      (c.d.op = .sealOpen → begins (.gseKeyOpComplete w) s
        (later .stageFree (doSealOpen c (drawPiece (modGse (fun g => { g with keyOps := g.keyOps.erase c }) s.blk))))) ∧
      (c.d.op = .sealClose → begins (.gseKeyOpComplete w) s (doSealClose c (drawPiece s.blk))) ∧
      (c.d.op = .unsealOpen → s.blk.kstg.rest = some w.val → s.blk.kstg.st = 3 →
        begins (.gseKeyOpComplete w) s (doUnsealOpen c s.blk)) ∧
      (c.d.op = .unsealClose → begins (.gseKeyOpComplete w) s (later .stageFree (gsePump (doUnsealClose c
        (drawPiece (modGse (fun g => { g with keyOps := g.keyOps.erase c }) s.blk)))))) ∧
      (c.d.op = .rewrap → begins (.gseKeyOpComplete w) s (doRewrap c (drawPiece s.blk)))) ∧
    ((s.blk.gse.keyOps.find? fun c => c.d.op = .unsealOpen && !c.reading && c.since + msTicks s.blk 100 ≤ now s.blk) = some c →
      s.blk.kstg.st ≠ 0 → s.blk.kstg.rest ≠ some c.d.berth.val → gseServes s.blk c = true →
      begins .restoreStageTimeout s (keyOpEnds c cBusy s.blk))

/-! ### Landings: rounds, frames and control words -/

/-- ROUND_START of a Landing that transmits, when the last slot of the round before has gone, counts the round, puts its eight marker words on the
link, and begins what the round brings; MARKER_RECEIVE of a good marker that follows the last good one aligns the Landing and begins a received
round; one bad marker is borne, the second in a row is a reset of the Landing. -/
def Obligations.RoundsAndMarkers : Prop :=
  ∀ (s : State) (n : Fin 64) (ws : List Bytes), awake s.blk → s.blk.slip.st = .idle → (lndAt s.blk n).st ≠ .down →
    (∀ r b, (lndAt s.blk n).inRst = false → 62 ≤ (lndAt s.blk n).txSlot →
      r = (if (lndAt s.blk n).started then (lndAt s.blk n).roundTx + 1 else 0) →
      b = modLnd n (fun l => { l with
        roundTx := r, started := true, txSlot := 0, txTokens := min 32240 (l.txTokens + 16120) }) s.blk →
      begins (.roundStart n) s ((List.range 32).foldl (fun b x => roundXing n r x b)
        (helloDueNow n r (applyMaps n false r (emit (.marker n r ((List.range 8).map (markerWord n b r))) b))))) ∧
    (markersGood ws = true → (lndAt s.blk n).goodMark = roundOfMarker ws → roundOfMarker ws ≠ 0 → roundOfMarker ws < 2 ^ 64 →
      becomes (.markerReceive n ws) s (applyMaps n true (roundOfMarker ws) (beginReceived n (modLnd n (fun l => { l with
        aligned := true, goodMark := (roundOfMarker ws + 1) % 2 ^ 64, badMark := 0, roundRx := roundOfMarker ws }) s.blk)))) ∧
    (markersGood ws = false → (lndAt s.blk n).aligned = true →
      ((lndAt s.blk n).badMark = 0 →
        becomes (.markerReceive n ws) s (beginReceived n (modLnd n (fun l => { l with badMark := 1 }) s.blk))) ∧
      (1 ≤ (lndAt s.blk n).badMark → begins (.markerReceive n ws) s (resetLanding n s.blk)))

/-- FRAME_TRANSMIT fills the next slot: its control words, its frames, and idle words behind them. A whole frame with a good CRC (FRAME_RECEIVE,
and DATA_FRAME, GRAD_FRAME, SYNC_FRAME, HELLO and PROVE by its TYPE) is counted for its berth and goes on to the checks of its header; a frame
whose CRC fails is a line error and the rest of its slot is dropped. -/
def Obligations.FramesReachTheChecks : Prop :=
  ∀ (s : State) (n : Fin 64) (slot : Fin 62) (raw : Bytes) (b0 b : Block), awake s.blk → s.blk.slip.st = .idle →
    ((lndAt s.blk n).st ≠ .down → (lndAt s.blk n).inRst = false → (lndAt s.blk n).txSlot = slot.val →
      begins (.frameTransmit n slot [] []) s
        (fillSlot n slot (if (lndAt s.blk n).st = .opened then slotX (lndAt s.blk n).txMap slot else none) 43 130 []
          (sendControls n slot (modLnd n (fun l => { l with txSlot := slot + 1 }) s.blk)))) ∧
    (listens s.blk n = true → (lndAt s.blk n).rxSlot ≤ slot.val → b0 = reachSlot n slot s.blk →
      (lndAt b0 n).dropSlot ≠ some slot.val → fieldLE raw 0 1 ≠ 0 → raw.length = 32 * ((hdrOf raw).lenw + 3) →
      (lndAt b0 n).rxUsed + ((hdrOf raw).lenw + 3) ≤ 130 →
      b = count 1 (if (hdrOf raw).type = 8 then none else some (xingBerth s.blk n ((rxOwn (lndAt b0 n) slot).getD (hdrOf raw).x))) 1
        (modLnd n (fun l => { l with rxUsed := l.rxUsed + ((hdrOf raw).lenw + 3) }) b0) →
      (crcGood raw = true → begins (.frameReceive n slot raw []) s (checkFrame n slot raw b) ∧
        ((hdrOf raw).type = 1 → begins (.dataFrame n slot raw) s (checkFrame n slot raw b)) ∧
        ((hdrOf raw).type = 2 → begins (.gradFrame n slot raw) s (checkFrame n slot raw b)) ∧
        ((hdrOf raw).type = 3 → begins (.syncFrame n slot raw) s (checkFrame n slot raw b)) ∧
        ((hdrOf raw).type = 8 → begins (.hello n slot raw) s (checkFrame n slot raw b)) ∧
        ((hdrOf raw).type = 9 → begins (.prove n slot raw) s (checkFrame n slot raw b))) ∧
      (crcGood raw = false → rxOwn (lndAt b0 n) slot = none → begins (.frameReceive n slot raw []) s
        (lineError n (dropArea n slot (spoilFrame n (hdrOf raw).x (earlyLines b0 n slot raw) b)))))

/-- A frame with a good header, of the link's two generations, that its slot admits and the Toll pays for: HELLO is taken by the Landing, every
other TYPE by its crossing; a frame of an earlier generation is dropped as STALE_HANDLE and nothing else happens. -/
def Obligations.GoodFramesReachTheirCrossing : Prop :=
  ∀ (b : Block) (n slot : Nat) (raw : Bytes), headerGood raw = true →
    ((hdrOf raw).type ≠ 8 → (hdrOf raw).echo = (lndGen b n).toNat → (lndAt b n).peerOk = true →
      (hdrOf raw).gen = (lndAt b n).peerGen.toNat → slotTakes b n slot (hdrOf raw) = true →
      ((hdrOf raw).type < 8 → checkFrame n slot raw b = takeFrame n raw b) ∧
      (8 ≤ (hdrOf raw).type → 128 ≤ (lndAt b n).tokens →
        checkFrame n slot raw b = takeFrame n raw (modLnd n (fun l => { l with tokens := l.tokens - 128 }) b))) ∧
    ((hdrOf raw).type = 8 → slotTakes b n slot (hdrOf raw) = true → 128 ≤ (lndAt b n).tokens →
      checkFrame n slot raw b = takeHello n (framePayload raw) (modLnd n (fun l => { l with tokens := l.tokens - 128 }) b)) ∧
    ((hdrOf raw).type ≠ 8 → (hdrOf raw).echo ≠ (lndGen b n).toNat → checkFrame n slot raw b =
      recordErr (0x40 + n) cStale none (modLnd n (fun l => { l with errLate := inc32 l.errLate }) b))

/-- ACK, NAK, TOLL, FAIL and IDLE: a control word of the link's two generations with a good CRC acts by its CTYPE on its 24 bytes; one whose CRC
fails is a line error; IDLE changes nothing but the place in the slot. -/
def Obligations.ControlWordsAct : Prop :=
  ∀ (s : State) (n : Fin 64) (slot : Fin 62) (raw : Bytes) (b : Block), awake s.blk → listens s.blk n = true →
    (lndAt s.blk n).rxSlot < slot.val ∨ (lndAt s.blk n).rxSlot = slot.val ∧ (lndAt s.blk n).rxCtl < 2 ∧ (lndAt s.blk n).rxUsed = 0 →
    b = modLnd n (fun l => { l with rxCtl := l.rxCtl + 1 }) (reachSlot n slot s.blk) →
    fieldLE raw 1 3 / 4096 = (lndGen s.blk n).toNat →
    (crcGood raw = true → ((lndAt s.blk n).peerOk = true → fieldLE raw 1 3 % 4096 = (lndAt s.blk n).peerGen.toNat) →
      (fieldLE raw 0 1 = 1 → begins (.ack n slot raw) s (takeAck n (slice raw 4 24) b)) ∧
      (fieldLE raw 0 1 = 2 → begins (.nak n slot raw) s (nakArrives n (slice raw 4 24) b)) ∧
      (fieldLE raw 0 1 = 3 → begins (.toll n slot raw) s (takeToll n (slice raw 4 24) b)) ∧
      (fieldLE raw 0 1 = 4 → begins (.fail n slot raw) s (takeFail n (slice raw 4 24) b)) ∧
      (fieldLE raw 0 1 = 0 → becomes (.idle n slot raw) s b)) ∧
    (crcGood raw = false → becomes (.idle n slot raw) s (lineError n b))

/-- RETRANSMIT_TIMEOUT after 64 rounds without progress sends every unacknowledged frame again, oldest first, and a frame sent 16 times fails the
crossing; LANDING_ENTER_FORD, FORD_TIMEOUT and PROVE_TIMEOUT start the exchange and raise their stalls. -/
def linkTimers : Prop :=
  ∀ (s : State) (n : Fin 64) (x : Fin 32), awake s.blk → s.blk.slip.st = .idle →
    ((xingAt s.blk n x).st = .opened → (xingAt s.blk n x).unacked ≠ [] → (xingAt s.blk n x).progress + 64 ≤ (lndAt s.blk n).roundTx →
      begins (.retransmitTimeout n x) s
        (startResend n x (modXing n x (fun i => { i with progress := (lndAt s.blk n).roundTx }) s.blk))) ∧
    ((lndAt s.blk n).st = .down → (lndAt s.blk n).inRst = false → (pageAt s.blk (0x40 + n)).unit = .on →
      becomes (.landingEnterFord n) s
        (raise (0x40 + n) 1 (beginFord n (modLnd n (fun l => { l with phyUp := true }) s.blk)))) ∧
    ((lndAt s.blk n).st = .ford → (lndAt s.blk n).linked = false → (lndAt s.blk n).fordStall = false →
      (lndAt s.blk n).fordTick + msTicks s.blk (fld (reg s.blk 0x8044) 15 0) ≤ now s.blk →
      becomes (.fordTimeout n) s (raise (0x40 + n) 5 (modLnd n (fun l => { l with fordStall := true }) s.blk))) ∧
    ((xingAt s.blk n x).st = .proving → (xingAt s.blk n x).stalled = false →
      (xingAt s.blk n x).since + msTicks s.blk (fld (reg s.blk 0x8044) 31 16) ≤ now s.blk →
      becomes (.proveTimeout n x) s (raise (0x40 + n) 7 (modXing n x (fun i => { i with stalled := true }) s.blk)))

/-- LANDING_DRAIN_COMPLETE once no crossing of the Landing holds an unacknowledged frame, and LANDING_DRAIN_TIMEOUT 64 rounds after the drain
began: the Landing is DOWN and its unit goes on to SCRUBBING. -/
def landingDrains : Prop :=
  ∀ (s : State) (n : Fin 64) (r : Nat), awake s.blk → (pageAt s.blk (0x40 + n)).unit = .draining → (lndAt s.blk n).drainRound = some r →
    (holdsUnacked s.blk n = false → begins (.landingDrainComplete n) s (drainedLanding n s.blk)) ∧
    (r + 64 ≤ (lndAt s.blk n).roundTx → begins (.landingDrainTimeout n) s (drainedLanding n s.blk))

/-- The timers of links and Landings, and the drains of Landings. -/
def Obligations.LinkTimersAndDrains : Prop :=
  linkTimers ∧ landingDrains

/-- The frame header is read as it is written: every field at every value it can hold comes back, whatever follows the header. -/
def frameHeaderRoundTrip : Prop :=
  ∀ (h : FrameHdr) (rest : Bytes), h.type < 16 → h.ver < 16 → h.x < 32 → h.lenw < 256 → h.owner < 64 → h.cid < 2 ^ 32 →
    h.v < 2 ^ 64 → h.gen < 4096 → h.echo < 4096 → h.handle < 2 ^ 32 → h.line < 2 ^ 24 → hdrOf (hdrBytes h ++ rest) = h

/-- A frame the block builds passes the receiver's CRC check and gives back its payload; so does every control word it builds. -/
def builtFramesPassTheirCrc : Prop :=
  ∀ (h : FrameHdr) (ct tag : Bytes) (replay : Bool) (b : Block) (n : Nat) (c : Bytes),
    crcGood (frameBytes h ct tag replay) = true ∧ framePayload (frameBytes h ct tag replay) = ct ∧
    slice (frameTail (frameBytes h ct tag replay)) 0 16 = slice tag 0 16 ∧ crcGood (ctlWord b n c) = true

/-- A frame header reads back as it was built, and a built frame passes its CRC. -/
def Obligations.BuiltFramesReadBack : Prop :=
  frameHeaderRoundTrip ∧ builtFramesPassTheirCrc

/-! ### Barriers and wires -/

/-- ARRIVE, RELEASE and ABORT: a well-formed barrier message of the edge and the epoch the barrier waits for acts on it; one that is not what the
barrier waits for fails the barrier and is recorded as DENIED. -/
def barrierMessagesAct : Prop :=
  ∀ (s : State) (n : Fin 64) (x : Fin 32) (msg : Bytes) (e : Nat), awake s.blk → s.blk.slip.st = .idle →
    fieldLE msg 3 5 = 0 → fieldLE msg 0x20 32 = 0 → barOf s.blk (xingBerth s.blk n x) (fieldLE msg 1 1) = some e →
    (fieldLE msg 0 1 = 1 → msgGood (barAt s.blk e) 1 (32 * n + x) (BitVec.ofNat 64 (fieldLE msg 8 8)) = true →
      begins (.arrive n x msg) s (evalBar e (modBar e (fun y => { y with
        got := y.got ++ [⟨32 * n + x, fieldLE msg 0x10 4, fieldLE msg 0x14 4, BitVec.ofNat 64 (fieldLE msg 0x18 8)⟩], tick := now s.blk })
        s.blk))) ∧
    (fieldLE msg 0 1 = 2 → msgGood (barAt s.blk e) 2 (32 * n + x) (BitVec.ofNat 64 (fieldLE msg 8 8)) = true →
      begins (.release n x msg) s (releaseBar e (fieldLE msg 0x14 4) (BitVec.ofNat 64 (fieldLE msg 0x18 8)) s.blk)) ∧
    (fieldLE msg 0 1 = 3 → msgGood (barAt s.blk e) 3 (32 * n + x) (BitVec.ofNat 64 (fieldLE msg 8 8)) = true →
      begins (.abort n x msg) s (failBar e (msg.getD 2 0) (some (32 * n + x)) s.blk)) ∧
    (fieldLE msg 0 1 = 1 → msgGood (barAt s.blk e) 1 (32 * n + x) (BitVec.ofNat 64 (fieldLE msg 8 8)) = false →
      begins (.arrive n x msg) s (recordErr 0x15 cDenied (some (xingBerth s.blk n x)) (failBar e cDenied (some (32 * n + x)) s.blk)))

/-- SYNC_ARM, SYNC_DISARM, SYNC_WIRE_WRITE and WAKE_ACK_CHANGE: the owner of a wire arms it on a fence of its own with the armed value and disarms
it, whatever fence its handle names; a write of the wire's register disarms it; `wake_ack` rising ends the request. -/
def wiresArmAndFire : Prop :=
  ∀ (s : State) (m : Master) (w : Fin 32) (v : Word) (k : Fin 64),
    (∀ u : Word, writable s.blk (.berth w) 0x15 0x07C → u.getLsbD 31 = true → (pageAt s.blk 0x15).unit = .on → fld u 7 6 = 0 →
      fld u 30 10 = 0 → wireOwner (wireAt s.blk (fld u 5 0)) = some w.val →
      (∀ f, u = setFld v 9 9 0 → fenceCheck s.blk w (reg s.blk (armReg w 0x070)) = (cOk, f) → (wireAt s.blk (fld u 5 0)).armed = false →
        begins (.syncArm w v) s (evalWatch (fld u 5 0) (modWire (fld u 5 0) (fun x => { x with
          armed := true, mode := u.getLsbD 8, fence := f, fired := false, err := false,
          value := BitVec.ofNat 64 ((reg s.blk (armReg w 0x074)).toNat + 2 ^ 32 * (reg s.blk (armReg w 0x078)).toNat) })
          (setArmRes w cOk (fresh s.blk))))) ∧
      (u = setFld v 9 9 1 → becomes (.syncDisarm w v) s (modWire (fld u 5 0) (fun x => { x with armed := false })
        (setArmRes w cOk (fresh s.blk))))) ∧
    (writable s.blk m 0x15 (0x100 + 4 * k) → becomes (.syncWireWrite m k v) s
      (modWire k (fun x => { x with reg := v &&& 0xFF, armed := false }) (fresh s.blk))) ∧
    (∀ level, awake s.blk → becomes (.wakeAckChange k level) s
      (modWire k (fun x => { x with ack := level, req := x.req && !(level && !x.ack) }) s.blk))

/-- Barrier messages and sync wires. -/
def Obligations.BarriersAndWires : Prop :=
  barrierMessagesAct ∧ wiresArmAndFire

/-! ### The Hold -/

/-- HOLD_RANGE_CMD that passes its checks and moves banks takes every moving bank into TRANSIT and queues one bank set; until it ends the berth's
range is what the old range and the new one have in common; no line changes. -/
def holdRangeCommandMovesBanks : Prop :=
  ∀ (s : State) (m : Master) (v : Word) (new : Nat × Nat) (all : List Nat), writable s.blk m 0x10 0x044 → v.getLsbD 31 = true →
    (pageAt s.blk 0x10).unit = .on → s.blk.hold.cmd = none →
    holdRangeCheck s.blk (fld v 10 0) (fld v 21 11) (fld v 26 22) = cOk →
    new = (if fld v 21 11 = 0 then (0, 0) else (fld v 10 0, fld v 21 11)) →
    all = (movedBanks (holdRange s.blk (fld v 26 22)) new).1 ++ (movedBanks (holdRange s.blk (fld v 26 22)) new).2 → all ≠ [] →
    ∃ b, becomes (.holdRangeCmd m v) s b ∧ b.hold.cmd = some { base := new.1, count := new.2, berth := fld v 26 22, old := holdRange s.blk (fld v 26 22) } ∧
      b.hold.sets = s.blk.hold.sets ++ [⟨all, .range⟩] ∧ (∀ k ∈ all, bankState b k = .transit) ∧
      (∀ k, k ∉ all → bankState b k = bankState s.blk k) ∧ b.hold.mem = s.blk.hold.mem ∧ b.hold.tags = s.blk.hold.tags ∧
      b.hold.ranges = tset (0, 0) s.blk.hold.ranges (fld v 26 22) (meetRange (holdRange s.blk (fld v 26 22)) new) ∧ b = { fresh s.blk with hold := b.hold }

/-- BANK_SET_COMPLETE with no bad bank: every line of the set's banks reads as 64 zero bytes and is EMPTY, every line of another bank reads as
before, and a range command's range is the berth's. -/
def bankSetClearsEveryLine : Prop :=
  ∀ (s : State) (ks : List Nat) (rest : List BankSet) (c : RangeCmd), awake s.blk → s.blk.ecc.test = none →
    s.blk.hold.sets = ⟨ks, .range⟩ :: rest → s.blk.hold.cmd = some c → ∃ b, becomes (.bankSetComplete []) s b ∧
      b.hold.sets = rest ∧ b.hold.cmd = none ∧ b.hold.status = cOk ∧
      b.hold.ranges = tset (0, 0) s.blk.hold.ranges c.berth (c.base, c.count) ∧
      (∀ l, lineBank l ∈ ks → lineBytes b l = List.replicate 64 0 ∧ tagAt b l = {}) ∧
      (∀ l, lineBank l ∉ ks → lineBytes b l = lineBytes s.blk l ∧ tagAt b l = tagAt s.blk l) ∧
      b.keys = s.blk.keys ∧ b.regs = s.blk.regs ∧ b.berths = s.blk.berths

/-- Banks of the Hold move by commands, and a bank set clears every line of its banks. -/
def Obligations.HoldBanksMoveAndClear : Prop :=
  holdRangeCommandMovesBanks ∧ bankSetClearsEveryLine

/-- HOLD_READ_RESUME, PIN_WAIT_RESUME and RECYCLE_DEFERRED_COMPLETE: a read for which what it waited for has happened (the verdict of its line,
the clearing of its bank) goes on, one still waiting stays; the oldest crossing that waited for a pin pins the lines of the frame it waited with;
a recycle whose lines are free of pins and verdicts empties them and performs its signal. -/
def Obligations.HoldWaitsResume : Prop :=
  ∀ (s : State), awake s.blk →
    (∀ (id c i : Nat) (r : WaitRead), (s.blk.hold.waits.find? fun r => r.id = id) = some r → r.op = .cmd c i →
      (r.ready = true → begins (.holdReadResume id) s (cmdResume c i (modHold (fun h => { h with waits := h.waits.erase r }) s.blk))) ∧
      (r.ready = false → becomes (.holdReadResume id) s s.blk)) ∧
    (∀ (n : Fin 64) (x : Fin 32) (rest : List (Nat × Nat)) (t : TxItem),
      s.blk.hold.pinWaits = (n.val, x.val) :: rest → (xingAt s.blk n x).pinItem = some t → canPin s.blk t.lines = true →
      becomes (.pinWaitResume n x) s (pinLines t.lines (modXing n x (fun i => { i with
          pinItem := none, sendq := i.sendq.map fun u => if u = t then { u with pinned := true } else u })
          (modHold (fun h => { h with pinWaits := rest }) s.blk)))) ∧
    (∀ (id : Nat) (r : Recycle), (s.blk.hold.recycles.find? fun r => r.id = id) = some r → recycleReady s.blk r.lines = true →
      r.op = .none → begins (.recycleDeferredComplete id) s (deferredSignal r.sig
        (r.lines.foldl (fun b l => emptyLine l b) (modHold (fun h => { h with recycles := h.recycles.erase r }) s.blk))))

/-! ### Memory protection engines -/

/-- A line that engine S mixes under a key, group and address unmixes to itself under the same. -/
def mixRoundTrip : Prop :=
  ∀ (g addr : Nat) (key : BitVec 256) (d : Bytes), d.length = 64 → unmixLine g addr key (mixLine g addr key d) = d

/-- A line that engine A encrypts under a key, index and counter decrypts to itself under the same. -/
def lineCryptRoundTrip : Prop :=
  ∀ (enc : BitVec 256) (i c : Nat) (d : Bytes), d.length = 64 → lineCrypt enc i c (lineCrypt enc i c d) = d

/-- A mixed line reads back as it was, and a line encrypted for memory decrypts to itself. -/
def Obligations.StoredLinesReadBack : Prop :=
  mixRoundTrip ∧ lineCryptRoundTrip

/-- HBM_FABRIC_REQUEST and HBM_MC_RESPONSE, before a power failure is accepted: an admitted write goes to the memory controller mixed under the
berth's key, an admitted read is sent and its clean answer unmixed to the fabric under the fabric's own tag (toward the controller a request has
another tag where its own is in use, log entry 132); a request that no region of the berth admits is answered with zeros, counted and recorded as
DENIED. -/
def Obligations.FabricRequestsAreMixedAndChecked : Prop :=
  ∀ (s : State) (g : Fin 8) (slice : Fin 32) (addr : BitVec 40) (w : Fin 32) (tid : BitVec 10) (d : Bytes) (t : Nat),
    awake s.blk → s.blk.slip.st = .idle →
    t = (if (usedTids s.blk g slice).contains tid.toNat then freeTid s.blk g slice else tid.toNat) →
    (admitted s.blk g addr.toNat w true = true →
      (patching s.blk g addr.toNat = false → d.length = 64 → becomes (.hbmFabricRequest g slice addr w tid (some d)) s
        (emit (.mcWrite g slice addr.toNat t (mixLine g addr.toNat (skeyAt s.blk w).key d)) s.blk)) ∧
      becomes (.hbmFabricRequest g slice addr w tid none) s
        (emit (.mcRead g slice addr.toNat t) (modMems (fun m => { m with reqs := m.reqs ++
          [{ group := g, slice := slice, tid := t, addr := addr.toNat, berth := w, fabric := true, write := false,
             ftid := tid.toNat, since := now s.blk }] }) s.blk))) ∧
    (admitted s.blk g addr.toNat w true = false →
      becomes (.hbmFabricRequest g slice addr w tid none) s
        (emit (.fabricRsp g slice tid.toNat (List.replicate 64 0) true) (denyMems w s.blk)) ∧
      becomes (.hbmFabricRequest g slice addr w tid (some d)) s (denyMems w s.blk)) ∧
    (∀ r, (s.blk.mems.reqs.find? fun r => r.group = g.val && r.slice = slice.val && r.tid = tid.toNat) = some r → r.fabric = true →
      becomes (.hbmMcResponse g slice tid d false []) s
        (emit (.fabricRsp r.group r.slice r.ftid (unmixLine r.group r.addr (skeyAt s.blk r.berth).key d) false)
          (modMems (fun m => { m with reqs := s.blk.mems.reqs.erase r }) s.blk)))

/-- A fabric request whose address lies in no region of its tagged berth is not forwarded: a read returns zeros with poison, a write is dropped,
and the MEMS page records DENIED (R95: the first error keeps its CODE); beside the interrupt messages that this may raise nothing else is sent.
(Once a power failure is accepted no port admits work at all, R61.) -/
def Obligations.FabricAddressOutsideItsBerth : Prop :=
  ∀ (s : State) (g : Fin 8) (slice : Fin 32) (addr : BitVec 40) (w : Fin 32) (tid : BitVec 10) (d : Option Bytes), awake s.blk →
    s.blk.slip.st = .idle → (∀ e < 32, inSrgn (srgnAt s.blk (32 * g + e)) addr.toNat = true → srgnBerth (srgnAt s.blk (32 * g + e)) ≠ w) →
    ∃ b ms, becomes (.hbmFabricRequest g slice addr w tid d) s b ∧ (∀ o ∈ ms, o = Output.msix none ∨ o = Output.coreIrq 0x11) ∧
      b.out = s.blk.out ++ ms ++ (if d.isSome then [] else [.fabricRsp g slice tid.toNat (List.replicate 64 0) true]) ∧
      (pageAt b 0x11).errValid = true ∧
      (pageAt b 0x11).errCode = (if (pageAt s.blk 0x11).errValid then (pageAt s.blk 0x11).errCode else cDenied) ∧
      b.mems.reqs = s.blk.mems.reqs ∧ b.mems.regions = s.blk.mems.regions ∧ b.hold = s.blk.hold ∧ b.keys = s.blk.keys

/-- MIX_KEY_LOADED, MIX_KEY_UNLOAD and MEMS_REGION_WRITE: the berth's LIVE MIX entry is loaded once; a retiring one that no request uses is
unloaded; a region that is not valid and meets no other is made valid with its configuration. -/
def Obligations.EngineSKeysAndRegions : Prop :=
  ∀ (s : State) (m : Master) (w : Fin 32) (v : Word),
    (awake s.blk → (keyRange s.blk w).2 ≠ 0 → (keyAt s.blk (keyRange s.blk w).1).st = .live →
      (keyAt s.blk (keyRange s.blk w).1).purpose = 3 → (keyAt s.blk (keyRange s.blk w).1).berth = some w.val →
      (skeyAt s.blk w).loaded = false → s.blk.sched.cmd = none →
      becomes (.mixKeyLoaded w) s (modMems (fun x => { x with
        keys := tset {} x.keys w ⟨(keyRange s.blk w).1, (keyAt s.blk (keyRange s.blk w).1).key, true⟩ }) s.blk)) ∧
    (awake s.blk → (skeyAt s.blk w).loaded = true → (keyAt s.blk (skeyAt s.blk w).kid).st = .retiring →
      (∀ r ∈ s.blk.mems.reqs, r.berth ≠ w.val) → (∀ x ∈ s.blk.mems.wq, x.berth ≠ w.val) →
      begins (.mixKeyUnload w) s (later (.berthCheck w) (modMems (fun x => { x with keys := tset {} x.keys w {} }) s.blk))) ∧
    (writable s.blk m 0x11 0x054 → srgnSel s.blk / 32 < s.blk.build.groups → (srgnAt s.blk (srgnSel s.blk)).valid = false →
      v.getLsbD 31 = true → srgnOk (modSrgn (srgnSel s.blk) (fun e => { e with cfg := v &&& 0x7FFFFFFF }) (fresh s.blk)) (srgnSel s.blk)
        (srgnAt (modSrgn (srgnSel s.blk) (fun e => { e with cfg := v &&& 0x7FFFFFFF }) (fresh s.blk)) (srgnSel s.blk)) = true →
      becomes (.memsRegionWrite m v) s (modSrgn (srgnSel s.blk) (fun e => { e with valid := true })
        (modSrgn (srgnSel s.blk) (fun e => { e with cfg := v &&& 0x7FFFFFFF }) (fresh s.blk))))

/-- MEMA_REGION_CREATE, MEMA_REGION_DESTROY and MEMA_ROLL: MEMA_RGN_CFG written with VALID 1 makes a FREE region whose entry passes its checks
LIVE with its counters at 0; with VALID 0 a LIVE region drains; a roll of a LIVE region of type 0 with its new keys ready turns its phase, and
that of its nodes whose counters are all 0, and begins its sweep. -/
def engineARegions : Prop :=
  ∀ (s : State) (m : Master) (v u : Word) (r : Nat) (b : Block),
    (writable s.blk m 0x12 0x064 → u = setFld v 31 31 1 → r = rgnSel s.blk → (rgnAt s.blk r).st = .free →
      b = modRgn r (fun a => { a with cfg := u &&& 0x7FF0FFFF }) (fresh s.blk) → rgnOk b r (rgnAt b r) = true →
      becomes (.memaRegionCreate m v) s (modRgn r (fun a => { a with
        st := .live, phase := false, use0 := 0, use1 := 0, root := [], sweep := 0, fault := 0, level := 0, findex := 0 }) b)) ∧
    (writable s.blk m 0x12 0x064 → (rgnAt s.blk (rgnSel s.blk)).st = .live →
      begins (.memaRegionDestroy m v) s (drainRgn (rgnSel s.blk) (fresh s.blk))) ∧
    (writable s.blk m 0x12 0x088 → v.getLsbD 31 = true → (pageAt s.blk 0x12).unit = .on → (rgnAt s.blk (fld v 7 0)).st = .live →
      rType (rgnAt s.blk (fld v 7 0)) = 0 → keysReady s.blk (fld v 7 0) (!(rgnAt s.blk (fld v 7 0)).phase) = true →
      begins (.memaRoll m v) s (later .engineA (turnEmpty (fld v 7 0)
        (modRgn (fld v 7 0) (fun a => { a with st := .rolling, phase := !a.phase, sweep := 0 })
          (modMema (fun x => { x with rollRes := cOk }) (fresh s.blk))))))

/-- ROLL_COMPLETE, MEMA_WAY_CMD, MEMA_WAY_COMPLETE, CXL_DRS_RESPONSE, CXL_NDR_RESPONSE and DEBUG_READ: a sweep that reached its region's end, with
no modified line of the region left, ends the roll; a way command that passes its checks runs and its end, with no modified line in the ways that
move, gives the berth its ways; an answer of the port's own generation completes its read or write; a debug read of a buffer whose berth's debug
is enabled starts. -/
def engineAWork : Prop :=
  ∀ (s : State) (m : Master) (v : Word) (r : Fin 256) (k : Fin 4),
    (awake s.blk → (rgnAt s.blk r).st = .rolling → 2 ^ rLog (rgnAt s.blk r) / 8 ≤ (rgnAt s.blk r).sweep → activeOp s.blk r = none →
      dirtyIn s.blk (fun c => c.region = r.val) = false →
      becomes (.rollComplete r) s (raise 0x12 3 (modRgn r (fun a => { a with st := .live }) s.blk))) ∧
    (writable s.blk m 0x12 0x094 → v.getLsbD 31 = true → (pageAt s.blk 0x12).unit = .on → s.blk.mema.cmd = none →
      fld v 15 0 &&& s.blk.ecc.ways = 0 → wayCheck s.blk (fld v 15 0) (fld v 20 16) = cOk →
      begins (.memaWayCmd m v) s (later .engineA (modMema (fun x => { x with cmd := some ⟨fld v 15 0, fld v 20 16⟩ }) (fresh s.blk)))) ∧
    (∀ c, awake s.blk → s.blk.mema.cmd = some c → dirtyIn s.blk (fun l => (movingWays s.blk c).testBit l.way) = false →
      becomes .memaWayComplete s (raise 0x12 4 (modMema (fun x => { x with
        cache := x.cache.filter fun l => !(movingWays s.blk c).testBit l.way
        ways := tset 0 x.ways c.berth c.ways, status := cOk, cmd := none }) s.blk))) ∧
    (∀ (tag : Nat) (line : Bytes) (x : ARead) (op : OpRef), awake s.blk →
      (s.blk.mema.reads.find? fun x => x.port = k.val && x.tag = tag && x.sent) = some x → x.fetch = .raw op →
      begins (.cxlDrsResponse k tag (portAt s.blk k).gen line false []) s
        (later .engineA (later (.opLine op (slice line 0 64)) (modMema (fun y => { y with reads := y.reads.erase x }) s.blk)))) ∧
    (∀ (tag : Nat) (x : AWrite), awake s.blk → (s.blk.mema.writes.find? fun x => x.port = k.val && x.tag = tag) = some x →
      begins (.cxlNdrResponse k tag (portAt s.blk k).gen) s
        (later .engineA (settleDrain x.region (modMema (fun y => { y with writes := y.writes.erase x })
          (if x.op = .none then s.blk else later (.opDone x.op cOk) s.blk))))) ∧
    (∀ (h k g base len w : Nat), h = (reg s.blk 0x1E070).toNat → k = (reg s.blk 0x1E074).toNat → writable s.blk m 0x1E 0x078 →
      v.getLsbD 0 = true → s.blk.dbg.maWait = false → h ≠ 0 → (objAt s.blk (h % 65536)).st ≠ .free → maDenied s.blk (h % 65536) k = none →
      (objAt s.blk (h % 65536)).gen.toNat = h / 65536 → (objAt s.blk (h % 65536)).kind = .hbm g base len →
      (objAt s.blk (h % 65536)).berth = w →
      begins (.debugRead m v) s (internalRead w g (base + k) .dbg
        (modDbg (fun x => { x with maRes := cPending, maData := [], maWait := true, maBerth := some w }) (fresh s.blk))))

/-- Engine A: its regions and roots, and the work of its reads and writes. -/
def Obligations.EngineARegionsAndWork : Prop :=
  engineARegions ∧ engineAWork

/-! ### Contexts, commands and objects -/

/-- QUEUE_SCAN of a context that is due, of a berth in job state whose queue memory answers: a DISABLED context is activated where its descriptor
asks it; then at most what is pending, what the completion ring holds room for and what the command store holds room for is fetched, in queue
order, and HEAD is written only when it moved; a queue whose indices are out of range loses its context, and so does a read that met an
uncorrectable word or that the memory refused; an answer of an earlier generation of the port is recorded STALE_HANDLE and nothing else. -/
def Obligations.QueueScanFetchesPending : Prop :=
  ∀ (s : State) (c : Fin 4096) (cause : ScanCause) (gen : BitVec 12) (d : Bytes) (cmds : List FetchedCmd) (w q off : Nat) (r : RgnEnt)
    (b0 b1 b2 : Block) (x : Ctx) (n pend : Nat),
    awake s.blk → s.blk.slip.st = .idle → (ctxAt s.blk c).berth = some w → (ctxAt s.blk c).queue = some (q, off) → rgnEnt s.blk w q = some r →
    (berthAt s.blk w).st = .joined ∨ (berthAt s.blk w).st = .running → scanDue s.blk w c cause = true → (pageAt s.blk 0x14).unit = .on →
    (queueStale s.blk r gen = true → ∀ bad, becomes (.queueScan c cause gen d bad cmds) s (recordErr 0x12 cStale none s.blk)) ∧
    (queueStale s.blk r gen = false → queueAnswers s.blk r gen = true →
      b0 = (if r.kind = 0 then count 6 (some w) 1 else id) (modCtx c (fun x => { x with
        lastScan := if cause = .window then (if x.scan = 0 then none else some ((now s.blk - (berthAt s.blk w).loadTick) / x.scan))
          else x.lastScan
        rescan := false, room := false }) s.blk) →
      (queueRefused b0 w r off = false →
        b1 = (if (ctxAt s.blk c).st = .disabled then activateCtx w c d b0 else b0) → x = ctxAt b1 c → pend = (cWord d 8 - x.head).toNat →
        (x.st = .disabled → begins (.queueScan c cause gen d false cmds) s b1) ∧
        (x.st ≠ .disabled → pend ≤ 2 ^ x.k → (x.cplTail - cWord d 0x0C).toNat ≤ 2 ^ x.k →
          n = min (min pend (BitVec.ofNat 32 (2 ^ x.k) - (x.head - cWord d 0x0C)).toNat) ((berthAt b1 w).cmdq * 16 - storeUse b1 w) →
          b2 = fetchCmds w c r (cmds.take n) b1 →
          begins (.queueScan c cause gen d false cmds) s
            (later (.sched w) (modCtx c (fun y => { y with waiting := ((y.head - x.head).toNat < pend) })
              (if (ctxAt b2 c).head = x.head then b2 else descWrite c 0x10 (leBytes 4 (ctxAt b2 c).head.toNat) b2)))) ∧
        (x.st ≠ .disabled → 2 ^ x.k < pend ∨ 2 ^ x.k < (x.cplTail - cWord d 0x0C).toNat →
          begins (.queueScan c cause gen d false cmds) s (loseCtx c cDenied 0x14 0 0 b1))) ∧
      (queueRefused b0 w r off = false → (ctxAt s.blk c).st = .active → begins (.queueScan c cause gen d true cmds) s
        (loseCtx c cFetchTrap 0x14 0 0 (eccEvent 8 true (some w) 0 r.port (queueFetch.queueAddr b0 r off) b0))) ∧
      (queueRefused b0 w r off = true → (ctxAt s.blk c).st = .active → ∀ bad, begins (.queueScan c cause gen d bad cmds) s
        (loseCtx c cFetchTrap 0x14 0 0 (denyMems w b0))))

/-- COMMAND_START starts the oldest command of a resident ACTIVE context whose slice runs and that may start; one whose wait fence is in ERROR
completes POISON without starting, one whose unit is OFF completes BUSY. COMMAND_RETIRE of a finished command, and OBJ_FREE of a free that took
effect at its acceptance (log entry 136), write its completion record, move CPL_TAIL on and take it from the command store. -/
def Obligations.CommandsStartAndRetire : Prop :=
  ∀ (s : State) (c : Fin 4096) (w i : Nat) (m : Cmd), awake s.blk → s.blk.slip.st = .idle → (ctxAt s.blk c).berth = some w →
    (oldest (ctxAt s.blk c) = some m → (ctxAt s.blk c).st = .active → ((ctxAt s.blk c).resident = true → now s.blk < (ctxAt s.blk c).stop) →
      (waitFailed s.blk m = true → begins (.commandStart c) s (later (.sched w) (finishCmd c m.idx cPoison 0 s.blk))) ∧
      (waitFailed s.blk m = false → unitOff s.blk m.raw = true →
        begins (.commandStart c) s (later (.sched w) (finishCmd c m.idx cBusy 0 s.blk))) ∧
      ((ctxAt s.blk c).resident = true → waitFailed s.blk m = false → unitOff s.blk m.raw = false →
        couldStart s.blk (ctxAt s.blk c) m = true → begins (.commandStart c) s
        (later (.sched w) (trace w { kind := 1, ctx := c, layer := cLayer m.raw, op := cOper m.raw, index := m.idx, tag := cTag m.raw }
          (modCmd c m.idx (fun m => { m with started := true, tick := now s.blk }) s.blk))))) ∧
    (∀ (code : Byte) (b1 b2 : Block), cmdAt s.blk c i = some m → m.done = some code → m.sig = none → fNp m.raw = false →
      (ctxAt s.blk c).st = .active →
      b1 = modCtx c (fun x => { x with cplTail := x.cplTail + 1, cmds := x.cmds.filter fun k => k.idx ≠ i, room := x.waiting })
        (cplWrite c (leBytes 4 (cTag m.raw) ++ leBytes 4 m.idx ++ [code] ++ leBytes 1 0 ++ leBytes 2 (cOper m.raw) ++
          leBytes 4 m.detail.toNat) s.blk) →
      b2 = later (.sched w) (trace w
        { kind := 2, status := code, ctx := c, layer := cLayer m.raw, op := cOper m.raw, index := m.idx, tag := cTag m.raw }
        (count 8 (some w) 1 (descWrite c 0x14 (leBytes 4 (ctxAt b1 c).cplTail.toNat) b1))) →
      begins (.commandRetire c i) s b2 ∧ (isFree m.raw = true → begins (.objFree c i) s b2))

/-- The CTRL command i of context c has started and waits to be run: its berth is w, its command m. -/
def ctrlWaits (s : State) (c i op w : Nat) (m : Cmd) : Prop :=
  awake s.blk ∧ s.blk.slip.st = .idle ∧ (ctxAt s.blk c).berth = some w ∧ cmdAt s.blk c i = some m ∧ m.started = true ∧ m.done = none ∧
    m.issued = false ∧ cUnit m.raw = 0 ∧ cOper m.raw = op

/-- NOP, FENCE_NEW, FENCE_RESET and BUFFER_NEW: a started command of the CTRL unit completes with the code and the handle the rule gives. -/
def objectCommandsComplete : Prop :=
  ∀ (s : State) (c : Fin 4096) (i w : Nat) (m : Cmd),
    (ctrlWaits s c i 0 w m → becomes (.nop c i) s (finishCmd c i cOk 0 s.blk)) ∧
    (∀ f b, ctrlWaits s c i 1 w m → cWord m.raw 0x28 = 0 →
      newFence w (BitVec.ofNat 64 (fieldLE m.raw 0x30 8)) none s.blk = some (f, b) →
      begins (.fenceNew c i) s (finishCmd c i cOk (handleOf (fenceAt b f).gen f) b)) ∧
    (ctrlWaits s c i 2 w m → (fenceAt s.blk (fieldLE m.raw 0x28 2)).state ≠ .error → begins (.fenceReset c i) s
      (finishCmd c i cOk 0 (changeFence (fieldLE m.raw 0x28 2) (fun f => { f with state := .unsignalled }) s.blk))) ∧
    (∀ k b, ctrlWaits s c i 3 w m →
      bufferFits s.blk w (fieldLE m.raw 0x30 2) (fieldLE m.raw 0x32 2) (fieldLE m.raw 0x34 2) (fieldLE m.raw 0x38 4) = true →
      newObj w (.buffer (fieldLE m.raw 0x30 2) (fieldLE m.raw 0x32 2) (fieldLE m.raw 0x34 2) (fieldLE m.raw 0x38 4)) s.blk = some (k, b) →
      becomes (.bufferNew c i) s (finishCmd c i cOk (handleOf (objAt b k).gen k) b)) ∧
    (ctrlWaits s c i 3 w m →
      bufferFits s.blk w (fieldLE m.raw 0x30 2) (fieldLE m.raw 0x32 2) (fieldLE m.raw 0x34 2) (fieldLE m.raw 0x38 4) = false →
      becomes (.bufferNew c i) s (finishCmd c i cDenied 0 s.blk))

/-- An OBJ_FREE takes effect when it is accepted: its entry leaves LIVE and its generation moves on at once; where nothing refers to it the entry
is FREE and the code is OK, else it is FREEING with its signal kept and the code is PENDING. -/
def objFreeActsAtAcceptance : Prop :=
  ∀ (b f : Block) (k : Nat) (sig : Option Deferred), f = later (.fenceFreed k) (modFence k (fun f =>
      { f with st := .freeing, gen := nextGen f.gen, sig := sig }) b) →
    (referenced b true k = false → acceptFree true k sig b = (cOk, finishFree true k f)) ∧
    (referenced b true k = true → acceptFree true k sig b = (cPending, f)) ∧
    (referenced b false k = true ∨ recycleReady b (allLines b k) = false → acceptFree false k sig b =
      (cPending, modObj k (fun o => { o with st := .freeing, gen := nextGen o.gen, sig := sig, lines := allLines b k }) b)) ∧
    (fenceAt (finishFree true k f) k).st = .free ∧ (fenceAt (finishFree true k f) k).gen = nextGen (fenceAt b k).gen

/-- OBJ_FREE_DEFERRED_COMPLETE, RECYCLE, COPY and SEND: a deferred free ends when its last use ended, with its signal; a recycle of lines without
pins or verdicts empties them; a copy takes a free channel; a send of lines that are ready is queued on its crossing. -/
def freeRecycleCopySend : Prop :=
  ∀ (s : State) (c : Fin 4096) (i w : Nat) (m : Cmd),
    (∀ k, awake s.blk → referenced s.blk true k = false → (fenceAt s.blk k).st = .freeing →
      begins (.objFreeDeferredComplete true k) s (deferredSignal (fenceAt s.blk k).sig (finishFree true k s.blk))) ∧
    (∀ k, awake s.blk → referenced s.blk false k = false → (objAt s.blk k).st = .freeing → recycleReady s.blk (freedLines s.blk k) = true →
      begins (.objFreeDeferredComplete false k) s (deferredSignal (objAt s.blk k).sig (finishFree false k s.blk))) ∧
    (∀ ls, ctrlWaits s c i 5 w m → ls = objLines s.blk (fieldLE m.raw 0x28 2) (fieldLE m.raw 0x30 4) (fieldLE m.raw 0x34 4) →
      recycleReady s.blk ls = true → becomes (.recycle c i) s (finishCmd c i cOk 0 (ls.foldl (fun b l => emptyLine l b) s.blk))) ∧
    (∀ k, ctrlWaits s c i 6 w m → freeChannel s.blk = some k → ∀ errs, begins (.copy c i errs []) s
      (copyGo c i { modCmd c i (fun m => { m with issued := true }) s.blk with
        copies := s.blk.copies ++ [{ chan := k, ctx := c, idx := i, count := fieldLE m.raw 0x38 4, errs := errs }] })) ∧
    (∀ n x ls ts, ctrlWaits s c i 7 w m → xingOfObj s.blk (fieldLE m.raw 0x2C 2) = some (n, x) → (xingAt s.blk n x).st ≠ .failed →
      ls = objLines s.blk (fieldLE m.raw 0x28 2) (fieldLE m.raw 0x30 4) (fieldLE m.raw 0x3C 4) → readState s.blk ls = .ready →
      ts = lineItems 1 0 (fieldLE m.raw 0x34 4) (.cmd c i) ls.length ls (fieldLE m.raw 0x38 4) →
      begins (.send c i) s (enqueue n x ts (modCmd c i (fun m => { m with issued := true, need := ts.length }) s.blk)))

/-- The commands of the CTRL unit have their effects. -/
def Obligations.ObjectCommandsAct : Prop :=
  objectCommandsComplete ∧ objFreeActsAtAcceptance ∧ freeRecycleCopySend

/-- CE_COMMAND_ISSUE, CE_COMPLETION, OPERAND_TRANSFER and CE_SCRUB_ACK_CHANGE: an engine's own completion with OK finishes its command; one of an
earlier generation is recorded STALE_HANDLE; an operand read of lines that are ready puts their 256 bytes on the port; an acknowledged scrub is
counted for its berth. -/
def Obligations.AttachedEngines : Prop :=
  ∀ (s : State) (a : Fin 16) (w : Fin 32), awake s.blk →
    (∀ k n rs ms e c i, s.blk.slip.st = .idle → a.val < s.blk.build.attach → (attAt s.blk a).inRst = false → s.blk.dbg.drain = false →
      (pageAt s.blk 0x14).unit = .on → rs = ceReady s.blk a → ceTurn s.blk a (rs.map fun r => r.1) = some (k, n) →
      ms = sortBy (fun p q => p.2.1 < q.2.1 || (p.2.1 = q.2.1 && p.2.2.1 ≤ q.2.2.1)) (rs.filter fun r => r.1 = k) →
      ms.head? = some (k, e, c, i) → becomes (.ceCommandIssue a) s
        (emit (.ceCommand a k c (attAt s.blk a).gen (((cmdAt s.blk c i).map Cmd.raw).getD []))
          (modAtt a (fun y => { y with turn := k, taken := n, out := y.out ++ [(c, i, now s.blk)] })
            (modCmd c i (fun m => { m with issued := true }) s.blk)))) ∧
    (∀ (c gen : BitVec 12) (i t : Nat), s.blk.slip.st = .idle → (attAt s.blk a).inRst = false → gen = (attAt s.blk a).gen →
      (attAt s.blk a).gone.contains (c.toNat, 0) = false → ((attAt s.blk a).out.find? fun o => o.1 = c.toNat) = some (c.toNat, i, t) →
      becomes (.ceCompletion a cOk c gen) s
        (finishCmd c.toNat i cOk 0 (modAtt a (fun x => moveUp c.toNat { x with out := x.out.erase (c.toNat, i, t) }) s.blk))) ∧
    (∀ (st : Byte) (c gen : BitVec 12), s.blk.slip.st = .idle → gen ≠ (attAt s.blk a).gen →
      becomes (.ceCompletion a st c gen) s (recordErr 0x14 cStale none s.blk)) ∧
    (∀ (idx : BitVec 16) (line c i : Nat) (ls : List Nat), s.blk.slip.st = .idle → (attAt s.blk a).inRst = false →
      a.val < s.blk.build.attach → operandCmd s.blk a w idx.toNat = some (c, i) → operandOk s.blk w idx.toNat line false = true →
      ls = objLines s.blk idx.toNat line 4 → readState s.blk ls = .ready → (∀ e ∈ s.blk.hold.upsets, e.1 / 64 ∉ ls) →
      becomes (.operandTransfer a w idx line none []) s
        (emit (.operand a w idx.toNat line (ls.flatMap (lineBytes s.blk))) (count 3 (some w) 4 s.blk))) ∧
    ((attAt s.blk a).scrubAck = false → (attAt s.blk a).scrubReq = true → becomes (.ceScrubAckChange a true) s
      (modBerth (attAt s.blk a).scrubBerth (fun x =>
          if x.st = .scrubSt then { x with scrub := { x.scrub with acked := x.scrub.acked ++ [a.val] } } else x)
        (modAtt a (fun t => { t with scrubReq := false, scrubAck := true }) s.blk)))

/-! ### Berths and run slots -/

/-- CREATE, LOAD, RESIZE and RECLAIM are SCHED_CMD writes taken while none runs: a CREATE that passes its checks gives the berth its shares and
its seed in CREATED; a LOAD asks the host for the container; a RESIZE that passes its checks takes its new shares; a RECLAIM of a LOADED berth
scrubs it and of a RUNNING one seals it. -/
def Obligations.SchedulerCommands : Prop :=
  ∀ (s : State) (m : Master) (w : Fin 32) (b : Nat → Block), writable s.blk m 0x14 0x044 → (pageAt s.blk 0x14).unit = .on →
    s.blk.slip.st = .idle → s.blk.sched.cmd = none →
    (∀ op, b op = modSched (fun x => { x with cmd := some { op := op, berth := w, since := now s.blk }, op := op, berth := w }) (fresh s.blk)) →
    (createCheck (b 1) w = cOk → begins (.create m w) s
      (seedBerth w (setBerthState w .created (setShares w (sharesArg (b 1)) (modBerth w (fun _ => { job := jobArg (b 1) }) (b 1)))))) ∧
    ((berthAt s.blk w).st = .created → coresDead s.blk = false → hifOpen s.blk = true →
      openBit s.blk w = true ∨ (anyHalted s.blk = false ∧ anyBreakpoint s.blk = false) → becomes (.load m w) s
      (emit (.hostRead ((reg s.blk 0x14060).toNat / 64 * 64 + 2 ^ 32 * (reg s.blk 0x14064).toNat) (reg s.blk 0x14068).toNat (.load w))
        (modSched (fun x => { x with cmd := x.cmd.map fun c => { c with len := (reg s.blk 0x14068).toNat } }) (b 2)))) ∧
    (resizeCheck (b 3) w = cOk → begins (.resize m w) s (later (.sched w) (resizeStep (enterCtxs w (setShares w (sharesArg (b 3)) (b 3)))))) ∧
    ((berthAt s.blk w).st = .loaded → begins (.reclaim m w) s (schedEnd cOk (enterScrubbing w (b 4)))) ∧
    ((berthAt s.blk w).st = .running → begins (.reclaim m w) s (schedEnd cOk (enterSealing w false (b 4)))) ∧
    ((berthAt s.blk w).st = .free → becomes (.reclaim m w) s (schedEnd cLifecycle (berthLifecycle w (b 4))))

/-- LOAD_COMPLETE, SEAL_MS_EXPIRY, BERTH_QUIESCED and BERTH_SCRUB_COMPLETE: a container that passes every step loads its berth and ends the
command with OK; a container that could not be read ends it with FETCH_TRAP at step 1, one of an earlier generation of the HIF is counted as
stale; SEAL_MS ends the sealing; a berth that is quiet is cleared; a scrubbed berth is FREE with its page's generation moved on. -/
def Obligations.BerthLifeEvents : Prop :=
  ∀ (s : State) (w : Fin 32), awake s.blk →
    (∀ (gen : BitVec 12) (bs : Bytes) (x : SchedCmd) (t : Block), s.blk.sched.cmd = some x → x.op = 2 → x.berth = w.val →
      hifStale gen s.blk = false → (berthCore s.blk w).any (fun c => (coreAt s.blk c).st = .halted) = false →
      (fieldLE bs 0x10 8 ≤ x.len → loadTable w bs s.blk = .ok t → begins (.loadComplete gen bs false) s (schedEnd cOk (enterLoaded w bs t))) ∧
      becomes (.loadComplete gen bs true) s
        (schedEnd cFetchTrap (setLoadRes w cFetchTrap 1 (eccEvent 8 true (some w.val) 0 0 0 s.blk)))) ∧
    (∀ (gen : BitVec 12) (bs : Bytes) bad, hifStale gen s.blk = true → becomes (.loadComplete gen bs bad) s (staleHif s.blk)) ∧
    ((berthAt s.blk w).st = .sealSt → (berthAt s.blk w).sealOver = false →
      (berthAt s.blk w).sealTick + msTicks s.blk (fld (reg s.blk 0x1406C) 15 0) ≤ now s.blk →
      becomes (.sealMsExpiry w) s (modBerth w (fun x => { x with sealOver := true }) s.blk)) ∧
    ((berthAt s.blk w).st = .scrubSt → (berthAt s.blk w).scrub.quiesced = false → quiescable s.blk w = true →
      begins (.berthQuiesced w) s (startClears w s.blk)) ∧
    ((berthAt s.blk w).st = .scrubSt → (berthAt s.blk w).scrub.quiesced = true → (berthAt s.blk w).scrub.hold = true →
      (∀ a, a < s.blk.build.attach → a ∈ (berthAt s.blk w).scrub.acked) → ∃ b, becomes (.berthScrubComplete w) s b ∧
      b.berths = tset {} s.blk.berths w { st := .free, ckptRes := (berthAt s.blk w).ckptRes, ckptInc := (berthAt s.blk w).ckptInc,
                                          noKey := (berthAt s.blk w).noKey } ∧
      b.keys.cache = s.blk.keys.cache ∧ b.otp = s.blk.otp ∧ b.hold.mem = s.blk.hold.mem ∧
      b.ctxs = s.blk.ctxs ∧ b.regs = s.blk.regs)

/-- SLICE_END, CONTEXT_SWAP_COMPLETE and NP_CAP_EXPIRY: a slice that ends with nobody waiting begins again at a whole number of slices, and with a
context waiting the slot is handed on; a context swapped in holds its slot for one slice; a non-preemptible command past its cap faults and is
counted. -/
def Obligations.RunSlots : Prop :=
  ∀ (s : State) (c : Fin 4096) (w : Nat), awake s.blk → (ctxAt s.blk c).berth = some w →
    ((ctxAt s.blk c).resident = true → (ctxAt s.blk c).stop ≤ now s.blk → pinned (ctxAt s.blk c) = false → waitList s.blk w = [] →
      ∀ e l, l = (berthAt s.blk w).slice → e = (ctxAt s.blk c).stop + l * ((now s.blk - (ctxAt s.blk c).stop) / l) →
      becomes (.sliceEnd c) s (modCtx c (fun x => { x with start := e, stop := e + l }) s.blk)) ∧
    (∀ h rest, (ctxAt s.blk c).resident = true → (ctxAt s.blk c).stop ≤ now s.blk → pinned (ctxAt s.blk c) = false →
      waitList s.blk w = h :: rest → begins (.sliceEnd c) s (later (.sched w) (swapIn h (swapOut c s.blk)))) ∧
    ((ctxAt s.blk c).swapping = true → begins (.contextSwapComplete c) s (later (.sched w) (trace w { kind := 3, ctx := c.val }
      (modCtx c (fun x => { x with swapping := false, resident := true, start := now s.blk + 1,
                                   stop := now s.blk + 1 + (berthAt s.blk w).slice }) s.blk)))) ∧
    (∀ m, s.blk.slip.st = .idle → ((ctxAt s.blk c).cmds.find? fun m => m.started && fNp m.raw && m.tick + 64 * s.blk.build.mgmtMhz ≤ now s.blk)
        = some m →
      begins (.npCapExpiry c) s (raise (0x20 + w) 3 (modBerth w (fun y => { y with npFault := inc32 y.npFault })
        (faultCmd c m.idx cDenied 0x14 0 0 (modCmd c m.idx (fun m => { m with done := none }) (dropIssued c m.idx s.blk))))))

/-! ### The Sealed Update Engine -/

/-- SUE_LANE_CMD, SUE_LANE_COMPLETE, COMMIT and CLEAR: a lane command is refused with BUSY while one runs, ends with the code of its first failed
check, or runs until its clusters are cleared; COMMIT makes a good shadow the active schedule and VALID, CLEAR makes the engine not VALID. -/
def lanesAndScheduleEngines : Prop :=
  ∀ (s : State) (m : Master) (v u x : Word) (mask w c e : Nat) (b : Block), mask = fld v 15 0 → w = fld v 20 16 →
    u = setFld v 9 8 1 → x = setFld v 9 8 2 → (c, e) = suesSel m (latch s.blk m 21) →
    (∀ y, b = modEng c e (fun g => { g with shadow := { g.shadow with shape := fld y 1 0 } }) (fresh s.blk) →
      writable s.blk m 0x19 0x044 → engMay s.blk m c e = true →
      (y = u → engCheck b m c e true = cOk →
        becomes (.commit m v) s (modEng c e (fun g => { g with active := g.shadow, valid := true, last := cOk }) b)) ∧
      (y = x → engCheck b m c e false = cOk → becomes (.clear m v) s (modEng c e (fun g => { g with valid := false, last := cOk }) b))) ∧
    (writable s.blk m 0x19 0x044 → engMay s.blk m c e = false →
      becomes (.commit m v) s (recordErr (errKey m 0x19) cDenied (errBerthOf m) (fresh s.blk)) ∧
      becomes (.clear m v) s (recordErr (errKey m 0x19) cDenied (errBerthOf m) (fresh s.blk))) ∧
    (writable s.blk m 0x18 0x044 → (pageAt s.blk 0x18).unit = .on → v.getLsbD 31 = true →
      (s.blk.sue.cmd.isSome = true → becomes (.sueLaneCmd m v) s (recordErr 0x18 cBusy (errBerthOf m) (fresh s.blk))) ∧
      (s.blk.sue.cmd = none → laneCheck s.blk mask w v = cOk → mask ≠ clustersOf s.blk w → becomes (.sueLaneCmd m v) s
        { fresh s.blk with sue := { s.blk.sue with cmd := some (mask, w) } }) ∧
      (s.blk.sue.cmd = none → laneCheck s.blk mask w v ≠ cOk ∨ mask = clustersOf s.blk w → becomes (.sueLaneCmd m v) s
        (raiseSue w 1 { fresh s.blk with sue := { s.blk.sue with cmd := none, status := laneCheck s.blk mask w v } }))) ∧
    (awake s.blk → s.blk.sue.cmd = some (mask, w) → becomes .sueLaneComplete s (raiseSue w 1
      { s.blk with sue := { s.blk.sue with cmd := none, status := cOk, clusters := tset 0 s.blk.sue.clusters w mask } }))

/-- Operation i of the berth's program may start now, and its code is k. -/
def opWaits (s : State) (w : Nat) (i k : Nat) : Prop :=
  awake s.blk ∧ startable (sueAt s.blk w) i = true ∧ oCode (opAt (sueAt s.blk w) i) = k ∧ s.blk.dbg.drain = false

/-- WAIT, SIGNAL, SEND_GRAD and PROGRAM_RECYCLE start: a WAIT on a fence in ERROR fails its program, any other waits; a SIGNAL signals its fence
with s + BIAS; a SEND_GRAD whose lines are READY queues one frame a line on its crossing; a RECYCLE empties its lines or waits. -/
def programCommunicates : Prop :=
  ∀ (s : State) (w : Fin 32) (i : Nat) (p : SueBerth) (r : Bytes) (b : Block), p = sueAt s.blk w → r = opAt p i →
    b = modSue w (fun p => { p with next := p.next + 1 }) s.blk →
    (opWaits s w i 1 → (fenceAt s.blk (opFence s.blk w r)).state ≠ .error → becomes (.wait w i) s b) ∧
    (opWaits s w i 1 → (fenceAt s.blk (opFence s.blk w r)).state = .error → begins (.wait w i) s (progFail w cPoison b)) ∧
    (opWaits s w i 2 → begins (.signal w i) s
      (signalFence 0 (opFence s.blk w r) (BitVec.ofNat 64 p.s + oBias r) b).2) ∧
    (∀ t e h ls ts, opWaits s w i 3 → tideOf s.blk w = some t → t.xings[fieldLE r 0x0C 2]? = some e →
      h = tget 0 p.peers (fieldLE r 0x10 2) → h ≠ 0 → (xingAt s.blk e.n e.x).st ≠ .failed →
      ls = declLines s.blk p (oDecl r) (fieldLE r 4 4) (fieldLE r 8 4) → readState s.blk ls = .ready →
      ts = lineItems 2 (carrier (declAt p (oDecl r)).owners) h.toNat (.prog w i) ls.length ls (fieldLE r 0x14 4) →
      begins (.sendGrad w i) s (enqueue e.n e.x ts (setNeed w i ts.length b))) ∧
    (∀ t e, opWaits s w i 3 → tideOf s.blk w = some t → t.xings[fieldLE r 0x0C 2]? = some e → (xingAt s.blk e.n e.x).st = .failed →
      begins (.sendGrad w i) s (progFail w (xingAt s.blk e.n e.x).fail b)) ∧
    (∀ ls, opWaits s w i 7 → ls = declLines s.blk p (oDecl r) (fieldLE r 4 4) (fieldLE r 8 4) → recycleReady s.blk ls = true →
      begins (.programRecycle w i) s (ls.foldl (fun b l => emptyLine l b) b)) ∧
    (∀ ls, opWaits s w i 7 → ls = declLines s.blk p (oDecl r) (fieldLE r 4 4) (fieldLE r 8 4) → recycleReady s.blk ls = false →
      begins (.programRecycle w i) s (setNeed w i 1 (modHold (fun h =>
        { h with recycles := h.recycles ++ [⟨h.nextId, ls, none, .prog w i⟩], nextId := h.nextId + 1 }) b)))

/-- REDUCE, PROGRAM_ARRIVE, APPLY and SUE_OP_COMPLETE: a dense REDUCE into a tensor writes the rounded column sums and marks its group where a sum
is not finite; ARRIVE deposits the program's overflow mask at its barrier; an APPLY of a skipped group completes and changes no element, one with
a tensor in a LOST region fails the program, any other reads its tensors; an operation whose work is done is complete, a WAIT when its fence has
reached s + BIAS. -/
def programReducesAndApplies : Prop :=
  ∀ (s : State) (w : Fin 32) (i : Nat) (p : SueBerth) (r : Bytes) (b : Block), p = sueAt s.blk w → r = opAt p i →
    b = modSue w (fun p => { p with next := p.next + 1 }) s.blk →
    (∀ g srcs n sums d, opWaits s w i 4 → p.groups[oGroup r]? = some g →
      srcs = (List.range (oSources r)).map (fun k => declLines s.blk p (oDecl r + k) (fieldLE r 0x14 4) (oLines r)) →
      readState s.blk srcs.flatten = .ready → (∀ e ∈ s.blk.hold.upsets, e.1 / 64 ∉ srcs.flatten) →
      d = count 3 (some w) srcs.flatten.length (setNeed w i 0 b) →
      (g.sparse = false → oDest r ≠ 1 → n = 32 * oLines r →
        sums = sumColumns g.gfmt (srcs.map fun ls => valuesOf 2 n (ls.flatMap (lineBytes s.blk))) →
        begins (.reduce w i []) s (tensorWrite w i (slotOfGroup g 3) (2 * oFirst r) (bytesOf 2 sums)
          (if sums.any (gradNonFinite g.gfmt) then
            modSue w (fun p => { p with mask := p.mask ||| BitVec.ofNat 64 (2 ^ oGroup r) }) (count 10 (some w) (n * oSources r) d)
          else count 10 (some w) (n * oSources r) d))) ∧
      (g.sparse = true ∨ oDest r = 1 → begins (.reduce w i []) s ((if g.sparse then reduceSparse else reduceDense) w i
        { p with next := p.next + 1, need := tset 0 p.need i 0 } g r (srcs.map fun ls => ls.flatMap (lineBytes s.blk)) d))) ∧
    (∀ e, opWaits s w i 5 → progBar s.blk w = some e →
      begins (.programArrive w i) s (depositMask e p.mask (modSue w (fun p => { p with st := .waitRelease }) b))) ∧
    (∀ g a, opWaits s w i 6 → p.groups[oGroup r]? = some g → p.alphas.getD (oGroup r) none = some a →
      (p.skip.getLsbD (oGroup r) = true → begins (.apply w i) s (finOp w i b)) ∧
      (p.skip.getLsbD (oGroup r) = false → g.slots.any (slotLost s.blk w) = true → begins (.apply w i) s (progFail w cPoison b)) ∧
      (p.skip.getLsbD (oGroup r) = false → g.slots.any (slotLost s.blk w) = false → g.sparse = false →
        begins (.apply w i) s (readLines w i g (elemLines g (oFirst r) (fieldLE r 0x10 8)) b)) ∧
      (p.skip.getLsbD (oGroup r) = false → g.slots.any (slotLost s.blk w) = false → g.sparse = true →
        begins (.apply w i) s (readLines w i g (slotLines g 7 0 ((g.params / g.rowWidth + 7) / 8)) b))) ∧
    (awake s.blk → inFlight p i = true → tget 0 p.need i = 0 → p.reads.any (fun x => x.op = i) = false →
      (oCode r ≠ 1 → oCode r ≠ 5 → begins (.sueOpComplete w i) s (finOp w i s.blk)) ∧
      (oCode r = 1 → (fenceAt s.blk (opFence s.blk w r)).state = .error → begins (.sueOpComplete w i) s (progFail w cPoison s.blk)) ∧
      (oCode r = 1 → (fenceAt s.blk (opFence s.blk w r)).state ≠ .error →
        begins (.sueOpComplete w i) s (if geHalf (fenceAt s.blk (opFence s.blk w r)).value (BitVec.ofNat 64 p.s + oBias r) then
          finOp w i s.blk else s.blk)))

/-- When the last line that an APPLY reads has arrived it updates its elements with the step's constants: a dense group every element of the
operation, a sparse group, once its touch bits are read, the rows they mark. -/
def applyUpdatesElements : Prop :=
  ∀ (b : Block) (w i a : Nat) (p : SueBerth) (r : Bytes) (g : SGroup) (k : StepConst), p = sueAt b w → r = opAt p i →
    p.groups[oGroup r]? = some g → p.alphas.getD (oGroup r) none = some a →
    k = stepConst g (p.ks.getD (oGroup r) 0) a (p.scalesNow.getD (oGroup r) fone) →
    (g.sparse = false → applyNext w i b = applyDense w i (oGroup r) p g k (oFirst r) (fieldLE r 0x10 8)
      (modSue w (fun p => { p with reads := p.reads.filter fun x => x.op ≠ i }) b)) ∧
    (g.sparse = true → touchedRows p i g ≠ [] → (∀ x ∈ p.reads, x.op = i → x.slot = 7) → applyNext w i b =
      readLines w i g ((touchedRows p i g).flatMap fun k => slotLines g 6 (4 * k) 4 ++ elemLines g (g.rowWidth * k) g.rowWidth) b) ∧
    (g.sparse = true → (∃ x ∈ p.reads, x.op = i ∧ x.slot ≠ 7) → applyNext w i b = applySparse w i (oGroup r) p g k
      (modSue w (fun p => { p with reads := p.reads.filter fun x => x.op ≠ i }) b))

/-- The operations of a step program have their effects. -/
def Obligations.ProgramOperationsAct : Prop :=
  programCommunicates ∧ programReducesAndApplies ∧ applyUpdatesElements

/-- LAYER_SCALE and STEP_INFO: a scale for a layer and step replaces the one pending for them unless that one was accepted later, else joins the
pending ones, of which there are at most 64; STEP_INFO answers the step last applied. -/
def layerScalesAndStepInfo : Prop :=
  ∀ (s : State) (c : Fin 4096) (i w op : Nat) (m : Cmd) (x : SScale), awake s.blk → s.blk.slip.st = .idle →
    (ctxAt s.blk c).berth = some w → cmdAt s.blk c i = some m → m.started = true → m.done = none → m.issued = false →
    cUnit m.raw = 2 → cOper m.raw = op → x = ⟨cLayer m.raw, fieldLE m.raw 0x28 8, fieldLE m.raw 0x30 4, m.order⟩ →
    (op = 1 → (sueAt s.blk w).pend.any (fun y => y.layer = x.layer && y.step = x.step) = true →
      becomes (.layerScale c i) s (finishCmd c i cOk 0 (modSue w (fun p =>
        { p with pend := p.pend.map fun y => if (y.layer = x.layer && y.step = x.step) && y.order ≤ x.order then x else y }) s.blk))) ∧
    (op = 1 → (sueAt s.blk w).pend.any (fun y => y.layer = x.layer && y.step = x.step) = false → (sueAt s.blk w).pend.length < 64 →
      becomes (.layerScale c i) s (finishCmd c i cOk 0 (modSue w (fun p => { p with pend := p.pend ++ [x] }) s.blk))) ∧
    (op = 1 → (sueAt s.blk w).pend.any (fun y => y.layer = x.layer && y.step = x.step) = false → 64 ≤ (sueAt s.blk w).pend.length →
      becomes (.layerScale c i) s (finishCmd c i cBusy 0 s.blk)) ∧
    (op = 2 → becomes (.stepInfo c i) s (finishCmd c i cOk (BitVec.ofNat 32 (sueAt s.blk w).applied) s.blk))

/-- The commands of the Sealed Update Engine: lanes, schedule engines, layer scales and step information. -/
def Obligations.UpdateEngineCommands : Prop :=
  lanesAndScheduleEngines ∧ layerScalesAndStepInfo

/-! ### Errors and their correction -/

/-- PATROL_READ: a byte of the Hold with at most one bit flipped is written back corrected and logged, one with more is logged and its line is
poisoned; a store other than the Hold logs a corrected error and spoils what holds an uncorrectable one; a place that the patrol may not read is
left as it is. -/
def patrolReads : Prop :=
  ∀ (s : State) (site : EccSite) (a : Nat) (fd : Byte) (fc : BitVec 5) (syn n k : Nat) (w : Option Nat), awake s.blk →
    syn = byteSyndrome (fd, fc) → (n, k, w) = siteOf s.blk site a →
    (patrols s.blk site a = false → becomes (.patrolRead site a fd fc) s s.blk) ∧
    (site = .hold → patrols s.blk site a = true → s.blk.hold.upsets = [] → fd ≠ 0 ∨ fc ≠ 0 →
      (∀ u, checkedByte (tget 0 s.blk.hold.mem a) (fd, fc) = some u → syn ≠ 0 →
        becomes (.patrolRead site a fd fc) s (eccEvent 0 false w syn k (a / 64 + 2 ^ 20 * (a % 64))
          (modHold (fun h => { h with mem := tset 0 h.mem a u }) s.blk))) ∧
      (checkedByte (tget 0 s.blk.hold.mem a) (fd, fc) = none → begins (.patrolRead site a fd fc) s
        (poisonLine (a / 64) (eccEvent 0 true w syn k (a / 64 + 2 ^ 20 * (a % 64))
          (modHold (fun h => { h with upsets := [(a, (fd, fc))] }) s.blk))))) ∧
    (site ≠ .hold → patrols s.blk site a = true → (checkedByte 0 (fd, fc)).isSome = true → syn ≠ 0 →
      becomes (.patrolRead site a fd fc) s (eccEvent n false w syn k a s.blk)) ∧
    (site ≠ .hold → patrols s.blk site a = true → checkedByte 0 (fd, fc) = none →
      begins (.patrolRead site a fd fc) s (spoilSite site a (eccEvent n true w syn k a s.blk)))

/-- A word of a memory path (SITE 7): with no bit flipped it passes as it is and nothing is logged; flipped where its syndrome names one bit it is
corrected, logged as a corrected error and counted; where its syndrome names none the word stays as it is and the error is uncorrectable. -/
def pathWordsAreChecked : Prop :=
  ∀ (w : Option Nat) (i j a : Nat) (e : WordErr) (d : Bytes) (ue : Bool) (b : Block) (syn f : Nat), 4 * e.word + 4 ≤ d.length →
    f = bits e.flips.toNat 31 0 → syn = checkBits col39 f ^^^ bits e.flips.toNat 38 32 →
    (e.flips = 0 → pathWord w i j a e (d, ue, b) = (d, ue, b)) ∧
    (∀ v, e.flips ≠ 0 → syn ≠ 0 → corrected col39 syn (fieldLE d (4 * e.word) 4 ^^^ f) = some v → pathWord w i j a e (d, ue, b) =
      (d.take (4 * e.word) ++ leBytes 4 v ++ d.drop (4 * e.word + 4), ue, eccEvent 7 false w syn i a b)) ∧
    (e.flips ≠ 0 → corrected col39 syn (fieldLE d (4 * e.word) 4 ^^^ f) = none →
      pathWord w i j a e (d, ue, b) = (d, true, eccEvent 7 true w syn j a b)) ∧
    (eccEvent 7 false w syn i a b).ecc.ce = tmod 0 b.ecc.ce 7 inc32

/-- Errors are corrected where they can be and poison what they spoil where they cannot, in the stores and on the memory paths. -/
def Obligations.PatrolCorrectsAndPoisons : Prop :=
  patrolReads ∧ pathWordsAreChecked

/-- ECC_LOG_POP, ECC_DMA_HALT_WRITE, ECC_RETIRE_CMD, ECC_INJ_CTRL and ECC_INJ_COMPLETE: a pop takes the oldest entry and latches its other words;
a 1 releases a halted channel; a Hold bank that is FREE is retired; a test takes its operands from the registers and ends with its syndrome and
outcome, logged where something is found. -/
def Obligations.EccCommands : Prop :=
  ∀ (s : State) (m : Master) (v : Word),
    (∀ e rest, readable s.blk m 0x1A 0x044 → s.blk.ecc.log = e :: rest → becomes (.eccLogPop m 0x044 4) s
      (emit (.readData (e.getD 0 0)) (setLatch m 3 (e.getD 3 0) (setLatch m 2 (e.getD 2 0) (setLatch m 1 (e.getD 1 0)
        (modEcc (fun x => { x with log := rest }) (fresh s.blk))))))) ∧
    (writable s.blk m 0x1A 0x058 → begins (.eccDmaHaltWrite m v) s
      (rescheduleAll (modEcc (fun x => { x with halted := x.halted &&& ~~~v }) (fresh s.blk)))) ∧
    (∀ i, writable s.blk m 0x1A 0x05C → v.getLsbD 31 = true → fld v 12 11 = 0 → i = fld v 10 0 → i < 1536 →
      i ∉ s.blk.ecc.retired → bankState s.blk i = .free → becomes (.eccRetireCmd m v) s
      (raise 0x1A 4 (modEcc (fun x => { x with status := cOk }) (setBank i .faulted
        (modEcc (fun x => { x with retired := x.retired ++ [i] }) (fresh s.blk)))))) ∧
    (∀ i, writable s.blk m 0x1A 0x05C → v.getLsbD 31 = true → fld v 12 11 = 1 → i = fld v 10 0 → retireCheck s.blk 1 i = cOk →
      i ∉ s.blk.ecc.fpages → becomes (.eccRetireCmd m v) s (raise 0x1A 4 (modEcc (fun x => { x with status := cOk })
        (modEcc (fun x => { x with fpages := x.fpages ++ [i] }) (fresh s.blk))))) ∧
    (∀ i, writable s.blk m 0x1A 0x05C → v.getLsbD 31 = true → fld v 12 11 = 2 → i = fld v 10 0 → retireCheck s.blk 2 i = cOk →
      becomes (.eccRetireCmd m v) s (raise 0x1A 4 (modEcc (fun x => { x with status := cOk })
        (modEcc (fun x => { x with ways := x.ways ||| 1 <<< i }) (fresh s.blk))))) ∧
    (writable s.blk m 0x1A 0x05C → v.getLsbD 31 = true → retireCheck s.blk (fld v 12 11) (fld v 10 0) ≠ cOk →
      becomes (.eccRetireCmd m v) s (raise 0x1A 4 (modEcc (fun x =>
        { x with status := retireCheck s.blk (fld v 12 11) (fld v 10 0) }) (fresh s.blk)))) ∧
    (writable s.blk m 0x1A 0x064 → v.getLsbD 31 = true →
      v.getLsbD 26 = true ∨ fld v 10 0 < 1536 ∧ bankState s.blk (fld v 10 0) = .free → s.blk.ecc.test = none →
      becomes (.eccInjCtrl m v) s (modEcc (fun x => { x with
        test := some { ctrl := v, data := reg s.blk 0x1A068, lo := reg s.blk 0x1A06C, hi := reg s.blk 0x1A070 } })
        (setReg 0x1A064 (v &&& 0x7FFFFFFF) (fresh s.blk)))) ∧
    (∀ t syn o r, awake s.blk → s.blk.ecc.test = some t → t.ctrl.getLsbD 26 = true →
      injFinds col39 t.data.toNat t.lo.toNat (fld t.hi 6 0) = (syn, o, r) → becomes .eccInjComplete s
      (raise 0x1A 5 (modEcc (fun x => { x with
          test := none, injOut := (r.map (BitVec.ofNat 32)).getD ((draw s.blk).1.setWidth 32), injRes := BitVec.ofNat 32 (256 * o + 65536 * syn) })
        (if o = 0 then (draw s.blk).2 else eccLog 7 (o = 2) true none syn (fld t.ctrl 10 0) 0 (draw s.blk).2)))) ∧
    (∀ t syn o r line, awake s.blk → s.blk.ecc.test = some t → t.ctrl.getLsbD 26 = false →
      injFinds col13 (fld t.data 7 0) (fld t.lo 7 0) (fld t.hi 4 0) = (syn, o, r) → line = 512 * fld t.ctrl 10 0 + fld t.ctrl 19 11 →
      becomes .eccInjComplete s (raise 0x1A 5 (modEcc (fun x => { x with
          test := none, injOut := (r.map (BitVec.ofNat 32)).getD (((draw s.blk).1.setWidth 8).setWidth 32),
          injRes := BitVec.ofNat 32 (256 * o + 65536 * syn) })
        (emptyLine line (if o = 0 then (draw s.blk).2 else
          eccLog 0 (o = 2) true none syn (fld t.ctrl 10 0) (line + 2 ^ 20 * fld t.ctrl 25 20) (draw s.blk).2)))))

/-! ### Watches and records -/

/-- PORT_WATCH_EXPIRY, ATTACH_WATCH_EXPIRY, HOLD_WATCH_EXPIRY, XING_WATCH_EXPIRY, BARRIER_WATCH_EXPIRY, QUIESCE_WATCH_EXPIRY,
CESCRUB_WATCH_EXPIRY, DRAIN_WATCH_EXPIRY and CORE_WATCH_EXPIRY: each, past its limit, records HANG with its own number and gives the waiting work
up: a port of engine A is reset, an attached engine is reset, a line that waits is poisoned, a crossing or a barrier entry fails, a quiesce goes
on, a drain becomes a squash, a core faults; CESCRUB is recorded once and the block goes on waiting. -/
def Obligations.WatchesGiveUp : Prop :=
  ∀ (s : State), awake s.blk → s.blk.slip.st = .idle →
    (∀ (k : Fin 4) t, portSince s.blk k = some t → expired s.blk 0 t = true → (portAt s.blk k).inRst = false →
      begins (.portWatchExpiry (.cxl k)) s (watchPort k t s.blk)) ∧
    (∀ (g : Fin 8) (tid : BitVec 10) q, s.blk.mems.reqs.find? (fun r => r.group = g.val && r.tid = tid.toNat && !r.fabric && expired s.blk 0 r.since) =
        some q → begins (.portWatchExpiry (.internal g tid)) s (pumpWrites q.berth s.blk.mems.wq.length (abandonOp q.op (modMems
          (fun m => { m with reqs := m.reqs.erase q })
          { hang 0 q.since { kind := 6, code := 0, berth := some q.berth, inst := g, unit := 0x11, gen := (pageAt s.blk 0x11).gen } s.blk with
            recv := { (hang 0 q.since { kind := 6, code := 0, berth := some q.berth, inst := g, unit := 0x11, gen := (pageAt s.blk 0x11).gen } s.blk).recv with
              lostTags := s.blk.recv.lostTags ++ [(lostKey q.group q.slice, q.tid)] } })))) ∧
    (∀ x, s.blk.sched.cmd = some x → x.op = 2 → expired s.blk 0 x.since = true → begins (.portWatchExpiry .hifLoad) s
      (loadEnds x.berth cUncorr 1 (hang 0 x.since { kind := 6, code := 0, berth := some x.berth, gen := s.blk.recv.hifGen } s.blk))) ∧
    (∀ (w : Fin 32) t, windowSince s.blk w = some t → expired s.blk 0 t = true →
      begins (.portWatchExpiry (.hifSector w)) s
        (windowFails w (hang 0 t { kind := 6, code := 0, berth := some w.val, gen := s.blk.recv.hifGen } s.blk))) ∧
    (∀ (c : Fin 4096) w, (ctxAt s.blk c).berth = some w → (ctxAt s.blk c).queue.isSome = true →
      (berthAt s.blk w).st = .joined ∨ (berthAt s.blk w).st = .running → limitOf s.blk 0 ≤ now s.blk →
      becomes (.portWatchExpiry (.hifScan c)) s (hang 0 (now s.blk - limitOf s.blk 0)
        { kind := 6, code := 0, berth := some w, ctx := some c.val, gen := s.blk.recv.hifGen } s.blk)) ∧
    (∀ (a : Fin 16) t, (((attAt s.blk a).out.filter fun o => !((cmdAt s.blk o.1 o.2.1).any fun m => fNp m.raw)).map fun o => o.2.2).min? = some t →
      expired s.blk 1 t = true → (attAt s.blk a).inRst = false → begins (.attachWatchExpiry a) s (resetAttach a true
        (hang 1 t { kind := 6, code := 0, inst := a, unit := 0x14, gen := (attAt s.blk a).gen + 1 } s.blk))) ∧
    (∀ id r, s.blk.hold.waits.find? (fun r => r.id = id) = some r → expired s.blk 2 r.since = true → r.ready = false →
      begins (.holdWatchExpiry id) s (later (.opLost r.op cUncorr) (poisonLine r.line
        (modHold (fun h => { h with waits := h.waits.erase r })
          (hang 2 r.since { kind := 6, code := 0, berth := opBerth s.blk r.op, inst := lineBank r.line, unit := 0x10,
                            gen := (pageAt s.blk 0x10).gen } s.blk))))) ∧
    (∀ (n : Fin 64) (x : Fin 32) t, (lndAt s.blk n).inRst = false → (xingAt s.blk n x).st = .closed ∨ (xingAt s.blk n x).st = .proving →
      (xingAt s.blk n x).waitTick = t + 1 → expired s.blk 3 t = true → begins (.xingWatchExpiry n x) s (failXing n x cUncorr
        (hang 3 t { kind := 6, code := 0, berth := some (xingBerth s.blk n x), inst := n, unit := 0x09, gen := lndGen s.blk n } s.blk))) ∧
    (∀ e : Fin 256, limitOf s.blk 4 ≠ 0 → barWatchDue s.blk e (limitOf s.blk 4) = true →
      begins (.barrierWatchExpiry e) s (failBar e cUncorr none (hang 4 (barAt s.blk e).tick
        { kind := 6, code := 0, berth := some (barAt s.blk e).berth, inst := e, unit := 0x15, gen := (pageAt s.blk 0x15).gen } s.blk))) ∧
    (∀ w : Fin 32, (berthAt s.blk w).st = .scrubSt → (berthAt s.blk w).scrub.quiesced = false → expired s.blk 5 (berthAt s.blk w).scrub.since = true →
      begins (.quiesceWatchExpiry w) s (startClears w (abandonBerth w (hang 5 (berthAt s.blk w).scrub.since
        { kind := 6, code := 0, berth := some w.val, inst := w, unit := 0x20, gen := (pageAt s.blk (0x20 + w)).gen } s.blk)))) ∧
    (∀ w : Fin 32, (berthAt s.blk w).st = .scrubSt → (berthAt s.blk w).scrub.hung = false → expired s.blk 6 (berthAt s.blk w).scrub.since = true →
      (∃ a, a < s.blk.build.attach ∧ a ∉ (berthAt s.blk w).scrub.acked) → becomes (.cescrubWatchExpiry w) s
      (noticeAnyway (hang 6 (berthAt s.blk w).scrub.since
        { kind := 6, code := 0, berth := some w.val, inst := w, unit := 0x20, gen := (pageAt s.blk (0x20 + w)).gen }
        (modBerth w (fun x => { x with scrub := { x.scrub with hung := true } }) s.blk)))) ∧
    (∀ p, hasEnable p = true → p < 0x40 → (pageAt s.blk p).unit = .draining → expired s.blk 7 (pageAt s.blk p).since = true →
      begins (.drainWatchExpiry p) s (squashUnit p (hang 7 (pageAt s.blk p).since
        { kind := 6, code := 0, unit := (kindOf p).getD 0, gen := (pageAt s.blk p).gen } s.blk))) ∧
    (∀ (c : Fin 4) pc, (coreAt s.blk c).st = .running → expired s.blk 8 (coreAt s.blk c).kick = true →
      begins (.coreWatchExpiry c pc) s (coreFaults c 2 pc none (hang 8 (coreAt s.blk c).kick
        { kind := 6, code := 0, inst := c, unit := 0x1B, gen := (coreAt s.blk c).gen + 1 } s.blk)))

/-- RECV_REC_POP, RECV_KICK, CORE_FAULT, CORE_RESTART_COMPLETE and RECOVERY_NOTICE: a pop takes the oldest record, with the words the master may
not see as zeros; a kick restarts the core's watch; a core that faults restarts with its generation moved on, or is DEAD at the third fault within
10 s; restarted it runs, with PATCH_LOST where its patch does not verify; a notice leaves on the lowest open session of its transport. -/
def Obligations.RecoveryEvents : Prop :=
  ∀ (s : State) (c : Fin 4),
    (∀ m ws rest xs, readable s.blk m 0x1B 0x048 → s.blk.recv.ring = ws :: rest → xs = maskWords (seesCommand s.blk m ws) ws →
      becomes (.recvRecPop m 0x048 4) s (emit (.readData (xs.getD 0 0)) ((List.range 15).foldl (fun b k => setLatch m (4 + k) (xs.getD (k + 1) 0) b)
        { fresh s.blk with recv := { s.blk.recv with ring := rest } }))) ∧
    (∀ m (v : Word), writable s.blk m 0x1B (0x120 + 4 * c.val) → v.getLsbD 0 = true →
      becomes (.recvKick m c v) s (modCore c (fun x => { x with kick := now s.blk }) (fresh s.blk))) ∧
    (∀ cause pc fs b, awake s.blk → s.blk.slip.st = .idle → s.blk.sched.cmd = none → (coreAt s.blk c).st = .running →
      fs = ((coreAt s.blk c).faults.filter fun t => now s.blk < t + msTicks s.blk 10000) ++ [now s.blk] →
      b = record { kind := 8, code := if cause = .fetchTrap then cFetchTrap else cUncorr, inst := c, unit := 0x1B,
                   gen := (coreAt s.blk c).gen + 1, d0 := causeCode cause, d1 := pc.toNat, d2 := fs.length } s.blk →
      (fs.length < 3 → becomes (.coreFault c cause pc none) s (raise 0x1B 3 (modCore c (fun x => { x with
          sram := x.sram.filter (fun e => (pageBerth s.blk c (e.1 / 1024)).isSome), st := .restarting, gen := (coreAt s.blk c).gen + 1,
          faults := fs, cause := causeCode cause, pc := pc, since := now s.blk }) b))) ∧
      (3 ≤ fs.length → begins (.coreFault c cause pc none) s (catchUp (raise 0x1B 3
        (record { kind := 9, code := Config.recordCode 9, inst := c, unit := 0x1B, gen := (coreAt s.blk c).gen + 1 }
          (modCore c (fun x => { x with
            sram := x.sram.filter (fun e => (pageBerth s.blk c (e.1 / 1024)).isSome), st := .dead, gen := (coreAt s.blk c).gen + 1,
            faults := fs, cause := causeCode cause, pc := pc, since := now s.blk }) b)))))) ∧
    (∀ good, awake s.blk → s.blk.slip.st = .idle → (coreAt s.blk c).st = .restarting → begins (.coreRestartComplete c good) s
      (catchUp (raise 0x1B 3 (modCore c (fun x => { x with st := .running, kick := now s.blk, patch := !good }) s.blk)))) ∧
    (∀ ws rest i, awake s.blk → s.blk.recv.notices = ws :: rest → noticeSession s.blk = some i → (reg s.blk 0x1B090).getLsbD 31 = true →
      becomes .recoveryNotice s (emit (.notice i ([0x90, 0x02, 0, 0, 0] ++ leBytes 3 64 ++
          ((maskWords (seesCommand s.blk (.session (Fin.ofNat 16 i)) ws) ws).map fun w => leBytes 4 w.toNat).flatten))
        (i3cCall (sessionAt s.blk i).via { s.blk with recv := { s.blk.recv with notices := rest } })))

/-! ### Management -/

/-- GET_VERSION, GET_CAPABILITIES, NEGOTIATE_ALGORITHMS, GET_DIGESTS, GET_CERTIFICATE, CHALLENGE and KEY_EXCHANGE outside any session, in
PROVISIONED and DEPLOYED with no life-cycle move resumed: the responder answers on the transport asked with SPDM 1.3, its capabilities and the
algorithms it has of those offered; a slot that holds no chain is answered with an error; KEY_EXCHANGE opens the lowest free session and draws its
key share; with none free the answer is busy, and a point that is not on the curve is invalid. -/
def Obligations.ResponderAnswers : Prop :=
  ∀ (s : State) (t : Transport) (k : Fin 8) (n : BitVec 256) (q : BitVec 16) (eid : Byte) (point : Bytes), awake s.blk →
    secureState s.blk = true → resuming s.blk = false →
    becomes (.getVersion t) s (answer t (.version [(1, 3)]) s.blk) ∧
    becomes (.getCapabilities t) s (answer t (.capabilities [.cert, .chal, .meas, .keyEx, .encrypt, .mac, .hbeat, .keyUpd]) s.blk) ∧
    (∀ offer, becomes (.negotiateAlgorithms t offer) s
      (answer t (.algorithms (([.ecdsaP384, .sha384, .dheSecp384r1, .aes256Gcm] : List SpdmAlg).filter offer.contains)) s.blk)) ∧
    becomes (.getDigests t) s (answer t (.digests ((List.range 8).filter (slotPopulated s.blk))) s.blk) ∧
    (slotPopulated s.blk k = false → becomes (.getCertificate t k) s (answer t .invalid s.blk) ∧
      becomes (.challenge t k n) s (answer t .invalid s.blk) ∧ becomes (.keyExchange t eid k q point) s (answer t .invalid s.blk)) ∧
    (slotPopulated s.blk k = true →
      becomes (.getCertificate t k) s (answer t (.certificate k (chainOf k s.blk).1) (chainOf k s.blk).2) ∧
      becomes (.challenge t k n) s (answer t (.challengeAuth k ((draw s.blk).1.setWidth 256) (sign (draw s.blk).2).1) (sign (draw s.blk).2).2)) ∧
    (slotPopulated s.blk k = true → (∀ i, i < 16 → (sessionAt s.blk i).up = true) →
      becomes (.keyExchange t eid k q point) s (answer t .busy s.blk)) ∧
    (∀ (i d : Nat) (b : Block) (sid : BitVec 32), slotPopulated s.blk k = true → i < 16 → (sessionAt s.blk i).up = false →
      (∀ j, j < i → (sessionAt s.blk j).up = true) → sid = (draw s.blk).1.setWidth 16 ++ q → b = (draw (draw s.blk).2).2 →
      d = (draw (draw s.blk).2).1.toNat % (p384N - 1) + 1 →
      (onCurve point = true → becomes (.keyExchange t eid k q point) s
        (answer t (.keyExchangeRsp i sid (publicOf d) (sign b).1) (raise 0x1D 1 { (sign b).2 with
          sess := tset {} s.blk.sess i { up := true, sid := sid, via := t, eid := if t = .doe then 0 else eid, slot := k,
                                         secret := sharedSecret d point } }))) ∧
      (onCurve point = false → becomes (.keyExchange t eid k q point) s (answer t .invalid s.blk)))

/-- A request outside PROVISIONED and DEPLOYED, or while a life-cycle move is resumed, is refused with LIFECYCLE and changes nothing (log entry
150). -/
def responderRefuses : Prop :=
  ∀ (s : State) (t : Transport), awake s.blk → secureState s.blk = false ∨ resuming s.blk = true →
    becomes (.getVersion t) s (answer t (.refused cLifecycle) s.blk)

/-- GET_MEASUREMENTS, FINISH, KEY_UPDATE, HEARTBEAT, END_SESSION and IDE_KM in a session: a request on the transport the session was opened on is
answered there; on another it is discarded and recorded; FINISH completes the handshake where its verify data are good and else ends the session;
IDE_KM programs or switches a key set. -/
def sessionRequests : Prop :=
  ∀ (s : State) (i : Fin 16) (t : Transport) (x : Session), awake s.blk → secureState s.blk = true → resuming s.blk = false →
    x = sessionAt s.blk i → x.up = true →
    (∀ k : Byte, x.via = t → becomes (.getMeasurements ⟨some i, t⟩ k) s (answer t (.measurements (measBlocks s.blk (some x.slot) k.toNat)) s.blk)) ∧
    (∀ k : Byte, becomes (.getMeasurements ⟨none, t⟩ k) s (answer t (.measurements (measBlocks s.blk none k.toNat)) s.blk)) ∧
    (∀ ts good, x.via ≠ t → becomes (.finish ⟨some i, t⟩ ts good) s (recordErr 0x1D cDenied none s.blk)) ∧
    (∀ ts, x.via = t → x.fin = false → becomes (.finish ⟨some i, t⟩ ts true) s
      (answer t (.finishRsp i) (modSession i (fun x => { x with fin := true, transcript := ts }) s.blk)) ∧
      begins (.finish ⟨some i, t⟩ ts false) s (endSession i (answer t .decryptError s.blk))) ∧
    (x.via = t → x.fin = true →
      becomes (.keyUpdate ⟨some i, t⟩) s (answer t (.keyUpdateAck i) (modSession i (fun x => { x with keys := x.keys + 1 }) s.blk)) ∧
      becomes (.heartbeat ⟨some i, t⟩) s (answer t (.heartbeatAck i) s.blk) ∧
      begins (.endSession ⟨some i, t⟩) s (endSession i (answer t (.endSessionAck i) s.blk))) ∧
    (∀ (n : Fin 33) (k : Fin 2) key, x.via = t → x.fin = true → t = .doe →
      begins (.ideKm ⟨some i, t⟩ n k (some key)) s (hostResumes s.blk (emit (.ideKey n k)
        (modMgmt (fun m => { m with ide := tset none m.ide (2 * n.val + k.val) (some key) }) (answer .doe (.ideKmAck n k) s.blk)))) ∧
      begins (.ideKm ⟨some i, t⟩ n k none) s (hostResumes s.blk (emit (.ideSwitch n k)
        (modMgmt (fun m => { m with ideSet := tset none m.ideSet n.val (some k.val) }) (answer .doe (.ideKmAck n k) s.blk)))))

/-- LOCK_INTERFACE and INTERFACE_REPORT, and the other TDISP requests these rows carry: an unlocked TDI of a berth with a job is locked under a
fresh nonce, started with that nonce and unlocked by a stop; anything else is answered with an error and changes nothing; the report gives the
TDI's one range (the states and the nonce are PCIe's, log entry 157). -/
def tdiRequests : Prop :=
  ∀ (s : State) (w : Fin 32), awake s.blk →
    (mayLock s.blk w = true → tdiAt s.blk w = .unlocked → ∀ n : BitVec 256, n = (draw s.blk).1.setWidth 256 →
      becomes (.lockInterface w .lock) s (emit (.tdisp w (.lockRsp n)) (setTdi w .locked
        (modMgmt (fun m => { m with nonces := tset 0 m.nonces w n }) (draw s.blk).2)))) ∧
    (mayLock s.blk w = false ∨ tdiAt s.blk w ≠ .unlocked → becomes (.lockInterface w .lock) s (emit (.tdisp w .error) s.blk)) ∧
    (∀ n, tdiAt s.blk w = .locked → tget 0 s.blk.mgmt.nonces w = n →
      becomes (.lockInterface w (.start n)) s (emit (.tdisp w .startRsp) (setTdi w .run s.blk))) ∧
    (∀ n, tdiAt s.blk w ≠ .locked ∨ tget 0 s.blk.mgmt.nonces w ≠ n →
      becomes (.lockInterface w (.start n)) s (emit (.tdisp w .error) s.blk)) ∧
    becomes (.lockInterface w .stop) s (emit (.tdisp w .stopRsp) (setTdi w .unlocked s.blk)) ∧
    (tdiAt s.blk w = .locked ∨ tdiAt s.blk w = .run → becomes (.interfaceReport w .report) s (emit (.tdisp w (.report [(0, 65536)])) s.blk)) ∧
    (tdiAt s.blk w ≠ .locked → tdiAt s.blk w ≠ .run → becomes (.interfaceReport w .report) s (emit (.tdisp w .error) s.blk)) ∧
    becomes (.interfaceReport w .state) s (emit (.tdisp w (.state (tdiAt s.blk w))) s.blk)

/-- Sessions carry requests on their own transport, other requests are refused outside the states that admit them, and TDIs lock, start and stop.
-/
def Obligations.SessionsAndInterfaces : Prop :=
  responderRefuses ∧ sessionRequests ∧ tdiRequests

/-- The Denkan requests REALM_AUTH, ENROLL, REVOKE, PATCH_BEGIN, PATCH_DATA, PATCH_END and DENKAN_REWRAP, and PATCH_ACTIVATE, in a session whose
handshake is complete on its transport, with no life-cycle move resumed: a good signature authenticates the session; a request without its right
is answered DENIED; a delivery begins, grows and is verified; an activation of the image already stored takes effect at once. -/
def denkanRequests : Prop :=
  ∀ (s : State) (i : Fin 16) (t : Transport) (h : DenkanHdr) (x : Session), awake s.blk → secureState s.blk = true → resuming s.blk = false →
    x = sessionAt s.blk i → x.up = true → x.fin = true → x.via = t → h.ver = 2 → h.len ≤ 4096 →
    (∀ pt sg, x.digest = none → ecdsaVerify pt (authString x) sg = true → becomes (.realmAuth ⟨some i, t⟩ h pt sg) s
      (denkanReply ⟨some i, t⟩ 0x01 h.tag cOk [] (modSession i (fun x => { x with digest := some (sha384 pt) }) s.blk))) ∧
    (∀ pt sg, x.digest.isSome = true ∨ ecdsaVerify pt (authString x) sg = false →
      becomes (.realmAuth ⟨some i, t⟩ h pt sg) s (denkanReply ⟨some i, t⟩ 0x01 h.tag cDenied [] s.blk)) ∧
    (∀ d (r : Word), mayEnroll s.blk i d r.toNat = false → becomes (.enroll ⟨some i, t⟩ h d r) s (denkanReply ⟨some i, t⟩ 0x04 h.tag cDenied [] s.blk)) ∧
    (∀ d (r : Word) k, mayEnroll s.blk i d r.toNat = true → r.toNat ≤ 15 → blankRecord s.blk = some k → begins (.enroll ⟨some i, t⟩ h d r) s
      (startRun otpFollow (.enroll ⟨some i, t⟩ h.tag k) (((tornRecords s.blk).flatMap fun k => onesFrom (0x100 + 16 * k) 16) ++
        recordWords k d r.toNat ((x.digest.bind (realmOf s.blk)).getD 0xFF)) s.blk)) ∧
    (∀ d (r : Word), mayEnroll s.blk i d r.toNat = true → r.toNat ≤ 15 → blankRecord s.blk = none → begins (.enroll ⟨some i, t⟩ h d r) s
      (startRun otpFollow (.enroll ⟨some i, t⟩ h.tag 16) ((tornRecords s.blk).flatMap fun k => onesFrom (0x100 + 16 * k) 16) s.blk)) ∧
    (∀ k, (sessRights s.blk i).testBit 3 = false → becomes (.revoke ⟨some i, t⟩ h k) s (denkanReply ⟨some i, t⟩ 0x05 h.tag cDenied [] s.blk)) ∧
    (∀ k b, (sessRights s.blk i).testBit 3 = true → k < 16 →
      ((liveRecords s.blk).filter fun j => j ≠ k && (realmRights s.blk j).testBit 3) ≠ [] →
      b = (List.range 16).foldl (fun b j => if j = i.val ∨ (sessionAt b j).slot ≠ 0 ∨
        (sessionAt b j).digest ≠ some (realmDigest b k) ∨ realmClass b k ≠ .whole then b else endSession j b) s.blk →
      begins (.revoke ⟨some i, t⟩ h k) s (startRun otpFollow (.revoke ⟨some i, t⟩ h.tag k) (onesFrom (0x100 + 16 * k) 16) b)) ∧
    (∀ n, (sessRights s.blk i).testBit 1 = false → becomes (.patchBegin ⟨some i, t⟩ h n) s (denkanReply ⟨some i, t⟩ 0x06 h.tag cDenied [] s.blk)) ∧
    (∀ n, (sessRights s.blk i).testBit 1 = true → s.blk.mgmt.deliv = .idle → 0 < n → n ≤ 262144 → n % 64 = 0 →
      becomes (.patchBegin ⟨some i, t⟩ h n) s (denkanReply ⟨some i, t⟩ 0x06 h.tag cOk []
        (modMgmt (fun m => { m with deliv := .receiving, dsess := i, length := n, stage := [] }) s.blk))) ∧
    (∀ img, s.blk.mgmt.deliv = .receiving → s.blk.mgmt.dsess = i → img ≠ [] → img.length ≤ 4088 →
      s.blk.mgmt.stage.length + img.length ≤ s.blk.mgmt.length →
      becomes (.patchData ⟨some i, t⟩ h s.blk.mgmt.stage.length img) s (denkanReply ⟨some i, t⟩ 0x07 h.tag cOk []
        (modMgmt (fun m => { m with stage := m.stage ++ img }) s.blk))) ∧
    (∀ a f, s.blk.mgmt.deliv = .receiving → s.blk.mgmt.dsess = i → s.blk.mgmt.stage.length = s.blk.mgmt.length →
      (imageCheck s.blk s.blk.mgmt.stage = cOk → a = true → mayActivate s.blk = false → becomes (.patchEnd ⟨some i, t⟩ h a f) s
        (denkanReply ⟨some i, t⟩ 0x08 h.tag cBusy [] (modMgmt (fun m => { m with deliv := .verified, last := cBusy }) (raise 0x1D 2 s.blk)))) ∧
      (imageCheck s.blk s.blk.mgmt.stage = cOk → a = false ∨ mayActivate s.blk = true → becomes (.patchEnd ⟨some i, t⟩ h a f) s
        (denkanReply ⟨some i, t⟩ 0x08 h.tag cOk (sha384 s.blk.mgmt.stage)
          (modMgmt (fun m => { m with deliv := .verified, act := if a then some f else none, last := cOk }) (raise 0x1D 2 s.blk)))) ∧
      (imageCheck s.blk s.blk.mgmt.stage ≠ cOk → becomes (.patchEnd ⟨some i, t⟩ h a f) s
        (denkanReply ⟨some i, t⟩ 0x08 h.tag (imageCheck s.blk s.blk.mgmt.stage) [] (modMgmt (fun m =>
          { m with deliv := .idle, length := 0, stage := [], last := imageCheck s.blk s.blk.mgmt.stage }) (raise 0x1D 2 s.blk))))) ∧
    (∀ f, s.blk.mgmt.act = some f → s.blk.mgmt.deliv = .verified → floorRuns s.blk = false →
      (sameImage s.blk = true → begins .patchActivate s (raise 0x1D 2 (restartPatchLost (modMgmt storeImage s.blk)))) ∧
      (sameImage s.blk = false → allBerthsFree s.blk = false → becomes .patchActivate s
        (raise 0x1D 2 (modMgmt (fun m => { m with act := none, last := cBusy }) s.blk))) ∧
      (sameImage s.blk = false → allBerthsFree s.blk = true → f = true → patchFloor s.blk < imageSvn s.blk.mgmt.stage →
        begins .patchActivate s (startRun otpFollow .floor (onesFrom 0x200 (min (imageSvn s.blk.mgmt.stage) 256)) s.blk)) ∧
      (sameImage s.blk = false → allBerthsFree s.blk = true → f = false ∨ imageSvn s.blk.mgmt.stage ≤ patchFloor s.blk →
        begins .patchActivate s (raise 0x1D 2 (selfRestart (modMgmt storeImage s.blk))))) ∧
    (∀ (rd : Word) o ka kb w y, sessOwner s.blk i = some (w, y) → s.blk.gse.drbgFail = false → bit y.flags 0 = true →
      becomes (.denkanRewrap ⟨some i, t⟩ h rd o ka kb) s (modGse (fun g => { g with fwq := g.fwq ++
        [{ fwSubmit (rewrapDesc w h.tag rd o ka kb) s.blk with via := some (⟨some i, t⟩, h.tag) }] }) s.blk)) ∧
    (∀ (rd : Word) o ka kb, sessOwner s.blk i = none ∨ (∃ w y, sessOwner s.blk i = some (w, y) ∧ bit y.flags 0 = false) →
      becomes (.denkanRewrap ⟨some i, t⟩ h rd o ka kb) s (denkanReply ⟨some i, t⟩ 0x09 h.tag cDenied [] s.blk))

/-- REG_READ and REG_WRITE over Denkan: one word is read and written as the register access of the session would be, and a refused access is
recorded in its page and answered with the refusal. -/
def denkanRegisterAccess : Prop :=
  ∀ (s : State) (i : Fin 16) (t : Transport) (h : DenkanHdr) (off p r : Nat) (v : Word) (src : MgmtSrc), src = ⟨some i, t⟩ → awake s.blk →
    secureState s.blk = true → resuming s.blk = false → (sessionAt s.blk i).up = true → (sessionAt s.blk i).fin = true →
    (sessionAt s.blk i).via = t → h.ver = 2 →
    h.len ≤ 4096 → off % 4 = 0 →
    (∀ d, gate (fresh s.blk) (.session i) off false = .pass p r none → d = doRead (.session i) p r (fresh s.blk) → d.2.errSeen = none →
      begins (.regRead src h off 1) s (denkanReply src 0x02 h.tag cOk (leBytes 4 d.1.toNat) d.2)) ∧
    (∀ k c, gate (fresh s.blk) (.session i) off false = .refuse k c → c ≠ cOk →
      becomes (.regRead src h off 1) s (denkanReply src 0x02 h.tag c [] (recordErr k c none (fresh s.blk)))) ∧
    (∀ d, gate (fresh s.blk) (.session i) off true = .pass p r none → d = doWrite (.session i) p r v (fresh s.blk) → d.errSeen = none →
      begins (.regWrite src h off [v]) s (denkanReply src 0x03 h.tag cOk [] d)) ∧
    (∀ k c, gate (fresh s.blk) (.session i) off true = .refuse k c → c ≠ cOk →
      becomes (.regWrite src h off [v]) s (denkanReply src 0x03 h.tag c [] (recordErr k c none (fresh s.blk))))

/-- Denkan requests have their effects and are answered; register access over Denkan is that of its session. -/
def Obligations.DenkanRequestsAct : Prop :=
  denkanRequests ∧ denkanRegisterAccess

/-! ### Slots, debug and trace -/

/-- SLOT_BIND, SLOT_RELEASE, ENTDAA and SETDASA: a free slot is bound to a berth that is LOADED; releasing a slot that is not bound answers OK;
the I3C target takes the address it is given. -/
def Obligations.SlotsAndAddresses : Prop :=
  ∀ (s : State) (m : Master) (v : Word) (k w : Nat), k = fld v 2 0 → w = fld v 7 3 →
    (writable s.blk m 0x1D 0x04C → v.getLsbD 31 = true → fld v 30 10 = 0 → k ≠ 0 → slotBerth s.blk k = none →
      (berthSlot s.blk w = none → (berthAt s.blk w).st = .loaded → becomes (.slotBind m v) s
        (modMgmt (fun x => { x with slotRes := cOk }) (raise 0x1D 3 { fresh s.blk with certs := tset none s.blk.certs k (some w) }))) ∧
      ((berthAt s.blk w).st = .free → becomes (.slotBind m v) s (modMgmt (fun x => { x with slotRes := cLifecycle }) (fresh s.blk))) ∧
      becomes (.slotRelease m v) s (modMgmt (fun x => { x with slotRes := cOk }) (fresh s.blk))) ∧
    (∀ a : BitVec 7, awake s.blk → becomes (.entdaa a) s (emit (.i3cAddr a.toNat) (modMgmt (fun m => { m with i3c := some a.toNat }) s.blk)) ∧
      becomes (.setdasa a) s (emit (.i3cAddr a.toNat) (modMgmt (fun m => { m with i3c := some a.toNat }) s.blk)))

/-- DBG_OPEN_WRITE, HALT, RESUME, STEP, BREAKPOINT_HIT and DBG_MEM_DATA_READ: the open bits of berths that are not FREE stay, with BUSY; a running
core halts where no berth that is confidential forbids it and DEBUG_USED latches; a halted one resumes with its watch restarted; a read of a
halted core's word answers it, one of the ROM's working area in PROVISIONED and DEPLOYED or of a cleared page answers 0, and ADDR advances. -/
def Obligations.DebugCommands : Prop :=
  ∀ (s : State) (m : Master) (v : Word) (c : Nat), c = dbgCore s.blk →
    (writable s.blk m 0x1E 0x044 → (∀ w, w < 32 → openWritable s.blk w = true) →
      becomes (.dbgOpenWrite m v) s (setReg 0x1E044 v (fresh s.blk))) ∧
    (writable s.blk m 0x1E 0x044 → (∀ w, w < 32 → openWritable s.blk w = false) → v ≠ reg s.blk 0x1E044 →
      becomes (.dbgOpenWrite m v) s (recordErr 0x1E cBusy none (setReg 0x1E044 (reg s.blk 0x1E044) (fresh s.blk)))) ∧
    (writable s.blk m 0x1E 0x05C → v.getLsbD 31 = true →
      (haltRefused s.blk = true → becomes (.halt m v) s (modDbg (fun d => { d with res := cDenied }) (fresh s.blk)) ∧
        becomes (.step m v) s (modDbg (fun d => { d with res := cDenied }) (fresh s.blk))) ∧
      (haltRefused s.blk = false → (coreAt s.blk c).st = .running → becomes (.halt m v) s (modDbg (fun d => { d with res := cOk })
        (raise 0x1E 1 (modDbg (fun d => { d with used := true, drain := d.drain || v.getLsbD 4 }) (coreStops c (fresh s.blk)))))) ∧
      (haltRefused s.blk = false → (coreAt s.blk c).st = .halted → becomes (.step m v) s (modDbg (fun d => { d with res := cOk })
        (raise 0x1E 1 (modDbg (fun d => { d with used := true }) (coreStops c (fresh s.blk)))))) ∧
      ((coreAt s.blk c).st = .halted → begins (.resume m v) s (modDbg (fun d => { d with res := cOk }) (resumeCore c (fresh s.blk)))) ∧
      ((coreAt s.blk c).st ≠ .halted → becomes (.resume m v) s (modDbg (fun d => { d with res := cOk }) (fresh s.blk)))) ∧
    (∀ (k : Fin 4) (pc : Word) n, awake s.blk → (coreAt s.blk k).st = .running → n < 4 → (tget 0 (coreAt s.blk k).bps n).getLsbD 0 = true →
      (tget 0 (coreAt s.blk k).bps n).toNat / 4 = pc.toNat / 4 → becomes (.breakpointHit k pc) s
      (modCore k (fun x => { x with pc := pc }) (raise 0x1E 1 (modDbg (fun d => { d with used := true }) (coreStops k s.blk))))) ∧
    (∀ a n, readable s.blk m 0x1E 0x06C → a = fld (reg s.blk 0x1E068) 17 2 → n = BitVec.ofNat 32 (4 * ((a + 1) % 65536) +
        fld (reg s.blk 0x1E068) 1 0 + 2 ^ 18 * fld (reg s.blk 0x1E068) 31 18) →
      (∀ x, secureState s.blk = false ∨ 8 ≤ a / 1024 → (coreAt s.blk c).st = .halted → (coreAt s.blk c).zeroed.contains (a / 1024) = false →
        tget none (coreAt s.blk c).sram a = some x →
        becomes (.dbgMemDataRead m 0x06C 4) s (emit (.readData x) (setReg 0x1E068 n (fresh s.blk)))) ∧
      ((secureState s.blk = true ∧ a / 1024 < 8) ∨ (coreAt s.blk c).zeroed.contains (a / 1024) = true ∨ (coreAt s.blk c).st ≠ .halted →
        becomes (.dbgMemDataRead m 0x06C 4) s (emit (.readData 0) (setReg 0x1E068 n (fresh s.blk)))))

/-- ASSIGN, UNASSIGN, TRACE_DRAIN and COUNTER_WINDOW_END: a buffer that no berth holds is given, one that another holds is DENIED, a unit that is
not ON answers BUSY; with no records nothing drains; a window past its period shows its counts and begins again from where it ended. -/
def Obligations.TraceAndCounters : Prop :=
  ∀ (s : State) (m : Master) (v : Word) (k w : Nat), k = fld v 5 0 → w = fld v 12 8 →
    (writable s.blk m 0x1F 0x040 → v.getLsbD 31 = true →
      ((pageAt s.blk 0x1F).unit = .on → tget none s.blk.trc.owner k = none → becomes (.assign m v) s
        (modTrc (fun t => { t with res := cOk }) (modTrc (fun t => { t with owner := tset none t.owner k (some w) }) (zeroBuffer k (fresh s.blk))))) ∧
      (∀ o, o ≠ w → (pageAt s.blk 0x1F).unit = .on → tget none s.blk.trc.owner k = some o →
        becomes (.assign m v) s (modTrc (fun t => { t with res := cDenied }) (fresh s.blk)) ∧
        becomes (.unassign m v) s (modTrc (fun t => { t with res := cOk })
          (modTrc (fun t => { t with owner := tset none t.owner k none }) (zeroBuffer k (fresh s.blk))))) ∧
      ((pageAt s.blk 0x1F).unit ≠ .on → becomes (.assign m v) s (modTrc (fun t => { t with res := cBusy }) (fresh s.blk)))) ∧
    (∀ x : Fin 32, awake s.blk → (pageAt s.blk 0x1F).unit = .on → berthInJob s.blk x = true → trcRecs s.blk x ≠ [] →
      (trcRing s.blk x = none → becomes (.traceDrain x) s (recordErr (viewKey x 5) cDenied (some x.val) (recordErr 0x1F cDenied (some x.val) s.blk))) ∧
      (∀ r off n, trcRing s.blk x = some (r, off, n) → (2 ^ n ≤ (BitVec.ofNat 32 (tget 0 s.blk.trc.tail x) - reg s.blk (trcKey x 0x080)).toNat) →
        becomes (.traceDrain x) s s.blk) ∧
      (∀ r off n t k, trcRing s.blk x = some (r, off, n) → t = tget 0 s.blk.trc.tail x →
        k = min (2 ^ n - (BitVec.ofNat 32 t - reg s.blk (trcKey x 0x080)).toNat) (trcRecs s.blk x).length → k ≠ 0 →
        begins (.traceDrain x) s (raise (viewKey x 5) 1 (raise 0x1F 1 (modTrc (fun y => { y with
          recs := tset [] y.recs x ((trcRecs s.blk x).drop k), tail := tset 0 y.tail x ((t + k) % 2 ^ 32) })
          (ringWrite x r off n t ((trcRecs s.blk x).take k) s.blk)))))) ∧
    (∀ (x : Fin 32) p y, awake s.blk → p = reg s.blk (trcKey x 0x088) → y = tget {} s.blk.dbg.per x → p ≠ 0 →
      y.origin + p.toNat ≤ now s.blk → becomes (.counterWindowEnd (some x)) s (traceAt (y.origin + p.toNat) x { kind := 7, detail := tget 0 y.run 0 }
        (modDbg (fun d => { d with per := tset {} d.per x { run := [], shown := y.run, origin := y.origin + p.toNat } }) s.blk))) ∧
    (∀ p, awake s.blk → p = reg s.blk 0x1E0C0 → p ≠ 0 → s.blk.dbg.glob.origin + p.toNat ≤ now s.blk → becomes (.counterWindowEnd none) s
      (raise 0x1E 2 (modDbg (fun d => { d with glob := { run := [], shown := d.glob.run, origin := d.glob.origin + p.toNat } }) s.blk)))

/-! ### Every step -/

/-- The Hold's memory keeps its canonical form in every step. -/
def Obligations.HoldMemoryStaysCanonical : Prop :=
  ∀ s t : State, memSound s → step s = .next t → memSound t

/-- An OTP bit that is 1 stays 1 in every step: nothing unprograms a fuse. -/
def Obligations.OtpBitsStaySet : Prop :=
  ∀ s t : State, step s = .next t → otpGrows s.blk t.blk

/-- The reset state's memory has its canonical form. -/
def Obligations.ResetMemoryIsCanonical : Prop :=
  memSound State.reset
end

