-- ==== Sys2Proof/Laws/Table.lean ====
section
/-!
SUPPORT. The laws of the sparse table: read after write, and the canonical form that every write keeps.
-/

namespace Sys2Proof.Machine

variable {α : Type} [DecidableEq α]

/-- Writing key k leaves every other key as it reads, whatever the table. -/
theorem tget_tset_ne (d : α) (t : Table α) {k j : Nat} (v : α) (h : j ≠ k) : tget d (tset d t k v) j = tget d t j := by
  induction t with
  | nil => unfold tset; split <;> simp_all [tget, eq_comm]
  | cons e t ih =>
    obtain ⟨i, a⟩ := e
    unfold tset
    split
    · split <;> simp [tget, Ne.symm h]
    · split
      · subst_vars
        split <;> simp [tget, Ne.symm h]
      · simp [tget, ih]

/-- A value other than what an unlisted key reads as is read back, whatever the table. -/
theorem tget_tset_self (d : α) (t : Table α) (k : Nat) {v : α} (h : v ≠ d) : tget d (tset d t k v) k = v := by
  induction t with
  | nil => simp [tset, h, tget]
  | cons e t ih =>
    obtain ⟨i, a⟩ := e
    unfold tset
    split
    · simp [tget]
    · split
      · simp [tget]
      · simp [tget, ih, Ne.symm ‹_›]

theorem tcanon_tail {d : α} {e : Nat × α} {t : Table α} (h : tcanon d (e :: t) = true) : tcanon d t = true := by
  cases t with
  | nil => rfl
  | cons _ _ => simp_all [tcanon]

theorem tcanon_cons {d : α} {j : Nat} {a : α} {t : Table α} (ha : a ≠ d) (ht : tcanon d t = true)
    (hj : ∀ e ∈ t.head?, j < e.1) : tcanon d ((j, a) :: t) = true := by
  cases t with
  | nil => simp [tcanon, ha]
  | cons e t => obtain ⟨k, b⟩ := e; simp_all [tcanon]

theorem tcanon_head {d : α} {j : Nat} {a : α} {t : Table α} (h : tcanon d ((j, a) :: t) = true) :
    a ≠ d ∧ ∀ e ∈ t.head?, j < e.1 := by
  cases t with
  | nil => simp_all [tcanon]
  | cons e t => obtain ⟨k, b⟩ := e; simp_all [tcanon]

/-- Below the first key of a canonical table nothing is listed. -/
theorem tget_below {d : α} {t : Table α} {k : Nat} (h : tcanon d t = true) (hk : ∀ e ∈ t.head?, k < e.1) : tget d t k = d := by
  induction t with
  | nil => rfl
  | cons e t ih =>
    obtain ⟨j, a⟩ := e
    have hj : k < j := hk (j, a) rfl
    simp only [tget, Nat.ne_of_gt hj, if_false]
    exact ih (tcanon_tail h) fun e he => Nat.lt_trans hj ((tcanon_head h).2 e he)

/-- The first key of a write is the written key or the table's own first key. -/
theorem tset_head {d : α} {t : Table α} {k : Nat} {v : α} {i : Nat} (hk : i < k) (ht : ∀ e ∈ t.head?, i < e.1)
    (hc : tcanon d t = true) : ∀ e ∈ (tset d t k v).head?, i < e.1 := by
  cases t with
  | nil => unfold tset; split <;> simp [hk]
  | cons e t =>
    obtain ⟨j, a⟩ := e
    have hj : i < j := ht (j, a) rfl
    unfold tset
    split
    · split <;> simp [hj, hk]
    · split
      · split
        · intro e he
          exact Nat.lt_trans hj ((tcanon_head hc).2 e he)
        · simp [hk]
      · simp [hj]

/-- Every write keeps the canonical form. -/
theorem tcanon_tset {d : α} {t : Table α} (k : Nat) (v : α) (h : tcanon d t = true) : tcanon d (tset d t k v) = true := by
  induction t with
  | nil => unfold tset; split <;> simp_all [tcanon]
  | cons e t ih =>
    obtain ⟨j, a⟩ := e
    unfold tset
    split
    · split
      · exact h
      · exact tcanon_cons ‹_› h (by simp_all)
    · split
      · subst_vars
        split
        · exact tcanon_tail h
        · exact tcanon_cons ‹_› (tcanon_tail h) (tcanon_head h).2
      · exact tcanon_cons (tcanon_head h).1 (ih (tcanon_tail h))
          (tset_head (by omega) (tcanon_head h).2 (tcanon_tail h))

/-- In a canonical table every written value is read back. -/
theorem tget_tset_canon {d : α} {t : Table α} (k : Nat) (v : α) (h : tcanon d t = true) : tget d (tset d t k v) k = v := by
  by_cases hv : v = d
  · subst hv
    induction t with
    | nil => simp [tset, tget]
    | cons e t ih =>
      obtain ⟨j, a⟩ := e
      unfold tset
      split
      · simp only [if_true]
        exact tget_below h (by simp_all)
      · split
        · subst_vars
          simp only [if_true]
          exact tget_below (tcanon_tail h) (tcanon_head h).2
        · simp [tget, ih (tcanon_tail h), Ne.symm ‹_›]
  · exact tget_tset_self d t k hv

/-- A run of writes keeps the canonical form. -/
theorem tcanon_tsets {d : α} (vs : List α) : ∀ {t : Table α} (k : Nat), tcanon d t = true → tcanon d (tsets d t k vs) = true := by
  induction vs with
  | nil => intro t k h; exact h
  | cons v vs ih => intro t k h; exact ih (k + 1) (tcanon_tset k v h)

/-- Dropping the entries of some keys keeps the canonical form. -/
theorem tcanon_filter {d : α} (p : Nat × α → Bool) : ∀ {t : Table α}, tcanon d t = true → tcanon d (t.filter p) = true := by
  intro t
  induction t with
  | nil => intro _; rfl
  | cons e t ih =>
    obtain ⟨j, a⟩ := e
    intro h
    have below : ∀ {t : Table α}, tcanon d t = true → (∀ e ∈ t.head?, j < e.1) → ∀ e ∈ (t.filter p).head?, j < e.1 := by
      intro t
      induction t with
      | nil => intro _ _ e he; simp at he
      | cons f t iht =>
        intro hc hh
        have hf : j < f.1 := hh f rfl
        rw [List.filter_cons]
        split
        · intro e he; simp_all
        · exact iht (tcanon_tail hc) fun e he => Nat.lt_trans hf ((tcanon_head (a := f.2) hc).2 e he)
    rw [List.filter_cons]
    split
    · exact tcanon_cons (tcanon_head h).1 (ih (tcanon_tail h)) (below (tcanon_tail h) (tcanon_head h).2)
    · exact ih (tcanon_tail h)

omit [DecidableEq α] in
/-- An empty table reads d everywhere. -/
@[simp] theorem tget_nil (d : α) (k : Nat) : tget d ([] : Table α) k = d := rfl

end Sys2Proof.Machine
end

