-- ==== Sys2Proof/Laws/State.lean ====
section
/-!
SUPPORT. What each update of the block leaves: one lemma per field per update, so that no proof unfolds a record update.
-/

namespace Sys2Proof.Machine

/-! ### emit -/

@[simp] theorem emit_build (o : Output) (b : Block) : (emit o b).build = b.build := rfl
@[simp] theorem emit_phase (o : Output) (b : Block) : (emit o b).phase = b.phase := rfl
@[simp] theorem emit_porN (o : Output) (b : Block) : (emit o b).porN = b.porN := rfl
@[simp] theorem emit_pins (o : Output) (b : Block) : (emit o b).pins = b.pins := rfl
@[simp] theorem emit_tick (o : Output) (b : Block) : (emit o b).tick = b.tick := rfl
@[simp] theorem emit_draws (o : Output) (b : Block) : (emit o b).draws = b.draws := rfl
@[simp] theorem emit_work (o : Output) (b : Block) : (emit o b).work = b.work := rfl
@[simp] theorem emit_errSeen (o : Output) (b : Block) : (emit o b).errSeen = b.errSeen := rfl
@[simp] theorem emit_pages (o : Output) (b : Block) : (emit o b).pages = b.pages := rfl
@[simp] theorem emit_regs (o : Output) (b : Block) : (emit o b).regs = b.regs := rfl
@[simp] theorem emit_latches (o : Output) (b : Block) : (emit o b).latches = b.latches := rfl
@[simp] theorem emit_otp (o : Output) (b : Block) : (emit o b).otp = b.otp := rfl
@[simp] theorem emit_otpRuns (o : Output) (b : Block) : (emit o b).otpRuns = b.otpRuns := rfl
@[simp] theorem emit_lcs (o : Output) (b : Block) : (emit o b).lcs = b.lcs := rfl
@[simp] theorem emit_keys (o : Output) (b : Block) : (emit o b).keys = b.keys := rfl
@[simp] theorem emit_kstg (o : Output) (b : Block) : (emit o b).kstg = b.kstg := rfl
@[simp] theorem emit_gse (o : Output) (b : Block) : (emit o b).gse = b.gse := rfl
@[simp] theorem emit_lnds (o : Output) (b : Block) : (emit o b).lnds = b.lnds := rfl
@[simp] theorem emit_xings (o : Output) (b : Block) : (emit o b).xings = b.xings := rfl
@[simp] theorem emit_hold (o : Output) (b : Block) : (emit o b).hold = b.hold := rfl
@[simp] theorem emit_mems (o : Output) (b : Block) : (emit o b).mems = b.mems := rfl
@[simp] theorem emit_mema (o : Output) (b : Block) : (emit o b).mema = b.mema := rfl
@[simp] theorem emit_objs (o : Output) (b : Block) : (emit o b).objs = b.objs := rfl
@[simp] theorem emit_fences (o : Output) (b : Block) : (emit o b).fences = b.fences := rfl
@[simp] theorem emit_ctxs (o : Output) (b : Block) : (emit o b).ctxs = b.ctxs := rfl
@[simp] theorem emit_copies (o : Output) (b : Block) : (emit o b).copies = b.copies := rfl
@[simp] theorem emit_berths (o : Output) (b : Block) : (emit o b).berths = b.berths := rfl
@[simp] theorem emit_sched (o : Output) (b : Block) : (emit o b).sched = b.sched := rfl
@[simp] theorem emit_sync (o : Output) (b : Block) : (emit o b).sync = b.sync := rfl
@[simp] theorem emit_sue (o : Output) (b : Block) : (emit o b).sue = b.sue := rfl
@[simp] theorem emit_ecc (o : Output) (b : Block) : (emit o b).ecc = b.ecc := rfl
@[simp] theorem emit_recv (o : Output) (b : Block) : (emit o b).recv = b.recv := rfl
@[simp] theorem emit_sess (o : Output) (b : Block) : (emit o b).sess = b.sess := rfl
@[simp] theorem emit_dbg (o : Output) (b : Block) : (emit o b).dbg = b.dbg := rfl
@[simp] theorem emit_trc (o : Output) (b : Block) : (emit o b).trc = b.trc := rfl
@[simp] theorem emit_certs (o : Output) (b : Block) : (emit o b).certs = b.certs := rfl
@[simp] theorem emit_mgmt (o : Output) (b : Block) : (emit o b).mgmt = b.mgmt := rfl
@[simp] theorem emit_slip (o : Output) (b : Block) : (emit o b).slip = b.slip := rfl

/-! ### later -/

@[simp] theorem later_build (w : Work) (b : Block) : (later w b).build = b.build := rfl
@[simp] theorem later_phase (w : Work) (b : Block) : (later w b).phase = b.phase := rfl
@[simp] theorem later_porN (w : Work) (b : Block) : (later w b).porN = b.porN := rfl
@[simp] theorem later_pins (w : Work) (b : Block) : (later w b).pins = b.pins := rfl
@[simp] theorem later_tick (w : Work) (b : Block) : (later w b).tick = b.tick := rfl
@[simp] theorem later_draws (w : Work) (b : Block) : (later w b).draws = b.draws := rfl
@[simp] theorem later_out (w : Work) (b : Block) : (later w b).out = b.out := rfl
@[simp] theorem later_errSeen (w : Work) (b : Block) : (later w b).errSeen = b.errSeen := rfl
@[simp] theorem later_pages (w : Work) (b : Block) : (later w b).pages = b.pages := rfl
@[simp] theorem later_regs (w : Work) (b : Block) : (later w b).regs = b.regs := rfl
@[simp] theorem later_latches (w : Work) (b : Block) : (later w b).latches = b.latches := rfl
@[simp] theorem later_otp (w : Work) (b : Block) : (later w b).otp = b.otp := rfl
@[simp] theorem later_otpRuns (w : Work) (b : Block) : (later w b).otpRuns = b.otpRuns := rfl
@[simp] theorem later_lcs (w : Work) (b : Block) : (later w b).lcs = b.lcs := rfl
@[simp] theorem later_keys (w : Work) (b : Block) : (later w b).keys = b.keys := rfl
@[simp] theorem later_kstg (w : Work) (b : Block) : (later w b).kstg = b.kstg := rfl
@[simp] theorem later_gse (w : Work) (b : Block) : (later w b).gse = b.gse := rfl
@[simp] theorem later_lnds (w : Work) (b : Block) : (later w b).lnds = b.lnds := rfl
@[simp] theorem later_xings (w : Work) (b : Block) : (later w b).xings = b.xings := rfl
@[simp] theorem later_hold (w : Work) (b : Block) : (later w b).hold = b.hold := rfl
@[simp] theorem later_mems (w : Work) (b : Block) : (later w b).mems = b.mems := rfl
@[simp] theorem later_mema (w : Work) (b : Block) : (later w b).mema = b.mema := rfl
@[simp] theorem later_objs (w : Work) (b : Block) : (later w b).objs = b.objs := rfl
@[simp] theorem later_fences (w : Work) (b : Block) : (later w b).fences = b.fences := rfl
@[simp] theorem later_ctxs (w : Work) (b : Block) : (later w b).ctxs = b.ctxs := rfl
@[simp] theorem later_copies (w : Work) (b : Block) : (later w b).copies = b.copies := rfl
@[simp] theorem later_berths (w : Work) (b : Block) : (later w b).berths = b.berths := rfl
@[simp] theorem later_sched (w : Work) (b : Block) : (later w b).sched = b.sched := rfl
@[simp] theorem later_sync (w : Work) (b : Block) : (later w b).sync = b.sync := rfl
@[simp] theorem later_sue (w : Work) (b : Block) : (later w b).sue = b.sue := rfl
@[simp] theorem later_ecc (w : Work) (b : Block) : (later w b).ecc = b.ecc := rfl
@[simp] theorem later_recv (w : Work) (b : Block) : (later w b).recv = b.recv := rfl
@[simp] theorem later_sess (w : Work) (b : Block) : (later w b).sess = b.sess := rfl
@[simp] theorem later_dbg (w : Work) (b : Block) : (later w b).dbg = b.dbg := rfl
@[simp] theorem later_trc (w : Work) (b : Block) : (later w b).trc = b.trc := rfl
@[simp] theorem later_certs (w : Work) (b : Block) : (later w b).certs = b.certs := rfl
@[simp] theorem later_mgmt (w : Work) (b : Block) : (later w b).mgmt = b.mgmt := rfl
@[simp] theorem later_slip (w : Work) (b : Block) : (later w b).slip = b.slip := rfl

/-! ### fresh -/

@[simp] theorem fresh_build (b : Block) : (fresh b).build = b.build := rfl
@[simp] theorem fresh_phase (b : Block) : (fresh b).phase = b.phase := rfl
@[simp] theorem fresh_porN (b : Block) : (fresh b).porN = b.porN := rfl
@[simp] theorem fresh_pins (b : Block) : (fresh b).pins = b.pins := rfl
@[simp] theorem fresh_tick (b : Block) : (fresh b).tick = b.tick := rfl
@[simp] theorem fresh_draws (b : Block) : (fresh b).draws = b.draws := rfl
@[simp] theorem fresh_out (b : Block) : (fresh b).out = b.out := rfl
@[simp] theorem fresh_work (b : Block) : (fresh b).work = b.work := rfl
@[simp] theorem fresh_pages (b : Block) : (fresh b).pages = b.pages := rfl
@[simp] theorem fresh_regs (b : Block) : (fresh b).regs = b.regs := rfl
@[simp] theorem fresh_latches (b : Block) : (fresh b).latches = b.latches := rfl
@[simp] theorem fresh_otp (b : Block) : (fresh b).otp = b.otp := rfl
@[simp] theorem fresh_otpRuns (b : Block) : (fresh b).otpRuns = b.otpRuns := rfl
@[simp] theorem fresh_lcs (b : Block) : (fresh b).lcs = b.lcs := rfl
@[simp] theorem fresh_keys (b : Block) : (fresh b).keys = b.keys := rfl
@[simp] theorem fresh_kstg (b : Block) : (fresh b).kstg = b.kstg := rfl
@[simp] theorem fresh_gse (b : Block) : (fresh b).gse = b.gse := rfl
@[simp] theorem fresh_lnds (b : Block) : (fresh b).lnds = b.lnds := rfl
@[simp] theorem fresh_xings (b : Block) : (fresh b).xings = b.xings := rfl
@[simp] theorem fresh_hold (b : Block) : (fresh b).hold = b.hold := rfl
@[simp] theorem fresh_mems (b : Block) : (fresh b).mems = b.mems := rfl
@[simp] theorem fresh_mema (b : Block) : (fresh b).mema = b.mema := rfl
@[simp] theorem fresh_objs (b : Block) : (fresh b).objs = b.objs := rfl
@[simp] theorem fresh_fences (b : Block) : (fresh b).fences = b.fences := rfl
@[simp] theorem fresh_ctxs (b : Block) : (fresh b).ctxs = b.ctxs := rfl
@[simp] theorem fresh_copies (b : Block) : (fresh b).copies = b.copies := rfl
@[simp] theorem fresh_berths (b : Block) : (fresh b).berths = b.berths := rfl
@[simp] theorem fresh_sched (b : Block) : (fresh b).sched = b.sched := rfl
@[simp] theorem fresh_sync (b : Block) : (fresh b).sync = b.sync := rfl
@[simp] theorem fresh_sue (b : Block) : (fresh b).sue = b.sue := rfl
@[simp] theorem fresh_ecc (b : Block) : (fresh b).ecc = b.ecc := rfl
@[simp] theorem fresh_recv (b : Block) : (fresh b).recv = b.recv := rfl
@[simp] theorem fresh_sess (b : Block) : (fresh b).sess = b.sess := rfl
@[simp] theorem fresh_dbg (b : Block) : (fresh b).dbg = b.dbg := rfl
@[simp] theorem fresh_trc (b : Block) : (fresh b).trc = b.trc := rfl
@[simp] theorem fresh_certs (b : Block) : (fresh b).certs = b.certs := rfl
@[simp] theorem fresh_mgmt (b : Block) : (fresh b).mgmt = b.mgmt := rfl
@[simp] theorem fresh_slip (b : Block) : (fresh b).slip = b.slip := rfl

/-! ### setLatch -/

@[simp] theorem setLatch_build (m : Master) (i : Nat) (v : Word) (b : Block) : (setLatch m i v b).build = b.build := rfl
@[simp] theorem setLatch_phase (m : Master) (i : Nat) (v : Word) (b : Block) : (setLatch m i v b).phase = b.phase := rfl
@[simp] theorem setLatch_porN (m : Master) (i : Nat) (v : Word) (b : Block) : (setLatch m i v b).porN = b.porN := rfl
@[simp] theorem setLatch_pins (m : Master) (i : Nat) (v : Word) (b : Block) : (setLatch m i v b).pins = b.pins := rfl
@[simp] theorem setLatch_tick (m : Master) (i : Nat) (v : Word) (b : Block) : (setLatch m i v b).tick = b.tick := rfl
@[simp] theorem setLatch_draws (m : Master) (i : Nat) (v : Word) (b : Block) : (setLatch m i v b).draws = b.draws := rfl
@[simp] theorem setLatch_out (m : Master) (i : Nat) (v : Word) (b : Block) : (setLatch m i v b).out = b.out := rfl
@[simp] theorem setLatch_work (m : Master) (i : Nat) (v : Word) (b : Block) : (setLatch m i v b).work = b.work := rfl
@[simp] theorem setLatch_errSeen (m : Master) (i : Nat) (v : Word) (b : Block) : (setLatch m i v b).errSeen = b.errSeen := rfl
@[simp] theorem setLatch_pages (m : Master) (i : Nat) (v : Word) (b : Block) : (setLatch m i v b).pages = b.pages := rfl
@[simp] theorem setLatch_regs (m : Master) (i : Nat) (v : Word) (b : Block) : (setLatch m i v b).regs = b.regs := rfl
@[simp] theorem setLatch_otp (m : Master) (i : Nat) (v : Word) (b : Block) : (setLatch m i v b).otp = b.otp := rfl
@[simp] theorem setLatch_otpRuns (m : Master) (i : Nat) (v : Word) (b : Block) : (setLatch m i v b).otpRuns = b.otpRuns := rfl
@[simp] theorem setLatch_lcs (m : Master) (i : Nat) (v : Word) (b : Block) : (setLatch m i v b).lcs = b.lcs := rfl
@[simp] theorem setLatch_keys (m : Master) (i : Nat) (v : Word) (b : Block) : (setLatch m i v b).keys = b.keys := rfl
@[simp] theorem setLatch_kstg (m : Master) (i : Nat) (v : Word) (b : Block) : (setLatch m i v b).kstg = b.kstg := rfl
@[simp] theorem setLatch_gse (m : Master) (i : Nat) (v : Word) (b : Block) : (setLatch m i v b).gse = b.gse := rfl
@[simp] theorem setLatch_lnds (m : Master) (i : Nat) (v : Word) (b : Block) : (setLatch m i v b).lnds = b.lnds := rfl
@[simp] theorem setLatch_xings (m : Master) (i : Nat) (v : Word) (b : Block) : (setLatch m i v b).xings = b.xings := rfl
@[simp] theorem setLatch_hold (m : Master) (i : Nat) (v : Word) (b : Block) : (setLatch m i v b).hold = b.hold := rfl
@[simp] theorem setLatch_mems (m : Master) (i : Nat) (v : Word) (b : Block) : (setLatch m i v b).mems = b.mems := rfl
@[simp] theorem setLatch_mema (m : Master) (i : Nat) (v : Word) (b : Block) : (setLatch m i v b).mema = b.mema := rfl
@[simp] theorem setLatch_objs (m : Master) (i : Nat) (v : Word) (b : Block) : (setLatch m i v b).objs = b.objs := rfl
@[simp] theorem setLatch_fences (m : Master) (i : Nat) (v : Word) (b : Block) : (setLatch m i v b).fences = b.fences := rfl
@[simp] theorem setLatch_ctxs (m : Master) (i : Nat) (v : Word) (b : Block) : (setLatch m i v b).ctxs = b.ctxs := rfl
@[simp] theorem setLatch_copies (m : Master) (i : Nat) (v : Word) (b : Block) : (setLatch m i v b).copies = b.copies := rfl
@[simp] theorem setLatch_berths (m : Master) (i : Nat) (v : Word) (b : Block) : (setLatch m i v b).berths = b.berths := rfl
@[simp] theorem setLatch_sched (m : Master) (i : Nat) (v : Word) (b : Block) : (setLatch m i v b).sched = b.sched := rfl
@[simp] theorem setLatch_sync (m : Master) (i : Nat) (v : Word) (b : Block) : (setLatch m i v b).sync = b.sync := rfl
@[simp] theorem setLatch_sue (m : Master) (i : Nat) (v : Word) (b : Block) : (setLatch m i v b).sue = b.sue := rfl
@[simp] theorem setLatch_ecc (m : Master) (i : Nat) (v : Word) (b : Block) : (setLatch m i v b).ecc = b.ecc := rfl
@[simp] theorem setLatch_recv (m : Master) (i : Nat) (v : Word) (b : Block) : (setLatch m i v b).recv = b.recv := rfl
@[simp] theorem setLatch_sess (m : Master) (i : Nat) (v : Word) (b : Block) : (setLatch m i v b).sess = b.sess := rfl
@[simp] theorem setLatch_dbg (m : Master) (i : Nat) (v : Word) (b : Block) : (setLatch m i v b).dbg = b.dbg := rfl
@[simp] theorem setLatch_trc (m : Master) (i : Nat) (v : Word) (b : Block) : (setLatch m i v b).trc = b.trc := rfl
@[simp] theorem setLatch_certs (m : Master) (i : Nat) (v : Word) (b : Block) : (setLatch m i v b).certs = b.certs := rfl
@[simp] theorem setLatch_mgmt (m : Master) (i : Nat) (v : Word) (b : Block) : (setLatch m i v b).mgmt = b.mgmt := rfl
@[simp] theorem setLatch_slip (m : Master) (i : Nat) (v : Word) (b : Block) : (setLatch m i v b).slip = b.slip := rfl

/-! ### setReg -/

@[simp] theorem setReg_build (a : Nat) (v : Word) (b : Block) : (setReg a v b).build = b.build := rfl
@[simp] theorem setReg_phase (a : Nat) (v : Word) (b : Block) : (setReg a v b).phase = b.phase := rfl
@[simp] theorem setReg_porN (a : Nat) (v : Word) (b : Block) : (setReg a v b).porN = b.porN := rfl
@[simp] theorem setReg_pins (a : Nat) (v : Word) (b : Block) : (setReg a v b).pins = b.pins := rfl
@[simp] theorem setReg_tick (a : Nat) (v : Word) (b : Block) : (setReg a v b).tick = b.tick := rfl
@[simp] theorem setReg_draws (a : Nat) (v : Word) (b : Block) : (setReg a v b).draws = b.draws := rfl
@[simp] theorem setReg_out (a : Nat) (v : Word) (b : Block) : (setReg a v b).out = b.out := rfl
@[simp] theorem setReg_work (a : Nat) (v : Word) (b : Block) : (setReg a v b).work = b.work := rfl
@[simp] theorem setReg_errSeen (a : Nat) (v : Word) (b : Block) : (setReg a v b).errSeen = b.errSeen := rfl
@[simp] theorem setReg_pages (a : Nat) (v : Word) (b : Block) : (setReg a v b).pages = b.pages := rfl
@[simp] theorem setReg_latches (a : Nat) (v : Word) (b : Block) : (setReg a v b).latches = b.latches := rfl
@[simp] theorem setReg_otp (a : Nat) (v : Word) (b : Block) : (setReg a v b).otp = b.otp := rfl
@[simp] theorem setReg_otpRuns (a : Nat) (v : Word) (b : Block) : (setReg a v b).otpRuns = b.otpRuns := rfl
@[simp] theorem setReg_lcs (a : Nat) (v : Word) (b : Block) : (setReg a v b).lcs = b.lcs := rfl
@[simp] theorem setReg_keys (a : Nat) (v : Word) (b : Block) : (setReg a v b).keys = b.keys := rfl
@[simp] theorem setReg_kstg (a : Nat) (v : Word) (b : Block) : (setReg a v b).kstg = b.kstg := rfl
@[simp] theorem setReg_gse (a : Nat) (v : Word) (b : Block) : (setReg a v b).gse = b.gse := rfl
@[simp] theorem setReg_lnds (a : Nat) (v : Word) (b : Block) : (setReg a v b).lnds = b.lnds := rfl
@[simp] theorem setReg_xings (a : Nat) (v : Word) (b : Block) : (setReg a v b).xings = b.xings := rfl
@[simp] theorem setReg_hold (a : Nat) (v : Word) (b : Block) : (setReg a v b).hold = b.hold := rfl
@[simp] theorem setReg_mems (a : Nat) (v : Word) (b : Block) : (setReg a v b).mems = b.mems := rfl
@[simp] theorem setReg_mema (a : Nat) (v : Word) (b : Block) : (setReg a v b).mema = b.mema := rfl
@[simp] theorem setReg_objs (a : Nat) (v : Word) (b : Block) : (setReg a v b).objs = b.objs := rfl
@[simp] theorem setReg_fences (a : Nat) (v : Word) (b : Block) : (setReg a v b).fences = b.fences := rfl
@[simp] theorem setReg_ctxs (a : Nat) (v : Word) (b : Block) : (setReg a v b).ctxs = b.ctxs := rfl
@[simp] theorem setReg_copies (a : Nat) (v : Word) (b : Block) : (setReg a v b).copies = b.copies := rfl
@[simp] theorem setReg_berths (a : Nat) (v : Word) (b : Block) : (setReg a v b).berths = b.berths := rfl
@[simp] theorem setReg_sched (a : Nat) (v : Word) (b : Block) : (setReg a v b).sched = b.sched := rfl
@[simp] theorem setReg_sync (a : Nat) (v : Word) (b : Block) : (setReg a v b).sync = b.sync := rfl
@[simp] theorem setReg_sue (a : Nat) (v : Word) (b : Block) : (setReg a v b).sue = b.sue := rfl
@[simp] theorem setReg_ecc (a : Nat) (v : Word) (b : Block) : (setReg a v b).ecc = b.ecc := rfl
@[simp] theorem setReg_recv (a : Nat) (v : Word) (b : Block) : (setReg a v b).recv = b.recv := rfl
@[simp] theorem setReg_sess (a : Nat) (v : Word) (b : Block) : (setReg a v b).sess = b.sess := rfl
@[simp] theorem setReg_dbg (a : Nat) (v : Word) (b : Block) : (setReg a v b).dbg = b.dbg := rfl
@[simp] theorem setReg_trc (a : Nat) (v : Word) (b : Block) : (setReg a v b).trc = b.trc := rfl
@[simp] theorem setReg_certs (a : Nat) (v : Word) (b : Block) : (setReg a v b).certs = b.certs := rfl
@[simp] theorem setReg_mgmt (a : Nat) (v : Word) (b : Block) : (setReg a v b).mgmt = b.mgmt := rfl
@[simp] theorem setReg_slip (a : Nat) (v : Word) (b : Block) : (setReg a v b).slip = b.slip := rfl

/-! ### modBerth -/

@[simp] theorem modBerth_build (w : Nat) (f : Berth → Berth) (b : Block) : (modBerth w f b).build = b.build := rfl
@[simp] theorem modBerth_phase (w : Nat) (f : Berth → Berth) (b : Block) : (modBerth w f b).phase = b.phase := rfl
@[simp] theorem modBerth_porN (w : Nat) (f : Berth → Berth) (b : Block) : (modBerth w f b).porN = b.porN := rfl
@[simp] theorem modBerth_pins (w : Nat) (f : Berth → Berth) (b : Block) : (modBerth w f b).pins = b.pins := rfl
@[simp] theorem modBerth_tick (w : Nat) (f : Berth → Berth) (b : Block) : (modBerth w f b).tick = b.tick := rfl
@[simp] theorem modBerth_draws (w : Nat) (f : Berth → Berth) (b : Block) : (modBerth w f b).draws = b.draws := rfl
@[simp] theorem modBerth_out (w : Nat) (f : Berth → Berth) (b : Block) : (modBerth w f b).out = b.out := rfl
@[simp] theorem modBerth_work (w : Nat) (f : Berth → Berth) (b : Block) : (modBerth w f b).work = b.work := rfl
@[simp] theorem modBerth_errSeen (w : Nat) (f : Berth → Berth) (b : Block) : (modBerth w f b).errSeen = b.errSeen := rfl
@[simp] theorem modBerth_pages (w : Nat) (f : Berth → Berth) (b : Block) : (modBerth w f b).pages = b.pages := rfl
@[simp] theorem modBerth_regs (w : Nat) (f : Berth → Berth) (b : Block) : (modBerth w f b).regs = b.regs := rfl
@[simp] theorem modBerth_latches (w : Nat) (f : Berth → Berth) (b : Block) : (modBerth w f b).latches = b.latches := rfl
@[simp] theorem modBerth_otp (w : Nat) (f : Berth → Berth) (b : Block) : (modBerth w f b).otp = b.otp := rfl
@[simp] theorem modBerth_otpRuns (w : Nat) (f : Berth → Berth) (b : Block) : (modBerth w f b).otpRuns = b.otpRuns := rfl
@[simp] theorem modBerth_lcs (w : Nat) (f : Berth → Berth) (b : Block) : (modBerth w f b).lcs = b.lcs := rfl
@[simp] theorem modBerth_keys (w : Nat) (f : Berth → Berth) (b : Block) : (modBerth w f b).keys = b.keys := rfl
@[simp] theorem modBerth_kstg (w : Nat) (f : Berth → Berth) (b : Block) : (modBerth w f b).kstg = b.kstg := rfl
@[simp] theorem modBerth_gse (w : Nat) (f : Berth → Berth) (b : Block) : (modBerth w f b).gse = b.gse := rfl
@[simp] theorem modBerth_lnds (w : Nat) (f : Berth → Berth) (b : Block) : (modBerth w f b).lnds = b.lnds := rfl
@[simp] theorem modBerth_xings (w : Nat) (f : Berth → Berth) (b : Block) : (modBerth w f b).xings = b.xings := rfl
@[simp] theorem modBerth_hold (w : Nat) (f : Berth → Berth) (b : Block) : (modBerth w f b).hold = b.hold := rfl
@[simp] theorem modBerth_mems (w : Nat) (f : Berth → Berth) (b : Block) : (modBerth w f b).mems = b.mems := rfl
@[simp] theorem modBerth_mema (w : Nat) (f : Berth → Berth) (b : Block) : (modBerth w f b).mema = b.mema := rfl
@[simp] theorem modBerth_objs (w : Nat) (f : Berth → Berth) (b : Block) : (modBerth w f b).objs = b.objs := rfl
@[simp] theorem modBerth_fences (w : Nat) (f : Berth → Berth) (b : Block) : (modBerth w f b).fences = b.fences := rfl
@[simp] theorem modBerth_ctxs (w : Nat) (f : Berth → Berth) (b : Block) : (modBerth w f b).ctxs = b.ctxs := rfl
@[simp] theorem modBerth_copies (w : Nat) (f : Berth → Berth) (b : Block) : (modBerth w f b).copies = b.copies := rfl
@[simp] theorem modBerth_sched (w : Nat) (f : Berth → Berth) (b : Block) : (modBerth w f b).sched = b.sched := rfl
@[simp] theorem modBerth_sync (w : Nat) (f : Berth → Berth) (b : Block) : (modBerth w f b).sync = b.sync := rfl
@[simp] theorem modBerth_sue (w : Nat) (f : Berth → Berth) (b : Block) : (modBerth w f b).sue = b.sue := rfl
@[simp] theorem modBerth_ecc (w : Nat) (f : Berth → Berth) (b : Block) : (modBerth w f b).ecc = b.ecc := rfl
@[simp] theorem modBerth_recv (w : Nat) (f : Berth → Berth) (b : Block) : (modBerth w f b).recv = b.recv := rfl
@[simp] theorem modBerth_sess (w : Nat) (f : Berth → Berth) (b : Block) : (modBerth w f b).sess = b.sess := rfl
@[simp] theorem modBerth_dbg (w : Nat) (f : Berth → Berth) (b : Block) : (modBerth w f b).dbg = b.dbg := rfl
@[simp] theorem modBerth_trc (w : Nat) (f : Berth → Berth) (b : Block) : (modBerth w f b).trc = b.trc := rfl
@[simp] theorem modBerth_certs (w : Nat) (f : Berth → Berth) (b : Block) : (modBerth w f b).certs = b.certs := rfl
@[simp] theorem modBerth_mgmt (w : Nat) (f : Berth → Berth) (b : Block) : (modBerth w f b).mgmt = b.mgmt := rfl
@[simp] theorem modBerth_slip (w : Nat) (f : Berth → Berth) (b : Block) : (modBerth w f b).slip = b.slip := rfl

/-! ### modCtx -/

@[simp] theorem modCtx_build (c : Nat) (f : Ctx → Ctx) (b : Block) : (modCtx c f b).build = b.build := rfl
@[simp] theorem modCtx_phase (c : Nat) (f : Ctx → Ctx) (b : Block) : (modCtx c f b).phase = b.phase := rfl
@[simp] theorem modCtx_porN (c : Nat) (f : Ctx → Ctx) (b : Block) : (modCtx c f b).porN = b.porN := rfl
@[simp] theorem modCtx_pins (c : Nat) (f : Ctx → Ctx) (b : Block) : (modCtx c f b).pins = b.pins := rfl
@[simp] theorem modCtx_tick (c : Nat) (f : Ctx → Ctx) (b : Block) : (modCtx c f b).tick = b.tick := rfl
@[simp] theorem modCtx_draws (c : Nat) (f : Ctx → Ctx) (b : Block) : (modCtx c f b).draws = b.draws := rfl
@[simp] theorem modCtx_out (c : Nat) (f : Ctx → Ctx) (b : Block) : (modCtx c f b).out = b.out := rfl
@[simp] theorem modCtx_work (c : Nat) (f : Ctx → Ctx) (b : Block) : (modCtx c f b).work = b.work := rfl
@[simp] theorem modCtx_errSeen (c : Nat) (f : Ctx → Ctx) (b : Block) : (modCtx c f b).errSeen = b.errSeen := rfl
@[simp] theorem modCtx_pages (c : Nat) (f : Ctx → Ctx) (b : Block) : (modCtx c f b).pages = b.pages := rfl
@[simp] theorem modCtx_regs (c : Nat) (f : Ctx → Ctx) (b : Block) : (modCtx c f b).regs = b.regs := rfl
@[simp] theorem modCtx_latches (c : Nat) (f : Ctx → Ctx) (b : Block) : (modCtx c f b).latches = b.latches := rfl
@[simp] theorem modCtx_otp (c : Nat) (f : Ctx → Ctx) (b : Block) : (modCtx c f b).otp = b.otp := rfl
@[simp] theorem modCtx_otpRuns (c : Nat) (f : Ctx → Ctx) (b : Block) : (modCtx c f b).otpRuns = b.otpRuns := rfl
@[simp] theorem modCtx_lcs (c : Nat) (f : Ctx → Ctx) (b : Block) : (modCtx c f b).lcs = b.lcs := rfl
@[simp] theorem modCtx_keys (c : Nat) (f : Ctx → Ctx) (b : Block) : (modCtx c f b).keys = b.keys := rfl
@[simp] theorem modCtx_kstg (c : Nat) (f : Ctx → Ctx) (b : Block) : (modCtx c f b).kstg = b.kstg := rfl
@[simp] theorem modCtx_gse (c : Nat) (f : Ctx → Ctx) (b : Block) : (modCtx c f b).gse = b.gse := rfl
@[simp] theorem modCtx_lnds (c : Nat) (f : Ctx → Ctx) (b : Block) : (modCtx c f b).lnds = b.lnds := rfl
@[simp] theorem modCtx_xings (c : Nat) (f : Ctx → Ctx) (b : Block) : (modCtx c f b).xings = b.xings := rfl
@[simp] theorem modCtx_hold (c : Nat) (f : Ctx → Ctx) (b : Block) : (modCtx c f b).hold = b.hold := rfl
@[simp] theorem modCtx_mems (c : Nat) (f : Ctx → Ctx) (b : Block) : (modCtx c f b).mems = b.mems := rfl
@[simp] theorem modCtx_mema (c : Nat) (f : Ctx → Ctx) (b : Block) : (modCtx c f b).mema = b.mema := rfl
@[simp] theorem modCtx_objs (c : Nat) (f : Ctx → Ctx) (b : Block) : (modCtx c f b).objs = b.objs := rfl
@[simp] theorem modCtx_fences (c : Nat) (f : Ctx → Ctx) (b : Block) : (modCtx c f b).fences = b.fences := rfl
@[simp] theorem modCtx_copies (c : Nat) (f : Ctx → Ctx) (b : Block) : (modCtx c f b).copies = b.copies := rfl
@[simp] theorem modCtx_berths (c : Nat) (f : Ctx → Ctx) (b : Block) : (modCtx c f b).berths = b.berths := rfl
@[simp] theorem modCtx_sched (c : Nat) (f : Ctx → Ctx) (b : Block) : (modCtx c f b).sched = b.sched := rfl
@[simp] theorem modCtx_sync (c : Nat) (f : Ctx → Ctx) (b : Block) : (modCtx c f b).sync = b.sync := rfl
@[simp] theorem modCtx_sue (c : Nat) (f : Ctx → Ctx) (b : Block) : (modCtx c f b).sue = b.sue := rfl
@[simp] theorem modCtx_ecc (c : Nat) (f : Ctx → Ctx) (b : Block) : (modCtx c f b).ecc = b.ecc := rfl
@[simp] theorem modCtx_recv (c : Nat) (f : Ctx → Ctx) (b : Block) : (modCtx c f b).recv = b.recv := rfl
@[simp] theorem modCtx_sess (c : Nat) (f : Ctx → Ctx) (b : Block) : (modCtx c f b).sess = b.sess := rfl
@[simp] theorem modCtx_dbg (c : Nat) (f : Ctx → Ctx) (b : Block) : (modCtx c f b).dbg = b.dbg := rfl
@[simp] theorem modCtx_trc (c : Nat) (f : Ctx → Ctx) (b : Block) : (modCtx c f b).trc = b.trc := rfl
@[simp] theorem modCtx_certs (c : Nat) (f : Ctx → Ctx) (b : Block) : (modCtx c f b).certs = b.certs := rfl
@[simp] theorem modCtx_mgmt (c : Nat) (f : Ctx → Ctx) (b : Block) : (modCtx c f b).mgmt = b.mgmt := rfl
@[simp] theorem modCtx_slip (c : Nat) (f : Ctx → Ctx) (b : Block) : (modCtx c f b).slip = b.slip := rfl

/-! ### modKey -/

@[simp] theorem modKey_build (k : Nat) (f : KeyEntry → KeyEntry) (b : Block) : (modKey k f b).build = b.build := rfl
@[simp] theorem modKey_phase (k : Nat) (f : KeyEntry → KeyEntry) (b : Block) : (modKey k f b).phase = b.phase := rfl
@[simp] theorem modKey_porN (k : Nat) (f : KeyEntry → KeyEntry) (b : Block) : (modKey k f b).porN = b.porN := rfl
@[simp] theorem modKey_pins (k : Nat) (f : KeyEntry → KeyEntry) (b : Block) : (modKey k f b).pins = b.pins := rfl
@[simp] theorem modKey_tick (k : Nat) (f : KeyEntry → KeyEntry) (b : Block) : (modKey k f b).tick = b.tick := rfl
@[simp] theorem modKey_draws (k : Nat) (f : KeyEntry → KeyEntry) (b : Block) : (modKey k f b).draws = b.draws := rfl
@[simp] theorem modKey_out (k : Nat) (f : KeyEntry → KeyEntry) (b : Block) : (modKey k f b).out = b.out := rfl
@[simp] theorem modKey_work (k : Nat) (f : KeyEntry → KeyEntry) (b : Block) : (modKey k f b).work = b.work := rfl
@[simp] theorem modKey_errSeen (k : Nat) (f : KeyEntry → KeyEntry) (b : Block) : (modKey k f b).errSeen = b.errSeen := rfl
@[simp] theorem modKey_pages (k : Nat) (f : KeyEntry → KeyEntry) (b : Block) : (modKey k f b).pages = b.pages := rfl
@[simp] theorem modKey_regs (k : Nat) (f : KeyEntry → KeyEntry) (b : Block) : (modKey k f b).regs = b.regs := rfl
@[simp] theorem modKey_latches (k : Nat) (f : KeyEntry → KeyEntry) (b : Block) : (modKey k f b).latches = b.latches := rfl
@[simp] theorem modKey_otp (k : Nat) (f : KeyEntry → KeyEntry) (b : Block) : (modKey k f b).otp = b.otp := rfl
@[simp] theorem modKey_otpRuns (k : Nat) (f : KeyEntry → KeyEntry) (b : Block) : (modKey k f b).otpRuns = b.otpRuns := rfl
@[simp] theorem modKey_lcs (k : Nat) (f : KeyEntry → KeyEntry) (b : Block) : (modKey k f b).lcs = b.lcs := rfl
@[simp] theorem modKey_kstg (k : Nat) (f : KeyEntry → KeyEntry) (b : Block) : (modKey k f b).kstg = b.kstg := rfl
@[simp] theorem modKey_gse (k : Nat) (f : KeyEntry → KeyEntry) (b : Block) : (modKey k f b).gse = b.gse := rfl
@[simp] theorem modKey_lnds (k : Nat) (f : KeyEntry → KeyEntry) (b : Block) : (modKey k f b).lnds = b.lnds := rfl
@[simp] theorem modKey_xings (k : Nat) (f : KeyEntry → KeyEntry) (b : Block) : (modKey k f b).xings = b.xings := rfl
@[simp] theorem modKey_hold (k : Nat) (f : KeyEntry → KeyEntry) (b : Block) : (modKey k f b).hold = b.hold := rfl
@[simp] theorem modKey_mems (k : Nat) (f : KeyEntry → KeyEntry) (b : Block) : (modKey k f b).mems = b.mems := rfl
@[simp] theorem modKey_mema (k : Nat) (f : KeyEntry → KeyEntry) (b : Block) : (modKey k f b).mema = b.mema := rfl
@[simp] theorem modKey_objs (k : Nat) (f : KeyEntry → KeyEntry) (b : Block) : (modKey k f b).objs = b.objs := rfl
@[simp] theorem modKey_fences (k : Nat) (f : KeyEntry → KeyEntry) (b : Block) : (modKey k f b).fences = b.fences := rfl
@[simp] theorem modKey_ctxs (k : Nat) (f : KeyEntry → KeyEntry) (b : Block) : (modKey k f b).ctxs = b.ctxs := rfl
@[simp] theorem modKey_copies (k : Nat) (f : KeyEntry → KeyEntry) (b : Block) : (modKey k f b).copies = b.copies := rfl
@[simp] theorem modKey_berths (k : Nat) (f : KeyEntry → KeyEntry) (b : Block) : (modKey k f b).berths = b.berths := rfl
@[simp] theorem modKey_sched (k : Nat) (f : KeyEntry → KeyEntry) (b : Block) : (modKey k f b).sched = b.sched := rfl
@[simp] theorem modKey_sync (k : Nat) (f : KeyEntry → KeyEntry) (b : Block) : (modKey k f b).sync = b.sync := rfl
@[simp] theorem modKey_sue (k : Nat) (f : KeyEntry → KeyEntry) (b : Block) : (modKey k f b).sue = b.sue := rfl
@[simp] theorem modKey_ecc (k : Nat) (f : KeyEntry → KeyEntry) (b : Block) : (modKey k f b).ecc = b.ecc := rfl
@[simp] theorem modKey_recv (k : Nat) (f : KeyEntry → KeyEntry) (b : Block) : (modKey k f b).recv = b.recv := rfl
@[simp] theorem modKey_sess (k : Nat) (f : KeyEntry → KeyEntry) (b : Block) : (modKey k f b).sess = b.sess := rfl
@[simp] theorem modKey_dbg (k : Nat) (f : KeyEntry → KeyEntry) (b : Block) : (modKey k f b).dbg = b.dbg := rfl
@[simp] theorem modKey_trc (k : Nat) (f : KeyEntry → KeyEntry) (b : Block) : (modKey k f b).trc = b.trc := rfl
@[simp] theorem modKey_certs (k : Nat) (f : KeyEntry → KeyEntry) (b : Block) : (modKey k f b).certs = b.certs := rfl
@[simp] theorem modKey_mgmt (k : Nat) (f : KeyEntry → KeyEntry) (b : Block) : (modKey k f b).mgmt = b.mgmt := rfl
@[simp] theorem modKey_slip (k : Nat) (f : KeyEntry → KeyEntry) (b : Block) : (modKey k f b).slip = b.slip := rfl

/-! ### modFence -/

@[simp] theorem modFence_build (i : Nat) (f : Fence → Fence) (b : Block) : (modFence i f b).build = b.build := rfl
@[simp] theorem modFence_phase (i : Nat) (f : Fence → Fence) (b : Block) : (modFence i f b).phase = b.phase := rfl
@[simp] theorem modFence_porN (i : Nat) (f : Fence → Fence) (b : Block) : (modFence i f b).porN = b.porN := rfl
@[simp] theorem modFence_pins (i : Nat) (f : Fence → Fence) (b : Block) : (modFence i f b).pins = b.pins := rfl
@[simp] theorem modFence_tick (i : Nat) (f : Fence → Fence) (b : Block) : (modFence i f b).tick = b.tick := rfl
@[simp] theorem modFence_draws (i : Nat) (f : Fence → Fence) (b : Block) : (modFence i f b).draws = b.draws := rfl
@[simp] theorem modFence_out (i : Nat) (f : Fence → Fence) (b : Block) : (modFence i f b).out = b.out := rfl
@[simp] theorem modFence_work (i : Nat) (f : Fence → Fence) (b : Block) : (modFence i f b).work = b.work := rfl
@[simp] theorem modFence_errSeen (i : Nat) (f : Fence → Fence) (b : Block) : (modFence i f b).errSeen = b.errSeen := rfl
@[simp] theorem modFence_pages (i : Nat) (f : Fence → Fence) (b : Block) : (modFence i f b).pages = b.pages := rfl
@[simp] theorem modFence_regs (i : Nat) (f : Fence → Fence) (b : Block) : (modFence i f b).regs = b.regs := rfl
@[simp] theorem modFence_latches (i : Nat) (f : Fence → Fence) (b : Block) : (modFence i f b).latches = b.latches := rfl
@[simp] theorem modFence_otp (i : Nat) (f : Fence → Fence) (b : Block) : (modFence i f b).otp = b.otp := rfl
@[simp] theorem modFence_otpRuns (i : Nat) (f : Fence → Fence) (b : Block) : (modFence i f b).otpRuns = b.otpRuns := rfl
@[simp] theorem modFence_lcs (i : Nat) (f : Fence → Fence) (b : Block) : (modFence i f b).lcs = b.lcs := rfl
@[simp] theorem modFence_keys (i : Nat) (f : Fence → Fence) (b : Block) : (modFence i f b).keys = b.keys := rfl
@[simp] theorem modFence_kstg (i : Nat) (f : Fence → Fence) (b : Block) : (modFence i f b).kstg = b.kstg := rfl
@[simp] theorem modFence_gse (i : Nat) (f : Fence → Fence) (b : Block) : (modFence i f b).gse = b.gse := rfl
@[simp] theorem modFence_lnds (i : Nat) (f : Fence → Fence) (b : Block) : (modFence i f b).lnds = b.lnds := rfl
@[simp] theorem modFence_xings (i : Nat) (f : Fence → Fence) (b : Block) : (modFence i f b).xings = b.xings := rfl
@[simp] theorem modFence_hold (i : Nat) (f : Fence → Fence) (b : Block) : (modFence i f b).hold = b.hold := rfl
@[simp] theorem modFence_mems (i : Nat) (f : Fence → Fence) (b : Block) : (modFence i f b).mems = b.mems := rfl
@[simp] theorem modFence_mema (i : Nat) (f : Fence → Fence) (b : Block) : (modFence i f b).mema = b.mema := rfl
@[simp] theorem modFence_objs (i : Nat) (f : Fence → Fence) (b : Block) : (modFence i f b).objs = b.objs := rfl
@[simp] theorem modFence_ctxs (i : Nat) (f : Fence → Fence) (b : Block) : (modFence i f b).ctxs = b.ctxs := rfl
@[simp] theorem modFence_copies (i : Nat) (f : Fence → Fence) (b : Block) : (modFence i f b).copies = b.copies := rfl
@[simp] theorem modFence_berths (i : Nat) (f : Fence → Fence) (b : Block) : (modFence i f b).berths = b.berths := rfl
@[simp] theorem modFence_sched (i : Nat) (f : Fence → Fence) (b : Block) : (modFence i f b).sched = b.sched := rfl
@[simp] theorem modFence_sync (i : Nat) (f : Fence → Fence) (b : Block) : (modFence i f b).sync = b.sync := rfl
@[simp] theorem modFence_sue (i : Nat) (f : Fence → Fence) (b : Block) : (modFence i f b).sue = b.sue := rfl
@[simp] theorem modFence_ecc (i : Nat) (f : Fence → Fence) (b : Block) : (modFence i f b).ecc = b.ecc := rfl
@[simp] theorem modFence_recv (i : Nat) (f : Fence → Fence) (b : Block) : (modFence i f b).recv = b.recv := rfl
@[simp] theorem modFence_sess (i : Nat) (f : Fence → Fence) (b : Block) : (modFence i f b).sess = b.sess := rfl
@[simp] theorem modFence_dbg (i : Nat) (f : Fence → Fence) (b : Block) : (modFence i f b).dbg = b.dbg := rfl
@[simp] theorem modFence_trc (i : Nat) (f : Fence → Fence) (b : Block) : (modFence i f b).trc = b.trc := rfl
@[simp] theorem modFence_certs (i : Nat) (f : Fence → Fence) (b : Block) : (modFence i f b).certs = b.certs := rfl
@[simp] theorem modFence_mgmt (i : Nat) (f : Fence → Fence) (b : Block) : (modFence i f b).mgmt = b.mgmt := rfl
@[simp] theorem modFence_slip (i : Nat) (f : Fence → Fence) (b : Block) : (modFence i f b).slip = b.slip := rfl

/-! ### modObj -/

@[simp] theorem modObj_build (i : Nat) (f : Obj → Obj) (b : Block) : (modObj i f b).build = b.build := rfl
@[simp] theorem modObj_phase (i : Nat) (f : Obj → Obj) (b : Block) : (modObj i f b).phase = b.phase := rfl
@[simp] theorem modObj_porN (i : Nat) (f : Obj → Obj) (b : Block) : (modObj i f b).porN = b.porN := rfl
@[simp] theorem modObj_pins (i : Nat) (f : Obj → Obj) (b : Block) : (modObj i f b).pins = b.pins := rfl
@[simp] theorem modObj_tick (i : Nat) (f : Obj → Obj) (b : Block) : (modObj i f b).tick = b.tick := rfl
@[simp] theorem modObj_draws (i : Nat) (f : Obj → Obj) (b : Block) : (modObj i f b).draws = b.draws := rfl
@[simp] theorem modObj_out (i : Nat) (f : Obj → Obj) (b : Block) : (modObj i f b).out = b.out := rfl
@[simp] theorem modObj_work (i : Nat) (f : Obj → Obj) (b : Block) : (modObj i f b).work = b.work := rfl
@[simp] theorem modObj_errSeen (i : Nat) (f : Obj → Obj) (b : Block) : (modObj i f b).errSeen = b.errSeen := rfl
@[simp] theorem modObj_pages (i : Nat) (f : Obj → Obj) (b : Block) : (modObj i f b).pages = b.pages := rfl
@[simp] theorem modObj_regs (i : Nat) (f : Obj → Obj) (b : Block) : (modObj i f b).regs = b.regs := rfl
@[simp] theorem modObj_latches (i : Nat) (f : Obj → Obj) (b : Block) : (modObj i f b).latches = b.latches := rfl
@[simp] theorem modObj_otp (i : Nat) (f : Obj → Obj) (b : Block) : (modObj i f b).otp = b.otp := rfl
@[simp] theorem modObj_otpRuns (i : Nat) (f : Obj → Obj) (b : Block) : (modObj i f b).otpRuns = b.otpRuns := rfl
@[simp] theorem modObj_lcs (i : Nat) (f : Obj → Obj) (b : Block) : (modObj i f b).lcs = b.lcs := rfl
@[simp] theorem modObj_keys (i : Nat) (f : Obj → Obj) (b : Block) : (modObj i f b).keys = b.keys := rfl
@[simp] theorem modObj_kstg (i : Nat) (f : Obj → Obj) (b : Block) : (modObj i f b).kstg = b.kstg := rfl
@[simp] theorem modObj_gse (i : Nat) (f : Obj → Obj) (b : Block) : (modObj i f b).gse = b.gse := rfl
@[simp] theorem modObj_lnds (i : Nat) (f : Obj → Obj) (b : Block) : (modObj i f b).lnds = b.lnds := rfl
@[simp] theorem modObj_xings (i : Nat) (f : Obj → Obj) (b : Block) : (modObj i f b).xings = b.xings := rfl
@[simp] theorem modObj_hold (i : Nat) (f : Obj → Obj) (b : Block) : (modObj i f b).hold = b.hold := rfl
@[simp] theorem modObj_mems (i : Nat) (f : Obj → Obj) (b : Block) : (modObj i f b).mems = b.mems := rfl
@[simp] theorem modObj_mema (i : Nat) (f : Obj → Obj) (b : Block) : (modObj i f b).mema = b.mema := rfl
@[simp] theorem modObj_fences (i : Nat) (f : Obj → Obj) (b : Block) : (modObj i f b).fences = b.fences := rfl
@[simp] theorem modObj_ctxs (i : Nat) (f : Obj → Obj) (b : Block) : (modObj i f b).ctxs = b.ctxs := rfl
@[simp] theorem modObj_copies (i : Nat) (f : Obj → Obj) (b : Block) : (modObj i f b).copies = b.copies := rfl
@[simp] theorem modObj_berths (i : Nat) (f : Obj → Obj) (b : Block) : (modObj i f b).berths = b.berths := rfl
@[simp] theorem modObj_sched (i : Nat) (f : Obj → Obj) (b : Block) : (modObj i f b).sched = b.sched := rfl
@[simp] theorem modObj_sync (i : Nat) (f : Obj → Obj) (b : Block) : (modObj i f b).sync = b.sync := rfl
@[simp] theorem modObj_sue (i : Nat) (f : Obj → Obj) (b : Block) : (modObj i f b).sue = b.sue := rfl
@[simp] theorem modObj_ecc (i : Nat) (f : Obj → Obj) (b : Block) : (modObj i f b).ecc = b.ecc := rfl
@[simp] theorem modObj_recv (i : Nat) (f : Obj → Obj) (b : Block) : (modObj i f b).recv = b.recv := rfl
@[simp] theorem modObj_sess (i : Nat) (f : Obj → Obj) (b : Block) : (modObj i f b).sess = b.sess := rfl
@[simp] theorem modObj_dbg (i : Nat) (f : Obj → Obj) (b : Block) : (modObj i f b).dbg = b.dbg := rfl
@[simp] theorem modObj_trc (i : Nat) (f : Obj → Obj) (b : Block) : (modObj i f b).trc = b.trc := rfl
@[simp] theorem modObj_certs (i : Nat) (f : Obj → Obj) (b : Block) : (modObj i f b).certs = b.certs := rfl
@[simp] theorem modObj_mgmt (i : Nat) (f : Obj → Obj) (b : Block) : (modObj i f b).mgmt = b.mgmt := rfl
@[simp] theorem modObj_slip (i : Nat) (f : Obj → Obj) (b : Block) : (modObj i f b).slip = b.slip := rfl

/-! ### modLnd -/

@[simp] theorem modLnd_build (n : Nat) (f : Landing → Landing) (b : Block) : (modLnd n f b).build = b.build := rfl
@[simp] theorem modLnd_phase (n : Nat) (f : Landing → Landing) (b : Block) : (modLnd n f b).phase = b.phase := rfl
@[simp] theorem modLnd_porN (n : Nat) (f : Landing → Landing) (b : Block) : (modLnd n f b).porN = b.porN := rfl
@[simp] theorem modLnd_pins (n : Nat) (f : Landing → Landing) (b : Block) : (modLnd n f b).pins = b.pins := rfl
@[simp] theorem modLnd_tick (n : Nat) (f : Landing → Landing) (b : Block) : (modLnd n f b).tick = b.tick := rfl
@[simp] theorem modLnd_draws (n : Nat) (f : Landing → Landing) (b : Block) : (modLnd n f b).draws = b.draws := rfl
@[simp] theorem modLnd_out (n : Nat) (f : Landing → Landing) (b : Block) : (modLnd n f b).out = b.out := rfl
@[simp] theorem modLnd_work (n : Nat) (f : Landing → Landing) (b : Block) : (modLnd n f b).work = b.work := rfl
@[simp] theorem modLnd_errSeen (n : Nat) (f : Landing → Landing) (b : Block) : (modLnd n f b).errSeen = b.errSeen := rfl
@[simp] theorem modLnd_pages (n : Nat) (f : Landing → Landing) (b : Block) : (modLnd n f b).pages = b.pages := rfl
@[simp] theorem modLnd_regs (n : Nat) (f : Landing → Landing) (b : Block) : (modLnd n f b).regs = b.regs := rfl
@[simp] theorem modLnd_latches (n : Nat) (f : Landing → Landing) (b : Block) : (modLnd n f b).latches = b.latches := rfl
@[simp] theorem modLnd_otp (n : Nat) (f : Landing → Landing) (b : Block) : (modLnd n f b).otp = b.otp := rfl
@[simp] theorem modLnd_otpRuns (n : Nat) (f : Landing → Landing) (b : Block) : (modLnd n f b).otpRuns = b.otpRuns := rfl
@[simp] theorem modLnd_lcs (n : Nat) (f : Landing → Landing) (b : Block) : (modLnd n f b).lcs = b.lcs := rfl
@[simp] theorem modLnd_keys (n : Nat) (f : Landing → Landing) (b : Block) : (modLnd n f b).keys = b.keys := rfl
@[simp] theorem modLnd_kstg (n : Nat) (f : Landing → Landing) (b : Block) : (modLnd n f b).kstg = b.kstg := rfl
@[simp] theorem modLnd_gse (n : Nat) (f : Landing → Landing) (b : Block) : (modLnd n f b).gse = b.gse := rfl
@[simp] theorem modLnd_xings (n : Nat) (f : Landing → Landing) (b : Block) : (modLnd n f b).xings = b.xings := rfl
@[simp] theorem modLnd_hold (n : Nat) (f : Landing → Landing) (b : Block) : (modLnd n f b).hold = b.hold := rfl
@[simp] theorem modLnd_mems (n : Nat) (f : Landing → Landing) (b : Block) : (modLnd n f b).mems = b.mems := rfl
@[simp] theorem modLnd_mema (n : Nat) (f : Landing → Landing) (b : Block) : (modLnd n f b).mema = b.mema := rfl
@[simp] theorem modLnd_objs (n : Nat) (f : Landing → Landing) (b : Block) : (modLnd n f b).objs = b.objs := rfl
@[simp] theorem modLnd_fences (n : Nat) (f : Landing → Landing) (b : Block) : (modLnd n f b).fences = b.fences := rfl
@[simp] theorem modLnd_ctxs (n : Nat) (f : Landing → Landing) (b : Block) : (modLnd n f b).ctxs = b.ctxs := rfl
@[simp] theorem modLnd_copies (n : Nat) (f : Landing → Landing) (b : Block) : (modLnd n f b).copies = b.copies := rfl
@[simp] theorem modLnd_berths (n : Nat) (f : Landing → Landing) (b : Block) : (modLnd n f b).berths = b.berths := rfl
@[simp] theorem modLnd_sched (n : Nat) (f : Landing → Landing) (b : Block) : (modLnd n f b).sched = b.sched := rfl
@[simp] theorem modLnd_sync (n : Nat) (f : Landing → Landing) (b : Block) : (modLnd n f b).sync = b.sync := rfl
@[simp] theorem modLnd_sue (n : Nat) (f : Landing → Landing) (b : Block) : (modLnd n f b).sue = b.sue := rfl
@[simp] theorem modLnd_ecc (n : Nat) (f : Landing → Landing) (b : Block) : (modLnd n f b).ecc = b.ecc := rfl
@[simp] theorem modLnd_recv (n : Nat) (f : Landing → Landing) (b : Block) : (modLnd n f b).recv = b.recv := rfl
@[simp] theorem modLnd_sess (n : Nat) (f : Landing → Landing) (b : Block) : (modLnd n f b).sess = b.sess := rfl
@[simp] theorem modLnd_dbg (n : Nat) (f : Landing → Landing) (b : Block) : (modLnd n f b).dbg = b.dbg := rfl
@[simp] theorem modLnd_trc (n : Nat) (f : Landing → Landing) (b : Block) : (modLnd n f b).trc = b.trc := rfl
@[simp] theorem modLnd_certs (n : Nat) (f : Landing → Landing) (b : Block) : (modLnd n f b).certs = b.certs := rfl
@[simp] theorem modLnd_mgmt (n : Nat) (f : Landing → Landing) (b : Block) : (modLnd n f b).mgmt = b.mgmt := rfl
@[simp] theorem modLnd_slip (n : Nat) (f : Landing → Landing) (b : Block) : (modLnd n f b).slip = b.slip := rfl

/-! ### modXing -/

@[simp] theorem modXing_build (n x : Nat) (f : Xing → Xing) (b : Block) : (modXing n x f b).build = b.build := rfl
@[simp] theorem modXing_phase (n x : Nat) (f : Xing → Xing) (b : Block) : (modXing n x f b).phase = b.phase := rfl
@[simp] theorem modXing_porN (n x : Nat) (f : Xing → Xing) (b : Block) : (modXing n x f b).porN = b.porN := rfl
@[simp] theorem modXing_pins (n x : Nat) (f : Xing → Xing) (b : Block) : (modXing n x f b).pins = b.pins := rfl
@[simp] theorem modXing_tick (n x : Nat) (f : Xing → Xing) (b : Block) : (modXing n x f b).tick = b.tick := rfl
@[simp] theorem modXing_draws (n x : Nat) (f : Xing → Xing) (b : Block) : (modXing n x f b).draws = b.draws := rfl
@[simp] theorem modXing_out (n x : Nat) (f : Xing → Xing) (b : Block) : (modXing n x f b).out = b.out := rfl
@[simp] theorem modXing_work (n x : Nat) (f : Xing → Xing) (b : Block) : (modXing n x f b).work = b.work := rfl
@[simp] theorem modXing_errSeen (n x : Nat) (f : Xing → Xing) (b : Block) : (modXing n x f b).errSeen = b.errSeen := rfl
@[simp] theorem modXing_pages (n x : Nat) (f : Xing → Xing) (b : Block) : (modXing n x f b).pages = b.pages := rfl
@[simp] theorem modXing_regs (n x : Nat) (f : Xing → Xing) (b : Block) : (modXing n x f b).regs = b.regs := rfl
@[simp] theorem modXing_latches (n x : Nat) (f : Xing → Xing) (b : Block) : (modXing n x f b).latches = b.latches := rfl
@[simp] theorem modXing_otp (n x : Nat) (f : Xing → Xing) (b : Block) : (modXing n x f b).otp = b.otp := rfl
@[simp] theorem modXing_otpRuns (n x : Nat) (f : Xing → Xing) (b : Block) : (modXing n x f b).otpRuns = b.otpRuns := rfl
@[simp] theorem modXing_lcs (n x : Nat) (f : Xing → Xing) (b : Block) : (modXing n x f b).lcs = b.lcs := rfl
@[simp] theorem modXing_keys (n x : Nat) (f : Xing → Xing) (b : Block) : (modXing n x f b).keys = b.keys := rfl
@[simp] theorem modXing_kstg (n x : Nat) (f : Xing → Xing) (b : Block) : (modXing n x f b).kstg = b.kstg := rfl
@[simp] theorem modXing_gse (n x : Nat) (f : Xing → Xing) (b : Block) : (modXing n x f b).gse = b.gse := rfl
@[simp] theorem modXing_lnds (n x : Nat) (f : Xing → Xing) (b : Block) : (modXing n x f b).lnds = b.lnds := rfl
@[simp] theorem modXing_hold (n x : Nat) (f : Xing → Xing) (b : Block) : (modXing n x f b).hold = b.hold := rfl
@[simp] theorem modXing_mems (n x : Nat) (f : Xing → Xing) (b : Block) : (modXing n x f b).mems = b.mems := rfl
@[simp] theorem modXing_mema (n x : Nat) (f : Xing → Xing) (b : Block) : (modXing n x f b).mema = b.mema := rfl
@[simp] theorem modXing_objs (n x : Nat) (f : Xing → Xing) (b : Block) : (modXing n x f b).objs = b.objs := rfl
@[simp] theorem modXing_fences (n x : Nat) (f : Xing → Xing) (b : Block) : (modXing n x f b).fences = b.fences := rfl
@[simp] theorem modXing_ctxs (n x : Nat) (f : Xing → Xing) (b : Block) : (modXing n x f b).ctxs = b.ctxs := rfl
@[simp] theorem modXing_copies (n x : Nat) (f : Xing → Xing) (b : Block) : (modXing n x f b).copies = b.copies := rfl
@[simp] theorem modXing_berths (n x : Nat) (f : Xing → Xing) (b : Block) : (modXing n x f b).berths = b.berths := rfl
@[simp] theorem modXing_sched (n x : Nat) (f : Xing → Xing) (b : Block) : (modXing n x f b).sched = b.sched := rfl
@[simp] theorem modXing_sync (n x : Nat) (f : Xing → Xing) (b : Block) : (modXing n x f b).sync = b.sync := rfl
@[simp] theorem modXing_sue (n x : Nat) (f : Xing → Xing) (b : Block) : (modXing n x f b).sue = b.sue := rfl
@[simp] theorem modXing_ecc (n x : Nat) (f : Xing → Xing) (b : Block) : (modXing n x f b).ecc = b.ecc := rfl
@[simp] theorem modXing_recv (n x : Nat) (f : Xing → Xing) (b : Block) : (modXing n x f b).recv = b.recv := rfl
@[simp] theorem modXing_sess (n x : Nat) (f : Xing → Xing) (b : Block) : (modXing n x f b).sess = b.sess := rfl
@[simp] theorem modXing_dbg (n x : Nat) (f : Xing → Xing) (b : Block) : (modXing n x f b).dbg = b.dbg := rfl
@[simp] theorem modXing_trc (n x : Nat) (f : Xing → Xing) (b : Block) : (modXing n x f b).trc = b.trc := rfl
@[simp] theorem modXing_certs (n x : Nat) (f : Xing → Xing) (b : Block) : (modXing n x f b).certs = b.certs := rfl
@[simp] theorem modXing_mgmt (n x : Nat) (f : Xing → Xing) (b : Block) : (modXing n x f b).mgmt = b.mgmt := rfl
@[simp] theorem modXing_slip (n x : Nat) (f : Xing → Xing) (b : Block) : (modXing n x f b).slip = b.slip := rfl

/-! ### modAtt -/

@[simp] theorem modAtt_build (a : Nat) (f : Attach → Attach) (b : Block) : (modAtt a f b).build = b.build := rfl
@[simp] theorem modAtt_phase (a : Nat) (f : Attach → Attach) (b : Block) : (modAtt a f b).phase = b.phase := rfl
@[simp] theorem modAtt_porN (a : Nat) (f : Attach → Attach) (b : Block) : (modAtt a f b).porN = b.porN := rfl
@[simp] theorem modAtt_pins (a : Nat) (f : Attach → Attach) (b : Block) : (modAtt a f b).pins = b.pins := rfl
@[simp] theorem modAtt_tick (a : Nat) (f : Attach → Attach) (b : Block) : (modAtt a f b).tick = b.tick := rfl
@[simp] theorem modAtt_draws (a : Nat) (f : Attach → Attach) (b : Block) : (modAtt a f b).draws = b.draws := rfl
@[simp] theorem modAtt_out (a : Nat) (f : Attach → Attach) (b : Block) : (modAtt a f b).out = b.out := rfl
@[simp] theorem modAtt_work (a : Nat) (f : Attach → Attach) (b : Block) : (modAtt a f b).work = b.work := rfl
@[simp] theorem modAtt_errSeen (a : Nat) (f : Attach → Attach) (b : Block) : (modAtt a f b).errSeen = b.errSeen := rfl
@[simp] theorem modAtt_pages (a : Nat) (f : Attach → Attach) (b : Block) : (modAtt a f b).pages = b.pages := rfl
@[simp] theorem modAtt_regs (a : Nat) (f : Attach → Attach) (b : Block) : (modAtt a f b).regs = b.regs := rfl
@[simp] theorem modAtt_latches (a : Nat) (f : Attach → Attach) (b : Block) : (modAtt a f b).latches = b.latches := rfl
@[simp] theorem modAtt_otp (a : Nat) (f : Attach → Attach) (b : Block) : (modAtt a f b).otp = b.otp := rfl
@[simp] theorem modAtt_otpRuns (a : Nat) (f : Attach → Attach) (b : Block) : (modAtt a f b).otpRuns = b.otpRuns := rfl
@[simp] theorem modAtt_lcs (a : Nat) (f : Attach → Attach) (b : Block) : (modAtt a f b).lcs = b.lcs := rfl
@[simp] theorem modAtt_keys (a : Nat) (f : Attach → Attach) (b : Block) : (modAtt a f b).keys = b.keys := rfl
@[simp] theorem modAtt_kstg (a : Nat) (f : Attach → Attach) (b : Block) : (modAtt a f b).kstg = b.kstg := rfl
@[simp] theorem modAtt_gse (a : Nat) (f : Attach → Attach) (b : Block) : (modAtt a f b).gse = b.gse := rfl
@[simp] theorem modAtt_lnds (a : Nat) (f : Attach → Attach) (b : Block) : (modAtt a f b).lnds = b.lnds := rfl
@[simp] theorem modAtt_xings (a : Nat) (f : Attach → Attach) (b : Block) : (modAtt a f b).xings = b.xings := rfl
@[simp] theorem modAtt_hold (a : Nat) (f : Attach → Attach) (b : Block) : (modAtt a f b).hold = b.hold := rfl
@[simp] theorem modAtt_mems (a : Nat) (f : Attach → Attach) (b : Block) : (modAtt a f b).mems = b.mems := rfl
@[simp] theorem modAtt_mema (a : Nat) (f : Attach → Attach) (b : Block) : (modAtt a f b).mema = b.mema := rfl
@[simp] theorem modAtt_objs (a : Nat) (f : Attach → Attach) (b : Block) : (modAtt a f b).objs = b.objs := rfl
@[simp] theorem modAtt_fences (a : Nat) (f : Attach → Attach) (b : Block) : (modAtt a f b).fences = b.fences := rfl
@[simp] theorem modAtt_ctxs (a : Nat) (f : Attach → Attach) (b : Block) : (modAtt a f b).ctxs = b.ctxs := rfl
@[simp] theorem modAtt_copies (a : Nat) (f : Attach → Attach) (b : Block) : (modAtt a f b).copies = b.copies := rfl
@[simp] theorem modAtt_berths (a : Nat) (f : Attach → Attach) (b : Block) : (modAtt a f b).berths = b.berths := rfl
@[simp] theorem modAtt_sync (a : Nat) (f : Attach → Attach) (b : Block) : (modAtt a f b).sync = b.sync := rfl
@[simp] theorem modAtt_sue (a : Nat) (f : Attach → Attach) (b : Block) : (modAtt a f b).sue = b.sue := rfl
@[simp] theorem modAtt_ecc (a : Nat) (f : Attach → Attach) (b : Block) : (modAtt a f b).ecc = b.ecc := rfl
@[simp] theorem modAtt_recv (a : Nat) (f : Attach → Attach) (b : Block) : (modAtt a f b).recv = b.recv := rfl
@[simp] theorem modAtt_sess (a : Nat) (f : Attach → Attach) (b : Block) : (modAtt a f b).sess = b.sess := rfl
@[simp] theorem modAtt_dbg (a : Nat) (f : Attach → Attach) (b : Block) : (modAtt a f b).dbg = b.dbg := rfl
@[simp] theorem modAtt_trc (a : Nat) (f : Attach → Attach) (b : Block) : (modAtt a f b).trc = b.trc := rfl
@[simp] theorem modAtt_certs (a : Nat) (f : Attach → Attach) (b : Block) : (modAtt a f b).certs = b.certs := rfl
@[simp] theorem modAtt_mgmt (a : Nat) (f : Attach → Attach) (b : Block) : (modAtt a f b).mgmt = b.mgmt := rfl
@[simp] theorem modAtt_slip (a : Nat) (f : Attach → Attach) (b : Block) : (modAtt a f b).slip = b.slip := rfl

/-! ### modBar -/

@[simp] theorem modBar_build (e : Nat) (f : Bar → Bar) (b : Block) : (modBar e f b).build = b.build := rfl
@[simp] theorem modBar_phase (e : Nat) (f : Bar → Bar) (b : Block) : (modBar e f b).phase = b.phase := rfl
@[simp] theorem modBar_porN (e : Nat) (f : Bar → Bar) (b : Block) : (modBar e f b).porN = b.porN := rfl
@[simp] theorem modBar_pins (e : Nat) (f : Bar → Bar) (b : Block) : (modBar e f b).pins = b.pins := rfl
@[simp] theorem modBar_tick (e : Nat) (f : Bar → Bar) (b : Block) : (modBar e f b).tick = b.tick := rfl
@[simp] theorem modBar_draws (e : Nat) (f : Bar → Bar) (b : Block) : (modBar e f b).draws = b.draws := rfl
@[simp] theorem modBar_out (e : Nat) (f : Bar → Bar) (b : Block) : (modBar e f b).out = b.out := rfl
@[simp] theorem modBar_work (e : Nat) (f : Bar → Bar) (b : Block) : (modBar e f b).work = b.work := rfl
@[simp] theorem modBar_errSeen (e : Nat) (f : Bar → Bar) (b : Block) : (modBar e f b).errSeen = b.errSeen := rfl
@[simp] theorem modBar_pages (e : Nat) (f : Bar → Bar) (b : Block) : (modBar e f b).pages = b.pages := rfl
@[simp] theorem modBar_regs (e : Nat) (f : Bar → Bar) (b : Block) : (modBar e f b).regs = b.regs := rfl
@[simp] theorem modBar_latches (e : Nat) (f : Bar → Bar) (b : Block) : (modBar e f b).latches = b.latches := rfl
@[simp] theorem modBar_otp (e : Nat) (f : Bar → Bar) (b : Block) : (modBar e f b).otp = b.otp := rfl
@[simp] theorem modBar_otpRuns (e : Nat) (f : Bar → Bar) (b : Block) : (modBar e f b).otpRuns = b.otpRuns := rfl
@[simp] theorem modBar_lcs (e : Nat) (f : Bar → Bar) (b : Block) : (modBar e f b).lcs = b.lcs := rfl
@[simp] theorem modBar_keys (e : Nat) (f : Bar → Bar) (b : Block) : (modBar e f b).keys = b.keys := rfl
@[simp] theorem modBar_kstg (e : Nat) (f : Bar → Bar) (b : Block) : (modBar e f b).kstg = b.kstg := rfl
@[simp] theorem modBar_gse (e : Nat) (f : Bar → Bar) (b : Block) : (modBar e f b).gse = b.gse := rfl
@[simp] theorem modBar_lnds (e : Nat) (f : Bar → Bar) (b : Block) : (modBar e f b).lnds = b.lnds := rfl
@[simp] theorem modBar_xings (e : Nat) (f : Bar → Bar) (b : Block) : (modBar e f b).xings = b.xings := rfl
@[simp] theorem modBar_hold (e : Nat) (f : Bar → Bar) (b : Block) : (modBar e f b).hold = b.hold := rfl
@[simp] theorem modBar_mems (e : Nat) (f : Bar → Bar) (b : Block) : (modBar e f b).mems = b.mems := rfl
@[simp] theorem modBar_mema (e : Nat) (f : Bar → Bar) (b : Block) : (modBar e f b).mema = b.mema := rfl
@[simp] theorem modBar_objs (e : Nat) (f : Bar → Bar) (b : Block) : (modBar e f b).objs = b.objs := rfl
@[simp] theorem modBar_fences (e : Nat) (f : Bar → Bar) (b : Block) : (modBar e f b).fences = b.fences := rfl
@[simp] theorem modBar_ctxs (e : Nat) (f : Bar → Bar) (b : Block) : (modBar e f b).ctxs = b.ctxs := rfl
@[simp] theorem modBar_copies (e : Nat) (f : Bar → Bar) (b : Block) : (modBar e f b).copies = b.copies := rfl
@[simp] theorem modBar_berths (e : Nat) (f : Bar → Bar) (b : Block) : (modBar e f b).berths = b.berths := rfl
@[simp] theorem modBar_sched (e : Nat) (f : Bar → Bar) (b : Block) : (modBar e f b).sched = b.sched := rfl
@[simp] theorem modBar_sue (e : Nat) (f : Bar → Bar) (b : Block) : (modBar e f b).sue = b.sue := rfl
@[simp] theorem modBar_ecc (e : Nat) (f : Bar → Bar) (b : Block) : (modBar e f b).ecc = b.ecc := rfl
@[simp] theorem modBar_recv (e : Nat) (f : Bar → Bar) (b : Block) : (modBar e f b).recv = b.recv := rfl
@[simp] theorem modBar_sess (e : Nat) (f : Bar → Bar) (b : Block) : (modBar e f b).sess = b.sess := rfl
@[simp] theorem modBar_dbg (e : Nat) (f : Bar → Bar) (b : Block) : (modBar e f b).dbg = b.dbg := rfl
@[simp] theorem modBar_trc (e : Nat) (f : Bar → Bar) (b : Block) : (modBar e f b).trc = b.trc := rfl
@[simp] theorem modBar_certs (e : Nat) (f : Bar → Bar) (b : Block) : (modBar e f b).certs = b.certs := rfl
@[simp] theorem modBar_mgmt (e : Nat) (f : Bar → Bar) (b : Block) : (modBar e f b).mgmt = b.mgmt := rfl
@[simp] theorem modBar_slip (e : Nat) (f : Bar → Bar) (b : Block) : (modBar e f b).slip = b.slip := rfl

/-! ### modWire -/

@[simp] theorem modWire_build (w : Nat) (f : Wire → Wire) (b : Block) : (modWire w f b).build = b.build := rfl
@[simp] theorem modWire_phase (w : Nat) (f : Wire → Wire) (b : Block) : (modWire w f b).phase = b.phase := rfl
@[simp] theorem modWire_porN (w : Nat) (f : Wire → Wire) (b : Block) : (modWire w f b).porN = b.porN := rfl
@[simp] theorem modWire_pins (w : Nat) (f : Wire → Wire) (b : Block) : (modWire w f b).pins = b.pins := rfl
@[simp] theorem modWire_tick (w : Nat) (f : Wire → Wire) (b : Block) : (modWire w f b).tick = b.tick := rfl
@[simp] theorem modWire_draws (w : Nat) (f : Wire → Wire) (b : Block) : (modWire w f b).draws = b.draws := rfl
@[simp] theorem modWire_out (w : Nat) (f : Wire → Wire) (b : Block) : (modWire w f b).out = b.out := rfl
@[simp] theorem modWire_work (w : Nat) (f : Wire → Wire) (b : Block) : (modWire w f b).work = b.work := rfl
@[simp] theorem modWire_errSeen (w : Nat) (f : Wire → Wire) (b : Block) : (modWire w f b).errSeen = b.errSeen := rfl
@[simp] theorem modWire_pages (w : Nat) (f : Wire → Wire) (b : Block) : (modWire w f b).pages = b.pages := rfl
@[simp] theorem modWire_regs (w : Nat) (f : Wire → Wire) (b : Block) : (modWire w f b).regs = b.regs := rfl
@[simp] theorem modWire_latches (w : Nat) (f : Wire → Wire) (b : Block) : (modWire w f b).latches = b.latches := rfl
@[simp] theorem modWire_otp (w : Nat) (f : Wire → Wire) (b : Block) : (modWire w f b).otp = b.otp := rfl
@[simp] theorem modWire_otpRuns (w : Nat) (f : Wire → Wire) (b : Block) : (modWire w f b).otpRuns = b.otpRuns := rfl
@[simp] theorem modWire_lcs (w : Nat) (f : Wire → Wire) (b : Block) : (modWire w f b).lcs = b.lcs := rfl
@[simp] theorem modWire_keys (w : Nat) (f : Wire → Wire) (b : Block) : (modWire w f b).keys = b.keys := rfl
@[simp] theorem modWire_kstg (w : Nat) (f : Wire → Wire) (b : Block) : (modWire w f b).kstg = b.kstg := rfl
@[simp] theorem modWire_gse (w : Nat) (f : Wire → Wire) (b : Block) : (modWire w f b).gse = b.gse := rfl
@[simp] theorem modWire_lnds (w : Nat) (f : Wire → Wire) (b : Block) : (modWire w f b).lnds = b.lnds := rfl
@[simp] theorem modWire_xings (w : Nat) (f : Wire → Wire) (b : Block) : (modWire w f b).xings = b.xings := rfl
@[simp] theorem modWire_hold (w : Nat) (f : Wire → Wire) (b : Block) : (modWire w f b).hold = b.hold := rfl
@[simp] theorem modWire_mems (w : Nat) (f : Wire → Wire) (b : Block) : (modWire w f b).mems = b.mems := rfl
@[simp] theorem modWire_mema (w : Nat) (f : Wire → Wire) (b : Block) : (modWire w f b).mema = b.mema := rfl
@[simp] theorem modWire_objs (w : Nat) (f : Wire → Wire) (b : Block) : (modWire w f b).objs = b.objs := rfl
@[simp] theorem modWire_fences (w : Nat) (f : Wire → Wire) (b : Block) : (modWire w f b).fences = b.fences := rfl
@[simp] theorem modWire_ctxs (w : Nat) (f : Wire → Wire) (b : Block) : (modWire w f b).ctxs = b.ctxs := rfl
@[simp] theorem modWire_copies (w : Nat) (f : Wire → Wire) (b : Block) : (modWire w f b).copies = b.copies := rfl
@[simp] theorem modWire_berths (w : Nat) (f : Wire → Wire) (b : Block) : (modWire w f b).berths = b.berths := rfl
@[simp] theorem modWire_sched (w : Nat) (f : Wire → Wire) (b : Block) : (modWire w f b).sched = b.sched := rfl
@[simp] theorem modWire_sue (w : Nat) (f : Wire → Wire) (b : Block) : (modWire w f b).sue = b.sue := rfl
@[simp] theorem modWire_ecc (w : Nat) (f : Wire → Wire) (b : Block) : (modWire w f b).ecc = b.ecc := rfl
@[simp] theorem modWire_recv (w : Nat) (f : Wire → Wire) (b : Block) : (modWire w f b).recv = b.recv := rfl
@[simp] theorem modWire_sess (w : Nat) (f : Wire → Wire) (b : Block) : (modWire w f b).sess = b.sess := rfl
@[simp] theorem modWire_dbg (w : Nat) (f : Wire → Wire) (b : Block) : (modWire w f b).dbg = b.dbg := rfl
@[simp] theorem modWire_trc (w : Nat) (f : Wire → Wire) (b : Block) : (modWire w f b).trc = b.trc := rfl
@[simp] theorem modWire_certs (w : Nat) (f : Wire → Wire) (b : Block) : (modWire w f b).certs = b.certs := rfl
@[simp] theorem modWire_mgmt (w : Nat) (f : Wire → Wire) (b : Block) : (modWire w f b).mgmt = b.mgmt := rfl
@[simp] theorem modWire_slip (w : Nat) (f : Wire → Wire) (b : Block) : (modWire w f b).slip = b.slip := rfl

/-! ### modRgn -/

@[simp] theorem modRgn_build (r : Nat) (f : ARegion → ARegion) (b : Block) : (modRgn r f b).build = b.build := rfl
@[simp] theorem modRgn_phase (r : Nat) (f : ARegion → ARegion) (b : Block) : (modRgn r f b).phase = b.phase := rfl
@[simp] theorem modRgn_porN (r : Nat) (f : ARegion → ARegion) (b : Block) : (modRgn r f b).porN = b.porN := rfl
@[simp] theorem modRgn_pins (r : Nat) (f : ARegion → ARegion) (b : Block) : (modRgn r f b).pins = b.pins := rfl
@[simp] theorem modRgn_tick (r : Nat) (f : ARegion → ARegion) (b : Block) : (modRgn r f b).tick = b.tick := rfl
@[simp] theorem modRgn_draws (r : Nat) (f : ARegion → ARegion) (b : Block) : (modRgn r f b).draws = b.draws := rfl
@[simp] theorem modRgn_out (r : Nat) (f : ARegion → ARegion) (b : Block) : (modRgn r f b).out = b.out := rfl
@[simp] theorem modRgn_work (r : Nat) (f : ARegion → ARegion) (b : Block) : (modRgn r f b).work = b.work := rfl
@[simp] theorem modRgn_errSeen (r : Nat) (f : ARegion → ARegion) (b : Block) : (modRgn r f b).errSeen = b.errSeen := rfl
@[simp] theorem modRgn_pages (r : Nat) (f : ARegion → ARegion) (b : Block) : (modRgn r f b).pages = b.pages := rfl
@[simp] theorem modRgn_regs (r : Nat) (f : ARegion → ARegion) (b : Block) : (modRgn r f b).regs = b.regs := rfl
@[simp] theorem modRgn_latches (r : Nat) (f : ARegion → ARegion) (b : Block) : (modRgn r f b).latches = b.latches := rfl
@[simp] theorem modRgn_otp (r : Nat) (f : ARegion → ARegion) (b : Block) : (modRgn r f b).otp = b.otp := rfl
@[simp] theorem modRgn_otpRuns (r : Nat) (f : ARegion → ARegion) (b : Block) : (modRgn r f b).otpRuns = b.otpRuns := rfl
@[simp] theorem modRgn_lcs (r : Nat) (f : ARegion → ARegion) (b : Block) : (modRgn r f b).lcs = b.lcs := rfl
@[simp] theorem modRgn_keys (r : Nat) (f : ARegion → ARegion) (b : Block) : (modRgn r f b).keys = b.keys := rfl
@[simp] theorem modRgn_kstg (r : Nat) (f : ARegion → ARegion) (b : Block) : (modRgn r f b).kstg = b.kstg := rfl
@[simp] theorem modRgn_gse (r : Nat) (f : ARegion → ARegion) (b : Block) : (modRgn r f b).gse = b.gse := rfl
@[simp] theorem modRgn_lnds (r : Nat) (f : ARegion → ARegion) (b : Block) : (modRgn r f b).lnds = b.lnds := rfl
@[simp] theorem modRgn_xings (r : Nat) (f : ARegion → ARegion) (b : Block) : (modRgn r f b).xings = b.xings := rfl
@[simp] theorem modRgn_hold (r : Nat) (f : ARegion → ARegion) (b : Block) : (modRgn r f b).hold = b.hold := rfl
@[simp] theorem modRgn_mems (r : Nat) (f : ARegion → ARegion) (b : Block) : (modRgn r f b).mems = b.mems := rfl
@[simp] theorem modRgn_objs (r : Nat) (f : ARegion → ARegion) (b : Block) : (modRgn r f b).objs = b.objs := rfl
@[simp] theorem modRgn_fences (r : Nat) (f : ARegion → ARegion) (b : Block) : (modRgn r f b).fences = b.fences := rfl
@[simp] theorem modRgn_ctxs (r : Nat) (f : ARegion → ARegion) (b : Block) : (modRgn r f b).ctxs = b.ctxs := rfl
@[simp] theorem modRgn_copies (r : Nat) (f : ARegion → ARegion) (b : Block) : (modRgn r f b).copies = b.copies := rfl
@[simp] theorem modRgn_berths (r : Nat) (f : ARegion → ARegion) (b : Block) : (modRgn r f b).berths = b.berths := rfl
@[simp] theorem modRgn_sched (r : Nat) (f : ARegion → ARegion) (b : Block) : (modRgn r f b).sched = b.sched := rfl
@[simp] theorem modRgn_sync (r : Nat) (f : ARegion → ARegion) (b : Block) : (modRgn r f b).sync = b.sync := rfl
@[simp] theorem modRgn_sue (r : Nat) (f : ARegion → ARegion) (b : Block) : (modRgn r f b).sue = b.sue := rfl
@[simp] theorem modRgn_ecc (r : Nat) (f : ARegion → ARegion) (b : Block) : (modRgn r f b).ecc = b.ecc := rfl
@[simp] theorem modRgn_recv (r : Nat) (f : ARegion → ARegion) (b : Block) : (modRgn r f b).recv = b.recv := rfl
@[simp] theorem modRgn_sess (r : Nat) (f : ARegion → ARegion) (b : Block) : (modRgn r f b).sess = b.sess := rfl
@[simp] theorem modRgn_dbg (r : Nat) (f : ARegion → ARegion) (b : Block) : (modRgn r f b).dbg = b.dbg := rfl
@[simp] theorem modRgn_trc (r : Nat) (f : ARegion → ARegion) (b : Block) : (modRgn r f b).trc = b.trc := rfl
@[simp] theorem modRgn_certs (r : Nat) (f : ARegion → ARegion) (b : Block) : (modRgn r f b).certs = b.certs := rfl
@[simp] theorem modRgn_mgmt (r : Nat) (f : ARegion → ARegion) (b : Block) : (modRgn r f b).mgmt = b.mgmt := rfl
@[simp] theorem modRgn_slip (r : Nat) (f : ARegion → ARegion) (b : Block) : (modRgn r f b).slip = b.slip := rfl

/-! ### modPort -/

@[simp] theorem modPort_build (k : Nat) (f : APort → APort) (b : Block) : (modPort k f b).build = b.build := rfl
@[simp] theorem modPort_phase (k : Nat) (f : APort → APort) (b : Block) : (modPort k f b).phase = b.phase := rfl
@[simp] theorem modPort_porN (k : Nat) (f : APort → APort) (b : Block) : (modPort k f b).porN = b.porN := rfl
@[simp] theorem modPort_pins (k : Nat) (f : APort → APort) (b : Block) : (modPort k f b).pins = b.pins := rfl
@[simp] theorem modPort_tick (k : Nat) (f : APort → APort) (b : Block) : (modPort k f b).tick = b.tick := rfl
@[simp] theorem modPort_draws (k : Nat) (f : APort → APort) (b : Block) : (modPort k f b).draws = b.draws := rfl
@[simp] theorem modPort_out (k : Nat) (f : APort → APort) (b : Block) : (modPort k f b).out = b.out := rfl
@[simp] theorem modPort_work (k : Nat) (f : APort → APort) (b : Block) : (modPort k f b).work = b.work := rfl
@[simp] theorem modPort_errSeen (k : Nat) (f : APort → APort) (b : Block) : (modPort k f b).errSeen = b.errSeen := rfl
@[simp] theorem modPort_pages (k : Nat) (f : APort → APort) (b : Block) : (modPort k f b).pages = b.pages := rfl
@[simp] theorem modPort_regs (k : Nat) (f : APort → APort) (b : Block) : (modPort k f b).regs = b.regs := rfl
@[simp] theorem modPort_latches (k : Nat) (f : APort → APort) (b : Block) : (modPort k f b).latches = b.latches := rfl
@[simp] theorem modPort_otp (k : Nat) (f : APort → APort) (b : Block) : (modPort k f b).otp = b.otp := rfl
@[simp] theorem modPort_otpRuns (k : Nat) (f : APort → APort) (b : Block) : (modPort k f b).otpRuns = b.otpRuns := rfl
@[simp] theorem modPort_lcs (k : Nat) (f : APort → APort) (b : Block) : (modPort k f b).lcs = b.lcs := rfl
@[simp] theorem modPort_keys (k : Nat) (f : APort → APort) (b : Block) : (modPort k f b).keys = b.keys := rfl
@[simp] theorem modPort_kstg (k : Nat) (f : APort → APort) (b : Block) : (modPort k f b).kstg = b.kstg := rfl
@[simp] theorem modPort_gse (k : Nat) (f : APort → APort) (b : Block) : (modPort k f b).gse = b.gse := rfl
@[simp] theorem modPort_lnds (k : Nat) (f : APort → APort) (b : Block) : (modPort k f b).lnds = b.lnds := rfl
@[simp] theorem modPort_xings (k : Nat) (f : APort → APort) (b : Block) : (modPort k f b).xings = b.xings := rfl
@[simp] theorem modPort_hold (k : Nat) (f : APort → APort) (b : Block) : (modPort k f b).hold = b.hold := rfl
@[simp] theorem modPort_mems (k : Nat) (f : APort → APort) (b : Block) : (modPort k f b).mems = b.mems := rfl
@[simp] theorem modPort_objs (k : Nat) (f : APort → APort) (b : Block) : (modPort k f b).objs = b.objs := rfl
@[simp] theorem modPort_fences (k : Nat) (f : APort → APort) (b : Block) : (modPort k f b).fences = b.fences := rfl
@[simp] theorem modPort_ctxs (k : Nat) (f : APort → APort) (b : Block) : (modPort k f b).ctxs = b.ctxs := rfl
@[simp] theorem modPort_copies (k : Nat) (f : APort → APort) (b : Block) : (modPort k f b).copies = b.copies := rfl
@[simp] theorem modPort_berths (k : Nat) (f : APort → APort) (b : Block) : (modPort k f b).berths = b.berths := rfl
@[simp] theorem modPort_sched (k : Nat) (f : APort → APort) (b : Block) : (modPort k f b).sched = b.sched := rfl
@[simp] theorem modPort_sync (k : Nat) (f : APort → APort) (b : Block) : (modPort k f b).sync = b.sync := rfl
@[simp] theorem modPort_sue (k : Nat) (f : APort → APort) (b : Block) : (modPort k f b).sue = b.sue := rfl
@[simp] theorem modPort_ecc (k : Nat) (f : APort → APort) (b : Block) : (modPort k f b).ecc = b.ecc := rfl
@[simp] theorem modPort_recv (k : Nat) (f : APort → APort) (b : Block) : (modPort k f b).recv = b.recv := rfl
@[simp] theorem modPort_sess (k : Nat) (f : APort → APort) (b : Block) : (modPort k f b).sess = b.sess := rfl
@[simp] theorem modPort_dbg (k : Nat) (f : APort → APort) (b : Block) : (modPort k f b).dbg = b.dbg := rfl
@[simp] theorem modPort_trc (k : Nat) (f : APort → APort) (b : Block) : (modPort k f b).trc = b.trc := rfl
@[simp] theorem modPort_certs (k : Nat) (f : APort → APort) (b : Block) : (modPort k f b).certs = b.certs := rfl
@[simp] theorem modPort_mgmt (k : Nat) (f : APort → APort) (b : Block) : (modPort k f b).mgmt = b.mgmt := rfl
@[simp] theorem modPort_slip (k : Nat) (f : APort → APort) (b : Block) : (modPort k f b).slip = b.slip := rfl

/-! ### modSess -/

@[simp] theorem modSess_build (w : Nat) (f : Sess → Sess) (b : Block) : (modSess w f b).build = b.build := rfl
@[simp] theorem modSess_phase (w : Nat) (f : Sess → Sess) (b : Block) : (modSess w f b).phase = b.phase := rfl
@[simp] theorem modSess_porN (w : Nat) (f : Sess → Sess) (b : Block) : (modSess w f b).porN = b.porN := rfl
@[simp] theorem modSess_pins (w : Nat) (f : Sess → Sess) (b : Block) : (modSess w f b).pins = b.pins := rfl
@[simp] theorem modSess_tick (w : Nat) (f : Sess → Sess) (b : Block) : (modSess w f b).tick = b.tick := rfl
@[simp] theorem modSess_draws (w : Nat) (f : Sess → Sess) (b : Block) : (modSess w f b).draws = b.draws := rfl
@[simp] theorem modSess_out (w : Nat) (f : Sess → Sess) (b : Block) : (modSess w f b).out = b.out := rfl
@[simp] theorem modSess_work (w : Nat) (f : Sess → Sess) (b : Block) : (modSess w f b).work = b.work := rfl
@[simp] theorem modSess_errSeen (w : Nat) (f : Sess → Sess) (b : Block) : (modSess w f b).errSeen = b.errSeen := rfl
@[simp] theorem modSess_pages (w : Nat) (f : Sess → Sess) (b : Block) : (modSess w f b).pages = b.pages := rfl
@[simp] theorem modSess_regs (w : Nat) (f : Sess → Sess) (b : Block) : (modSess w f b).regs = b.regs := rfl
@[simp] theorem modSess_latches (w : Nat) (f : Sess → Sess) (b : Block) : (modSess w f b).latches = b.latches := rfl
@[simp] theorem modSess_otp (w : Nat) (f : Sess → Sess) (b : Block) : (modSess w f b).otp = b.otp := rfl
@[simp] theorem modSess_otpRuns (w : Nat) (f : Sess → Sess) (b : Block) : (modSess w f b).otpRuns = b.otpRuns := rfl
@[simp] theorem modSess_lcs (w : Nat) (f : Sess → Sess) (b : Block) : (modSess w f b).lcs = b.lcs := rfl
@[simp] theorem modSess_keys (w : Nat) (f : Sess → Sess) (b : Block) : (modSess w f b).keys = b.keys := rfl
@[simp] theorem modSess_kstg (w : Nat) (f : Sess → Sess) (b : Block) : (modSess w f b).kstg = b.kstg := rfl
@[simp] theorem modSess_lnds (w : Nat) (f : Sess → Sess) (b : Block) : (modSess w f b).lnds = b.lnds := rfl
@[simp] theorem modSess_xings (w : Nat) (f : Sess → Sess) (b : Block) : (modSess w f b).xings = b.xings := rfl
@[simp] theorem modSess_hold (w : Nat) (f : Sess → Sess) (b : Block) : (modSess w f b).hold = b.hold := rfl
@[simp] theorem modSess_mems (w : Nat) (f : Sess → Sess) (b : Block) : (modSess w f b).mems = b.mems := rfl
@[simp] theorem modSess_mema (w : Nat) (f : Sess → Sess) (b : Block) : (modSess w f b).mema = b.mema := rfl
@[simp] theorem modSess_objs (w : Nat) (f : Sess → Sess) (b : Block) : (modSess w f b).objs = b.objs := rfl
@[simp] theorem modSess_fences (w : Nat) (f : Sess → Sess) (b : Block) : (modSess w f b).fences = b.fences := rfl
@[simp] theorem modSess_ctxs (w : Nat) (f : Sess → Sess) (b : Block) : (modSess w f b).ctxs = b.ctxs := rfl
@[simp] theorem modSess_copies (w : Nat) (f : Sess → Sess) (b : Block) : (modSess w f b).copies = b.copies := rfl
@[simp] theorem modSess_berths (w : Nat) (f : Sess → Sess) (b : Block) : (modSess w f b).berths = b.berths := rfl
@[simp] theorem modSess_sched (w : Nat) (f : Sess → Sess) (b : Block) : (modSess w f b).sched = b.sched := rfl
@[simp] theorem modSess_sync (w : Nat) (f : Sess → Sess) (b : Block) : (modSess w f b).sync = b.sync := rfl
@[simp] theorem modSess_sue (w : Nat) (f : Sess → Sess) (b : Block) : (modSess w f b).sue = b.sue := rfl
@[simp] theorem modSess_ecc (w : Nat) (f : Sess → Sess) (b : Block) : (modSess w f b).ecc = b.ecc := rfl
@[simp] theorem modSess_recv (w : Nat) (f : Sess → Sess) (b : Block) : (modSess w f b).recv = b.recv := rfl
@[simp] theorem modSess_sess (w : Nat) (f : Sess → Sess) (b : Block) : (modSess w f b).sess = b.sess := rfl
@[simp] theorem modSess_dbg (w : Nat) (f : Sess → Sess) (b : Block) : (modSess w f b).dbg = b.dbg := rfl
@[simp] theorem modSess_trc (w : Nat) (f : Sess → Sess) (b : Block) : (modSess w f b).trc = b.trc := rfl
@[simp] theorem modSess_certs (w : Nat) (f : Sess → Sess) (b : Block) : (modSess w f b).certs = b.certs := rfl
@[simp] theorem modSess_mgmt (w : Nat) (f : Sess → Sess) (b : Block) : (modSess w f b).mgmt = b.mgmt := rfl
@[simp] theorem modSess_slip (w : Nat) (f : Sess → Sess) (b : Block) : (modSess w f b).slip = b.slip := rfl

/-! ### modCore -/

@[simp] theorem modCore_build (c : Nat) (f : Core → Core) (b : Block) : (modCore c f b).build = b.build := rfl
@[simp] theorem modCore_phase (c : Nat) (f : Core → Core) (b : Block) : (modCore c f b).phase = b.phase := rfl
@[simp] theorem modCore_porN (c : Nat) (f : Core → Core) (b : Block) : (modCore c f b).porN = b.porN := rfl
@[simp] theorem modCore_pins (c : Nat) (f : Core → Core) (b : Block) : (modCore c f b).pins = b.pins := rfl
@[simp] theorem modCore_tick (c : Nat) (f : Core → Core) (b : Block) : (modCore c f b).tick = b.tick := rfl
@[simp] theorem modCore_draws (c : Nat) (f : Core → Core) (b : Block) : (modCore c f b).draws = b.draws := rfl
@[simp] theorem modCore_out (c : Nat) (f : Core → Core) (b : Block) : (modCore c f b).out = b.out := rfl
@[simp] theorem modCore_work (c : Nat) (f : Core → Core) (b : Block) : (modCore c f b).work = b.work := rfl
@[simp] theorem modCore_errSeen (c : Nat) (f : Core → Core) (b : Block) : (modCore c f b).errSeen = b.errSeen := rfl
@[simp] theorem modCore_pages (c : Nat) (f : Core → Core) (b : Block) : (modCore c f b).pages = b.pages := rfl
@[simp] theorem modCore_regs (c : Nat) (f : Core → Core) (b : Block) : (modCore c f b).regs = b.regs := rfl
@[simp] theorem modCore_latches (c : Nat) (f : Core → Core) (b : Block) : (modCore c f b).latches = b.latches := rfl
@[simp] theorem modCore_otp (c : Nat) (f : Core → Core) (b : Block) : (modCore c f b).otp = b.otp := rfl
@[simp] theorem modCore_otpRuns (c : Nat) (f : Core → Core) (b : Block) : (modCore c f b).otpRuns = b.otpRuns := rfl
@[simp] theorem modCore_lcs (c : Nat) (f : Core → Core) (b : Block) : (modCore c f b).lcs = b.lcs := rfl
@[simp] theorem modCore_keys (c : Nat) (f : Core → Core) (b : Block) : (modCore c f b).keys = b.keys := rfl
@[simp] theorem modCore_kstg (c : Nat) (f : Core → Core) (b : Block) : (modCore c f b).kstg = b.kstg := rfl
@[simp] theorem modCore_gse (c : Nat) (f : Core → Core) (b : Block) : (modCore c f b).gse = b.gse := rfl
@[simp] theorem modCore_lnds (c : Nat) (f : Core → Core) (b : Block) : (modCore c f b).lnds = b.lnds := rfl
@[simp] theorem modCore_xings (c : Nat) (f : Core → Core) (b : Block) : (modCore c f b).xings = b.xings := rfl
@[simp] theorem modCore_hold (c : Nat) (f : Core → Core) (b : Block) : (modCore c f b).hold = b.hold := rfl
@[simp] theorem modCore_mems (c : Nat) (f : Core → Core) (b : Block) : (modCore c f b).mems = b.mems := rfl
@[simp] theorem modCore_mema (c : Nat) (f : Core → Core) (b : Block) : (modCore c f b).mema = b.mema := rfl
@[simp] theorem modCore_objs (c : Nat) (f : Core → Core) (b : Block) : (modCore c f b).objs = b.objs := rfl
@[simp] theorem modCore_fences (c : Nat) (f : Core → Core) (b : Block) : (modCore c f b).fences = b.fences := rfl
@[simp] theorem modCore_ctxs (c : Nat) (f : Core → Core) (b : Block) : (modCore c f b).ctxs = b.ctxs := rfl
@[simp] theorem modCore_copies (c : Nat) (f : Core → Core) (b : Block) : (modCore c f b).copies = b.copies := rfl
@[simp] theorem modCore_berths (c : Nat) (f : Core → Core) (b : Block) : (modCore c f b).berths = b.berths := rfl
@[simp] theorem modCore_sched (c : Nat) (f : Core → Core) (b : Block) : (modCore c f b).sched = b.sched := rfl
@[simp] theorem modCore_sync (c : Nat) (f : Core → Core) (b : Block) : (modCore c f b).sync = b.sync := rfl
@[simp] theorem modCore_sue (c : Nat) (f : Core → Core) (b : Block) : (modCore c f b).sue = b.sue := rfl
@[simp] theorem modCore_ecc (c : Nat) (f : Core → Core) (b : Block) : (modCore c f b).ecc = b.ecc := rfl
@[simp] theorem modCore_sess (c : Nat) (f : Core → Core) (b : Block) : (modCore c f b).sess = b.sess := rfl
@[simp] theorem modCore_dbg (c : Nat) (f : Core → Core) (b : Block) : (modCore c f b).dbg = b.dbg := rfl
@[simp] theorem modCore_trc (c : Nat) (f : Core → Core) (b : Block) : (modCore c f b).trc = b.trc := rfl
@[simp] theorem modCore_certs (c : Nat) (f : Core → Core) (b : Block) : (modCore c f b).certs = b.certs := rfl
@[simp] theorem modCore_mgmt (c : Nat) (f : Core → Core) (b : Block) : (modCore c f b).mgmt = b.mgmt := rfl
@[simp] theorem modCore_slip (c : Nat) (f : Core → Core) (b : Block) : (modCore c f b).slip = b.slip := rfl

/-! ### modHold -/

@[simp] theorem modHold_build (f : Hold → Hold) (b : Block) : (modHold f b).build = b.build := rfl
@[simp] theorem modHold_phase (f : Hold → Hold) (b : Block) : (modHold f b).phase = b.phase := rfl
@[simp] theorem modHold_porN (f : Hold → Hold) (b : Block) : (modHold f b).porN = b.porN := rfl
@[simp] theorem modHold_pins (f : Hold → Hold) (b : Block) : (modHold f b).pins = b.pins := rfl
@[simp] theorem modHold_tick (f : Hold → Hold) (b : Block) : (modHold f b).tick = b.tick := rfl
@[simp] theorem modHold_draws (f : Hold → Hold) (b : Block) : (modHold f b).draws = b.draws := rfl
@[simp] theorem modHold_out (f : Hold → Hold) (b : Block) : (modHold f b).out = b.out := rfl
@[simp] theorem modHold_work (f : Hold → Hold) (b : Block) : (modHold f b).work = b.work := rfl
@[simp] theorem modHold_errSeen (f : Hold → Hold) (b : Block) : (modHold f b).errSeen = b.errSeen := rfl
@[simp] theorem modHold_pages (f : Hold → Hold) (b : Block) : (modHold f b).pages = b.pages := rfl
@[simp] theorem modHold_regs (f : Hold → Hold) (b : Block) : (modHold f b).regs = b.regs := rfl
@[simp] theorem modHold_latches (f : Hold → Hold) (b : Block) : (modHold f b).latches = b.latches := rfl
@[simp] theorem modHold_otp (f : Hold → Hold) (b : Block) : (modHold f b).otp = b.otp := rfl
@[simp] theorem modHold_otpRuns (f : Hold → Hold) (b : Block) : (modHold f b).otpRuns = b.otpRuns := rfl
@[simp] theorem modHold_lcs (f : Hold → Hold) (b : Block) : (modHold f b).lcs = b.lcs := rfl
@[simp] theorem modHold_keys (f : Hold → Hold) (b : Block) : (modHold f b).keys = b.keys := rfl
@[simp] theorem modHold_kstg (f : Hold → Hold) (b : Block) : (modHold f b).kstg = b.kstg := rfl
@[simp] theorem modHold_gse (f : Hold → Hold) (b : Block) : (modHold f b).gse = b.gse := rfl
@[simp] theorem modHold_lnds (f : Hold → Hold) (b : Block) : (modHold f b).lnds = b.lnds := rfl
@[simp] theorem modHold_xings (f : Hold → Hold) (b : Block) : (modHold f b).xings = b.xings := rfl
@[simp] theorem modHold_mems (f : Hold → Hold) (b : Block) : (modHold f b).mems = b.mems := rfl
@[simp] theorem modHold_mema (f : Hold → Hold) (b : Block) : (modHold f b).mema = b.mema := rfl
@[simp] theorem modHold_objs (f : Hold → Hold) (b : Block) : (modHold f b).objs = b.objs := rfl
@[simp] theorem modHold_fences (f : Hold → Hold) (b : Block) : (modHold f b).fences = b.fences := rfl
@[simp] theorem modHold_ctxs (f : Hold → Hold) (b : Block) : (modHold f b).ctxs = b.ctxs := rfl
@[simp] theorem modHold_copies (f : Hold → Hold) (b : Block) : (modHold f b).copies = b.copies := rfl
@[simp] theorem modHold_berths (f : Hold → Hold) (b : Block) : (modHold f b).berths = b.berths := rfl
@[simp] theorem modHold_sched (f : Hold → Hold) (b : Block) : (modHold f b).sched = b.sched := rfl
@[simp] theorem modHold_sync (f : Hold → Hold) (b : Block) : (modHold f b).sync = b.sync := rfl
@[simp] theorem modHold_sue (f : Hold → Hold) (b : Block) : (modHold f b).sue = b.sue := rfl
@[simp] theorem modHold_ecc (f : Hold → Hold) (b : Block) : (modHold f b).ecc = b.ecc := rfl
@[simp] theorem modHold_recv (f : Hold → Hold) (b : Block) : (modHold f b).recv = b.recv := rfl
@[simp] theorem modHold_sess (f : Hold → Hold) (b : Block) : (modHold f b).sess = b.sess := rfl
@[simp] theorem modHold_dbg (f : Hold → Hold) (b : Block) : (modHold f b).dbg = b.dbg := rfl
@[simp] theorem modHold_trc (f : Hold → Hold) (b : Block) : (modHold f b).trc = b.trc := rfl
@[simp] theorem modHold_certs (f : Hold → Hold) (b : Block) : (modHold f b).certs = b.certs := rfl
@[simp] theorem modHold_mgmt (f : Hold → Hold) (b : Block) : (modHold f b).mgmt = b.mgmt := rfl
@[simp] theorem modHold_slip (f : Hold → Hold) (b : Block) : (modHold f b).slip = b.slip := rfl

/-! ### modMems -/

@[simp] theorem modMems_build (f : Mems → Mems) (b : Block) : (modMems f b).build = b.build := rfl
@[simp] theorem modMems_phase (f : Mems → Mems) (b : Block) : (modMems f b).phase = b.phase := rfl
@[simp] theorem modMems_porN (f : Mems → Mems) (b : Block) : (modMems f b).porN = b.porN := rfl
@[simp] theorem modMems_pins (f : Mems → Mems) (b : Block) : (modMems f b).pins = b.pins := rfl
@[simp] theorem modMems_tick (f : Mems → Mems) (b : Block) : (modMems f b).tick = b.tick := rfl
@[simp] theorem modMems_draws (f : Mems → Mems) (b : Block) : (modMems f b).draws = b.draws := rfl
@[simp] theorem modMems_out (f : Mems → Mems) (b : Block) : (modMems f b).out = b.out := rfl
@[simp] theorem modMems_work (f : Mems → Mems) (b : Block) : (modMems f b).work = b.work := rfl
@[simp] theorem modMems_errSeen (f : Mems → Mems) (b : Block) : (modMems f b).errSeen = b.errSeen := rfl
@[simp] theorem modMems_pages (f : Mems → Mems) (b : Block) : (modMems f b).pages = b.pages := rfl
@[simp] theorem modMems_regs (f : Mems → Mems) (b : Block) : (modMems f b).regs = b.regs := rfl
@[simp] theorem modMems_latches (f : Mems → Mems) (b : Block) : (modMems f b).latches = b.latches := rfl
@[simp] theorem modMems_otp (f : Mems → Mems) (b : Block) : (modMems f b).otp = b.otp := rfl
@[simp] theorem modMems_otpRuns (f : Mems → Mems) (b : Block) : (modMems f b).otpRuns = b.otpRuns := rfl
@[simp] theorem modMems_lcs (f : Mems → Mems) (b : Block) : (modMems f b).lcs = b.lcs := rfl
@[simp] theorem modMems_keys (f : Mems → Mems) (b : Block) : (modMems f b).keys = b.keys := rfl
@[simp] theorem modMems_kstg (f : Mems → Mems) (b : Block) : (modMems f b).kstg = b.kstg := rfl
@[simp] theorem modMems_gse (f : Mems → Mems) (b : Block) : (modMems f b).gse = b.gse := rfl
@[simp] theorem modMems_lnds (f : Mems → Mems) (b : Block) : (modMems f b).lnds = b.lnds := rfl
@[simp] theorem modMems_xings (f : Mems → Mems) (b : Block) : (modMems f b).xings = b.xings := rfl
@[simp] theorem modMems_hold (f : Mems → Mems) (b : Block) : (modMems f b).hold = b.hold := rfl
@[simp] theorem modMems_mema (f : Mems → Mems) (b : Block) : (modMems f b).mema = b.mema := rfl
@[simp] theorem modMems_objs (f : Mems → Mems) (b : Block) : (modMems f b).objs = b.objs := rfl
@[simp] theorem modMems_fences (f : Mems → Mems) (b : Block) : (modMems f b).fences = b.fences := rfl
@[simp] theorem modMems_ctxs (f : Mems → Mems) (b : Block) : (modMems f b).ctxs = b.ctxs := rfl
@[simp] theorem modMems_copies (f : Mems → Mems) (b : Block) : (modMems f b).copies = b.copies := rfl
@[simp] theorem modMems_berths (f : Mems → Mems) (b : Block) : (modMems f b).berths = b.berths := rfl
@[simp] theorem modMems_sched (f : Mems → Mems) (b : Block) : (modMems f b).sched = b.sched := rfl
@[simp] theorem modMems_sync (f : Mems → Mems) (b : Block) : (modMems f b).sync = b.sync := rfl
@[simp] theorem modMems_sue (f : Mems → Mems) (b : Block) : (modMems f b).sue = b.sue := rfl
@[simp] theorem modMems_ecc (f : Mems → Mems) (b : Block) : (modMems f b).ecc = b.ecc := rfl
@[simp] theorem modMems_recv (f : Mems → Mems) (b : Block) : (modMems f b).recv = b.recv := rfl
@[simp] theorem modMems_sess (f : Mems → Mems) (b : Block) : (modMems f b).sess = b.sess := rfl
@[simp] theorem modMems_dbg (f : Mems → Mems) (b : Block) : (modMems f b).dbg = b.dbg := rfl
@[simp] theorem modMems_trc (f : Mems → Mems) (b : Block) : (modMems f b).trc = b.trc := rfl
@[simp] theorem modMems_certs (f : Mems → Mems) (b : Block) : (modMems f b).certs = b.certs := rfl
@[simp] theorem modMems_mgmt (f : Mems → Mems) (b : Block) : (modMems f b).mgmt = b.mgmt := rfl
@[simp] theorem modMems_slip (f : Mems → Mems) (b : Block) : (modMems f b).slip = b.slip := rfl

/-! ### modMema -/

@[simp] theorem modMema_build (f : Mema → Mema) (b : Block) : (modMema f b).build = b.build := rfl
@[simp] theorem modMema_phase (f : Mema → Mema) (b : Block) : (modMema f b).phase = b.phase := rfl
@[simp] theorem modMema_porN (f : Mema → Mema) (b : Block) : (modMema f b).porN = b.porN := rfl
@[simp] theorem modMema_pins (f : Mema → Mema) (b : Block) : (modMema f b).pins = b.pins := rfl
@[simp] theorem modMema_tick (f : Mema → Mema) (b : Block) : (modMema f b).tick = b.tick := rfl
@[simp] theorem modMema_draws (f : Mema → Mema) (b : Block) : (modMema f b).draws = b.draws := rfl
@[simp] theorem modMema_out (f : Mema → Mema) (b : Block) : (modMema f b).out = b.out := rfl
@[simp] theorem modMema_work (f : Mema → Mema) (b : Block) : (modMema f b).work = b.work := rfl
@[simp] theorem modMema_errSeen (f : Mema → Mema) (b : Block) : (modMema f b).errSeen = b.errSeen := rfl
@[simp] theorem modMema_pages (f : Mema → Mema) (b : Block) : (modMema f b).pages = b.pages := rfl
@[simp] theorem modMema_regs (f : Mema → Mema) (b : Block) : (modMema f b).regs = b.regs := rfl
@[simp] theorem modMema_latches (f : Mema → Mema) (b : Block) : (modMema f b).latches = b.latches := rfl
@[simp] theorem modMema_otp (f : Mema → Mema) (b : Block) : (modMema f b).otp = b.otp := rfl
@[simp] theorem modMema_otpRuns (f : Mema → Mema) (b : Block) : (modMema f b).otpRuns = b.otpRuns := rfl
@[simp] theorem modMema_lcs (f : Mema → Mema) (b : Block) : (modMema f b).lcs = b.lcs := rfl
@[simp] theorem modMema_keys (f : Mema → Mema) (b : Block) : (modMema f b).keys = b.keys := rfl
@[simp] theorem modMema_kstg (f : Mema → Mema) (b : Block) : (modMema f b).kstg = b.kstg := rfl
@[simp] theorem modMema_gse (f : Mema → Mema) (b : Block) : (modMema f b).gse = b.gse := rfl
@[simp] theorem modMema_lnds (f : Mema → Mema) (b : Block) : (modMema f b).lnds = b.lnds := rfl
@[simp] theorem modMema_xings (f : Mema → Mema) (b : Block) : (modMema f b).xings = b.xings := rfl
@[simp] theorem modMema_hold (f : Mema → Mema) (b : Block) : (modMema f b).hold = b.hold := rfl
@[simp] theorem modMema_mems (f : Mema → Mema) (b : Block) : (modMema f b).mems = b.mems := rfl
@[simp] theorem modMema_objs (f : Mema → Mema) (b : Block) : (modMema f b).objs = b.objs := rfl
@[simp] theorem modMema_fences (f : Mema → Mema) (b : Block) : (modMema f b).fences = b.fences := rfl
@[simp] theorem modMema_ctxs (f : Mema → Mema) (b : Block) : (modMema f b).ctxs = b.ctxs := rfl
@[simp] theorem modMema_copies (f : Mema → Mema) (b : Block) : (modMema f b).copies = b.copies := rfl
@[simp] theorem modMema_berths (f : Mema → Mema) (b : Block) : (modMema f b).berths = b.berths := rfl
@[simp] theorem modMema_sched (f : Mema → Mema) (b : Block) : (modMema f b).sched = b.sched := rfl
@[simp] theorem modMema_sync (f : Mema → Mema) (b : Block) : (modMema f b).sync = b.sync := rfl
@[simp] theorem modMema_sue (f : Mema → Mema) (b : Block) : (modMema f b).sue = b.sue := rfl
@[simp] theorem modMema_ecc (f : Mema → Mema) (b : Block) : (modMema f b).ecc = b.ecc := rfl
@[simp] theorem modMema_recv (f : Mema → Mema) (b : Block) : (modMema f b).recv = b.recv := rfl
@[simp] theorem modMema_sess (f : Mema → Mema) (b : Block) : (modMema f b).sess = b.sess := rfl
@[simp] theorem modMema_dbg (f : Mema → Mema) (b : Block) : (modMema f b).dbg = b.dbg := rfl
@[simp] theorem modMema_trc (f : Mema → Mema) (b : Block) : (modMema f b).trc = b.trc := rfl
@[simp] theorem modMema_certs (f : Mema → Mema) (b : Block) : (modMema f b).certs = b.certs := rfl
@[simp] theorem modMema_mgmt (f : Mema → Mema) (b : Block) : (modMema f b).mgmt = b.mgmt := rfl
@[simp] theorem modMema_slip (f : Mema → Mema) (b : Block) : (modMema f b).slip = b.slip := rfl

/-! ### modGse -/

@[simp] theorem modGse_build (f : Gse → Gse) (b : Block) : (modGse f b).build = b.build := rfl
@[simp] theorem modGse_phase (f : Gse → Gse) (b : Block) : (modGse f b).phase = b.phase := rfl
@[simp] theorem modGse_porN (f : Gse → Gse) (b : Block) : (modGse f b).porN = b.porN := rfl
@[simp] theorem modGse_pins (f : Gse → Gse) (b : Block) : (modGse f b).pins = b.pins := rfl
@[simp] theorem modGse_tick (f : Gse → Gse) (b : Block) : (modGse f b).tick = b.tick := rfl
@[simp] theorem modGse_draws (f : Gse → Gse) (b : Block) : (modGse f b).draws = b.draws := rfl
@[simp] theorem modGse_out (f : Gse → Gse) (b : Block) : (modGse f b).out = b.out := rfl
@[simp] theorem modGse_work (f : Gse → Gse) (b : Block) : (modGse f b).work = b.work := rfl
@[simp] theorem modGse_errSeen (f : Gse → Gse) (b : Block) : (modGse f b).errSeen = b.errSeen := rfl
@[simp] theorem modGse_pages (f : Gse → Gse) (b : Block) : (modGse f b).pages = b.pages := rfl
@[simp] theorem modGse_regs (f : Gse → Gse) (b : Block) : (modGse f b).regs = b.regs := rfl
@[simp] theorem modGse_latches (f : Gse → Gse) (b : Block) : (modGse f b).latches = b.latches := rfl
@[simp] theorem modGse_otp (f : Gse → Gse) (b : Block) : (modGse f b).otp = b.otp := rfl
@[simp] theorem modGse_otpRuns (f : Gse → Gse) (b : Block) : (modGse f b).otpRuns = b.otpRuns := rfl
@[simp] theorem modGse_lcs (f : Gse → Gse) (b : Block) : (modGse f b).lcs = b.lcs := rfl
@[simp] theorem modGse_keys (f : Gse → Gse) (b : Block) : (modGse f b).keys = b.keys := rfl
@[simp] theorem modGse_kstg (f : Gse → Gse) (b : Block) : (modGse f b).kstg = b.kstg := rfl
@[simp] theorem modGse_lnds (f : Gse → Gse) (b : Block) : (modGse f b).lnds = b.lnds := rfl
@[simp] theorem modGse_xings (f : Gse → Gse) (b : Block) : (modGse f b).xings = b.xings := rfl
@[simp] theorem modGse_hold (f : Gse → Gse) (b : Block) : (modGse f b).hold = b.hold := rfl
@[simp] theorem modGse_mems (f : Gse → Gse) (b : Block) : (modGse f b).mems = b.mems := rfl
@[simp] theorem modGse_mema (f : Gse → Gse) (b : Block) : (modGse f b).mema = b.mema := rfl
@[simp] theorem modGse_objs (f : Gse → Gse) (b : Block) : (modGse f b).objs = b.objs := rfl
@[simp] theorem modGse_fences (f : Gse → Gse) (b : Block) : (modGse f b).fences = b.fences := rfl
@[simp] theorem modGse_ctxs (f : Gse → Gse) (b : Block) : (modGse f b).ctxs = b.ctxs := rfl
@[simp] theorem modGse_copies (f : Gse → Gse) (b : Block) : (modGse f b).copies = b.copies := rfl
@[simp] theorem modGse_berths (f : Gse → Gse) (b : Block) : (modGse f b).berths = b.berths := rfl
@[simp] theorem modGse_sched (f : Gse → Gse) (b : Block) : (modGse f b).sched = b.sched := rfl
@[simp] theorem modGse_sync (f : Gse → Gse) (b : Block) : (modGse f b).sync = b.sync := rfl
@[simp] theorem modGse_sue (f : Gse → Gse) (b : Block) : (modGse f b).sue = b.sue := rfl
@[simp] theorem modGse_ecc (f : Gse → Gse) (b : Block) : (modGse f b).ecc = b.ecc := rfl
@[simp] theorem modGse_recv (f : Gse → Gse) (b : Block) : (modGse f b).recv = b.recv := rfl
@[simp] theorem modGse_sess (f : Gse → Gse) (b : Block) : (modGse f b).sess = b.sess := rfl
@[simp] theorem modGse_dbg (f : Gse → Gse) (b : Block) : (modGse f b).dbg = b.dbg := rfl
@[simp] theorem modGse_trc (f : Gse → Gse) (b : Block) : (modGse f b).trc = b.trc := rfl
@[simp] theorem modGse_certs (f : Gse → Gse) (b : Block) : (modGse f b).certs = b.certs := rfl
@[simp] theorem modGse_mgmt (f : Gse → Gse) (b : Block) : (modGse f b).mgmt = b.mgmt := rfl
@[simp] theorem modGse_slip (f : Gse → Gse) (b : Block) : (modGse f b).slip = b.slip := rfl

/-! ### modKstg -/

@[simp] theorem modKstg_build (f : Kstg → Kstg) (b : Block) : (modKstg f b).build = b.build := rfl
@[simp] theorem modKstg_phase (f : Kstg → Kstg) (b : Block) : (modKstg f b).phase = b.phase := rfl
@[simp] theorem modKstg_porN (f : Kstg → Kstg) (b : Block) : (modKstg f b).porN = b.porN := rfl
@[simp] theorem modKstg_pins (f : Kstg → Kstg) (b : Block) : (modKstg f b).pins = b.pins := rfl
@[simp] theorem modKstg_tick (f : Kstg → Kstg) (b : Block) : (modKstg f b).tick = b.tick := rfl
@[simp] theorem modKstg_draws (f : Kstg → Kstg) (b : Block) : (modKstg f b).draws = b.draws := rfl
@[simp] theorem modKstg_out (f : Kstg → Kstg) (b : Block) : (modKstg f b).out = b.out := rfl
@[simp] theorem modKstg_work (f : Kstg → Kstg) (b : Block) : (modKstg f b).work = b.work := rfl
@[simp] theorem modKstg_errSeen (f : Kstg → Kstg) (b : Block) : (modKstg f b).errSeen = b.errSeen := rfl
@[simp] theorem modKstg_pages (f : Kstg → Kstg) (b : Block) : (modKstg f b).pages = b.pages := rfl
@[simp] theorem modKstg_regs (f : Kstg → Kstg) (b : Block) : (modKstg f b).regs = b.regs := rfl
@[simp] theorem modKstg_latches (f : Kstg → Kstg) (b : Block) : (modKstg f b).latches = b.latches := rfl
@[simp] theorem modKstg_otp (f : Kstg → Kstg) (b : Block) : (modKstg f b).otp = b.otp := rfl
@[simp] theorem modKstg_otpRuns (f : Kstg → Kstg) (b : Block) : (modKstg f b).otpRuns = b.otpRuns := rfl
@[simp] theorem modKstg_lcs (f : Kstg → Kstg) (b : Block) : (modKstg f b).lcs = b.lcs := rfl
@[simp] theorem modKstg_keys (f : Kstg → Kstg) (b : Block) : (modKstg f b).keys = b.keys := rfl
@[simp] theorem modKstg_gse (f : Kstg → Kstg) (b : Block) : (modKstg f b).gse = b.gse := rfl
@[simp] theorem modKstg_lnds (f : Kstg → Kstg) (b : Block) : (modKstg f b).lnds = b.lnds := rfl
@[simp] theorem modKstg_xings (f : Kstg → Kstg) (b : Block) : (modKstg f b).xings = b.xings := rfl
@[simp] theorem modKstg_hold (f : Kstg → Kstg) (b : Block) : (modKstg f b).hold = b.hold := rfl
@[simp] theorem modKstg_mems (f : Kstg → Kstg) (b : Block) : (modKstg f b).mems = b.mems := rfl
@[simp] theorem modKstg_mema (f : Kstg → Kstg) (b : Block) : (modKstg f b).mema = b.mema := rfl
@[simp] theorem modKstg_objs (f : Kstg → Kstg) (b : Block) : (modKstg f b).objs = b.objs := rfl
@[simp] theorem modKstg_fences (f : Kstg → Kstg) (b : Block) : (modKstg f b).fences = b.fences := rfl
@[simp] theorem modKstg_ctxs (f : Kstg → Kstg) (b : Block) : (modKstg f b).ctxs = b.ctxs := rfl
@[simp] theorem modKstg_copies (f : Kstg → Kstg) (b : Block) : (modKstg f b).copies = b.copies := rfl
@[simp] theorem modKstg_berths (f : Kstg → Kstg) (b : Block) : (modKstg f b).berths = b.berths := rfl
@[simp] theorem modKstg_sched (f : Kstg → Kstg) (b : Block) : (modKstg f b).sched = b.sched := rfl
@[simp] theorem modKstg_sync (f : Kstg → Kstg) (b : Block) : (modKstg f b).sync = b.sync := rfl
@[simp] theorem modKstg_sue (f : Kstg → Kstg) (b : Block) : (modKstg f b).sue = b.sue := rfl
@[simp] theorem modKstg_ecc (f : Kstg → Kstg) (b : Block) : (modKstg f b).ecc = b.ecc := rfl
@[simp] theorem modKstg_recv (f : Kstg → Kstg) (b : Block) : (modKstg f b).recv = b.recv := rfl
@[simp] theorem modKstg_sess (f : Kstg → Kstg) (b : Block) : (modKstg f b).sess = b.sess := rfl
@[simp] theorem modKstg_dbg (f : Kstg → Kstg) (b : Block) : (modKstg f b).dbg = b.dbg := rfl
@[simp] theorem modKstg_trc (f : Kstg → Kstg) (b : Block) : (modKstg f b).trc = b.trc := rfl
@[simp] theorem modKstg_certs (f : Kstg → Kstg) (b : Block) : (modKstg f b).certs = b.certs := rfl
@[simp] theorem modKstg_mgmt (f : Kstg → Kstg) (b : Block) : (modKstg f b).mgmt = b.mgmt := rfl
@[simp] theorem modKstg_slip (f : Kstg → Kstg) (b : Block) : (modKstg f b).slip = b.slip := rfl

/-! ### modSched -/

@[simp] theorem modSched_build (f : Sched → Sched) (b : Block) : (modSched f b).build = b.build := rfl
@[simp] theorem modSched_phase (f : Sched → Sched) (b : Block) : (modSched f b).phase = b.phase := rfl
@[simp] theorem modSched_porN (f : Sched → Sched) (b : Block) : (modSched f b).porN = b.porN := rfl
@[simp] theorem modSched_pins (f : Sched → Sched) (b : Block) : (modSched f b).pins = b.pins := rfl
@[simp] theorem modSched_tick (f : Sched → Sched) (b : Block) : (modSched f b).tick = b.tick := rfl
@[simp] theorem modSched_draws (f : Sched → Sched) (b : Block) : (modSched f b).draws = b.draws := rfl
@[simp] theorem modSched_out (f : Sched → Sched) (b : Block) : (modSched f b).out = b.out := rfl
@[simp] theorem modSched_work (f : Sched → Sched) (b : Block) : (modSched f b).work = b.work := rfl
@[simp] theorem modSched_errSeen (f : Sched → Sched) (b : Block) : (modSched f b).errSeen = b.errSeen := rfl
@[simp] theorem modSched_pages (f : Sched → Sched) (b : Block) : (modSched f b).pages = b.pages := rfl
@[simp] theorem modSched_regs (f : Sched → Sched) (b : Block) : (modSched f b).regs = b.regs := rfl
@[simp] theorem modSched_latches (f : Sched → Sched) (b : Block) : (modSched f b).latches = b.latches := rfl
@[simp] theorem modSched_otp (f : Sched → Sched) (b : Block) : (modSched f b).otp = b.otp := rfl
@[simp] theorem modSched_otpRuns (f : Sched → Sched) (b : Block) : (modSched f b).otpRuns = b.otpRuns := rfl
@[simp] theorem modSched_lcs (f : Sched → Sched) (b : Block) : (modSched f b).lcs = b.lcs := rfl
@[simp] theorem modSched_keys (f : Sched → Sched) (b : Block) : (modSched f b).keys = b.keys := rfl
@[simp] theorem modSched_kstg (f : Sched → Sched) (b : Block) : (modSched f b).kstg = b.kstg := rfl
@[simp] theorem modSched_gse (f : Sched → Sched) (b : Block) : (modSched f b).gse = b.gse := rfl
@[simp] theorem modSched_lnds (f : Sched → Sched) (b : Block) : (modSched f b).lnds = b.lnds := rfl
@[simp] theorem modSched_xings (f : Sched → Sched) (b : Block) : (modSched f b).xings = b.xings := rfl
@[simp] theorem modSched_hold (f : Sched → Sched) (b : Block) : (modSched f b).hold = b.hold := rfl
@[simp] theorem modSched_mems (f : Sched → Sched) (b : Block) : (modSched f b).mems = b.mems := rfl
@[simp] theorem modSched_mema (f : Sched → Sched) (b : Block) : (modSched f b).mema = b.mema := rfl
@[simp] theorem modSched_objs (f : Sched → Sched) (b : Block) : (modSched f b).objs = b.objs := rfl
@[simp] theorem modSched_fences (f : Sched → Sched) (b : Block) : (modSched f b).fences = b.fences := rfl
@[simp] theorem modSched_ctxs (f : Sched → Sched) (b : Block) : (modSched f b).ctxs = b.ctxs := rfl
@[simp] theorem modSched_copies (f : Sched → Sched) (b : Block) : (modSched f b).copies = b.copies := rfl
@[simp] theorem modSched_berths (f : Sched → Sched) (b : Block) : (modSched f b).berths = b.berths := rfl
@[simp] theorem modSched_sync (f : Sched → Sched) (b : Block) : (modSched f b).sync = b.sync := rfl
@[simp] theorem modSched_sue (f : Sched → Sched) (b : Block) : (modSched f b).sue = b.sue := rfl
@[simp] theorem modSched_ecc (f : Sched → Sched) (b : Block) : (modSched f b).ecc = b.ecc := rfl
@[simp] theorem modSched_recv (f : Sched → Sched) (b : Block) : (modSched f b).recv = b.recv := rfl
@[simp] theorem modSched_sess (f : Sched → Sched) (b : Block) : (modSched f b).sess = b.sess := rfl
@[simp] theorem modSched_dbg (f : Sched → Sched) (b : Block) : (modSched f b).dbg = b.dbg := rfl
@[simp] theorem modSched_trc (f : Sched → Sched) (b : Block) : (modSched f b).trc = b.trc := rfl
@[simp] theorem modSched_certs (f : Sched → Sched) (b : Block) : (modSched f b).certs = b.certs := rfl
@[simp] theorem modSched_mgmt (f : Sched → Sched) (b : Block) : (modSched f b).mgmt = b.mgmt := rfl
@[simp] theorem modSched_slip (f : Sched → Sched) (b : Block) : (modSched f b).slip = b.slip := rfl

/-! ### modSync -/

@[simp] theorem modSync_build (f : Sync → Sync) (b : Block) : (modSync f b).build = b.build := rfl
@[simp] theorem modSync_phase (f : Sync → Sync) (b : Block) : (modSync f b).phase = b.phase := rfl
@[simp] theorem modSync_porN (f : Sync → Sync) (b : Block) : (modSync f b).porN = b.porN := rfl
@[simp] theorem modSync_pins (f : Sync → Sync) (b : Block) : (modSync f b).pins = b.pins := rfl
@[simp] theorem modSync_tick (f : Sync → Sync) (b : Block) : (modSync f b).tick = b.tick := rfl
@[simp] theorem modSync_draws (f : Sync → Sync) (b : Block) : (modSync f b).draws = b.draws := rfl
@[simp] theorem modSync_out (f : Sync → Sync) (b : Block) : (modSync f b).out = b.out := rfl
@[simp] theorem modSync_work (f : Sync → Sync) (b : Block) : (modSync f b).work = b.work := rfl
@[simp] theorem modSync_errSeen (f : Sync → Sync) (b : Block) : (modSync f b).errSeen = b.errSeen := rfl
@[simp] theorem modSync_pages (f : Sync → Sync) (b : Block) : (modSync f b).pages = b.pages := rfl
@[simp] theorem modSync_regs (f : Sync → Sync) (b : Block) : (modSync f b).regs = b.regs := rfl
@[simp] theorem modSync_latches (f : Sync → Sync) (b : Block) : (modSync f b).latches = b.latches := rfl
@[simp] theorem modSync_otp (f : Sync → Sync) (b : Block) : (modSync f b).otp = b.otp := rfl
@[simp] theorem modSync_otpRuns (f : Sync → Sync) (b : Block) : (modSync f b).otpRuns = b.otpRuns := rfl
@[simp] theorem modSync_lcs (f : Sync → Sync) (b : Block) : (modSync f b).lcs = b.lcs := rfl
@[simp] theorem modSync_keys (f : Sync → Sync) (b : Block) : (modSync f b).keys = b.keys := rfl
@[simp] theorem modSync_kstg (f : Sync → Sync) (b : Block) : (modSync f b).kstg = b.kstg := rfl
@[simp] theorem modSync_gse (f : Sync → Sync) (b : Block) : (modSync f b).gse = b.gse := rfl
@[simp] theorem modSync_lnds (f : Sync → Sync) (b : Block) : (modSync f b).lnds = b.lnds := rfl
@[simp] theorem modSync_xings (f : Sync → Sync) (b : Block) : (modSync f b).xings = b.xings := rfl
@[simp] theorem modSync_hold (f : Sync → Sync) (b : Block) : (modSync f b).hold = b.hold := rfl
@[simp] theorem modSync_mems (f : Sync → Sync) (b : Block) : (modSync f b).mems = b.mems := rfl
@[simp] theorem modSync_mema (f : Sync → Sync) (b : Block) : (modSync f b).mema = b.mema := rfl
@[simp] theorem modSync_objs (f : Sync → Sync) (b : Block) : (modSync f b).objs = b.objs := rfl
@[simp] theorem modSync_fences (f : Sync → Sync) (b : Block) : (modSync f b).fences = b.fences := rfl
@[simp] theorem modSync_ctxs (f : Sync → Sync) (b : Block) : (modSync f b).ctxs = b.ctxs := rfl
@[simp] theorem modSync_copies (f : Sync → Sync) (b : Block) : (modSync f b).copies = b.copies := rfl
@[simp] theorem modSync_berths (f : Sync → Sync) (b : Block) : (modSync f b).berths = b.berths := rfl
@[simp] theorem modSync_sched (f : Sync → Sync) (b : Block) : (modSync f b).sched = b.sched := rfl
@[simp] theorem modSync_sue (f : Sync → Sync) (b : Block) : (modSync f b).sue = b.sue := rfl
@[simp] theorem modSync_ecc (f : Sync → Sync) (b : Block) : (modSync f b).ecc = b.ecc := rfl
@[simp] theorem modSync_recv (f : Sync → Sync) (b : Block) : (modSync f b).recv = b.recv := rfl
@[simp] theorem modSync_sess (f : Sync → Sync) (b : Block) : (modSync f b).sess = b.sess := rfl
@[simp] theorem modSync_dbg (f : Sync → Sync) (b : Block) : (modSync f b).dbg = b.dbg := rfl
@[simp] theorem modSync_trc (f : Sync → Sync) (b : Block) : (modSync f b).trc = b.trc := rfl
@[simp] theorem modSync_certs (f : Sync → Sync) (b : Block) : (modSync f b).certs = b.certs := rfl
@[simp] theorem modSync_mgmt (f : Sync → Sync) (b : Block) : (modSync f b).mgmt = b.mgmt := rfl
@[simp] theorem modSync_slip (f : Sync → Sync) (b : Block) : (modSync f b).slip = b.slip := rfl

/-! ### modSue -/

@[simp] theorem modSue_build (w : Nat) (f : SueBerth → SueBerth) (b : Block) : (modSue w f b).build = b.build := rfl
@[simp] theorem modSue_phase (w : Nat) (f : SueBerth → SueBerth) (b : Block) : (modSue w f b).phase = b.phase := rfl
@[simp] theorem modSue_porN (w : Nat) (f : SueBerth → SueBerth) (b : Block) : (modSue w f b).porN = b.porN := rfl
@[simp] theorem modSue_pins (w : Nat) (f : SueBerth → SueBerth) (b : Block) : (modSue w f b).pins = b.pins := rfl
@[simp] theorem modSue_tick (w : Nat) (f : SueBerth → SueBerth) (b : Block) : (modSue w f b).tick = b.tick := rfl
@[simp] theorem modSue_draws (w : Nat) (f : SueBerth → SueBerth) (b : Block) : (modSue w f b).draws = b.draws := rfl
@[simp] theorem modSue_out (w : Nat) (f : SueBerth → SueBerth) (b : Block) : (modSue w f b).out = b.out := rfl
@[simp] theorem modSue_work (w : Nat) (f : SueBerth → SueBerth) (b : Block) : (modSue w f b).work = b.work := rfl
@[simp] theorem modSue_errSeen (w : Nat) (f : SueBerth → SueBerth) (b : Block) : (modSue w f b).errSeen = b.errSeen := rfl
@[simp] theorem modSue_pages (w : Nat) (f : SueBerth → SueBerth) (b : Block) : (modSue w f b).pages = b.pages := rfl
@[simp] theorem modSue_regs (w : Nat) (f : SueBerth → SueBerth) (b : Block) : (modSue w f b).regs = b.regs := rfl
@[simp] theorem modSue_latches (w : Nat) (f : SueBerth → SueBerth) (b : Block) : (modSue w f b).latches = b.latches := rfl
@[simp] theorem modSue_otp (w : Nat) (f : SueBerth → SueBerth) (b : Block) : (modSue w f b).otp = b.otp := rfl
@[simp] theorem modSue_otpRuns (w : Nat) (f : SueBerth → SueBerth) (b : Block) : (modSue w f b).otpRuns = b.otpRuns := rfl
@[simp] theorem modSue_lcs (w : Nat) (f : SueBerth → SueBerth) (b : Block) : (modSue w f b).lcs = b.lcs := rfl
@[simp] theorem modSue_keys (w : Nat) (f : SueBerth → SueBerth) (b : Block) : (modSue w f b).keys = b.keys := rfl
@[simp] theorem modSue_kstg (w : Nat) (f : SueBerth → SueBerth) (b : Block) : (modSue w f b).kstg = b.kstg := rfl
@[simp] theorem modSue_gse (w : Nat) (f : SueBerth → SueBerth) (b : Block) : (modSue w f b).gse = b.gse := rfl
@[simp] theorem modSue_lnds (w : Nat) (f : SueBerth → SueBerth) (b : Block) : (modSue w f b).lnds = b.lnds := rfl
@[simp] theorem modSue_xings (w : Nat) (f : SueBerth → SueBerth) (b : Block) : (modSue w f b).xings = b.xings := rfl
@[simp] theorem modSue_hold (w : Nat) (f : SueBerth → SueBerth) (b : Block) : (modSue w f b).hold = b.hold := rfl
@[simp] theorem modSue_mems (w : Nat) (f : SueBerth → SueBerth) (b : Block) : (modSue w f b).mems = b.mems := rfl
@[simp] theorem modSue_mema (w : Nat) (f : SueBerth → SueBerth) (b : Block) : (modSue w f b).mema = b.mema := rfl
@[simp] theorem modSue_objs (w : Nat) (f : SueBerth → SueBerth) (b : Block) : (modSue w f b).objs = b.objs := rfl
@[simp] theorem modSue_fences (w : Nat) (f : SueBerth → SueBerth) (b : Block) : (modSue w f b).fences = b.fences := rfl
@[simp] theorem modSue_ctxs (w : Nat) (f : SueBerth → SueBerth) (b : Block) : (modSue w f b).ctxs = b.ctxs := rfl
@[simp] theorem modSue_copies (w : Nat) (f : SueBerth → SueBerth) (b : Block) : (modSue w f b).copies = b.copies := rfl
@[simp] theorem modSue_berths (w : Nat) (f : SueBerth → SueBerth) (b : Block) : (modSue w f b).berths = b.berths := rfl
@[simp] theorem modSue_sched (w : Nat) (f : SueBerth → SueBerth) (b : Block) : (modSue w f b).sched = b.sched := rfl
@[simp] theorem modSue_sync (w : Nat) (f : SueBerth → SueBerth) (b : Block) : (modSue w f b).sync = b.sync := rfl
@[simp] theorem modSue_ecc (w : Nat) (f : SueBerth → SueBerth) (b : Block) : (modSue w f b).ecc = b.ecc := rfl
@[simp] theorem modSue_recv (w : Nat) (f : SueBerth → SueBerth) (b : Block) : (modSue w f b).recv = b.recv := rfl
@[simp] theorem modSue_sess (w : Nat) (f : SueBerth → SueBerth) (b : Block) : (modSue w f b).sess = b.sess := rfl
@[simp] theorem modSue_dbg (w : Nat) (f : SueBerth → SueBerth) (b : Block) : (modSue w f b).dbg = b.dbg := rfl
@[simp] theorem modSue_trc (w : Nat) (f : SueBerth → SueBerth) (b : Block) : (modSue w f b).trc = b.trc := rfl
@[simp] theorem modSue_certs (w : Nat) (f : SueBerth → SueBerth) (b : Block) : (modSue w f b).certs = b.certs := rfl
@[simp] theorem modSue_mgmt (w : Nat) (f : SueBerth → SueBerth) (b : Block) : (modSue w f b).mgmt = b.mgmt := rfl
@[simp] theorem modSue_slip (w : Nat) (f : SueBerth → SueBerth) (b : Block) : (modSue w f b).slip = b.slip := rfl

/-! ### modEcc -/

@[simp] theorem modEcc_build (f : Ecc → Ecc) (b : Block) : (modEcc f b).build = b.build := rfl
@[simp] theorem modEcc_phase (f : Ecc → Ecc) (b : Block) : (modEcc f b).phase = b.phase := rfl
@[simp] theorem modEcc_porN (f : Ecc → Ecc) (b : Block) : (modEcc f b).porN = b.porN := rfl
@[simp] theorem modEcc_pins (f : Ecc → Ecc) (b : Block) : (modEcc f b).pins = b.pins := rfl
@[simp] theorem modEcc_tick (f : Ecc → Ecc) (b : Block) : (modEcc f b).tick = b.tick := rfl
@[simp] theorem modEcc_draws (f : Ecc → Ecc) (b : Block) : (modEcc f b).draws = b.draws := rfl
@[simp] theorem modEcc_out (f : Ecc → Ecc) (b : Block) : (modEcc f b).out = b.out := rfl
@[simp] theorem modEcc_work (f : Ecc → Ecc) (b : Block) : (modEcc f b).work = b.work := rfl
@[simp] theorem modEcc_errSeen (f : Ecc → Ecc) (b : Block) : (modEcc f b).errSeen = b.errSeen := rfl
@[simp] theorem modEcc_pages (f : Ecc → Ecc) (b : Block) : (modEcc f b).pages = b.pages := rfl
@[simp] theorem modEcc_regs (f : Ecc → Ecc) (b : Block) : (modEcc f b).regs = b.regs := rfl
@[simp] theorem modEcc_latches (f : Ecc → Ecc) (b : Block) : (modEcc f b).latches = b.latches := rfl
@[simp] theorem modEcc_otp (f : Ecc → Ecc) (b : Block) : (modEcc f b).otp = b.otp := rfl
@[simp] theorem modEcc_otpRuns (f : Ecc → Ecc) (b : Block) : (modEcc f b).otpRuns = b.otpRuns := rfl
@[simp] theorem modEcc_lcs (f : Ecc → Ecc) (b : Block) : (modEcc f b).lcs = b.lcs := rfl
@[simp] theorem modEcc_keys (f : Ecc → Ecc) (b : Block) : (modEcc f b).keys = b.keys := rfl
@[simp] theorem modEcc_kstg (f : Ecc → Ecc) (b : Block) : (modEcc f b).kstg = b.kstg := rfl
@[simp] theorem modEcc_gse (f : Ecc → Ecc) (b : Block) : (modEcc f b).gse = b.gse := rfl
@[simp] theorem modEcc_lnds (f : Ecc → Ecc) (b : Block) : (modEcc f b).lnds = b.lnds := rfl
@[simp] theorem modEcc_xings (f : Ecc → Ecc) (b : Block) : (modEcc f b).xings = b.xings := rfl
@[simp] theorem modEcc_hold (f : Ecc → Ecc) (b : Block) : (modEcc f b).hold = b.hold := rfl
@[simp] theorem modEcc_mems (f : Ecc → Ecc) (b : Block) : (modEcc f b).mems = b.mems := rfl
@[simp] theorem modEcc_mema (f : Ecc → Ecc) (b : Block) : (modEcc f b).mema = b.mema := rfl
@[simp] theorem modEcc_objs (f : Ecc → Ecc) (b : Block) : (modEcc f b).objs = b.objs := rfl
@[simp] theorem modEcc_fences (f : Ecc → Ecc) (b : Block) : (modEcc f b).fences = b.fences := rfl
@[simp] theorem modEcc_ctxs (f : Ecc → Ecc) (b : Block) : (modEcc f b).ctxs = b.ctxs := rfl
@[simp] theorem modEcc_copies (f : Ecc → Ecc) (b : Block) : (modEcc f b).copies = b.copies := rfl
@[simp] theorem modEcc_berths (f : Ecc → Ecc) (b : Block) : (modEcc f b).berths = b.berths := rfl
@[simp] theorem modEcc_sched (f : Ecc → Ecc) (b : Block) : (modEcc f b).sched = b.sched := rfl
@[simp] theorem modEcc_sync (f : Ecc → Ecc) (b : Block) : (modEcc f b).sync = b.sync := rfl
@[simp] theorem modEcc_sue (f : Ecc → Ecc) (b : Block) : (modEcc f b).sue = b.sue := rfl
@[simp] theorem modEcc_recv (f : Ecc → Ecc) (b : Block) : (modEcc f b).recv = b.recv := rfl
@[simp] theorem modEcc_sess (f : Ecc → Ecc) (b : Block) : (modEcc f b).sess = b.sess := rfl
@[simp] theorem modEcc_dbg (f : Ecc → Ecc) (b : Block) : (modEcc f b).dbg = b.dbg := rfl
@[simp] theorem modEcc_trc (f : Ecc → Ecc) (b : Block) : (modEcc f b).trc = b.trc := rfl
@[simp] theorem modEcc_certs (f : Ecc → Ecc) (b : Block) : (modEcc f b).certs = b.certs := rfl
@[simp] theorem modEcc_mgmt (f : Ecc → Ecc) (b : Block) : (modEcc f b).mgmt = b.mgmt := rfl
@[simp] theorem modEcc_slip (f : Ecc → Ecc) (b : Block) : (modEcc f b).slip = b.slip := rfl

/-! ### modDbg -/

@[simp] theorem modDbg_build (f : Dbg → Dbg) (b : Block) : (modDbg f b).build = b.build := rfl
@[simp] theorem modDbg_phase (f : Dbg → Dbg) (b : Block) : (modDbg f b).phase = b.phase := rfl
@[simp] theorem modDbg_porN (f : Dbg → Dbg) (b : Block) : (modDbg f b).porN = b.porN := rfl
@[simp] theorem modDbg_pins (f : Dbg → Dbg) (b : Block) : (modDbg f b).pins = b.pins := rfl
@[simp] theorem modDbg_tick (f : Dbg → Dbg) (b : Block) : (modDbg f b).tick = b.tick := rfl
@[simp] theorem modDbg_draws (f : Dbg → Dbg) (b : Block) : (modDbg f b).draws = b.draws := rfl
@[simp] theorem modDbg_out (f : Dbg → Dbg) (b : Block) : (modDbg f b).out = b.out := rfl
@[simp] theorem modDbg_work (f : Dbg → Dbg) (b : Block) : (modDbg f b).work = b.work := rfl
@[simp] theorem modDbg_errSeen (f : Dbg → Dbg) (b : Block) : (modDbg f b).errSeen = b.errSeen := rfl
@[simp] theorem modDbg_pages (f : Dbg → Dbg) (b : Block) : (modDbg f b).pages = b.pages := rfl
@[simp] theorem modDbg_regs (f : Dbg → Dbg) (b : Block) : (modDbg f b).regs = b.regs := rfl
@[simp] theorem modDbg_latches (f : Dbg → Dbg) (b : Block) : (modDbg f b).latches = b.latches := rfl
@[simp] theorem modDbg_otp (f : Dbg → Dbg) (b : Block) : (modDbg f b).otp = b.otp := rfl
@[simp] theorem modDbg_otpRuns (f : Dbg → Dbg) (b : Block) : (modDbg f b).otpRuns = b.otpRuns := rfl
@[simp] theorem modDbg_lcs (f : Dbg → Dbg) (b : Block) : (modDbg f b).lcs = b.lcs := rfl
@[simp] theorem modDbg_keys (f : Dbg → Dbg) (b : Block) : (modDbg f b).keys = b.keys := rfl
@[simp] theorem modDbg_kstg (f : Dbg → Dbg) (b : Block) : (modDbg f b).kstg = b.kstg := rfl
@[simp] theorem modDbg_gse (f : Dbg → Dbg) (b : Block) : (modDbg f b).gse = b.gse := rfl
@[simp] theorem modDbg_lnds (f : Dbg → Dbg) (b : Block) : (modDbg f b).lnds = b.lnds := rfl
@[simp] theorem modDbg_xings (f : Dbg → Dbg) (b : Block) : (modDbg f b).xings = b.xings := rfl
@[simp] theorem modDbg_hold (f : Dbg → Dbg) (b : Block) : (modDbg f b).hold = b.hold := rfl
@[simp] theorem modDbg_mems (f : Dbg → Dbg) (b : Block) : (modDbg f b).mems = b.mems := rfl
@[simp] theorem modDbg_mema (f : Dbg → Dbg) (b : Block) : (modDbg f b).mema = b.mema := rfl
@[simp] theorem modDbg_objs (f : Dbg → Dbg) (b : Block) : (modDbg f b).objs = b.objs := rfl
@[simp] theorem modDbg_fences (f : Dbg → Dbg) (b : Block) : (modDbg f b).fences = b.fences := rfl
@[simp] theorem modDbg_ctxs (f : Dbg → Dbg) (b : Block) : (modDbg f b).ctxs = b.ctxs := rfl
@[simp] theorem modDbg_copies (f : Dbg → Dbg) (b : Block) : (modDbg f b).copies = b.copies := rfl
@[simp] theorem modDbg_berths (f : Dbg → Dbg) (b : Block) : (modDbg f b).berths = b.berths := rfl
@[simp] theorem modDbg_sched (f : Dbg → Dbg) (b : Block) : (modDbg f b).sched = b.sched := rfl
@[simp] theorem modDbg_sync (f : Dbg → Dbg) (b : Block) : (modDbg f b).sync = b.sync := rfl
@[simp] theorem modDbg_sue (f : Dbg → Dbg) (b : Block) : (modDbg f b).sue = b.sue := rfl
@[simp] theorem modDbg_ecc (f : Dbg → Dbg) (b : Block) : (modDbg f b).ecc = b.ecc := rfl
@[simp] theorem modDbg_recv (f : Dbg → Dbg) (b : Block) : (modDbg f b).recv = b.recv := rfl
@[simp] theorem modDbg_sess (f : Dbg → Dbg) (b : Block) : (modDbg f b).sess = b.sess := rfl
@[simp] theorem modDbg_trc (f : Dbg → Dbg) (b : Block) : (modDbg f b).trc = b.trc := rfl
@[simp] theorem modDbg_certs (f : Dbg → Dbg) (b : Block) : (modDbg f b).certs = b.certs := rfl
@[simp] theorem modDbg_mgmt (f : Dbg → Dbg) (b : Block) : (modDbg f b).mgmt = b.mgmt := rfl
@[simp] theorem modDbg_slip (f : Dbg → Dbg) (b : Block) : (modDbg f b).slip = b.slip := rfl

/-! ### modTrc -/

@[simp] theorem modTrc_build (f : Trc → Trc) (b : Block) : (modTrc f b).build = b.build := rfl
@[simp] theorem modTrc_phase (f : Trc → Trc) (b : Block) : (modTrc f b).phase = b.phase := rfl
@[simp] theorem modTrc_porN (f : Trc → Trc) (b : Block) : (modTrc f b).porN = b.porN := rfl
@[simp] theorem modTrc_pins (f : Trc → Trc) (b : Block) : (modTrc f b).pins = b.pins := rfl
@[simp] theorem modTrc_tick (f : Trc → Trc) (b : Block) : (modTrc f b).tick = b.tick := rfl
@[simp] theorem modTrc_draws (f : Trc → Trc) (b : Block) : (modTrc f b).draws = b.draws := rfl
@[simp] theorem modTrc_out (f : Trc → Trc) (b : Block) : (modTrc f b).out = b.out := rfl
@[simp] theorem modTrc_work (f : Trc → Trc) (b : Block) : (modTrc f b).work = b.work := rfl
@[simp] theorem modTrc_errSeen (f : Trc → Trc) (b : Block) : (modTrc f b).errSeen = b.errSeen := rfl
@[simp] theorem modTrc_pages (f : Trc → Trc) (b : Block) : (modTrc f b).pages = b.pages := rfl
@[simp] theorem modTrc_regs (f : Trc → Trc) (b : Block) : (modTrc f b).regs = b.regs := rfl
@[simp] theorem modTrc_latches (f : Trc → Trc) (b : Block) : (modTrc f b).latches = b.latches := rfl
@[simp] theorem modTrc_otp (f : Trc → Trc) (b : Block) : (modTrc f b).otp = b.otp := rfl
@[simp] theorem modTrc_otpRuns (f : Trc → Trc) (b : Block) : (modTrc f b).otpRuns = b.otpRuns := rfl
@[simp] theorem modTrc_lcs (f : Trc → Trc) (b : Block) : (modTrc f b).lcs = b.lcs := rfl
@[simp] theorem modTrc_keys (f : Trc → Trc) (b : Block) : (modTrc f b).keys = b.keys := rfl
@[simp] theorem modTrc_kstg (f : Trc → Trc) (b : Block) : (modTrc f b).kstg = b.kstg := rfl
@[simp] theorem modTrc_gse (f : Trc → Trc) (b : Block) : (modTrc f b).gse = b.gse := rfl
@[simp] theorem modTrc_lnds (f : Trc → Trc) (b : Block) : (modTrc f b).lnds = b.lnds := rfl
@[simp] theorem modTrc_xings (f : Trc → Trc) (b : Block) : (modTrc f b).xings = b.xings := rfl
@[simp] theorem modTrc_hold (f : Trc → Trc) (b : Block) : (modTrc f b).hold = b.hold := rfl
@[simp] theorem modTrc_mems (f : Trc → Trc) (b : Block) : (modTrc f b).mems = b.mems := rfl
@[simp] theorem modTrc_mema (f : Trc → Trc) (b : Block) : (modTrc f b).mema = b.mema := rfl
@[simp] theorem modTrc_objs (f : Trc → Trc) (b : Block) : (modTrc f b).objs = b.objs := rfl
@[simp] theorem modTrc_fences (f : Trc → Trc) (b : Block) : (modTrc f b).fences = b.fences := rfl
@[simp] theorem modTrc_ctxs (f : Trc → Trc) (b : Block) : (modTrc f b).ctxs = b.ctxs := rfl
@[simp] theorem modTrc_copies (f : Trc → Trc) (b : Block) : (modTrc f b).copies = b.copies := rfl
@[simp] theorem modTrc_berths (f : Trc → Trc) (b : Block) : (modTrc f b).berths = b.berths := rfl
@[simp] theorem modTrc_sched (f : Trc → Trc) (b : Block) : (modTrc f b).sched = b.sched := rfl
@[simp] theorem modTrc_sync (f : Trc → Trc) (b : Block) : (modTrc f b).sync = b.sync := rfl
@[simp] theorem modTrc_sue (f : Trc → Trc) (b : Block) : (modTrc f b).sue = b.sue := rfl
@[simp] theorem modTrc_ecc (f : Trc → Trc) (b : Block) : (modTrc f b).ecc = b.ecc := rfl
@[simp] theorem modTrc_recv (f : Trc → Trc) (b : Block) : (modTrc f b).recv = b.recv := rfl
@[simp] theorem modTrc_sess (f : Trc → Trc) (b : Block) : (modTrc f b).sess = b.sess := rfl
@[simp] theorem modTrc_dbg (f : Trc → Trc) (b : Block) : (modTrc f b).dbg = b.dbg := rfl
@[simp] theorem modTrc_certs (f : Trc → Trc) (b : Block) : (modTrc f b).certs = b.certs := rfl
@[simp] theorem modTrc_mgmt (f : Trc → Trc) (b : Block) : (modTrc f b).mgmt = b.mgmt := rfl
@[simp] theorem modTrc_slip (f : Trc → Trc) (b : Block) : (modTrc f b).slip = b.slip := rfl

/-! ### modMgmt -/

@[simp] theorem modMgmt_build (f : Mgmt → Mgmt) (b : Block) : (modMgmt f b).build = b.build := rfl
@[simp] theorem modMgmt_phase (f : Mgmt → Mgmt) (b : Block) : (modMgmt f b).phase = b.phase := rfl
@[simp] theorem modMgmt_porN (f : Mgmt → Mgmt) (b : Block) : (modMgmt f b).porN = b.porN := rfl
@[simp] theorem modMgmt_pins (f : Mgmt → Mgmt) (b : Block) : (modMgmt f b).pins = b.pins := rfl
@[simp] theorem modMgmt_tick (f : Mgmt → Mgmt) (b : Block) : (modMgmt f b).tick = b.tick := rfl
@[simp] theorem modMgmt_draws (f : Mgmt → Mgmt) (b : Block) : (modMgmt f b).draws = b.draws := rfl
@[simp] theorem modMgmt_out (f : Mgmt → Mgmt) (b : Block) : (modMgmt f b).out = b.out := rfl
@[simp] theorem modMgmt_work (f : Mgmt → Mgmt) (b : Block) : (modMgmt f b).work = b.work := rfl
@[simp] theorem modMgmt_errSeen (f : Mgmt → Mgmt) (b : Block) : (modMgmt f b).errSeen = b.errSeen := rfl
@[simp] theorem modMgmt_pages (f : Mgmt → Mgmt) (b : Block) : (modMgmt f b).pages = b.pages := rfl
@[simp] theorem modMgmt_regs (f : Mgmt → Mgmt) (b : Block) : (modMgmt f b).regs = b.regs := rfl
@[simp] theorem modMgmt_latches (f : Mgmt → Mgmt) (b : Block) : (modMgmt f b).latches = b.latches := rfl
@[simp] theorem modMgmt_otp (f : Mgmt → Mgmt) (b : Block) : (modMgmt f b).otp = b.otp := rfl
@[simp] theorem modMgmt_otpRuns (f : Mgmt → Mgmt) (b : Block) : (modMgmt f b).otpRuns = b.otpRuns := rfl
@[simp] theorem modMgmt_lcs (f : Mgmt → Mgmt) (b : Block) : (modMgmt f b).lcs = b.lcs := rfl
@[simp] theorem modMgmt_keys (f : Mgmt → Mgmt) (b : Block) : (modMgmt f b).keys = b.keys := rfl
@[simp] theorem modMgmt_kstg (f : Mgmt → Mgmt) (b : Block) : (modMgmt f b).kstg = b.kstg := rfl
@[simp] theorem modMgmt_gse (f : Mgmt → Mgmt) (b : Block) : (modMgmt f b).gse = b.gse := rfl
@[simp] theorem modMgmt_lnds (f : Mgmt → Mgmt) (b : Block) : (modMgmt f b).lnds = b.lnds := rfl
@[simp] theorem modMgmt_xings (f : Mgmt → Mgmt) (b : Block) : (modMgmt f b).xings = b.xings := rfl
@[simp] theorem modMgmt_hold (f : Mgmt → Mgmt) (b : Block) : (modMgmt f b).hold = b.hold := rfl
@[simp] theorem modMgmt_mems (f : Mgmt → Mgmt) (b : Block) : (modMgmt f b).mems = b.mems := rfl
@[simp] theorem modMgmt_mema (f : Mgmt → Mgmt) (b : Block) : (modMgmt f b).mema = b.mema := rfl
@[simp] theorem modMgmt_objs (f : Mgmt → Mgmt) (b : Block) : (modMgmt f b).objs = b.objs := rfl
@[simp] theorem modMgmt_fences (f : Mgmt → Mgmt) (b : Block) : (modMgmt f b).fences = b.fences := rfl
@[simp] theorem modMgmt_ctxs (f : Mgmt → Mgmt) (b : Block) : (modMgmt f b).ctxs = b.ctxs := rfl
@[simp] theorem modMgmt_copies (f : Mgmt → Mgmt) (b : Block) : (modMgmt f b).copies = b.copies := rfl
@[simp] theorem modMgmt_berths (f : Mgmt → Mgmt) (b : Block) : (modMgmt f b).berths = b.berths := rfl
@[simp] theorem modMgmt_sched (f : Mgmt → Mgmt) (b : Block) : (modMgmt f b).sched = b.sched := rfl
@[simp] theorem modMgmt_sync (f : Mgmt → Mgmt) (b : Block) : (modMgmt f b).sync = b.sync := rfl
@[simp] theorem modMgmt_sue (f : Mgmt → Mgmt) (b : Block) : (modMgmt f b).sue = b.sue := rfl
@[simp] theorem modMgmt_ecc (f : Mgmt → Mgmt) (b : Block) : (modMgmt f b).ecc = b.ecc := rfl
@[simp] theorem modMgmt_recv (f : Mgmt → Mgmt) (b : Block) : (modMgmt f b).recv = b.recv := rfl
@[simp] theorem modMgmt_sess (f : Mgmt → Mgmt) (b : Block) : (modMgmt f b).sess = b.sess := rfl
@[simp] theorem modMgmt_dbg (f : Mgmt → Mgmt) (b : Block) : (modMgmt f b).dbg = b.dbg := rfl
@[simp] theorem modMgmt_trc (f : Mgmt → Mgmt) (b : Block) : (modMgmt f b).trc = b.trc := rfl
@[simp] theorem modMgmt_certs (f : Mgmt → Mgmt) (b : Block) : (modMgmt f b).certs = b.certs := rfl
@[simp] theorem modMgmt_slip (f : Mgmt → Mgmt) (b : Block) : (modMgmt f b).slip = b.slip := rfl

/-! ### modSession -/

@[simp] theorem modSession_build (i : Nat) (f : Session → Session) (b : Block) : (modSession i f b).build = b.build := rfl
@[simp] theorem modSession_phase (i : Nat) (f : Session → Session) (b : Block) : (modSession i f b).phase = b.phase := rfl
@[simp] theorem modSession_porN (i : Nat) (f : Session → Session) (b : Block) : (modSession i f b).porN = b.porN := rfl
@[simp] theorem modSession_pins (i : Nat) (f : Session → Session) (b : Block) : (modSession i f b).pins = b.pins := rfl
@[simp] theorem modSession_tick (i : Nat) (f : Session → Session) (b : Block) : (modSession i f b).tick = b.tick := rfl
@[simp] theorem modSession_draws (i : Nat) (f : Session → Session) (b : Block) : (modSession i f b).draws = b.draws := rfl
@[simp] theorem modSession_out (i : Nat) (f : Session → Session) (b : Block) : (modSession i f b).out = b.out := rfl
@[simp] theorem modSession_work (i : Nat) (f : Session → Session) (b : Block) : (modSession i f b).work = b.work := rfl
@[simp] theorem modSession_errSeen (i : Nat) (f : Session → Session) (b : Block) : (modSession i f b).errSeen = b.errSeen := rfl
@[simp] theorem modSession_pages (i : Nat) (f : Session → Session) (b : Block) : (modSession i f b).pages = b.pages := rfl
@[simp] theorem modSession_regs (i : Nat) (f : Session → Session) (b : Block) : (modSession i f b).regs = b.regs := rfl
@[simp] theorem modSession_latches (i : Nat) (f : Session → Session) (b : Block) : (modSession i f b).latches = b.latches := rfl
@[simp] theorem modSession_otp (i : Nat) (f : Session → Session) (b : Block) : (modSession i f b).otp = b.otp := rfl
@[simp] theorem modSession_otpRuns (i : Nat) (f : Session → Session) (b : Block) : (modSession i f b).otpRuns = b.otpRuns := rfl
@[simp] theorem modSession_lcs (i : Nat) (f : Session → Session) (b : Block) : (modSession i f b).lcs = b.lcs := rfl
@[simp] theorem modSession_keys (i : Nat) (f : Session → Session) (b : Block) : (modSession i f b).keys = b.keys := rfl
@[simp] theorem modSession_kstg (i : Nat) (f : Session → Session) (b : Block) : (modSession i f b).kstg = b.kstg := rfl
@[simp] theorem modSession_gse (i : Nat) (f : Session → Session) (b : Block) : (modSession i f b).gse = b.gse := rfl
@[simp] theorem modSession_lnds (i : Nat) (f : Session → Session) (b : Block) : (modSession i f b).lnds = b.lnds := rfl
@[simp] theorem modSession_xings (i : Nat) (f : Session → Session) (b : Block) : (modSession i f b).xings = b.xings := rfl
@[simp] theorem modSession_hold (i : Nat) (f : Session → Session) (b : Block) : (modSession i f b).hold = b.hold := rfl
@[simp] theorem modSession_mems (i : Nat) (f : Session → Session) (b : Block) : (modSession i f b).mems = b.mems := rfl
@[simp] theorem modSession_mema (i : Nat) (f : Session → Session) (b : Block) : (modSession i f b).mema = b.mema := rfl
@[simp] theorem modSession_objs (i : Nat) (f : Session → Session) (b : Block) : (modSession i f b).objs = b.objs := rfl
@[simp] theorem modSession_fences (i : Nat) (f : Session → Session) (b : Block) : (modSession i f b).fences = b.fences := rfl
@[simp] theorem modSession_ctxs (i : Nat) (f : Session → Session) (b : Block) : (modSession i f b).ctxs = b.ctxs := rfl
@[simp] theorem modSession_copies (i : Nat) (f : Session → Session) (b : Block) : (modSession i f b).copies = b.copies := rfl
@[simp] theorem modSession_berths (i : Nat) (f : Session → Session) (b : Block) : (modSession i f b).berths = b.berths := rfl
@[simp] theorem modSession_sched (i : Nat) (f : Session → Session) (b : Block) : (modSession i f b).sched = b.sched := rfl
@[simp] theorem modSession_sync (i : Nat) (f : Session → Session) (b : Block) : (modSession i f b).sync = b.sync := rfl
@[simp] theorem modSession_sue (i : Nat) (f : Session → Session) (b : Block) : (modSession i f b).sue = b.sue := rfl
@[simp] theorem modSession_ecc (i : Nat) (f : Session → Session) (b : Block) : (modSession i f b).ecc = b.ecc := rfl
@[simp] theorem modSession_recv (i : Nat) (f : Session → Session) (b : Block) : (modSession i f b).recv = b.recv := rfl
@[simp] theorem modSession_dbg (i : Nat) (f : Session → Session) (b : Block) : (modSession i f b).dbg = b.dbg := rfl
@[simp] theorem modSession_trc (i : Nat) (f : Session → Session) (b : Block) : (modSession i f b).trc = b.trc := rfl
@[simp] theorem modSession_certs (i : Nat) (f : Session → Session) (b : Block) : (modSession i f b).certs = b.certs := rfl
@[simp] theorem modSession_mgmt (i : Nat) (f : Session → Session) (b : Block) : (modSession i f b).mgmt = b.mgmt := rfl
@[simp] theorem modSession_slip (i : Nat) (f : Session → Session) (b : Block) : (modSession i f b).slip = b.slip := rfl

/-! ### modSlip -/

@[simp] theorem modSlip_build (f : Slip → Slip) (b : Block) : (modSlip f b).build = b.build := rfl
@[simp] theorem modSlip_phase (f : Slip → Slip) (b : Block) : (modSlip f b).phase = b.phase := rfl
@[simp] theorem modSlip_porN (f : Slip → Slip) (b : Block) : (modSlip f b).porN = b.porN := rfl
@[simp] theorem modSlip_pins (f : Slip → Slip) (b : Block) : (modSlip f b).pins = b.pins := rfl
@[simp] theorem modSlip_tick (f : Slip → Slip) (b : Block) : (modSlip f b).tick = b.tick := rfl
@[simp] theorem modSlip_draws (f : Slip → Slip) (b : Block) : (modSlip f b).draws = b.draws := rfl
@[simp] theorem modSlip_out (f : Slip → Slip) (b : Block) : (modSlip f b).out = b.out := rfl
@[simp] theorem modSlip_work (f : Slip → Slip) (b : Block) : (modSlip f b).work = b.work := rfl
@[simp] theorem modSlip_errSeen (f : Slip → Slip) (b : Block) : (modSlip f b).errSeen = b.errSeen := rfl
@[simp] theorem modSlip_pages (f : Slip → Slip) (b : Block) : (modSlip f b).pages = b.pages := rfl
@[simp] theorem modSlip_regs (f : Slip → Slip) (b : Block) : (modSlip f b).regs = b.regs := rfl
@[simp] theorem modSlip_latches (f : Slip → Slip) (b : Block) : (modSlip f b).latches = b.latches := rfl
@[simp] theorem modSlip_otp (f : Slip → Slip) (b : Block) : (modSlip f b).otp = b.otp := rfl
@[simp] theorem modSlip_otpRuns (f : Slip → Slip) (b : Block) : (modSlip f b).otpRuns = b.otpRuns := rfl
@[simp] theorem modSlip_lcs (f : Slip → Slip) (b : Block) : (modSlip f b).lcs = b.lcs := rfl
@[simp] theorem modSlip_keys (f : Slip → Slip) (b : Block) : (modSlip f b).keys = b.keys := rfl
@[simp] theorem modSlip_kstg (f : Slip → Slip) (b : Block) : (modSlip f b).kstg = b.kstg := rfl
@[simp] theorem modSlip_gse (f : Slip → Slip) (b : Block) : (modSlip f b).gse = b.gse := rfl
@[simp] theorem modSlip_lnds (f : Slip → Slip) (b : Block) : (modSlip f b).lnds = b.lnds := rfl
@[simp] theorem modSlip_xings (f : Slip → Slip) (b : Block) : (modSlip f b).xings = b.xings := rfl
@[simp] theorem modSlip_hold (f : Slip → Slip) (b : Block) : (modSlip f b).hold = b.hold := rfl
@[simp] theorem modSlip_mems (f : Slip → Slip) (b : Block) : (modSlip f b).mems = b.mems := rfl
@[simp] theorem modSlip_mema (f : Slip → Slip) (b : Block) : (modSlip f b).mema = b.mema := rfl
@[simp] theorem modSlip_objs (f : Slip → Slip) (b : Block) : (modSlip f b).objs = b.objs := rfl
@[simp] theorem modSlip_fences (f : Slip → Slip) (b : Block) : (modSlip f b).fences = b.fences := rfl
@[simp] theorem modSlip_ctxs (f : Slip → Slip) (b : Block) : (modSlip f b).ctxs = b.ctxs := rfl
@[simp] theorem modSlip_copies (f : Slip → Slip) (b : Block) : (modSlip f b).copies = b.copies := rfl
@[simp] theorem modSlip_berths (f : Slip → Slip) (b : Block) : (modSlip f b).berths = b.berths := rfl
@[simp] theorem modSlip_sched (f : Slip → Slip) (b : Block) : (modSlip f b).sched = b.sched := rfl
@[simp] theorem modSlip_sync (f : Slip → Slip) (b : Block) : (modSlip f b).sync = b.sync := rfl
@[simp] theorem modSlip_sue (f : Slip → Slip) (b : Block) : (modSlip f b).sue = b.sue := rfl
@[simp] theorem modSlip_ecc (f : Slip → Slip) (b : Block) : (modSlip f b).ecc = b.ecc := rfl
@[simp] theorem modSlip_recv (f : Slip → Slip) (b : Block) : (modSlip f b).recv = b.recv := rfl
@[simp] theorem modSlip_sess (f : Slip → Slip) (b : Block) : (modSlip f b).sess = b.sess := rfl
@[simp] theorem modSlip_dbg (f : Slip → Slip) (b : Block) : (modSlip f b).dbg = b.dbg := rfl
@[simp] theorem modSlip_trc (f : Slip → Slip) (b : Block) : (modSlip f b).trc = b.trc := rfl
@[simp] theorem modSlip_certs (f : Slip → Slip) (b : Block) : (modSlip f b).certs = b.certs := rfl
@[simp] theorem modSlip_mgmt (f : Slip → Slip) (b : Block) : (modSlip f b).mgmt = b.mgmt := rfl

@[simp] theorem emit_out (o : Output) (b : Block) : (emit o b).out = b.out ++ [o] := rfl
@[simp] theorem later_work (w : Work) (b : Block) : (later w b).work = b.work ++ [w] := rfl
@[simp] theorem modHold_hold (f : Hold → Hold) (b : Block) : (modHold f b).hold = f b.hold := rfl
@[simp] theorem modMems_mems (f : Mems → Mems) (b : Block) : (modMems f b).mems = f b.mems := rfl
@[simp] theorem modMema_mema (f : Mema → Mema) (b : Block) : (modMema f b).mema = f b.mema := rfl
@[simp] theorem modGse_gse (f : Gse → Gse) (b : Block) : (modGse f b).gse = f b.gse := rfl
@[simp] theorem modKstg_kstg (f : Kstg → Kstg) (b : Block) : (modKstg f b).kstg = f b.kstg := rfl
@[simp] theorem modSched_sched (f : Sched → Sched) (b : Block) : (modSched f b).sched = f b.sched := rfl
@[simp] theorem modSync_sync (f : Sync → Sync) (b : Block) : (modSync f b).sync = f b.sync := rfl
@[simp] theorem modEcc_ecc (f : Ecc → Ecc) (b : Block) : (modEcc f b).ecc = f b.ecc := rfl
@[simp] theorem modDbg_dbg (f : Dbg → Dbg) (b : Block) : (modDbg f b).dbg = f b.dbg := rfl
@[simp] theorem modTrc_trc (f : Trc → Trc) (b : Block) : (modTrc f b).trc = f b.trc := rfl
@[simp] theorem modMgmt_mgmt (f : Mgmt → Mgmt) (b : Block) : (modMgmt f b).mgmt = f b.mgmt := rfl
@[simp] theorem modSlip_slip (f : Slip → Slip) (b : Block) : (modSlip f b).slip = f b.slip := rfl

/-! ### Pages: only `pages` and the ports change -/

theorem emitIf_frame (c : Prop) [Decidable c] (o : Output) (b : Block) : ∃ os, (if c then emit o b else b) = { b with out := os } := by
  split <;> exact ⟨_, rfl⟩

/-- Only the ports see an interrupt signal. -/
theorem signalIrq_frame (k : Nat) (b : Block) : ∃ os, signalIrq k b = { b with out := os } := by
  obtain ⟨o, e⟩ := emitIf_frame (k < 0x100) (.coreIrq k) b
  obtain ⟨p, e'⟩ := emitIf_frame (k < 0x100 ∧ glbIrqEn { b with out := o }) (.msix none) { b with out := o }
  simp only [signalIrq, e, e']
  split <;> exact ⟨_, rfl⟩

@[simp] theorem signalIrq_build (k : Nat) (b : Block) : (signalIrq k b).build = b.build := by obtain ⟨_, e⟩ := signalIrq_frame k b; rw [e]
@[simp] theorem signalIrq_phase (k : Nat) (b : Block) : (signalIrq k b).phase = b.phase := by obtain ⟨_, e⟩ := signalIrq_frame k b; rw [e]
@[simp] theorem signalIrq_porN (k : Nat) (b : Block) : (signalIrq k b).porN = b.porN := by obtain ⟨_, e⟩ := signalIrq_frame k b; rw [e]
@[simp] theorem signalIrq_pins (k : Nat) (b : Block) : (signalIrq k b).pins = b.pins := by obtain ⟨_, e⟩ := signalIrq_frame k b; rw [e]
@[simp] theorem signalIrq_tick (k : Nat) (b : Block) : (signalIrq k b).tick = b.tick := by obtain ⟨_, e⟩ := signalIrq_frame k b; rw [e]
@[simp] theorem signalIrq_draws (k : Nat) (b : Block) : (signalIrq k b).draws = b.draws := by obtain ⟨_, e⟩ := signalIrq_frame k b; rw [e]
@[simp] theorem signalIrq_work (k : Nat) (b : Block) : (signalIrq k b).work = b.work := by obtain ⟨_, e⟩ := signalIrq_frame k b; rw [e]
@[simp] theorem signalIrq_errSeen (k : Nat) (b : Block) : (signalIrq k b).errSeen = b.errSeen := by obtain ⟨_, e⟩ := signalIrq_frame k b; rw [e]
@[simp] theorem signalIrq_pages (k : Nat) (b : Block) : (signalIrq k b).pages = b.pages := by obtain ⟨_, e⟩ := signalIrq_frame k b; rw [e]
@[simp] theorem signalIrq_regs (k : Nat) (b : Block) : (signalIrq k b).regs = b.regs := by obtain ⟨_, e⟩ := signalIrq_frame k b; rw [e]
@[simp] theorem signalIrq_latches (k : Nat) (b : Block) : (signalIrq k b).latches = b.latches := by obtain ⟨_, e⟩ := signalIrq_frame k b; rw [e]
@[simp] theorem signalIrq_otp (k : Nat) (b : Block) : (signalIrq k b).otp = b.otp := by obtain ⟨_, e⟩ := signalIrq_frame k b; rw [e]
@[simp] theorem signalIrq_otpRuns (k : Nat) (b : Block) : (signalIrq k b).otpRuns = b.otpRuns := by obtain ⟨_, e⟩ := signalIrq_frame k b; rw [e]
@[simp] theorem signalIrq_lcs (k : Nat) (b : Block) : (signalIrq k b).lcs = b.lcs := by obtain ⟨_, e⟩ := signalIrq_frame k b; rw [e]
@[simp] theorem signalIrq_keys (k : Nat) (b : Block) : (signalIrq k b).keys = b.keys := by obtain ⟨_, e⟩ := signalIrq_frame k b; rw [e]
@[simp] theorem signalIrq_kstg (k : Nat) (b : Block) : (signalIrq k b).kstg = b.kstg := by obtain ⟨_, e⟩ := signalIrq_frame k b; rw [e]
@[simp] theorem signalIrq_gse (k : Nat) (b : Block) : (signalIrq k b).gse = b.gse := by obtain ⟨_, e⟩ := signalIrq_frame k b; rw [e]
@[simp] theorem signalIrq_lnds (k : Nat) (b : Block) : (signalIrq k b).lnds = b.lnds := by obtain ⟨_, e⟩ := signalIrq_frame k b; rw [e]
@[simp] theorem signalIrq_xings (k : Nat) (b : Block) : (signalIrq k b).xings = b.xings := by obtain ⟨_, e⟩ := signalIrq_frame k b; rw [e]
@[simp] theorem signalIrq_hold (k : Nat) (b : Block) : (signalIrq k b).hold = b.hold := by obtain ⟨_, e⟩ := signalIrq_frame k b; rw [e]
@[simp] theorem signalIrq_mems (k : Nat) (b : Block) : (signalIrq k b).mems = b.mems := by obtain ⟨_, e⟩ := signalIrq_frame k b; rw [e]
@[simp] theorem signalIrq_mema (k : Nat) (b : Block) : (signalIrq k b).mema = b.mema := by obtain ⟨_, e⟩ := signalIrq_frame k b; rw [e]
@[simp] theorem signalIrq_objs (k : Nat) (b : Block) : (signalIrq k b).objs = b.objs := by obtain ⟨_, e⟩ := signalIrq_frame k b; rw [e]
@[simp] theorem signalIrq_fences (k : Nat) (b : Block) : (signalIrq k b).fences = b.fences := by obtain ⟨_, e⟩ := signalIrq_frame k b; rw [e]
@[simp] theorem signalIrq_ctxs (k : Nat) (b : Block) : (signalIrq k b).ctxs = b.ctxs := by obtain ⟨_, e⟩ := signalIrq_frame k b; rw [e]
@[simp] theorem signalIrq_copies (k : Nat) (b : Block) : (signalIrq k b).copies = b.copies := by obtain ⟨_, e⟩ := signalIrq_frame k b; rw [e]
@[simp] theorem signalIrq_berths (k : Nat) (b : Block) : (signalIrq k b).berths = b.berths := by obtain ⟨_, e⟩ := signalIrq_frame k b; rw [e]
@[simp] theorem signalIrq_sched (k : Nat) (b : Block) : (signalIrq k b).sched = b.sched := by obtain ⟨_, e⟩ := signalIrq_frame k b; rw [e]
@[simp] theorem signalIrq_sync (k : Nat) (b : Block) : (signalIrq k b).sync = b.sync := by obtain ⟨_, e⟩ := signalIrq_frame k b; rw [e]
@[simp] theorem signalIrq_sue (k : Nat) (b : Block) : (signalIrq k b).sue = b.sue := by obtain ⟨_, e⟩ := signalIrq_frame k b; rw [e]
@[simp] theorem signalIrq_ecc (k : Nat) (b : Block) : (signalIrq k b).ecc = b.ecc := by obtain ⟨_, e⟩ := signalIrq_frame k b; rw [e]
@[simp] theorem signalIrq_recv (k : Nat) (b : Block) : (signalIrq k b).recv = b.recv := by obtain ⟨_, e⟩ := signalIrq_frame k b; rw [e]
@[simp] theorem signalIrq_sess (k : Nat) (b : Block) : (signalIrq k b).sess = b.sess := by obtain ⟨_, e⟩ := signalIrq_frame k b; rw [e]
@[simp] theorem signalIrq_dbg (k : Nat) (b : Block) : (signalIrq k b).dbg = b.dbg := by obtain ⟨_, e⟩ := signalIrq_frame k b; rw [e]
@[simp] theorem signalIrq_trc (k : Nat) (b : Block) : (signalIrq k b).trc = b.trc := by obtain ⟨_, e⟩ := signalIrq_frame k b; rw [e]
@[simp] theorem signalIrq_certs (k : Nat) (b : Block) : (signalIrq k b).certs = b.certs := by obtain ⟨_, e⟩ := signalIrq_frame k b; rw [e]
@[simp] theorem signalIrq_mgmt (k : Nat) (b : Block) : (signalIrq k b).mgmt = b.mgmt := by obtain ⟨_, e⟩ := signalIrq_frame k b; rw [e]
@[simp] theorem signalIrq_slip (k : Nat) (b : Block) : (signalIrq k b).slip = b.slip := by obtain ⟨_, e⟩ := signalIrq_frame k b; rw [e]

theorem setPage_frame (k : Nat) (p : Page) (b : Block) : ∃ ps os, setPage k p b = { b with pages := ps, out := os } := by
  simp only [setPage]
  split
  · obtain ⟨os, e⟩ := signalIrq_frame k { b with pages := tset {} b.pages k p }
    exact ⟨_, os, e⟩
  · exact ⟨_, _, rfl⟩

/-- A change of a page reaches the LNKC page for a Landing, and the ports. -/
theorem modPage_frame (k : Nat) (f : Page → Page) (b : Block) : ∃ ps os, modPage k f b = { b with pages := ps, out := os } := by
  simp only [modPage]
  split
  · obtain ⟨ps, os, e⟩ := setPage_frame k (f (pageAt b k)) b
    obtain ⟨ps', os', e'⟩ := setPage_frame 0x08 { pageAt (setPage k (f (pageAt b k)) b) 0x08 with
      irqRaw := setBitW (pageAt (setPage k (f (pageAt b k)) b) 0x08).irqRaw 1 } (setPage k (f (pageAt b k)) b)
    rw [e', e]
    exact ⟨_, _, rfl⟩
  · exact setPage_frame k _ b

@[simp] theorem setPage_build (k : Nat) (p : Page) (b : Block) : (setPage k p b).build = b.build := by obtain ⟨_, _, e⟩ := setPage_frame k p b; rw [e]
@[simp] theorem setPage_phase (k : Nat) (p : Page) (b : Block) : (setPage k p b).phase = b.phase := by obtain ⟨_, _, e⟩ := setPage_frame k p b; rw [e]
@[simp] theorem setPage_porN (k : Nat) (p : Page) (b : Block) : (setPage k p b).porN = b.porN := by obtain ⟨_, _, e⟩ := setPage_frame k p b; rw [e]
@[simp] theorem setPage_pins (k : Nat) (p : Page) (b : Block) : (setPage k p b).pins = b.pins := by obtain ⟨_, _, e⟩ := setPage_frame k p b; rw [e]
@[simp] theorem setPage_tick (k : Nat) (p : Page) (b : Block) : (setPage k p b).tick = b.tick := by obtain ⟨_, _, e⟩ := setPage_frame k p b; rw [e]
@[simp] theorem setPage_draws (k : Nat) (p : Page) (b : Block) : (setPage k p b).draws = b.draws := by obtain ⟨_, _, e⟩ := setPage_frame k p b; rw [e]
@[simp] theorem setPage_work (k : Nat) (p : Page) (b : Block) : (setPage k p b).work = b.work := by obtain ⟨_, _, e⟩ := setPage_frame k p b; rw [e]
@[simp] theorem setPage_errSeen (k : Nat) (p : Page) (b : Block) : (setPage k p b).errSeen = b.errSeen := by obtain ⟨_, _, e⟩ := setPage_frame k p b; rw [e]
@[simp] theorem setPage_regs (k : Nat) (p : Page) (b : Block) : (setPage k p b).regs = b.regs := by obtain ⟨_, _, e⟩ := setPage_frame k p b; rw [e]
@[simp] theorem setPage_latches (k : Nat) (p : Page) (b : Block) : (setPage k p b).latches = b.latches := by obtain ⟨_, _, e⟩ := setPage_frame k p b; rw [e]
@[simp] theorem setPage_otp (k : Nat) (p : Page) (b : Block) : (setPage k p b).otp = b.otp := by obtain ⟨_, _, e⟩ := setPage_frame k p b; rw [e]
@[simp] theorem setPage_otpRuns (k : Nat) (p : Page) (b : Block) : (setPage k p b).otpRuns = b.otpRuns := by obtain ⟨_, _, e⟩ := setPage_frame k p b; rw [e]
@[simp] theorem setPage_lcs (k : Nat) (p : Page) (b : Block) : (setPage k p b).lcs = b.lcs := by obtain ⟨_, _, e⟩ := setPage_frame k p b; rw [e]
@[simp] theorem setPage_keys (k : Nat) (p : Page) (b : Block) : (setPage k p b).keys = b.keys := by obtain ⟨_, _, e⟩ := setPage_frame k p b; rw [e]
@[simp] theorem setPage_kstg (k : Nat) (p : Page) (b : Block) : (setPage k p b).kstg = b.kstg := by obtain ⟨_, _, e⟩ := setPage_frame k p b; rw [e]
@[simp] theorem setPage_gse (k : Nat) (p : Page) (b : Block) : (setPage k p b).gse = b.gse := by obtain ⟨_, _, e⟩ := setPage_frame k p b; rw [e]
@[simp] theorem setPage_lnds (k : Nat) (p : Page) (b : Block) : (setPage k p b).lnds = b.lnds := by obtain ⟨_, _, e⟩ := setPage_frame k p b; rw [e]
@[simp] theorem setPage_xings (k : Nat) (p : Page) (b : Block) : (setPage k p b).xings = b.xings := by obtain ⟨_, _, e⟩ := setPage_frame k p b; rw [e]
@[simp] theorem setPage_hold (k : Nat) (p : Page) (b : Block) : (setPage k p b).hold = b.hold := by obtain ⟨_, _, e⟩ := setPage_frame k p b; rw [e]
@[simp] theorem setPage_mems (k : Nat) (p : Page) (b : Block) : (setPage k p b).mems = b.mems := by obtain ⟨_, _, e⟩ := setPage_frame k p b; rw [e]
@[simp] theorem setPage_mema (k : Nat) (p : Page) (b : Block) : (setPage k p b).mema = b.mema := by obtain ⟨_, _, e⟩ := setPage_frame k p b; rw [e]
@[simp] theorem setPage_objs (k : Nat) (p : Page) (b : Block) : (setPage k p b).objs = b.objs := by obtain ⟨_, _, e⟩ := setPage_frame k p b; rw [e]
@[simp] theorem setPage_fences (k : Nat) (p : Page) (b : Block) : (setPage k p b).fences = b.fences := by obtain ⟨_, _, e⟩ := setPage_frame k p b; rw [e]
@[simp] theorem setPage_ctxs (k : Nat) (p : Page) (b : Block) : (setPage k p b).ctxs = b.ctxs := by obtain ⟨_, _, e⟩ := setPage_frame k p b; rw [e]
@[simp] theorem setPage_copies (k : Nat) (p : Page) (b : Block) : (setPage k p b).copies = b.copies := by obtain ⟨_, _, e⟩ := setPage_frame k p b; rw [e]
@[simp] theorem setPage_berths (k : Nat) (p : Page) (b : Block) : (setPage k p b).berths = b.berths := by obtain ⟨_, _, e⟩ := setPage_frame k p b; rw [e]
@[simp] theorem setPage_sched (k : Nat) (p : Page) (b : Block) : (setPage k p b).sched = b.sched := by obtain ⟨_, _, e⟩ := setPage_frame k p b; rw [e]
@[simp] theorem setPage_sync (k : Nat) (p : Page) (b : Block) : (setPage k p b).sync = b.sync := by obtain ⟨_, _, e⟩ := setPage_frame k p b; rw [e]
@[simp] theorem setPage_sue (k : Nat) (p : Page) (b : Block) : (setPage k p b).sue = b.sue := by obtain ⟨_, _, e⟩ := setPage_frame k p b; rw [e]
@[simp] theorem setPage_ecc (k : Nat) (p : Page) (b : Block) : (setPage k p b).ecc = b.ecc := by obtain ⟨_, _, e⟩ := setPage_frame k p b; rw [e]
@[simp] theorem setPage_recv (k : Nat) (p : Page) (b : Block) : (setPage k p b).recv = b.recv := by obtain ⟨_, _, e⟩ := setPage_frame k p b; rw [e]
@[simp] theorem setPage_sess (k : Nat) (p : Page) (b : Block) : (setPage k p b).sess = b.sess := by obtain ⟨_, _, e⟩ := setPage_frame k p b; rw [e]
@[simp] theorem setPage_dbg (k : Nat) (p : Page) (b : Block) : (setPage k p b).dbg = b.dbg := by obtain ⟨_, _, e⟩ := setPage_frame k p b; rw [e]
@[simp] theorem setPage_trc (k : Nat) (p : Page) (b : Block) : (setPage k p b).trc = b.trc := by obtain ⟨_, _, e⟩ := setPage_frame k p b; rw [e]
@[simp] theorem setPage_certs (k : Nat) (p : Page) (b : Block) : (setPage k p b).certs = b.certs := by obtain ⟨_, _, e⟩ := setPage_frame k p b; rw [e]
@[simp] theorem setPage_mgmt (k : Nat) (p : Page) (b : Block) : (setPage k p b).mgmt = b.mgmt := by obtain ⟨_, _, e⟩ := setPage_frame k p b; rw [e]
@[simp] theorem setPage_slip (k : Nat) (p : Page) (b : Block) : (setPage k p b).slip = b.slip := by obtain ⟨_, _, e⟩ := setPage_frame k p b; rw [e]

@[simp] theorem modPage_build (k : Nat) (f : Page → Page) (b : Block) : (modPage k f b).build = b.build := by obtain ⟨_, _, e⟩ := modPage_frame k f b; rw [e]
@[simp] theorem modPage_phase (k : Nat) (f : Page → Page) (b : Block) : (modPage k f b).phase = b.phase := by obtain ⟨_, _, e⟩ := modPage_frame k f b; rw [e]
@[simp] theorem modPage_porN (k : Nat) (f : Page → Page) (b : Block) : (modPage k f b).porN = b.porN := by obtain ⟨_, _, e⟩ := modPage_frame k f b; rw [e]
@[simp] theorem modPage_pins (k : Nat) (f : Page → Page) (b : Block) : (modPage k f b).pins = b.pins := by obtain ⟨_, _, e⟩ := modPage_frame k f b; rw [e]
@[simp] theorem modPage_tick (k : Nat) (f : Page → Page) (b : Block) : (modPage k f b).tick = b.tick := by obtain ⟨_, _, e⟩ := modPage_frame k f b; rw [e]
@[simp] theorem modPage_draws (k : Nat) (f : Page → Page) (b : Block) : (modPage k f b).draws = b.draws := by obtain ⟨_, _, e⟩ := modPage_frame k f b; rw [e]
@[simp] theorem modPage_work (k : Nat) (f : Page → Page) (b : Block) : (modPage k f b).work = b.work := by obtain ⟨_, _, e⟩ := modPage_frame k f b; rw [e]
@[simp] theorem modPage_errSeen (k : Nat) (f : Page → Page) (b : Block) : (modPage k f b).errSeen = b.errSeen := by obtain ⟨_, _, e⟩ := modPage_frame k f b; rw [e]
@[simp] theorem modPage_regs (k : Nat) (f : Page → Page) (b : Block) : (modPage k f b).regs = b.regs := by obtain ⟨_, _, e⟩ := modPage_frame k f b; rw [e]
@[simp] theorem modPage_latches (k : Nat) (f : Page → Page) (b : Block) : (modPage k f b).latches = b.latches := by obtain ⟨_, _, e⟩ := modPage_frame k f b; rw [e]
@[simp] theorem modPage_otp (k : Nat) (f : Page → Page) (b : Block) : (modPage k f b).otp = b.otp := by obtain ⟨_, _, e⟩ := modPage_frame k f b; rw [e]
@[simp] theorem modPage_otpRuns (k : Nat) (f : Page → Page) (b : Block) : (modPage k f b).otpRuns = b.otpRuns := by obtain ⟨_, _, e⟩ := modPage_frame k f b; rw [e]
@[simp] theorem modPage_lcs (k : Nat) (f : Page → Page) (b : Block) : (modPage k f b).lcs = b.lcs := by obtain ⟨_, _, e⟩ := modPage_frame k f b; rw [e]
@[simp] theorem modPage_keys (k : Nat) (f : Page → Page) (b : Block) : (modPage k f b).keys = b.keys := by obtain ⟨_, _, e⟩ := modPage_frame k f b; rw [e]
@[simp] theorem modPage_kstg (k : Nat) (f : Page → Page) (b : Block) : (modPage k f b).kstg = b.kstg := by obtain ⟨_, _, e⟩ := modPage_frame k f b; rw [e]
@[simp] theorem modPage_gse (k : Nat) (f : Page → Page) (b : Block) : (modPage k f b).gse = b.gse := by obtain ⟨_, _, e⟩ := modPage_frame k f b; rw [e]
@[simp] theorem modPage_lnds (k : Nat) (f : Page → Page) (b : Block) : (modPage k f b).lnds = b.lnds := by obtain ⟨_, _, e⟩ := modPage_frame k f b; rw [e]
@[simp] theorem modPage_xings (k : Nat) (f : Page → Page) (b : Block) : (modPage k f b).xings = b.xings := by obtain ⟨_, _, e⟩ := modPage_frame k f b; rw [e]
@[simp] theorem modPage_hold (k : Nat) (f : Page → Page) (b : Block) : (modPage k f b).hold = b.hold := by obtain ⟨_, _, e⟩ := modPage_frame k f b; rw [e]
@[simp] theorem modPage_mems (k : Nat) (f : Page → Page) (b : Block) : (modPage k f b).mems = b.mems := by obtain ⟨_, _, e⟩ := modPage_frame k f b; rw [e]
@[simp] theorem modPage_mema (k : Nat) (f : Page → Page) (b : Block) : (modPage k f b).mema = b.mema := by obtain ⟨_, _, e⟩ := modPage_frame k f b; rw [e]
@[simp] theorem modPage_objs (k : Nat) (f : Page → Page) (b : Block) : (modPage k f b).objs = b.objs := by obtain ⟨_, _, e⟩ := modPage_frame k f b; rw [e]
@[simp] theorem modPage_fences (k : Nat) (f : Page → Page) (b : Block) : (modPage k f b).fences = b.fences := by obtain ⟨_, _, e⟩ := modPage_frame k f b; rw [e]
@[simp] theorem modPage_ctxs (k : Nat) (f : Page → Page) (b : Block) : (modPage k f b).ctxs = b.ctxs := by obtain ⟨_, _, e⟩ := modPage_frame k f b; rw [e]
@[simp] theorem modPage_copies (k : Nat) (f : Page → Page) (b : Block) : (modPage k f b).copies = b.copies := by obtain ⟨_, _, e⟩ := modPage_frame k f b; rw [e]
@[simp] theorem modPage_berths (k : Nat) (f : Page → Page) (b : Block) : (modPage k f b).berths = b.berths := by obtain ⟨_, _, e⟩ := modPage_frame k f b; rw [e]
@[simp] theorem modPage_sched (k : Nat) (f : Page → Page) (b : Block) : (modPage k f b).sched = b.sched := by obtain ⟨_, _, e⟩ := modPage_frame k f b; rw [e]
@[simp] theorem modPage_sync (k : Nat) (f : Page → Page) (b : Block) : (modPage k f b).sync = b.sync := by obtain ⟨_, _, e⟩ := modPage_frame k f b; rw [e]
@[simp] theorem modPage_sue (k : Nat) (f : Page → Page) (b : Block) : (modPage k f b).sue = b.sue := by obtain ⟨_, _, e⟩ := modPage_frame k f b; rw [e]
@[simp] theorem modPage_ecc (k : Nat) (f : Page → Page) (b : Block) : (modPage k f b).ecc = b.ecc := by obtain ⟨_, _, e⟩ := modPage_frame k f b; rw [e]
@[simp] theorem modPage_recv (k : Nat) (f : Page → Page) (b : Block) : (modPage k f b).recv = b.recv := by obtain ⟨_, _, e⟩ := modPage_frame k f b; rw [e]
@[simp] theorem modPage_sess (k : Nat) (f : Page → Page) (b : Block) : (modPage k f b).sess = b.sess := by obtain ⟨_, _, e⟩ := modPage_frame k f b; rw [e]
@[simp] theorem modPage_dbg (k : Nat) (f : Page → Page) (b : Block) : (modPage k f b).dbg = b.dbg := by obtain ⟨_, _, e⟩ := modPage_frame k f b; rw [e]
@[simp] theorem modPage_trc (k : Nat) (f : Page → Page) (b : Block) : (modPage k f b).trc = b.trc := by obtain ⟨_, _, e⟩ := modPage_frame k f b; rw [e]
@[simp] theorem modPage_certs (k : Nat) (f : Page → Page) (b : Block) : (modPage k f b).certs = b.certs := by obtain ⟨_, _, e⟩ := modPage_frame k f b; rw [e]
@[simp] theorem modPage_mgmt (k : Nat) (f : Page → Page) (b : Block) : (modPage k f b).mgmt = b.mgmt := by obtain ⟨_, _, e⟩ := modPage_frame k f b; rw [e]
@[simp] theorem modPage_slip (k : Nat) (f : Page → Page) (b : Block) : (modPage k f b).slip = b.slip := by obtain ⟨_, _, e⟩ := modPage_frame k f b; rw [e]

theorem raise_frame (k i : Nat) (b : Block) : ∃ ps os, raise k i b = { b with pages := ps, out := os } := modPage_frame k _ b

theorem raiseIf_frame (c : Prop) [Decidable c] (k i : Nat) (b : Block) :
    ∃ ps os, (if c then raise k i b else b) = { b with pages := ps, out := os } := by
  split
  · exact raise_frame k i b
  · exact ⟨_, _, rfl⟩

@[simp] theorem raise_build (k i : Nat) (b : Block) : (raise k i b).build = b.build := by obtain ⟨_, _, e⟩ := raise_frame k i b; rw [e]
@[simp] theorem raise_phase (k i : Nat) (b : Block) : (raise k i b).phase = b.phase := by obtain ⟨_, _, e⟩ := raise_frame k i b; rw [e]
@[simp] theorem raise_porN (k i : Nat) (b : Block) : (raise k i b).porN = b.porN := by obtain ⟨_, _, e⟩ := raise_frame k i b; rw [e]
@[simp] theorem raise_pins (k i : Nat) (b : Block) : (raise k i b).pins = b.pins := by obtain ⟨_, _, e⟩ := raise_frame k i b; rw [e]
@[simp] theorem raise_tick (k i : Nat) (b : Block) : (raise k i b).tick = b.tick := by obtain ⟨_, _, e⟩ := raise_frame k i b; rw [e]
@[simp] theorem raise_draws (k i : Nat) (b : Block) : (raise k i b).draws = b.draws := by obtain ⟨_, _, e⟩ := raise_frame k i b; rw [e]
@[simp] theorem raise_work (k i : Nat) (b : Block) : (raise k i b).work = b.work := by obtain ⟨_, _, e⟩ := raise_frame k i b; rw [e]
@[simp] theorem raise_errSeen (k i : Nat) (b : Block) : (raise k i b).errSeen = b.errSeen := by obtain ⟨_, _, e⟩ := raise_frame k i b; rw [e]
@[simp] theorem raise_regs (k i : Nat) (b : Block) : (raise k i b).regs = b.regs := by obtain ⟨_, _, e⟩ := raise_frame k i b; rw [e]
@[simp] theorem raise_latches (k i : Nat) (b : Block) : (raise k i b).latches = b.latches := by obtain ⟨_, _, e⟩ := raise_frame k i b; rw [e]
@[simp] theorem raise_otp (k i : Nat) (b : Block) : (raise k i b).otp = b.otp := by obtain ⟨_, _, e⟩ := raise_frame k i b; rw [e]
@[simp] theorem raise_otpRuns (k i : Nat) (b : Block) : (raise k i b).otpRuns = b.otpRuns := by obtain ⟨_, _, e⟩ := raise_frame k i b; rw [e]
@[simp] theorem raise_lcs (k i : Nat) (b : Block) : (raise k i b).lcs = b.lcs := by obtain ⟨_, _, e⟩ := raise_frame k i b; rw [e]
@[simp] theorem raise_keys (k i : Nat) (b : Block) : (raise k i b).keys = b.keys := by obtain ⟨_, _, e⟩ := raise_frame k i b; rw [e]
@[simp] theorem raise_kstg (k i : Nat) (b : Block) : (raise k i b).kstg = b.kstg := by obtain ⟨_, _, e⟩ := raise_frame k i b; rw [e]
@[simp] theorem raise_gse (k i : Nat) (b : Block) : (raise k i b).gse = b.gse := by obtain ⟨_, _, e⟩ := raise_frame k i b; rw [e]
@[simp] theorem raise_lnds (k i : Nat) (b : Block) : (raise k i b).lnds = b.lnds := by obtain ⟨_, _, e⟩ := raise_frame k i b; rw [e]
@[simp] theorem raise_xings (k i : Nat) (b : Block) : (raise k i b).xings = b.xings := by obtain ⟨_, _, e⟩ := raise_frame k i b; rw [e]
@[simp] theorem raise_hold (k i : Nat) (b : Block) : (raise k i b).hold = b.hold := by obtain ⟨_, _, e⟩ := raise_frame k i b; rw [e]
@[simp] theorem raise_mems (k i : Nat) (b : Block) : (raise k i b).mems = b.mems := by obtain ⟨_, _, e⟩ := raise_frame k i b; rw [e]
@[simp] theorem raise_mema (k i : Nat) (b : Block) : (raise k i b).mema = b.mema := by obtain ⟨_, _, e⟩ := raise_frame k i b; rw [e]
@[simp] theorem raise_objs (k i : Nat) (b : Block) : (raise k i b).objs = b.objs := by obtain ⟨_, _, e⟩ := raise_frame k i b; rw [e]
@[simp] theorem raise_fences (k i : Nat) (b : Block) : (raise k i b).fences = b.fences := by obtain ⟨_, _, e⟩ := raise_frame k i b; rw [e]
@[simp] theorem raise_ctxs (k i : Nat) (b : Block) : (raise k i b).ctxs = b.ctxs := by obtain ⟨_, _, e⟩ := raise_frame k i b; rw [e]
@[simp] theorem raise_copies (k i : Nat) (b : Block) : (raise k i b).copies = b.copies := by obtain ⟨_, _, e⟩ := raise_frame k i b; rw [e]
@[simp] theorem raise_berths (k i : Nat) (b : Block) : (raise k i b).berths = b.berths := by obtain ⟨_, _, e⟩ := raise_frame k i b; rw [e]
@[simp] theorem raise_sched (k i : Nat) (b : Block) : (raise k i b).sched = b.sched := by obtain ⟨_, _, e⟩ := raise_frame k i b; rw [e]
@[simp] theorem raise_sync (k i : Nat) (b : Block) : (raise k i b).sync = b.sync := by obtain ⟨_, _, e⟩ := raise_frame k i b; rw [e]
@[simp] theorem raise_sue (k i : Nat) (b : Block) : (raise k i b).sue = b.sue := by obtain ⟨_, _, e⟩ := raise_frame k i b; rw [e]
@[simp] theorem raise_ecc (k i : Nat) (b : Block) : (raise k i b).ecc = b.ecc := by obtain ⟨_, _, e⟩ := raise_frame k i b; rw [e]
@[simp] theorem raise_recv (k i : Nat) (b : Block) : (raise k i b).recv = b.recv := by obtain ⟨_, _, e⟩ := raise_frame k i b; rw [e]
@[simp] theorem raise_sess (k i : Nat) (b : Block) : (raise k i b).sess = b.sess := by obtain ⟨_, _, e⟩ := raise_frame k i b; rw [e]
@[simp] theorem raise_dbg (k i : Nat) (b : Block) : (raise k i b).dbg = b.dbg := by obtain ⟨_, _, e⟩ := raise_frame k i b; rw [e]
@[simp] theorem raise_trc (k i : Nat) (b : Block) : (raise k i b).trc = b.trc := by obtain ⟨_, _, e⟩ := raise_frame k i b; rw [e]
@[simp] theorem raise_certs (k i : Nat) (b : Block) : (raise k i b).certs = b.certs := by obtain ⟨_, _, e⟩ := raise_frame k i b; rw [e]
@[simp] theorem raise_mgmt (k i : Nat) (b : Block) : (raise k i b).mgmt = b.mgmt := by obtain ⟨_, _, e⟩ := raise_frame k i b; rw [e]
@[simp] theorem raise_slip (k i : Nat) (b : Block) : (raise k i b).slip = b.slip := by obtain ⟨_, _, e⟩ := raise_frame k i b; rw [e]

theorem recordErr_frame (k : Nat) (c : Byte) (w : Option Nat) (b : Block) :
    ∃ ps os, recordErr k c w b = { b with pages := ps, out := os, errSeen := some c } := by
  obtain ⟨ps, os, e⟩ := modPage_frame k (noteErr c w) b
  exact ⟨ps, os, by simp [recordErr, e]⟩

@[simp] theorem recordErr_build (k : Nat) (c : Byte) (w : Option Nat) (b : Block) : (recordErr k c w b).build = b.build := by obtain ⟨_, _, e⟩ := recordErr_frame k c w b; rw [e]
@[simp] theorem recordErr_phase (k : Nat) (c : Byte) (w : Option Nat) (b : Block) : (recordErr k c w b).phase = b.phase := by obtain ⟨_, _, e⟩ := recordErr_frame k c w b; rw [e]
@[simp] theorem recordErr_porN (k : Nat) (c : Byte) (w : Option Nat) (b : Block) : (recordErr k c w b).porN = b.porN := by obtain ⟨_, _, e⟩ := recordErr_frame k c w b; rw [e]
@[simp] theorem recordErr_pins (k : Nat) (c : Byte) (w : Option Nat) (b : Block) : (recordErr k c w b).pins = b.pins := by obtain ⟨_, _, e⟩ := recordErr_frame k c w b; rw [e]
@[simp] theorem recordErr_tick (k : Nat) (c : Byte) (w : Option Nat) (b : Block) : (recordErr k c w b).tick = b.tick := by obtain ⟨_, _, e⟩ := recordErr_frame k c w b; rw [e]
@[simp] theorem recordErr_draws (k : Nat) (c : Byte) (w : Option Nat) (b : Block) : (recordErr k c w b).draws = b.draws := by obtain ⟨_, _, e⟩ := recordErr_frame k c w b; rw [e]
@[simp] theorem recordErr_work (k : Nat) (c : Byte) (w : Option Nat) (b : Block) : (recordErr k c w b).work = b.work := by obtain ⟨_, _, e⟩ := recordErr_frame k c w b; rw [e]
@[simp] theorem recordErr_regs (k : Nat) (c : Byte) (w : Option Nat) (b : Block) : (recordErr k c w b).regs = b.regs := by obtain ⟨_, _, e⟩ := recordErr_frame k c w b; rw [e]
@[simp] theorem recordErr_latches (k : Nat) (c : Byte) (w : Option Nat) (b : Block) : (recordErr k c w b).latches = b.latches := by obtain ⟨_, _, e⟩ := recordErr_frame k c w b; rw [e]
@[simp] theorem recordErr_otp (k : Nat) (c : Byte) (w : Option Nat) (b : Block) : (recordErr k c w b).otp = b.otp := by obtain ⟨_, _, e⟩ := recordErr_frame k c w b; rw [e]
@[simp] theorem recordErr_otpRuns (k : Nat) (c : Byte) (w : Option Nat) (b : Block) : (recordErr k c w b).otpRuns = b.otpRuns := by obtain ⟨_, _, e⟩ := recordErr_frame k c w b; rw [e]
@[simp] theorem recordErr_lcs (k : Nat) (c : Byte) (w : Option Nat) (b : Block) : (recordErr k c w b).lcs = b.lcs := by obtain ⟨_, _, e⟩ := recordErr_frame k c w b; rw [e]
@[simp] theorem recordErr_keys (k : Nat) (c : Byte) (w : Option Nat) (b : Block) : (recordErr k c w b).keys = b.keys := by obtain ⟨_, _, e⟩ := recordErr_frame k c w b; rw [e]
@[simp] theorem recordErr_kstg (k : Nat) (c : Byte) (w : Option Nat) (b : Block) : (recordErr k c w b).kstg = b.kstg := by obtain ⟨_, _, e⟩ := recordErr_frame k c w b; rw [e]
@[simp] theorem recordErr_gse (k : Nat) (c : Byte) (w : Option Nat) (b : Block) : (recordErr k c w b).gse = b.gse := by obtain ⟨_, _, e⟩ := recordErr_frame k c w b; rw [e]
@[simp] theorem recordErr_lnds (k : Nat) (c : Byte) (w : Option Nat) (b : Block) : (recordErr k c w b).lnds = b.lnds := by obtain ⟨_, _, e⟩ := recordErr_frame k c w b; rw [e]
@[simp] theorem recordErr_xings (k : Nat) (c : Byte) (w : Option Nat) (b : Block) : (recordErr k c w b).xings = b.xings := by obtain ⟨_, _, e⟩ := recordErr_frame k c w b; rw [e]
@[simp] theorem recordErr_hold (k : Nat) (c : Byte) (w : Option Nat) (b : Block) : (recordErr k c w b).hold = b.hold := by obtain ⟨_, _, e⟩ := recordErr_frame k c w b; rw [e]
@[simp] theorem recordErr_mems (k : Nat) (c : Byte) (w : Option Nat) (b : Block) : (recordErr k c w b).mems = b.mems := by obtain ⟨_, _, e⟩ := recordErr_frame k c w b; rw [e]
@[simp] theorem recordErr_mema (k : Nat) (c : Byte) (w : Option Nat) (b : Block) : (recordErr k c w b).mema = b.mema := by obtain ⟨_, _, e⟩ := recordErr_frame k c w b; rw [e]
@[simp] theorem recordErr_objs (k : Nat) (c : Byte) (w : Option Nat) (b : Block) : (recordErr k c w b).objs = b.objs := by obtain ⟨_, _, e⟩ := recordErr_frame k c w b; rw [e]
@[simp] theorem recordErr_fences (k : Nat) (c : Byte) (w : Option Nat) (b : Block) : (recordErr k c w b).fences = b.fences := by obtain ⟨_, _, e⟩ := recordErr_frame k c w b; rw [e]
@[simp] theorem recordErr_ctxs (k : Nat) (c : Byte) (w : Option Nat) (b : Block) : (recordErr k c w b).ctxs = b.ctxs := by obtain ⟨_, _, e⟩ := recordErr_frame k c w b; rw [e]
@[simp] theorem recordErr_copies (k : Nat) (c : Byte) (w : Option Nat) (b : Block) : (recordErr k c w b).copies = b.copies := by obtain ⟨_, _, e⟩ := recordErr_frame k c w b; rw [e]
@[simp] theorem recordErr_berths (k : Nat) (c : Byte) (w : Option Nat) (b : Block) : (recordErr k c w b).berths = b.berths := by obtain ⟨_, _, e⟩ := recordErr_frame k c w b; rw [e]
@[simp] theorem recordErr_sched (k : Nat) (c : Byte) (w : Option Nat) (b : Block) : (recordErr k c w b).sched = b.sched := by obtain ⟨_, _, e⟩ := recordErr_frame k c w b; rw [e]
@[simp] theorem recordErr_sync (k : Nat) (c : Byte) (w : Option Nat) (b : Block) : (recordErr k c w b).sync = b.sync := by obtain ⟨_, _, e⟩ := recordErr_frame k c w b; rw [e]
@[simp] theorem recordErr_sue (k : Nat) (c : Byte) (w : Option Nat) (b : Block) : (recordErr k c w b).sue = b.sue := by obtain ⟨_, _, e⟩ := recordErr_frame k c w b; rw [e]
@[simp] theorem recordErr_ecc (k : Nat) (c : Byte) (w : Option Nat) (b : Block) : (recordErr k c w b).ecc = b.ecc := by obtain ⟨_, _, e⟩ := recordErr_frame k c w b; rw [e]
@[simp] theorem recordErr_recv (k : Nat) (c : Byte) (w : Option Nat) (b : Block) : (recordErr k c w b).recv = b.recv := by obtain ⟨_, _, e⟩ := recordErr_frame k c w b; rw [e]
@[simp] theorem recordErr_sess (k : Nat) (c : Byte) (w : Option Nat) (b : Block) : (recordErr k c w b).sess = b.sess := by obtain ⟨_, _, e⟩ := recordErr_frame k c w b; rw [e]
@[simp] theorem recordErr_dbg (k : Nat) (c : Byte) (w : Option Nat) (b : Block) : (recordErr k c w b).dbg = b.dbg := by obtain ⟨_, _, e⟩ := recordErr_frame k c w b; rw [e]
@[simp] theorem recordErr_trc (k : Nat) (c : Byte) (w : Option Nat) (b : Block) : (recordErr k c w b).trc = b.trc := by obtain ⟨_, _, e⟩ := recordErr_frame k c w b; rw [e]
@[simp] theorem recordErr_certs (k : Nat) (c : Byte) (w : Option Nat) (b : Block) : (recordErr k c w b).certs = b.certs := by obtain ⟨_, _, e⟩ := recordErr_frame k c w b; rw [e]
@[simp] theorem recordErr_mgmt (k : Nat) (c : Byte) (w : Option Nat) (b : Block) : (recordErr k c w b).mgmt = b.mgmt := by obtain ⟨_, _, e⟩ := recordErr_frame k c w b; rw [e]
@[simp] theorem recordErr_slip (k : Nat) (c : Byte) (w : Option Nat) (b : Block) : (recordErr k c w b).slip = b.slip := by obtain ⟨_, _, e⟩ := recordErr_frame k c w b; rw [e]

@[simp] theorem setBerthState_build (w : Nat) (s : BerthState) (b : Block) : (setBerthState w s b).build = b.build := by simp only [setBerthState]; split <;> simp
@[simp] theorem setBerthState_phase (w : Nat) (s : BerthState) (b : Block) : (setBerthState w s b).phase = b.phase := by simp only [setBerthState]; split <;> simp
@[simp] theorem setBerthState_porN (w : Nat) (s : BerthState) (b : Block) : (setBerthState w s b).porN = b.porN := by simp only [setBerthState]; split <;> simp
@[simp] theorem setBerthState_pins (w : Nat) (s : BerthState) (b : Block) : (setBerthState w s b).pins = b.pins := by simp only [setBerthState]; split <;> simp
@[simp] theorem setBerthState_tick (w : Nat) (s : BerthState) (b : Block) : (setBerthState w s b).tick = b.tick := by simp only [setBerthState]; split <;> simp
@[simp] theorem setBerthState_draws (w : Nat) (s : BerthState) (b : Block) : (setBerthState w s b).draws = b.draws := by simp only [setBerthState]; split <;> simp
@[simp] theorem setBerthState_work (w : Nat) (s : BerthState) (b : Block) : (setBerthState w s b).work = b.work := by simp only [setBerthState]; split <;> simp
@[simp] theorem setBerthState_errSeen (w : Nat) (s : BerthState) (b : Block) : (setBerthState w s b).errSeen = b.errSeen := by simp only [setBerthState]; split <;> simp
@[simp] theorem setBerthState_regs (w : Nat) (s : BerthState) (b : Block) : (setBerthState w s b).regs = b.regs := by simp only [setBerthState]; split <;> simp
@[simp] theorem setBerthState_latches (w : Nat) (s : BerthState) (b : Block) : (setBerthState w s b).latches = b.latches := by simp only [setBerthState]; split <;> simp
@[simp] theorem setBerthState_otp (w : Nat) (s : BerthState) (b : Block) : (setBerthState w s b).otp = b.otp := by simp only [setBerthState]; split <;> simp
@[simp] theorem setBerthState_otpRuns (w : Nat) (s : BerthState) (b : Block) : (setBerthState w s b).otpRuns = b.otpRuns := by simp only [setBerthState]; split <;> simp
@[simp] theorem setBerthState_lcs (w : Nat) (s : BerthState) (b : Block) : (setBerthState w s b).lcs = b.lcs := by simp only [setBerthState]; split <;> simp
@[simp] theorem setBerthState_keys (w : Nat) (s : BerthState) (b : Block) : (setBerthState w s b).keys = b.keys := by simp only [setBerthState]; split <;> simp
@[simp] theorem setBerthState_kstg (w : Nat) (s : BerthState) (b : Block) : (setBerthState w s b).kstg = b.kstg := by simp only [setBerthState]; split <;> simp
@[simp] theorem setBerthState_gse (w : Nat) (s : BerthState) (b : Block) : (setBerthState w s b).gse = b.gse := by simp only [setBerthState]; split <;> simp
@[simp] theorem setBerthState_lnds (w : Nat) (s : BerthState) (b : Block) : (setBerthState w s b).lnds = b.lnds := by simp only [setBerthState]; split <;> simp
@[simp] theorem setBerthState_xings (w : Nat) (s : BerthState) (b : Block) : (setBerthState w s b).xings = b.xings := by simp only [setBerthState]; split <;> simp
@[simp] theorem setBerthState_hold (w : Nat) (s : BerthState) (b : Block) : (setBerthState w s b).hold = b.hold := by simp only [setBerthState]; split <;> simp
@[simp] theorem setBerthState_mems (w : Nat) (s : BerthState) (b : Block) : (setBerthState w s b).mems = b.mems := by simp only [setBerthState]; split <;> simp
@[simp] theorem setBerthState_mema (w : Nat) (s : BerthState) (b : Block) : (setBerthState w s b).mema = b.mema := by simp only [setBerthState]; split <;> simp
@[simp] theorem setBerthState_objs (w : Nat) (s : BerthState) (b : Block) : (setBerthState w s b).objs = b.objs := by simp only [setBerthState]; split <;> simp
@[simp] theorem setBerthState_fences (w : Nat) (s : BerthState) (b : Block) : (setBerthState w s b).fences = b.fences := by simp only [setBerthState]; split <;> simp
@[simp] theorem setBerthState_ctxs (w : Nat) (s : BerthState) (b : Block) : (setBerthState w s b).ctxs = b.ctxs := by simp only [setBerthState]; split <;> simp
@[simp] theorem setBerthState_copies (w : Nat) (s : BerthState) (b : Block) : (setBerthState w s b).copies = b.copies := by simp only [setBerthState]; split <;> simp
@[simp] theorem setBerthState_sched (w : Nat) (s : BerthState) (b : Block) : (setBerthState w s b).sched = b.sched := by simp only [setBerthState]; split <;> simp
@[simp] theorem setBerthState_sync (w : Nat) (s : BerthState) (b : Block) : (setBerthState w s b).sync = b.sync := by simp only [setBerthState]; split <;> simp
@[simp] theorem setBerthState_sue (w : Nat) (s : BerthState) (b : Block) : (setBerthState w s b).sue = b.sue := by simp only [setBerthState]; split <;> simp
@[simp] theorem setBerthState_ecc (w : Nat) (s : BerthState) (b : Block) : (setBerthState w s b).ecc = b.ecc := by simp only [setBerthState]; split <;> simp
@[simp] theorem setBerthState_recv (w : Nat) (s : BerthState) (b : Block) : (setBerthState w s b).recv = b.recv := by simp only [setBerthState]; split <;> simp
@[simp] theorem setBerthState_sess (w : Nat) (s : BerthState) (b : Block) : (setBerthState w s b).sess = b.sess := by simp only [setBerthState]; split <;> simp
@[simp] theorem setBerthState_dbg (w : Nat) (s : BerthState) (b : Block) : (setBerthState w s b).dbg = b.dbg := by simp only [setBerthState]; split <;> simp
@[simp] theorem setBerthState_trc (w : Nat) (s : BerthState) (b : Block) : (setBerthState w s b).trc = b.trc := by simp only [setBerthState]; split <;> simp
@[simp] theorem setBerthState_certs (w : Nat) (s : BerthState) (b : Block) : (setBerthState w s b).certs = b.certs := by simp only [setBerthState]; split <;> simp
@[simp] theorem setBerthState_mgmt (w : Nat) (s : BerthState) (b : Block) : (setBerthState w s b).mgmt = b.mgmt := by simp only [setBerthState]; split <;> simp
@[simp] theorem setBerthState_slip (w : Nat) (s : BerthState) (b : Block) : (setBerthState w s b).slip = b.slip := by simp only [setBerthState]; split <;> simp

theorem recordTail (v : Recv) (c d : Prop) [Decidable c] [Decidable d] (b : Block) : ∃ x ps os,
    (let y := if c then raise 0x1B 1 { b with recv := v } else { b with recv := v }
     if d then raise 0x1B 2 { y with recv := { y.recv with hangs := inc32 y.recv.hangs } } else y) =
      { b with recv := x, pages := ps, out := os } := by
  obtain ⟨ps, os, e⟩ := raiseIf_frame c 0x1B 1 { b with recv := v }
  rw [e]
  split
  · obtain ⟨ps', os', e'⟩ := raise_frame 0x1B 2 { b with pages := ps, out := os, recv := { v with hangs := inc32 v.hangs } }
    exact ⟨_, ps', os', e'⟩
  · exact ⟨_, _, _, rfl⟩

/-- A record changes the ring and its counters, the RECV page and what its interrupts signal. -/
theorem record_frame (r : Rec) (b : Block) : ∃ v ps os, record r b = { b with recv := v, pages := ps, out := os } := by
  exact recordTail _ _ _ b

@[simp] theorem record_build (r : Rec) (b : Block) : (record r b).build = b.build := by obtain ⟨_, _, _, e⟩ := record_frame r b; rw [e]
@[simp] theorem record_phase (r : Rec) (b : Block) : (record r b).phase = b.phase := by obtain ⟨_, _, _, e⟩ := record_frame r b; rw [e]
@[simp] theorem record_porN (r : Rec) (b : Block) : (record r b).porN = b.porN := by obtain ⟨_, _, _, e⟩ := record_frame r b; rw [e]
@[simp] theorem record_pins (r : Rec) (b : Block) : (record r b).pins = b.pins := by obtain ⟨_, _, _, e⟩ := record_frame r b; rw [e]
@[simp] theorem record_tick (r : Rec) (b : Block) : (record r b).tick = b.tick := by obtain ⟨_, _, _, e⟩ := record_frame r b; rw [e]
@[simp] theorem record_draws (r : Rec) (b : Block) : (record r b).draws = b.draws := by obtain ⟨_, _, _, e⟩ := record_frame r b; rw [e]
@[simp] theorem record_work (r : Rec) (b : Block) : (record r b).work = b.work := by obtain ⟨_, _, _, e⟩ := record_frame r b; rw [e]
@[simp] theorem record_errSeen (r : Rec) (b : Block) : (record r b).errSeen = b.errSeen := by obtain ⟨_, _, _, e⟩ := record_frame r b; rw [e]
@[simp] theorem record_regs (r : Rec) (b : Block) : (record r b).regs = b.regs := by obtain ⟨_, _, _, e⟩ := record_frame r b; rw [e]
@[simp] theorem record_latches (r : Rec) (b : Block) : (record r b).latches = b.latches := by obtain ⟨_, _, _, e⟩ := record_frame r b; rw [e]
@[simp] theorem record_otp (r : Rec) (b : Block) : (record r b).otp = b.otp := by obtain ⟨_, _, _, e⟩ := record_frame r b; rw [e]
@[simp] theorem record_otpRuns (r : Rec) (b : Block) : (record r b).otpRuns = b.otpRuns := by obtain ⟨_, _, _, e⟩ := record_frame r b; rw [e]
@[simp] theorem record_lcs (r : Rec) (b : Block) : (record r b).lcs = b.lcs := by obtain ⟨_, _, _, e⟩ := record_frame r b; rw [e]
@[simp] theorem record_keys (r : Rec) (b : Block) : (record r b).keys = b.keys := by obtain ⟨_, _, _, e⟩ := record_frame r b; rw [e]
@[simp] theorem record_kstg (r : Rec) (b : Block) : (record r b).kstg = b.kstg := by obtain ⟨_, _, _, e⟩ := record_frame r b; rw [e]
@[simp] theorem record_gse (r : Rec) (b : Block) : (record r b).gse = b.gse := by obtain ⟨_, _, _, e⟩ := record_frame r b; rw [e]
@[simp] theorem record_lnds (r : Rec) (b : Block) : (record r b).lnds = b.lnds := by obtain ⟨_, _, _, e⟩ := record_frame r b; rw [e]
@[simp] theorem record_xings (r : Rec) (b : Block) : (record r b).xings = b.xings := by obtain ⟨_, _, _, e⟩ := record_frame r b; rw [e]
@[simp] theorem record_hold (r : Rec) (b : Block) : (record r b).hold = b.hold := by obtain ⟨_, _, _, e⟩ := record_frame r b; rw [e]
@[simp] theorem record_mems (r : Rec) (b : Block) : (record r b).mems = b.mems := by obtain ⟨_, _, _, e⟩ := record_frame r b; rw [e]
@[simp] theorem record_mema (r : Rec) (b : Block) : (record r b).mema = b.mema := by obtain ⟨_, _, _, e⟩ := record_frame r b; rw [e]
@[simp] theorem record_objs (r : Rec) (b : Block) : (record r b).objs = b.objs := by obtain ⟨_, _, _, e⟩ := record_frame r b; rw [e]
@[simp] theorem record_fences (r : Rec) (b : Block) : (record r b).fences = b.fences := by obtain ⟨_, _, _, e⟩ := record_frame r b; rw [e]
@[simp] theorem record_ctxs (r : Rec) (b : Block) : (record r b).ctxs = b.ctxs := by obtain ⟨_, _, _, e⟩ := record_frame r b; rw [e]
@[simp] theorem record_copies (r : Rec) (b : Block) : (record r b).copies = b.copies := by obtain ⟨_, _, _, e⟩ := record_frame r b; rw [e]
@[simp] theorem record_berths (r : Rec) (b : Block) : (record r b).berths = b.berths := by obtain ⟨_, _, _, e⟩ := record_frame r b; rw [e]
@[simp] theorem record_sched (r : Rec) (b : Block) : (record r b).sched = b.sched := by obtain ⟨_, _, _, e⟩ := record_frame r b; rw [e]
@[simp] theorem record_sync (r : Rec) (b : Block) : (record r b).sync = b.sync := by obtain ⟨_, _, _, e⟩ := record_frame r b; rw [e]
@[simp] theorem record_sue (r : Rec) (b : Block) : (record r b).sue = b.sue := by obtain ⟨_, _, _, e⟩ := record_frame r b; rw [e]
@[simp] theorem record_ecc (r : Rec) (b : Block) : (record r b).ecc = b.ecc := by obtain ⟨_, _, _, e⟩ := record_frame r b; rw [e]
@[simp] theorem record_sess (r : Rec) (b : Block) : (record r b).sess = b.sess := by obtain ⟨_, _, _, e⟩ := record_frame r b; rw [e]
@[simp] theorem record_dbg (r : Rec) (b : Block) : (record r b).dbg = b.dbg := by obtain ⟨_, _, _, e⟩ := record_frame r b; rw [e]
@[simp] theorem record_trc (r : Rec) (b : Block) : (record r b).trc = b.trc := by obtain ⟨_, _, _, e⟩ := record_frame r b; rw [e]
@[simp] theorem record_certs (r : Rec) (b : Block) : (record r b).certs = b.certs := by obtain ⟨_, _, _, e⟩ := record_frame r b; rw [e]
@[simp] theorem record_mgmt (r : Rec) (b : Block) : (record r b).mgmt = b.mgmt := by obtain ⟨_, _, _, e⟩ := record_frame r b; rw [e]
@[simp] theorem record_slip (r : Rec) (b : Block) : (record r b).slip = b.slip := by obtain ⟨_, _, _, e⟩ := record_frame r b; rw [e]

theorem eccTail (x : Ecc) (c d : Prop) [Decidable c] [Decidable d] (b : Block) : ∃ z ps os,
    ({ (if d then raise 0x1A 2 (if c then raise 0x1A 1 b else b) else if c then raise 0x1A 1 b else b) with ecc := x } : Block) =
      { b with ecc := z, pages := ps, out := os } := by
  obtain ⟨ps, os, e⟩ := raiseIf_frame c 0x1A 1 b
  rw [e]
  obtain ⟨ps', os', e'⟩ := raiseIf_frame d 0x1A 2 { b with pages := ps, out := os }
  rw [e']
  exact ⟨_, _, _, rfl⟩

/-- An ECC log entry changes the log and its counters, the ECC page and what its interrupts signal. -/
theorem eccLog_frame (site : Nat) (ue test : Bool) (berth : Option Nat) (syn inst addr : Nat) (b : Block) :
    ∃ x ps os, eccLog site ue test berth syn inst addr b = { b with ecc := x, pages := ps, out := os } := by
  exact eccTail _ _ _ b

@[simp] theorem eccLog_build (site : Nat) (ue test : Bool) (berth : Option Nat) (syn inst addr : Nat) (b : Block) : (eccLog site ue test berth syn inst addr b).build = b.build := by obtain ⟨_, _, _, e⟩ := eccLog_frame site ue test berth syn inst addr b; rw [e]
@[simp] theorem eccLog_phase (site : Nat) (ue test : Bool) (berth : Option Nat) (syn inst addr : Nat) (b : Block) : (eccLog site ue test berth syn inst addr b).phase = b.phase := by obtain ⟨_, _, _, e⟩ := eccLog_frame site ue test berth syn inst addr b; rw [e]
@[simp] theorem eccLog_porN (site : Nat) (ue test : Bool) (berth : Option Nat) (syn inst addr : Nat) (b : Block) : (eccLog site ue test berth syn inst addr b).porN = b.porN := by obtain ⟨_, _, _, e⟩ := eccLog_frame site ue test berth syn inst addr b; rw [e]
@[simp] theorem eccLog_pins (site : Nat) (ue test : Bool) (berth : Option Nat) (syn inst addr : Nat) (b : Block) : (eccLog site ue test berth syn inst addr b).pins = b.pins := by obtain ⟨_, _, _, e⟩ := eccLog_frame site ue test berth syn inst addr b; rw [e]
@[simp] theorem eccLog_tick (site : Nat) (ue test : Bool) (berth : Option Nat) (syn inst addr : Nat) (b : Block) : (eccLog site ue test berth syn inst addr b).tick = b.tick := by obtain ⟨_, _, _, e⟩ := eccLog_frame site ue test berth syn inst addr b; rw [e]
@[simp] theorem eccLog_draws (site : Nat) (ue test : Bool) (berth : Option Nat) (syn inst addr : Nat) (b : Block) : (eccLog site ue test berth syn inst addr b).draws = b.draws := by obtain ⟨_, _, _, e⟩ := eccLog_frame site ue test berth syn inst addr b; rw [e]
@[simp] theorem eccLog_work (site : Nat) (ue test : Bool) (berth : Option Nat) (syn inst addr : Nat) (b : Block) : (eccLog site ue test berth syn inst addr b).work = b.work := by obtain ⟨_, _, _, e⟩ := eccLog_frame site ue test berth syn inst addr b; rw [e]
@[simp] theorem eccLog_errSeen (site : Nat) (ue test : Bool) (berth : Option Nat) (syn inst addr : Nat) (b : Block) : (eccLog site ue test berth syn inst addr b).errSeen = b.errSeen := by obtain ⟨_, _, _, e⟩ := eccLog_frame site ue test berth syn inst addr b; rw [e]
@[simp] theorem eccLog_regs (site : Nat) (ue test : Bool) (berth : Option Nat) (syn inst addr : Nat) (b : Block) : (eccLog site ue test berth syn inst addr b).regs = b.regs := by obtain ⟨_, _, _, e⟩ := eccLog_frame site ue test berth syn inst addr b; rw [e]
@[simp] theorem eccLog_latches (site : Nat) (ue test : Bool) (berth : Option Nat) (syn inst addr : Nat) (b : Block) : (eccLog site ue test berth syn inst addr b).latches = b.latches := by obtain ⟨_, _, _, e⟩ := eccLog_frame site ue test berth syn inst addr b; rw [e]
@[simp] theorem eccLog_otp (site : Nat) (ue test : Bool) (berth : Option Nat) (syn inst addr : Nat) (b : Block) : (eccLog site ue test berth syn inst addr b).otp = b.otp := by obtain ⟨_, _, _, e⟩ := eccLog_frame site ue test berth syn inst addr b; rw [e]
@[simp] theorem eccLog_otpRuns (site : Nat) (ue test : Bool) (berth : Option Nat) (syn inst addr : Nat) (b : Block) : (eccLog site ue test berth syn inst addr b).otpRuns = b.otpRuns := by obtain ⟨_, _, _, e⟩ := eccLog_frame site ue test berth syn inst addr b; rw [e]
@[simp] theorem eccLog_lcs (site : Nat) (ue test : Bool) (berth : Option Nat) (syn inst addr : Nat) (b : Block) : (eccLog site ue test berth syn inst addr b).lcs = b.lcs := by obtain ⟨_, _, _, e⟩ := eccLog_frame site ue test berth syn inst addr b; rw [e]
@[simp] theorem eccLog_keys (site : Nat) (ue test : Bool) (berth : Option Nat) (syn inst addr : Nat) (b : Block) : (eccLog site ue test berth syn inst addr b).keys = b.keys := by obtain ⟨_, _, _, e⟩ := eccLog_frame site ue test berth syn inst addr b; rw [e]
@[simp] theorem eccLog_kstg (site : Nat) (ue test : Bool) (berth : Option Nat) (syn inst addr : Nat) (b : Block) : (eccLog site ue test berth syn inst addr b).kstg = b.kstg := by obtain ⟨_, _, _, e⟩ := eccLog_frame site ue test berth syn inst addr b; rw [e]
@[simp] theorem eccLog_gse (site : Nat) (ue test : Bool) (berth : Option Nat) (syn inst addr : Nat) (b : Block) : (eccLog site ue test berth syn inst addr b).gse = b.gse := by obtain ⟨_, _, _, e⟩ := eccLog_frame site ue test berth syn inst addr b; rw [e]
@[simp] theorem eccLog_lnds (site : Nat) (ue test : Bool) (berth : Option Nat) (syn inst addr : Nat) (b : Block) : (eccLog site ue test berth syn inst addr b).lnds = b.lnds := by obtain ⟨_, _, _, e⟩ := eccLog_frame site ue test berth syn inst addr b; rw [e]
@[simp] theorem eccLog_xings (site : Nat) (ue test : Bool) (berth : Option Nat) (syn inst addr : Nat) (b : Block) : (eccLog site ue test berth syn inst addr b).xings = b.xings := by obtain ⟨_, _, _, e⟩ := eccLog_frame site ue test berth syn inst addr b; rw [e]
@[simp] theorem eccLog_hold (site : Nat) (ue test : Bool) (berth : Option Nat) (syn inst addr : Nat) (b : Block) : (eccLog site ue test berth syn inst addr b).hold = b.hold := by obtain ⟨_, _, _, e⟩ := eccLog_frame site ue test berth syn inst addr b; rw [e]
@[simp] theorem eccLog_mems (site : Nat) (ue test : Bool) (berth : Option Nat) (syn inst addr : Nat) (b : Block) : (eccLog site ue test berth syn inst addr b).mems = b.mems := by obtain ⟨_, _, _, e⟩ := eccLog_frame site ue test berth syn inst addr b; rw [e]
@[simp] theorem eccLog_mema (site : Nat) (ue test : Bool) (berth : Option Nat) (syn inst addr : Nat) (b : Block) : (eccLog site ue test berth syn inst addr b).mema = b.mema := by obtain ⟨_, _, _, e⟩ := eccLog_frame site ue test berth syn inst addr b; rw [e]
@[simp] theorem eccLog_objs (site : Nat) (ue test : Bool) (berth : Option Nat) (syn inst addr : Nat) (b : Block) : (eccLog site ue test berth syn inst addr b).objs = b.objs := by obtain ⟨_, _, _, e⟩ := eccLog_frame site ue test berth syn inst addr b; rw [e]
@[simp] theorem eccLog_fences (site : Nat) (ue test : Bool) (berth : Option Nat) (syn inst addr : Nat) (b : Block) : (eccLog site ue test berth syn inst addr b).fences = b.fences := by obtain ⟨_, _, _, e⟩ := eccLog_frame site ue test berth syn inst addr b; rw [e]
@[simp] theorem eccLog_ctxs (site : Nat) (ue test : Bool) (berth : Option Nat) (syn inst addr : Nat) (b : Block) : (eccLog site ue test berth syn inst addr b).ctxs = b.ctxs := by obtain ⟨_, _, _, e⟩ := eccLog_frame site ue test berth syn inst addr b; rw [e]
@[simp] theorem eccLog_copies (site : Nat) (ue test : Bool) (berth : Option Nat) (syn inst addr : Nat) (b : Block) : (eccLog site ue test berth syn inst addr b).copies = b.copies := by obtain ⟨_, _, _, e⟩ := eccLog_frame site ue test berth syn inst addr b; rw [e]
@[simp] theorem eccLog_berths (site : Nat) (ue test : Bool) (berth : Option Nat) (syn inst addr : Nat) (b : Block) : (eccLog site ue test berth syn inst addr b).berths = b.berths := by obtain ⟨_, _, _, e⟩ := eccLog_frame site ue test berth syn inst addr b; rw [e]
@[simp] theorem eccLog_sched (site : Nat) (ue test : Bool) (berth : Option Nat) (syn inst addr : Nat) (b : Block) : (eccLog site ue test berth syn inst addr b).sched = b.sched := by obtain ⟨_, _, _, e⟩ := eccLog_frame site ue test berth syn inst addr b; rw [e]
@[simp] theorem eccLog_sync (site : Nat) (ue test : Bool) (berth : Option Nat) (syn inst addr : Nat) (b : Block) : (eccLog site ue test berth syn inst addr b).sync = b.sync := by obtain ⟨_, _, _, e⟩ := eccLog_frame site ue test berth syn inst addr b; rw [e]
@[simp] theorem eccLog_sue (site : Nat) (ue test : Bool) (berth : Option Nat) (syn inst addr : Nat) (b : Block) : (eccLog site ue test berth syn inst addr b).sue = b.sue := by obtain ⟨_, _, _, e⟩ := eccLog_frame site ue test berth syn inst addr b; rw [e]
@[simp] theorem eccLog_recv (site : Nat) (ue test : Bool) (berth : Option Nat) (syn inst addr : Nat) (b : Block) : (eccLog site ue test berth syn inst addr b).recv = b.recv := by obtain ⟨_, _, _, e⟩ := eccLog_frame site ue test berth syn inst addr b; rw [e]
@[simp] theorem eccLog_sess (site : Nat) (ue test : Bool) (berth : Option Nat) (syn inst addr : Nat) (b : Block) : (eccLog site ue test berth syn inst addr b).sess = b.sess := by obtain ⟨_, _, _, e⟩ := eccLog_frame site ue test berth syn inst addr b; rw [e]
@[simp] theorem eccLog_dbg (site : Nat) (ue test : Bool) (berth : Option Nat) (syn inst addr : Nat) (b : Block) : (eccLog site ue test berth syn inst addr b).dbg = b.dbg := by obtain ⟨_, _, _, e⟩ := eccLog_frame site ue test berth syn inst addr b; rw [e]
@[simp] theorem eccLog_trc (site : Nat) (ue test : Bool) (berth : Option Nat) (syn inst addr : Nat) (b : Block) : (eccLog site ue test berth syn inst addr b).trc = b.trc := by obtain ⟨_, _, _, e⟩ := eccLog_frame site ue test berth syn inst addr b; rw [e]
@[simp] theorem eccLog_certs (site : Nat) (ue test : Bool) (berth : Option Nat) (syn inst addr : Nat) (b : Block) : (eccLog site ue test berth syn inst addr b).certs = b.certs := by obtain ⟨_, _, _, e⟩ := eccLog_frame site ue test berth syn inst addr b; rw [e]
@[simp] theorem eccLog_mgmt (site : Nat) (ue test : Bool) (berth : Option Nat) (syn inst addr : Nat) (b : Block) : (eccLog site ue test berth syn inst addr b).mgmt = b.mgmt := by obtain ⟨_, _, _, e⟩ := eccLog_frame site ue test berth syn inst addr b; rw [e]
@[simp] theorem eccLog_slip (site : Nat) (ue test : Bool) (berth : Option Nat) (syn inst addr : Nat) (b : Block) : (eccLog site ue test berth syn inst addr b).slip = b.slip := by obtain ⟨_, _, _, e⟩ := eccLog_frame site ue test berth syn inst addr b; rw [e]

/-! ### Reading a page after a change -/

theorem pageAt_setPage (k j : Nat) (p : Page) (b : Block) : pageAt (setPage j p b) k = tget {} (tset {} b.pages j p) k := by
  simp only [setPage]
  split
  · obtain ⟨os, e⟩ := signalIrq_frame j { b with pages := tset {} b.pages j p }
    rw [e]
    rfl
  · rfl

/-- A changed page reads as changed, but where it becomes the page that an unlisted key reads as. -/
theorem pageAt_modPage_self (k : Nat) (f : Page → Page) (b : Block) (h : f (pageAt b k) ≠ {}) :
    pageAt (modPage k f b) k = f (pageAt b k) := by
  simp only [modPage]
  split
  · rw [pageAt_setPage, tget_tset_ne _ _ _ (by omega)]
    exact (pageAt_setPage _ _ _ _).trans (tget_tset_self _ _ _ h)
  · exact (pageAt_setPage _ _ _ _).trans (tget_tset_self _ _ _ h)

/-- A change that gains no pending interrupt leaves every other page and the ports. -/
theorem modPage_quiet (k : Nat) (f : Page → Page) (b : Block)
    (h : (irqPending (f (pageAt b k)) && !irqPending (pageAt b k)) = false) :
    modPage k f b = { b with pages := tset {} b.pages k (f (pageAt b k)) } := by
  simp [modPage, setPage, h]

end Sys2Proof.Machine
end

