-- ==== Sys2Proof/Laws/Keeps.lean ====
section
/-!
SUPPORT. What every operation of the block keeps, said once: the Hold's memory stays in canonical form and no OTP bit that is 1 becomes 0.
-/

namespace Sys2Proof.Machine

/-- b came from a by operations that keep the Hold's memory canonical and clear no OTP bit. -/
structure Keeps (a b : Block) : Prop where
  mem : Memory.wf a.hold.mem = true → Memory.wf b.hold.mem = true
  otp : otpGrows a b

theorem or_grows {n : Nat} {x y z : BitVec n} (h1 : x ||| y = y) (h2 : y ||| z = z) : x ||| z = z := by
  rw [← h2, ← BitVec.or_assoc, h1]

theorem Keeps.refl (a : Block) : Keeps a a := ⟨id, fun _ => BitVec.or_self⟩

theorem Keeps.trans {a b c : Block} (h1 : Keeps a b) (h2 : Keeps b c) : Keeps a c :=
  ⟨fun h => h2.mem (h1.mem h), fun k => or_grows (h1.otp k) (h2.otp k)⟩

/-- A change of the other fields. -/
theorem Keeps.same {a b c : Block} (h : Keeps a b) (hm : c.hold.mem = b.hold.mem) (ho : c.otp = b.otp) : Keeps a c :=
  h.trans ⟨fun e => by rw [hm]; exact e, fun k => by simp [otpWord, ho]⟩

theorem Keeps.foldl {α : Type} {a : Block} {f : Block → α → Block} (hf : ∀ b x, Keeps a b → Keeps a (f b x)) {l : List α} :
    ∀ {b : Block}, Keeps a b → Keeps a (l.foldl f b) := by
  induction l with
  | nil => exact fun h => h
  | cons x l ih => exact fun h => ih (hf _ x h)

theorem Keeps.ite {a x y : Block} {p : Prop} [Decidable p] (hx : Keeps a x) (hy : Keeps a y) : Keeps a (if p then x else y) := by
  split <;> assumption

theorem Keeps.iteThird {α β : Type} {a : Block} {x y : α × β × Block} {p : Prop} [Decidable p] (hx : Keeps a x.2.2) (hy : Keeps a y.2.2) :
    Keeps a (if p then x else y).2.2 := by
  split <;> assumption

/-- A record update of other fields. -/
theorem Keeps.upd {a b : Block} {build} {phase} {porN} {pins} {tick} {draws} {out} {work} {errSeen} {pages} {regs} {latches} {otpRuns} {lcs} {keys} {kstg} {gse} {lnds} {xings} {mems} {mema} {objs} {fences} {ctxs} {copies} {berths} {sched} {sync} {sue} {ecc} {recv} {sess} {dbg} {trc} {certs} {mgmt} {slip} (h : Keeps a b) :
    Keeps a { b with build := build, phase := phase, porN := porN, pins := pins, tick := tick, draws := draws, out := out, work := work, errSeen := errSeen, pages := pages, regs := regs, latches := latches, otpRuns := otpRuns, lcs := lcs, keys := keys, kstg := kstg, gse := gse, lnds := lnds, xings := xings, mems := mems, mema := mema, objs := objs, fences := fences, ctxs := ctxs, copies := copies, berths := berths, sched := sched, sync := sync, sue := sue, ecc := ecc, recv := recv, sess := sess, dbg := dbg, trc := trc, certs := certs, mgmt := mgmt, slip := slip } := h.same rfl rfl

/-- A record update that leaves the Hold's bytes. -/
theorem Keeps.updHold {a b : Block} {hold} {build} {phase} {porN} {pins} {tick} {draws} {out} {work} {errSeen} {pages} {regs} {latches} {otpRuns} {lcs} {keys} {kstg} {gse} {lnds} {xings} {mems} {mema} {objs} {fences} {ctxs} {copies} {berths} {sched} {sync} {sue} {ecc} {recv} {sess} {dbg} {trc} {certs} {mgmt} {slip} (h : Keeps a b) (e : hold.mem = b.hold.mem) :
    Keeps a { b with hold := hold, build := build, phase := phase, porN := porN, pins := pins, tick := tick, draws := draws, out := out, work := work, errSeen := errSeen, pages := pages, regs := regs, latches := latches, otpRuns := otpRuns, lcs := lcs, keys := keys, kstg := kstg, gse := gse, lnds := lnds, xings := xings, mems := mems, mema := mema, objs := objs, fences := fences, ctxs := ctxs, copies := copies, berths := berths, sched := sched, sync := sync, sue := sue, ecc := ecc, recv := recv, sess := sess, dbg := dbg, trc := trc, certs := certs, mgmt := mgmt, slip := slip } := h.same e rfl

/-- A record update that clears the Hold's bytes. -/
theorem Keeps.updClear {a b : Block} {hold} {build} {phase} {porN} {pins} {tick} {draws} {out} {work} {errSeen} {pages} {regs} {latches} {otpRuns} {lcs} {keys} {kstg} {gse} {lnds} {xings} {mems} {mema} {objs} {fences} {ctxs} {copies} {berths} {sched} {sync} {sue} {ecc} {recv} {sess} {dbg} {trc} {certs} {mgmt} {slip} (h : Keeps a b) (e : hold.mem = []) :
    Keeps a { b with hold := hold, build := build, phase := phase, porN := porN, pins := pins, tick := tick, draws := draws, out := out, work := work, errSeen := errSeen, pages := pages, regs := regs, latches := latches, otpRuns := otpRuns, lcs := lcs, keys := keys, kstg := kstg, gse := gse, lnds := lnds, xings := xings, mems := mems, mema := mema, objs := objs, fences := fences, ctxs := ctxs, copies := copies, berths := berths, sched := sched, sync := sync, sue := sue, ecc := ecc, recv := recv, sess := sess, dbg := dbg, trc := trc, certs := certs, mgmt := mgmt, slip := slip } :=
  h.trans ⟨fun _ => by show Memory.wf hold.mem = true; rw [e]; rfl, fun _ => BitVec.or_self⟩

/-- A record update that programs bits of one OTP word. -/
theorem Keeps.updOtp {a b : Block} {k : Nat} {v : BitVec 39} {build} {phase} {porN} {pins} {tick} {draws} {out} {work} {errSeen} {pages} {regs} {latches} {otpRuns} {lcs} {keys} {kstg} {gse} {lnds} {xings} {mems} {mema} {objs} {fences} {ctxs} {copies} {berths} {sched} {sync} {sue} {ecc} {recv} {sess} {dbg} {trc} {certs} {mgmt} {slip} (h : Keeps a b) :
    Keeps a { b with otp := tset 0 b.otp k (otpWord b k ||| v), build := build, phase := phase, porN := porN, pins := pins, tick := tick, draws := draws, out := out, work := work, errSeen := errSeen, pages := pages, regs := regs, latches := latches, otpRuns := otpRuns, lcs := lcs, keys := keys, kstg := kstg, gse := gse, lnds := lnds, xings := xings, mems := mems, mema := mema, objs := objs, fences := fences, ctxs := ctxs, copies := copies, berths := berths, sched := sched, sync := sync, sue := sue, ecc := ecc, recv := recv, sess := sess, dbg := dbg, trc := trc, certs := certs, mgmt := mgmt, slip := slip } := by
  refine h.trans ⟨fun e => e, fun j => ?_⟩
  show otpWord b j ||| tget 0 (tset 0 b.otp k (otpWord b k ||| v)) j = tget 0 (tset 0 b.otp k (otpWord b k ||| v)) j
  by_cases hj : j = k
  · subst hj
    by_cases hv : otpWord b j ||| v = 0
    · have h0 : otpWord b j = 0 := by
        apply BitVec.eq_of_getLsbD_eq
        intro i hi
        have := congrArg (fun x => BitVec.getLsbD x i) hv
        simp at this
        simpa [hi] using this.1
      rw [h0]; exact BitVec.zero_or
    · rw [tget_tset_self _ _ _ hv, ← BitVec.or_assoc, BitVec.or_self]
  · rw [tget_tset_ne _ _ _ hj]; exact BitVec.or_self

/-- Names a block that a definition binds, with what is known of it. -/
theorem Keeps.named {a : Block} (x : Block) {P : Prop} (hx : Keeps a x) (h : Keeps a x → P) : P := h hx

theorem Keeps.namedSnd {α : Type} {a : Block} (x : α × Block) {P : Prop} (hx : Keeps a x.2) (h : Keeps a x.2 → P) : P := h hx

theorem Keeps.namedThird {α β : Type} {a : Block} (x : α × β × Block) {P : Prop} (hx : Keeps a x.2.2) (h : Keeps a x.2.2 → P) : P := h hx

theorem Keeps.namedFst {α : Type} {a : Block} (x : Block × α) {P : Prop} (hx : Keeps a x.1) (h : Keeps a x.1 → P) : P := h hx

theorem Keeps.foldlSnd {α β : Type} {a : Block} {f : β × Block → α → β × Block} (hf : ∀ r x, Keeps a r.2 → Keeps a (f r x).2) {l : List α} :
    ∀ {r : β × Block}, Keeps a r.2 → Keeps a (l.foldl f r).2 := by
  induction l with
  | nil => exact fun h => h
  | cons x l ih => exact fun h => ih (hf _ x h)

theorem Keeps.foldlThird {α β γ : Type} {a : Block} {f : β × γ × Block → α → β × γ × Block}
    (hf : ∀ r x, Keeps a r.2.2 → Keeps a (f r x).2.2) {l : List α} : ∀ {r : β × γ × Block}, Keeps a r.2.2 → Keeps a (l.foldl f r).2.2 := by
  induction l with
  | nil => exact fun h => h
  | cons x l ih => exact fun h => ih (hf _ x h)

end Sys2Proof.Machine
end

