-- ==== Sys2Proof/Laws/KeepsLinks.lean ====
section
/-!
SUPPORT. What the operations keep (Keeps), one lemma an operation: pages, keys, the Hold, crossings and Landings.
-/

set_option linter.unusedTactic false
set_option linter.unreachableTactic false

namespace Sys2Proof.Machine

/-! ### Flags -/

theorem keeps_emit {a : Block} {b : Block} (x1 : Output)
    (h : Keeps a b) : Keeps a (emit x1 b) := by
  delta emit
  repeat' first
    | (with_reducible assumption)
    | (intro)
    | (with_reducible first
        | refine Keeps.foldl ?_ ?_ | refine Keeps.ite ?_ ?_)
    | (fail_if_no_progress (with_reducible refine Keeps.upd ?_))
    | (fail_if_no_progress (with_reducible refine Keeps.updHold ?_ rfl))
    | split
    | (dsimp only)

theorem keeps_later {a : Block} {b : Block} (x1 : Work)
    (h : Keeps a b) : Keeps a (later x1 b) := by
  delta later
  repeat' first
    | (with_reducible assumption)
    | (intro)
    | (with_reducible first
        | refine Keeps.foldl ?_ ?_ | refine Keeps.ite ?_ ?_)
    | (fail_if_no_progress (with_reducible refine Keeps.upd ?_))
    | (fail_if_no_progress (with_reducible refine Keeps.updHold ?_ rfl))
    | split
    | (dsimp only)

theorem keeps_draw {a : Block} {b : Block}
    (h : Keeps a b) : Keeps a (draw b).2 := by
  delta draw
  repeat' first
    | (with_reducible assumption)
    | (intro)
    | (with_reducible first
        | refine Keeps.foldl ?_ ?_ | refine Keeps.ite ?_ ?_)
    | (fail_if_no_progress (with_reducible refine Keeps.upd ?_))
    | (fail_if_no_progress (with_reducible refine Keeps.updHold ?_ rfl))
    | split
    | (dsimp only)

theorem keeps_draw_eq {a : Block} {b : Block}  {v} {c : Block} (e : draw b = (v, c))
    (h : Keeps a b) : Keeps a c := by
  have := keeps_draw  h; rw [e] at this; exact this

theorem keeps_signalIrq {a : Block} {b : Block} (x1 : ℕ)
    (h : Keeps a b) : Keeps a (signalIrq x1 b) := by
  delta signalIrq
  repeat' first
    | (with_reducible assumption)
    | (intro)
    | (with_reducible first
        | apply keeps_emit | refine Keeps.foldl ?_ ?_ | refine Keeps.ite ?_ ?_)
    | (fail_if_no_progress (with_reducible refine Keeps.upd ?_))
    | (fail_if_no_progress (with_reducible refine Keeps.updHold ?_ rfl))
    | split
    | (dsimp only)

theorem keeps_setPage {a : Block} {b : Block} (x1 : ℕ) (x2 : Page)
    (h : Keeps a b) : Keeps a (setPage x1 x2 b) := by
  delta setPage
  repeat' first
    | (with_reducible assumption)
    | (intro)
    | (with_reducible first
        | apply keeps_signalIrq | refine Keeps.foldl ?_ ?_ | refine Keeps.ite ?_ ?_)
    | (fail_if_no_progress (with_reducible refine Keeps.upd ?_))
    | (fail_if_no_progress (with_reducible refine Keeps.updHold ?_ rfl))
    | split
    | (dsimp only)

theorem keeps_modPage {a : Block} {b : Block} (x1 : ℕ) (x2 : Page → Page)
    (h : Keeps a b) : Keeps a (modPage x1 x2 b) := by
  delta modPage
  repeat' first
    | (with_reducible assumption)
    | (intro)
    | (with_reducible first
        | apply keeps_setPage | refine Keeps.foldl ?_ ?_ | refine Keeps.ite ?_ ?_)
    | (fail_if_no_progress (with_reducible refine Keeps.upd ?_))
    | (fail_if_no_progress (with_reducible refine Keeps.updHold ?_ rfl))
    | split
    | (dsimp only)

theorem keeps_raise {a : Block} {b : Block} (x1 : ℕ) (x2 : ℕ)
    (h : Keeps a b) : Keeps a (raise x1 x2 b) := by
  delta raise
  repeat' first
    | (with_reducible assumption)
    | (intro)
    | (with_reducible first
        | apply keeps_modPage | refine Keeps.foldl ?_ ?_ | refine Keeps.ite ?_ ?_)
    | (fail_if_no_progress (with_reducible refine Keeps.upd ?_))
    | (fail_if_no_progress (with_reducible refine Keeps.updHold ?_ rfl))
    | split
    | (dsimp only)

theorem keeps_recordErr {a : Block} {b : Block} (x1 : ℕ) (x2 : Byte) (x3 : Option ℕ)
    (h : Keeps a b) : Keeps a (recordErr x1 x2 x3 b) := by
  delta recordErr
  repeat' first
    | (with_reducible assumption)
    | (intro)
    | (with_reducible first
        | apply keeps_modPage | refine Keeps.foldl ?_ ?_ | refine Keeps.ite ?_ ?_)
    | (fail_if_no_progress (with_reducible refine Keeps.upd ?_))
    | (fail_if_no_progress (with_reducible refine Keeps.updHold ?_ rfl))
    | split
    | (dsimp only)

/-! ### Operands -/

theorem keeps_setLatch {a : Block} {b : Block} (x1 : Master) (x2 : ℕ) (x3 : Word)
    (h : Keeps a b) : Keeps a (setLatch x1 x2 x3 b) := by
  delta setLatch
  repeat' first
    | (with_reducible assumption)
    | (intro)
    | (with_reducible first
        | refine Keeps.foldl ?_ ?_ | refine Keeps.ite ?_ ?_)
    | (fail_if_no_progress (with_reducible refine Keeps.upd ?_))
    | (fail_if_no_progress (with_reducible refine Keeps.updHold ?_ rfl))
    | split
    | (dsimp only)

/-! ### Ops -/

theorem keeps_setReg {a : Block} {b : Block} (x1 : ℕ) (x2 : Word)
    (h : Keeps a b) : Keeps a (setReg x1 x2 b) := by
  delta setReg
  repeat' first
    | (with_reducible assumption)
    | (intro)
    | (with_reducible first
        | refine Keeps.foldl ?_ ?_ | refine Keeps.ite ?_ ?_)
    | (fail_if_no_progress (with_reducible refine Keeps.upd ?_))
    | (fail_if_no_progress (with_reducible refine Keeps.updHold ?_ rfl))
    | split
    | (dsimp only)

theorem keeps_modBerth {a : Block} {b : Block} (x1 : ℕ) (x2 : Berth → Berth)
    (h : Keeps a b) : Keeps a (modBerth x1 x2 b) := by
  delta modBerth
  repeat' first
    | (with_reducible assumption)
    | (intro)
    | (with_reducible first
        | refine Keeps.foldl ?_ ?_ | refine Keeps.ite ?_ ?_)
    | (fail_if_no_progress (with_reducible refine Keeps.upd ?_))
    | (fail_if_no_progress (with_reducible refine Keeps.updHold ?_ rfl))
    | split
    | (dsimp only)

theorem keeps_modCtx {a : Block} {b : Block} (x1 : ℕ) (x2 : Ctx → Ctx)
    (h : Keeps a b) : Keeps a (modCtx x1 x2 b) := by
  delta modCtx
  repeat' first
    | (with_reducible assumption)
    | (intro)
    | (with_reducible first
        | refine Keeps.foldl ?_ ?_ | refine Keeps.ite ?_ ?_)
    | (fail_if_no_progress (with_reducible refine Keeps.upd ?_))
    | (fail_if_no_progress (with_reducible refine Keeps.updHold ?_ rfl))
    | split
    | (dsimp only)

theorem keeps_modKey {a : Block} {b : Block} (x1 : ℕ) (x2 : KeyEntry → KeyEntry)
    (h : Keeps a b) : Keeps a (modKey x1 x2 b) := by
  delta modKey
  repeat' first
    | (with_reducible assumption)
    | (intro)
    | (with_reducible first
        | refine Keeps.foldl ?_ ?_ | refine Keeps.ite ?_ ?_)
    | (fail_if_no_progress (with_reducible refine Keeps.upd ?_))
    | (fail_if_no_progress (with_reducible refine Keeps.updHold ?_ rfl))
    | split
    | (dsimp only)

theorem keeps_modFence {a : Block} {b : Block} (x1 : ℕ) (x2 : Fence → Fence)
    (h : Keeps a b) : Keeps a (modFence x1 x2 b) := by
  delta modFence
  repeat' first
    | (with_reducible assumption)
    | (intro)
    | (with_reducible first
        | refine Keeps.foldl ?_ ?_ | refine Keeps.ite ?_ ?_)
    | (fail_if_no_progress (with_reducible refine Keeps.upd ?_))
    | (fail_if_no_progress (with_reducible refine Keeps.updHold ?_ rfl))
    | split
    | (dsimp only)

theorem keeps_modObj {a : Block} {b : Block} (x1 : ℕ) (x2 : Obj → Obj)
    (h : Keeps a b) : Keeps a (modObj x1 x2 b) := by
  delta modObj
  repeat' first
    | (with_reducible assumption)
    | (intro)
    | (with_reducible first
        | refine Keeps.foldl ?_ ?_ | refine Keeps.ite ?_ ?_)
    | (fail_if_no_progress (with_reducible refine Keeps.upd ?_))
    | (fail_if_no_progress (with_reducible refine Keeps.updHold ?_ rfl))
    | split
    | (dsimp only)

theorem keeps_modLnd {a : Block} {b : Block} (x1 : ℕ) (x2 : Landing → Landing)
    (h : Keeps a b) : Keeps a (modLnd x1 x2 b) := by
  delta modLnd
  repeat' first
    | (with_reducible assumption)
    | (intro)
    | (with_reducible first
        | refine Keeps.foldl ?_ ?_ | refine Keeps.ite ?_ ?_)
    | (fail_if_no_progress (with_reducible refine Keeps.upd ?_))
    | (fail_if_no_progress (with_reducible refine Keeps.updHold ?_ rfl))
    | split
    | (dsimp only)

theorem keeps_modXing {a : Block} {b : Block} (x1 : ℕ) (x2 : ℕ) (x3 : Xing → Xing)
    (h : Keeps a b) : Keeps a (modXing x1 x2 x3 b) := by
  delta modXing
  repeat' first
    | (with_reducible assumption)
    | (intro)
    | (with_reducible first
        | refine Keeps.foldl ?_ ?_ | refine Keeps.ite ?_ ?_)
    | (fail_if_no_progress (with_reducible refine Keeps.upd ?_))
    | (fail_if_no_progress (with_reducible refine Keeps.updHold ?_ rfl))
    | split
    | (dsimp only)

theorem keeps_modAtt {a : Block} {b : Block} (x1 : ℕ) (x2 : Attach → Attach)
    (h : Keeps a b) : Keeps a (modAtt x1 x2 b) := by
  delta modAtt
  repeat' first
    | (with_reducible assumption)
    | (intro)
    | (with_reducible first
        | refine Keeps.foldl ?_ ?_ | refine Keeps.ite ?_ ?_)
    | (fail_if_no_progress (with_reducible refine Keeps.upd ?_))
    | (fail_if_no_progress (with_reducible refine Keeps.updHold ?_ rfl))
    | split
    | (dsimp only)

theorem keeps_modBar {a : Block} {b : Block} (x1 : ℕ) (x2 : Bar → Bar)
    (h : Keeps a b) : Keeps a (modBar x1 x2 b) := by
  delta modBar
  repeat' first
    | (with_reducible assumption)
    | (intro)
    | (with_reducible first
        | refine Keeps.foldl ?_ ?_ | refine Keeps.ite ?_ ?_)
    | (fail_if_no_progress (with_reducible refine Keeps.upd ?_))
    | (fail_if_no_progress (with_reducible refine Keeps.updHold ?_ rfl))
    | split
    | (dsimp only)

theorem keeps_modWire {a : Block} {b : Block} (x1 : ℕ) (x2 : Wire → Wire)
    (h : Keeps a b) : Keeps a (modWire x1 x2 b) := by
  delta modWire
  repeat' first
    | (with_reducible assumption)
    | (intro)
    | (with_reducible first
        | refine Keeps.foldl ?_ ?_ | refine Keeps.ite ?_ ?_)
    | (fail_if_no_progress (with_reducible refine Keeps.upd ?_))
    | (fail_if_no_progress (with_reducible refine Keeps.updHold ?_ rfl))
    | split
    | (dsimp only)

theorem keeps_modRgn {a : Block} {b : Block} (x1 : ℕ) (x2 : ARegion → ARegion)
    (h : Keeps a b) : Keeps a (modRgn x1 x2 b) := by
  delta modRgn
  repeat' first
    | (with_reducible assumption)
    | (intro)
    | (with_reducible first
        | refine Keeps.foldl ?_ ?_ | refine Keeps.ite ?_ ?_)
    | (fail_if_no_progress (with_reducible refine Keeps.upd ?_))
    | (fail_if_no_progress (with_reducible refine Keeps.updHold ?_ rfl))
    | split
    | (dsimp only)

theorem keeps_modPort {a : Block} {b : Block} (x1 : ℕ) (x2 : APort → APort)
    (h : Keeps a b) : Keeps a (modPort x1 x2 b) := by
  delta modPort
  repeat' first
    | (with_reducible assumption)
    | (intro)
    | (with_reducible first
        | refine Keeps.foldl ?_ ?_ | refine Keeps.ite ?_ ?_)
    | (fail_if_no_progress (with_reducible refine Keeps.upd ?_))
    | (fail_if_no_progress (with_reducible refine Keeps.updHold ?_ rfl))
    | split
    | (dsimp only)

theorem keeps_modSess {a : Block} {b : Block} (x1 : ℕ) (x2 : Sess → Sess)
    (h : Keeps a b) : Keeps a (modSess x1 x2 b) := by
  delta modSess
  repeat' first
    | (with_reducible assumption)
    | (intro)
    | (with_reducible first
        | refine Keeps.foldl ?_ ?_ | refine Keeps.ite ?_ ?_)
    | (fail_if_no_progress (with_reducible refine Keeps.upd ?_))
    | (fail_if_no_progress (with_reducible refine Keeps.updHold ?_ rfl))
    | split
    | (dsimp only)

theorem keeps_modCore {a : Block} {b : Block} (x1 : ℕ) (x2 : Core → Core)
    (h : Keeps a b) : Keeps a (modCore x1 x2 b) := by
  delta modCore
  repeat' first
    | (with_reducible assumption)
    | (intro)
    | (with_reducible first
        | refine Keeps.foldl ?_ ?_ | refine Keeps.ite ?_ ?_)
    | (fail_if_no_progress (with_reducible refine Keeps.upd ?_))
    | (fail_if_no_progress (with_reducible refine Keeps.updHold ?_ rfl))
    | split
    | (dsimp only)

theorem keeps_modSue {a : Block} {b : Block} (x1 : ℕ) (x2 : SueBerth → SueBerth)
    (h : Keeps a b) : Keeps a (modSue x1 x2 b) := by
  delta modSue
  repeat' first
    | (with_reducible assumption)
    | (intro)
    | (with_reducible first
        | refine Keeps.foldl ?_ ?_ | refine Keeps.ite ?_ ?_)
    | (fail_if_no_progress (with_reducible refine Keeps.upd ?_))
    | (fail_if_no_progress (with_reducible refine Keeps.updHold ?_ rfl))
    | split
    | (dsimp only)

theorem keeps_setBerthState {a : Block} {b : Block} (x1 : ℕ) (x2 : BerthState)
    (h : Keeps a b) : Keeps a (setBerthState x1 x2 b) := by
  delta setBerthState
  repeat' first
    | (with_reducible assumption)
    | (intro)
    | (with_reducible first
        | apply keeps_modBerth | apply keeps_raise | refine Keeps.foldl ?_ ?_ | refine Keeps.ite ?_ ?_)
    | (fail_if_no_progress (with_reducible refine Keeps.upd ?_))
    | (fail_if_no_progress (with_reducible refine Keeps.updHold ?_ rfl))
    | split
    | (dsimp only)

theorem keeps_berthLifecycle {a : Block} {b : Block} (x1 : ℕ)
    (h : Keeps a b) : Keeps a (berthLifecycle x1 b) := by
  delta berthLifecycle
  repeat' first
    | (with_reducible assumption)
    | (intro)
    | (with_reducible first
        | apply keeps_recordErr | refine Keeps.foldl ?_ ?_ | refine Keeps.ite ?_ ?_)
    | (fail_if_no_progress (with_reducible refine Keeps.upd ?_))
    | (fail_if_no_progress (with_reducible refine Keeps.updHold ?_ rfl))
    | split
    | (dsimp only)

theorem keeps_eccLog {a : Block} {b : Block} (x1 : ℕ) (x2 : Bool) (x3 : Bool) (x4 : Option ℕ) (x5 : ℕ) (x6 : ℕ) (x7 : ℕ)
    (h : Keeps a b) : Keeps a (eccLog x1 x2 x3 x4 x5 x6 x7 b) := by
  delta eccLog
  repeat' first
    | (with_reducible assumption)
    | (intro)
    | (with_reducible first
        | apply keeps_raise | refine Keeps.foldl ?_ ?_ | refine Keeps.ite ?_ ?_)
    | (fail_if_no_progress (with_reducible refine Keeps.upd ?_))
    | (fail_if_no_progress (with_reducible refine Keeps.updHold ?_ rfl))
    | split
    | (dsimp only)

theorem keeps_record {a : Block} {b : Block} (x1 : Rec)
    (h : Keeps a b) : Keeps a (record x1 b) := by
  delta record
  repeat' first
    | (with_reducible assumption)
    | (intro)
    | (with_reducible first
        | apply keeps_raise | refine Keeps.foldl ?_ ?_ | refine Keeps.ite ?_ ?_)
    | (fail_if_no_progress (with_reducible refine Keeps.upd ?_))
    | (fail_if_no_progress (with_reducible refine Keeps.updHold ?_ rfl))
    | split
    | (dsimp only)

theorem keeps_fresh {a : Block} {b : Block}
    (h : Keeps a b) : Keeps a (fresh b) := by
  delta fresh
  repeat' first
    | (with_reducible assumption)
    | (intro)
    | (with_reducible first
        | refine Keeps.foldl ?_ ?_ | refine Keeps.ite ?_ ?_)
    | (fail_if_no_progress (with_reducible refine Keeps.upd ?_))
    | (fail_if_no_progress (with_reducible refine Keeps.updHold ?_ rfl))
    | split
    | (dsimp only)

theorem keeps_guarded {a : Block} {b : Block} (x1 : Master) (x2 : ℕ) (x3 : ℕ) (x4 : Bool) (f5 : Block → Block)
    (hf5 : ∀ b, Keeps a b → Keeps a (f5 b)) (h : Keeps a b) : Keeps a (guarded x1 x2 x3 x4 f5 b) := by
  delta guarded
  repeat' first
    | (with_reducible assumption)
    | (intro)
    | (with_reducible first
        | apply hf5 | apply keeps_emit | apply keeps_fresh | apply keeps_recordErr | refine Keeps.foldl ?_ ?_ | refine Keeps.ite ?_ ?_)
    | (fail_if_no_progress (with_reducible refine Keeps.upd ?_))
    | (fail_if_no_progress (with_reducible refine Keeps.updHold ?_ rfl))
    | split
    | (dsimp only)

theorem keeps_onGo {a : Block} {b : Block} (x1 : Word) (f2 : Block → Block)
    (hf2 : ∀ b, Keeps a b → Keeps a (f2 b)) (h : Keeps a b) : Keeps a (onGo x1 f2 b) := by
  delta onGo
  repeat' first
    | (with_reducible assumption)
    | (intro)
    | (with_reducible first
        | apply hf2 | refine Keeps.foldl ?_ ?_ | refine Keeps.ite ?_ ?_)
    | (fail_if_no_progress (with_reducible refine Keeps.upd ?_))
    | (fail_if_no_progress (with_reducible refine Keeps.updHold ?_ rfl))
    | split
    | (dsimp only)

/-! ### Keys -/

theorem keeps_cipherRefused {a : Block} {b : Block} (x1 : ℕ)
    (h : Keeps a b) : Keeps a (cipherRefused x1 b) := by
  delta cipherRefused
  repeat' first
    | (with_reducible assumption)
    | (intro)
    | (with_reducible first
        | apply keeps_recordErr | refine Keeps.foldl ?_ ?_ | refine Keeps.ite ?_ ?_)
    | (fail_if_no_progress (with_reducible refine Keeps.upd ?_))
    | (fail_if_no_progress (with_reducible refine Keeps.updHold ?_ rfl))
    | split
    | (dsimp only)

theorem keeps_fillEngine {a : Block} {b : Block}
    (h : Keeps a b) : Keeps a (fillEngine b) := by
  delta fillEngine
  repeat' first
    | (with_reducible assumption)
    | (intro)
    | (with_reducible first
        | refine Keeps.foldl ?_ ?_ | refine Keeps.ite ?_ ?_)
    | (fail_if_no_progress (with_reducible refine Keeps.upd ?_))
    | (fail_if_no_progress (with_reducible refine Keeps.updHold ?_ rfl))
    | split
    | (dsimp only)

theorem keeps_leaveEngine {a : Block} {b : Block} (x1 : ℕ)
    (h : Keeps a b) : Keeps a (leaveEngine x1 b) := by
  delta leaveEngine
  repeat' first
    | (with_reducible assumption)
    | (intro)
    | (with_reducible first
        | refine Keeps.foldl ?_ ?_ | refine Keeps.ite ?_ ?_)
    | (fail_if_no_progress (with_reducible refine Keeps.upd ?_))
    | (fail_if_no_progress (with_reducible refine Keeps.updHold ?_ rfl))
    | split
    | (dsimp only)

theorem keeps_startChildren {a : Block} {b : Block} (x1 : ℕ)
    (h : Keeps a b) : Keeps a (startChildren x1 b) := by
  delta startChildren
  repeat' first
    | (with_reducible assumption)
    | (intro)
    | (with_reducible first
        | apply keeps_fillEngine | apply keeps_modKey | refine Keeps.foldl ?_ ?_ | refine Keeps.ite ?_ ?_)
    | (fail_if_no_progress (with_reducible refine Keeps.upd ?_))
    | (fail_if_no_progress (with_reducible refine Keeps.updHold ?_ rfl))
    | split
    | (dsimp only)

theorem keeps_makeLive {a : Block} {b : Block} (x1 : ℕ) (x2 : BitVec 256)
    (h : Keeps a b) : Keeps a (makeLive x1 x2 b) := by
  delta makeLive
  repeat' first
    | (with_reducible assumption)
    | (intro)
    | (with_reducible first
        | apply keeps_later | apply keeps_modKey | apply keeps_startChildren | refine Keeps.foldl ?_ ?_ | refine Keeps.ite ?_ ?_)
    | (fail_if_no_progress (with_reducible refine Keeps.upd ?_))
    | (fail_if_no_progress (with_reducible refine Keeps.updHold ?_ rfl))
    | split
    | (dsimp only)

theorem keeps_activate {a : Block} {b : Block} (x1 : ℕ) (x2 : ℕ) (x3 : ℕ) (x4 : Option ℕ) (x5 : Bytes) (x6 : KeyParent)
    (h : Keeps a b) : Keeps a (activate x1 x2 x3 x4 x5 x6 b) := by
  delta activate
  repeat' first
    | (with_reducible assumption)
    | (intro)
    | (with_reducible first
        | apply keeps_fillEngine | apply keeps_modKey | refine Keeps.foldl ?_ ?_ | refine Keeps.ite ?_ ?_)
    | (fail_if_no_progress (with_reducible refine Keeps.upd ?_))
    | (fail_if_no_progress (with_reducible refine Keeps.updHold ?_ rfl))
    | split
    | (dsimp only)

theorem keeps_retireKey {a : Block} {b : Block} (x1 : ℕ)
    (h : Keeps a b) : Keeps a (retireKey x1 b) := by
  delta retireKey
  repeat' first
    | (with_reducible assumption)
    | (intro)
    | (with_reducible first
        | apply keeps_fillEngine | apply keeps_later | apply keeps_leaveEngine | apply keeps_modKey | refine Keeps.foldl ?_ ?_
        | refine Keeps.ite ?_ ?_)
    | (fail_if_no_progress (with_reducible refine Keeps.upd ?_))
    | (fail_if_no_progress (with_reducible refine Keeps.updHold ?_ rfl))
    | split
    | (dsimp only)

theorem keeps_activateLabel {a : Block} {b : Block} (x1 : Tide) (x2 : ℕ) (x3 : Label)
    (h : Keeps a b) : Keeps a (activateLabel x1 x2 x3 b) := by
  delta activateLabel
  repeat' first
    | (with_reducible assumption)
    | (intro)
    | (with_reducible first
        | apply keeps_activate | refine Keeps.foldl ?_ ?_ | refine Keeps.ite ?_ ?_)
    | (fail_if_no_progress (with_reducible refine Keeps.upd ?_))
    | (fail_if_no_progress (with_reducible refine Keeps.updHold ?_ rfl))
    | split
    | (dsimp only)

theorem keeps_deriveFirst {a : Block} {b : Block} (x1 : ℕ)
    (h : Keeps a b) : Keeps a (deriveFirst x1 b) := by
  delta deriveFirst
  repeat' first
    | (with_reducible assumption)
    | (intro)
    | (with_reducible first
        | apply keeps_activateLabel | refine Keeps.foldl ?_ ?_ | refine Keeps.ite ?_ ?_)
    | (fail_if_no_progress (with_reducible refine Keeps.upd ?_))
    | (fail_if_no_progress (with_reducible refine Keeps.updHold ?_ rfl))
    | split
    | (dsimp only)

theorem keeps_retireBerth {a : Block} {b : Block} (x1 : ℕ)
    (h : Keeps a b) : Keeps a (retireBerth x1 b) := by
  delta retireBerth
  repeat' first
    | (with_reducible assumption)
    | (intro)
    | (with_reducible first
        | apply keeps_retireKey | refine Keeps.foldl ?_ ?_ | refine Keeps.ite ?_ ?_)
    | (fail_if_no_progress (with_reducible refine Keeps.upd ?_))
    | (fail_if_no_progress (with_reducible refine Keeps.updHold ?_ rfl))
    | split
    | (dsimp only)

theorem keeps_keyRangeCmd {a : Block} {b : Block} (x1 : Master) (x2 : Word)
    (h : Keeps a b) : Keeps a (keyRangeCmd x1 x2 b) := by
  delta keyRangeCmd
  repeat' first
    | (with_reducible assumption)
    | (intro)
    | (with_reducible first
        | apply keeps_recordErr | refine Keeps.foldl ?_ ?_ | refine Keeps.ite ?_ ?_)
    | (fail_if_no_progress (with_reducible refine Keeps.upd ?_))
    | (fail_if_no_progress (with_reducible refine Keeps.updHold ?_ rfl))
    | split
    | (dsimp only)

theorem keeps_keyRangeDone {a : Block} {b : Block}
    (h : Keeps a b) : Keeps a (keyRangeDone b) := by
  delta keyRangeDone
  repeat' first
    | (with_reducible assumption)
    | (intro)
    | (with_reducible first
        | apply keeps_modKey | apply keeps_raise | refine Keeps.foldl ?_ ?_ | refine Keeps.ite ?_ ?_)
    | (fail_if_no_progress (with_reducible refine Keeps.upd ?_))
    | (fail_if_no_progress (with_reducible refine Keeps.updHold ?_ rfl))
    | split
    | (dsimp only)

theorem keeps_derivationDone {a : Block} {b : Block} (x1 : ℕ)
    (h : Keeps a b) : Keeps a (derivationDone x1 b) := by
  delta derivationDone
  repeat' first
    | (with_reducible assumption)
    | (intro)
    | (with_reducible first
        | apply keeps_fillEngine | apply keeps_leaveEngine | apply keeps_makeLive | refine Keeps.foldl ?_ ?_ | refine Keeps.ite ?_ ?_)
    | (fail_if_no_progress (with_reducible refine Keeps.upd ?_))
    | (fail_if_no_progress (with_reducible refine Keeps.updHold ?_ rfl))
    | split
    | (dsimp only)

theorem keeps_retireDone {a : Block} {b : Block} (x1 : ℕ)
    (h : Keeps a b) : Keeps a (retireDone x1 b) := by
  delta retireDone
  repeat' first
    | (with_reducible assumption)
    | (intro)
    | (with_reducible first
        | apply keeps_later | apply keeps_modKey | refine Keeps.foldl ?_ ?_ | refine Keeps.ite ?_ ?_)
    | (fail_if_no_progress (with_reducible refine Keeps.upd ?_))
    | (fail_if_no_progress (with_reducible refine Keeps.updHold ?_ rfl))
    | split
    | (dsimp only)

theorem keeps_slotKeys {a : Block} {b : Block} (x1 : ℕ) (x2 : ℕ) (x3 : Tide)
    (h : Keeps a b) : Keeps a (slotKeys x1 x2 x3 b) := by
  delta slotKeys
  repeat' first
    | (with_reducible assumption)
    | (intro)
    | (with_reducible first
        | apply keeps_activateLabel | apply keeps_raise | apply keeps_retireKey | refine Keeps.foldl ?_ ?_ | refine Keeps.ite ?_ ?_)
    | (fail_if_no_progress (with_reducible refine Keeps.upd ?_))
    | (fail_if_no_progress (with_reducible refine Keeps.updHold ?_ rfl))
    | split
    | (dsimp only)

theorem keeps_seedBerth {a : Block} {b : Block} (x1 : ℕ)
    (h : Keeps a b) : Keeps a (seedBerth x1 b) := by
  delta seedBerth
  repeat' first
    | (with_reducible assumption)
    | (intro)
    | (with_reducible first
        | apply keeps_activate | apply keeps_draw | refine keeps_draw_eq (by with_reducible assumption) ?_ | refine Keeps.foldl ?_ ?_
        | refine Keeps.ite ?_ ?_)
    | (fail_if_no_progress (with_reducible refine Keeps.upd ?_))
    | (fail_if_no_progress (with_reducible refine Keeps.updHold ?_ rfl))
    | split
    | (dsimp only)

/-! ### Hold -/

theorem keeps_modHold {a : Block} {b : Block} {f : Hold → Hold} (e : ∀ h, (f h).mem = h.mem) (h : Keeps a b) : Keeps a (modHold f b) :=
  Keeps.updHold h (e b.hold)

theorem keeps_modTag {a : Block} {b : Block} (x1 : ℕ) (x2 : LineTag → LineTag)
    (h : Keeps a b) : Keeps a (modTag x1 x2 b) := by
  delta modTag
  repeat' first
    | (with_reducible assumption)
    | (intro)
    | (with_reducible first
        | refine keeps_modHold (fun _ => rfl) ?_ | refine Keeps.foldl ?_ ?_ | refine Keeps.ite ?_ ?_)
    | (fail_if_no_progress (with_reducible refine Keeps.upd ?_))
    | (fail_if_no_progress (with_reducible refine Keeps.updHold ?_ rfl))
    | split
    | (dsimp only)

/-- A change of the Hold that keeps its bytes canonical. -/
theorem keeps_modHold_mem {a : Block} {b : Block} {f : Hold → Hold} (e : ∀ h : Hold, Memory.wf h.mem = true → Memory.wf (f h).mem = true)
    (h : Keeps a b) : Keeps a (modHold f b) :=
  h.trans ⟨fun m => e b.hold m, fun _ => BitVec.or_self⟩

theorem keeps_putLine {a : Block} {b : Block} (x1 : ℕ) (x2 : Bytes) (h : Keeps a b) : Keeps a (putLine x1 x2 b) :=
  keeps_modHold_mem (fun _ m => tcanon_tsets _ _ m) h

theorem keeps_zeroLine {a : Block} {b : Block} (x1 : ℕ)
    (h : Keeps a b) : Keeps a (zeroLine x1 b) := by
  delta zeroLine
  repeat' first
    | (with_reducible assumption)
    | (intro)
    | (with_reducible first
        | apply keeps_putLine | refine Keeps.foldl ?_ ?_ | refine Keeps.ite ?_ ?_)
    | (fail_if_no_progress (with_reducible refine Keeps.upd ?_))
    | (fail_if_no_progress (with_reducible refine Keeps.updHold ?_ rfl))
    | split
    | (dsimp only)

theorem keeps_setLineState {a : Block} {b : Block} (x1 : ℕ) (x2 : LineState)
    (h : Keeps a b) : Keeps a (setLineState x1 x2 b) := by
  delta setLineState
  repeat' first
    | (with_reducible assumption)
    | (intro)
    | (with_reducible first
        | apply keeps_modTag | refine Keeps.foldl ?_ ?_ | refine Keeps.ite ?_ ?_)
    | (fail_if_no_progress (with_reducible refine Keeps.upd ?_))
    | (fail_if_no_progress (with_reducible refine Keeps.updHold ?_ rfl))
    | split
    | (dsimp only)

theorem keeps_setBank {a : Block} {b : Block} (x1 : ℕ) (x2 : BankState)
    (h : Keeps a b) : Keeps a (setBank x1 x2 b) := by
  delta setBank
  repeat' first
    | (with_reducible assumption)
    | (intro)
    | (with_reducible first
        | refine keeps_modHold (fun _ => rfl) ?_ | refine Keeps.foldl ?_ ?_ | refine Keeps.ite ?_ ?_)
    | (fail_if_no_progress (with_reducible refine Keeps.upd ?_))
    | (fail_if_no_progress (with_reducible refine Keeps.updHold ?_ rfl))
    | split
    | (dsimp only)

theorem keeps_wakeReads {a : Block} {b : Block} (x1 : ℕ → Bool)
    (h : Keeps a b) : Keeps a (wakeReads x1 b) := by
  delta wakeReads
  repeat' first
    | (with_reducible assumption)
    | (intro)
    | (with_reducible first
        | refine keeps_modHold (fun _ => rfl) ?_ | refine Keeps.foldl ?_ ?_ | refine Keeps.ite ?_ ?_)
    | (fail_if_no_progress (with_reducible refine Keeps.upd ?_))
    | (fail_if_no_progress (with_reducible refine Keeps.updHold ?_ rfl))
    | split
    | (dsimp only)

theorem keeps_ingressWrite {a : Block} {b : Block} (x1 : ℕ) (x2 : ℕ) (x3 : List (ℕ × Bytes))
    (h : Keeps a b) : Keeps a (ingressWrite x1 x2 x3 b) := by
  delta ingressWrite
  repeat' first
    | (with_reducible assumption)
    | (intro)
    | (with_reducible first
        | apply keeps_modTag | apply keeps_putLine | refine Keeps.foldl ?_ ?_ | refine Keeps.ite ?_ ?_)
    | (fail_if_no_progress (with_reducible refine Keeps.upd ?_))
    | (fail_if_no_progress (with_reducible refine Keeps.updHold ?_ rfl))
    | split
    | (dsimp only)

theorem keeps_releaseLines {a : Block} {b : Block} (x1 : List ℕ)
    (h : Keeps a b) : Keeps a (releaseLines x1 b) := by
  delta releaseLines
  repeat' first
    | (with_reducible assumption)
    | (intro)
    | (with_reducible first
        | apply keeps_setLineState | apply keeps_wakeReads | refine Keeps.foldl ?_ ?_ | refine Keeps.ite ?_ ?_)
    | (fail_if_no_progress (with_reducible refine Keeps.upd ?_))
    | (fail_if_no_progress (with_reducible refine Keeps.updHold ?_ rfl))
    | split
    | (dsimp only)

theorem keeps_spoilLines {a : Block} {b : Block} (x1 : List ℕ)
    (h : Keeps a b) : Keeps a (spoilLines x1 b) := by
  delta spoilLines
  repeat' first
    | (with_reducible assumption)
    | (intro)
    | (with_reducible first
        | apply keeps_setLineState | apply keeps_zeroLine | refine Keeps.foldl ?_ ?_ | refine Keeps.ite ?_ ?_)
    | (fail_if_no_progress (with_reducible refine Keeps.upd ?_))
    | (fail_if_no_progress (with_reducible refine Keeps.updHold ?_ rfl))
    | split
    | (dsimp only)

theorem keeps_poisonLine {a : Block} {b : Block} (x1 : ℕ)
    (h : Keeps a b) : Keeps a (poisonLine x1 b) := by
  delta poisonLine
  repeat' first
    | (with_reducible assumption)
    | (intro)
    | (with_reducible first
        | apply keeps_setLineState | apply keeps_wakeReads | apply keeps_zeroLine | refine Keeps.foldl ?_ ?_ | refine Keeps.ite ?_ ?_)
    | (fail_if_no_progress (with_reducible refine Keeps.upd ?_))
    | (fail_if_no_progress (with_reducible refine Keeps.updHold ?_ rfl))
    | split
    | (dsimp only)

theorem keeps_poisonXing {a : Block} {b : Block} (x1 : ℕ) (x2 : ℕ)
    (h : Keeps a b) : Keeps a (poisonXing x1 x2 b) := by
  delta poisonXing
  repeat' first
    | (with_reducible assumption)
    | (intro)
    | (with_reducible first
        | apply keeps_poisonLine | refine Keeps.foldl ?_ ?_ | refine Keeps.ite ?_ ?_)
    | (fail_if_no_progress (with_reducible refine Keeps.upd ?_))
    | (fail_if_no_progress (with_reducible refine Keeps.updHold ?_ rfl))
    | split
    | (dsimp only)

theorem keeps_addWait {a : Block} {b : Block} (x1 : ℕ) (x2 : OpRef)
    (h : Keeps a b) : Keeps a (addWait x1 x2 b) := by
  delta addWait
  repeat' first
    | (with_reducible assumption)
    | (intro)
    | (with_reducible first
        | refine keeps_modHold (fun _ => rfl) ?_ | refine Keeps.foldl ?_ ?_ | refine Keeps.ite ?_ ?_)
    | (fail_if_no_progress (with_reducible refine Keeps.upd ?_))
    | (fail_if_no_progress (with_reducible refine Keeps.updHold ?_ rfl))
    | split
    | (dsimp only)

theorem keeps_producerWrite {a : Block} {b : Block} (x1 : List (ℕ × Bytes))
    (h : Keeps a b) : Keeps a (producerWrite x1 b) := by
  delta producerWrite
  repeat' first
    | (with_reducible assumption)
    | (intro)
    | (with_reducible first
        | apply keeps_modTag | apply keeps_putLine | apply keeps_wakeReads | refine Keeps.foldl ?_ ?_ | refine Keeps.ite ?_ ?_)
    | (fail_if_no_progress (with_reducible refine Keeps.upd ?_))
    | (fail_if_no_progress (with_reducible refine Keeps.updHold ?_ rfl))
    | split
    | (dsimp only)

theorem keeps_addUpset {a : Block} {b : Block} (x1 : Upset)
    (h : Keeps a b) : Keeps a (addUpset x1 b) := by
  delta addUpset
  repeat' first
    | (with_reducible assumption)
    | (intro)
    | (with_reducible first
        | refine keeps_modHold (fun _ => rfl) ?_ | refine Keeps.foldl ?_ ?_ | refine Keeps.ite ?_ ?_)
    | (fail_if_no_progress (with_reducible refine Keeps.upd ?_))
    | (fail_if_no_progress (with_reducible refine Keeps.updHold ?_ rfl))
    | split
    | (dsimp only)

theorem keeps_addUpsets {a : Block} {b : Block} (x1 : List Upset)
    (h : Keeps a b) : Keeps a (addUpsets x1 b) := by
  delta addUpsets
  repeat' first
    | (with_reducible assumption)
    | (intro)
    | (with_reducible first
        | apply keeps_addUpset | refine Keeps.foldl ?_ ?_ | refine Keeps.ite ?_ ?_)
    | (fail_if_no_progress (with_reducible refine Keeps.upd ?_))
    | (fail_if_no_progress (with_reducible refine Keeps.updHold ?_ rfl))
    | split
    | (dsimp only)

theorem keeps_pinLines {a : Block} {b : Block} (x1 : List ℕ)
    (h : Keeps a b) : Keeps a (pinLines x1 b) := by
  delta pinLines
  repeat' first
    | (with_reducible assumption)
    | (intro)
    | (with_reducible first
        | apply keeps_modTag | refine Keeps.foldl ?_ ?_ | refine Keeps.ite ?_ ?_)
    | (fail_if_no_progress (with_reducible refine Keeps.upd ?_))
    | (fail_if_no_progress (with_reducible refine Keeps.updHold ?_ rfl))
    | split
    | (dsimp only)

theorem keeps_unpinLines {a : Block} {b : Block} (x1 : List ℕ)
    (h : Keeps a b) : Keeps a (unpinLines x1 b) := by
  delta unpinLines
  repeat' first
    | (with_reducible assumption)
    | (intro)
    | (with_reducible first
        | apply keeps_modTag | refine Keeps.foldl ?_ ?_ | refine Keeps.ite ?_ ?_)
    | (fail_if_no_progress (with_reducible refine Keeps.upd ?_))
    | (fail_if_no_progress (with_reducible refine Keeps.updHold ?_ rfl))
    | split
    | (dsimp only)

theorem keeps_emptyLine {a : Block} {b : Block} (x1 : ℕ)
    (h : Keeps a b) : Keeps a (emptyLine x1 b) := by
  delta emptyLine
  repeat' first
    | (with_reducible assumption)
    | (intro)
    | (with_reducible first
        | apply keeps_modTag | apply keeps_zeroLine | refine Keeps.foldl ?_ ?_ | refine Keeps.ite ?_ ?_)
    | (fail_if_no_progress (with_reducible refine Keeps.upd ?_))
    | (fail_if_no_progress (with_reducible refine Keeps.updHold ?_ rfl))
    | split
    | (dsimp only)

theorem keeps_recycle {a : Block} {b : Block} (x1 : List ℕ) (x2 : Option Deferred) (x3 : OpRef)
    (h : Keeps a b) : Keeps a (recycle x1 x2 x3 b).2 := by
  delta recycle
  repeat' first
    | (with_reducible assumption)
    | (intro)
    | (with_reducible first
        | apply keeps_emptyLine | refine keeps_modHold (fun _ => rfl) ?_ | refine Keeps.foldl ?_ ?_ | refine Keeps.ite ?_ ?_)
    | (fail_if_no_progress (with_reducible refine Keeps.upd ?_))
    | (fail_if_no_progress (with_reducible refine Keeps.updHold ?_ rfl))
    | split
    | (dsimp only)

theorem keeps_recycle_eq {a : Block} {b : Block} {x1 : List ℕ} {x2 : Option Deferred} {x3 : OpRef} {v} {c : Block} (e : recycle x1 x2 x3 b = (v, c))
    (h : Keeps a b) : Keeps a c := by
  have := keeps_recycle x1 x2 x3 h; rw [e] at this; exact this

theorem keeps_endRange {a : Block} {b : Block} (x1 : Byte)
    (h : Keeps a b) : Keeps a (endRange x1 b) := by
  delta endRange
  repeat' first
    | (with_reducible assumption)
    | (intro)
    | (with_reducible first
        | refine keeps_modHold (fun _ => rfl) ?_ | apply keeps_raise | refine Keeps.foldl ?_ ?_ | refine Keeps.ite ?_ ?_)
    | (fail_if_no_progress (with_reducible refine Keeps.upd ?_))
    | (fail_if_no_progress (with_reducible refine Keeps.updHold ?_ rfl))
    | split
    | (dsimp only)

theorem keeps_holdRangeCmd {a : Block} {b : Block} (x1 : Master) (x2 : Word)
    (h : Keeps a b) : Keeps a (holdRangeCmd x1 x2 b) := by
  delta holdRangeCmd
  repeat' first
    | (with_reducible assumption)
    | (intro)
    | (with_reducible first
        | apply keeps_endRange | refine keeps_modHold (fun _ => rfl) ?_ | apply keeps_recordErr | apply keeps_setBank
        | refine Keeps.foldl ?_ ?_ | refine Keeps.ite ?_ ?_)
    | (fail_if_no_progress (with_reducible refine Keeps.upd ?_))
    | (fail_if_no_progress (with_reducible refine Keeps.updHold ?_ rfl))
    | split
    | (dsimp only)

theorem keeps_clearBanks {a : Block} {b : Block} (x1 : List ℕ) (h : Keeps a b) : Keeps a (clearBanks x1 b) :=
  keeps_wakeReads _ (keeps_modHold_mem (fun _ m => tcanon_filter _ m) h)

theorem keeps_faultBank {a : Block} {b : Block} (x1 : ℕ)
    (h : Keeps a b) : Keeps a (faultBank x1 b) := by
  delta faultBank
  repeat' first
    | (with_reducible assumption)
    | (intro)
    | (with_reducible first
        | apply keeps_eccLog | apply keeps_raise | apply keeps_setBank | refine Keeps.foldl ?_ ?_ | refine Keeps.ite ?_ ?_)
    | (fail_if_no_progress (with_reducible refine Keeps.upd ?_))
    | (fail_if_no_progress (with_reducible refine Keeps.updHold ?_ rfl))
    | split
    | (dsimp only)

theorem keeps_rangeSetDone {a : Block} {b : Block} (x1 : List ℕ) (x2 : List ℕ)
    (h : Keeps a b) : Keeps a (rangeSetDone x1 x2 b) := by
  delta rangeSetDone
  repeat' first
    | (with_reducible assumption)
    | (intro)
    | (with_reducible first
        | apply keeps_endRange | refine keeps_modHold (fun _ => rfl) ?_ | apply keeps_setBank | refine Keeps.foldl ?_ ?_
        | refine Keeps.ite ?_ ?_)
    | (fail_if_no_progress (with_reducible refine Keeps.upd ?_))
    | (fail_if_no_progress (with_reducible refine Keeps.updHold ?_ rfl))
    | split
    | (dsimp only)

theorem keeps_bankSetDone {a : Block} {b : Block} (x1 : List ℕ)
    (h : Keeps a b) : Keeps a (bankSetDone x1 b).1 := by
  delta bankSetDone
  repeat' first
    | (with_reducible assumption)
    | (intro)
    | (with_reducible first
        | apply keeps_clearBanks | apply keeps_faultBank | refine keeps_modHold (fun _ => rfl) ?_ | apply keeps_raise
        | apply keeps_rangeSetDone | refine Keeps.foldl ?_ ?_ | refine Keeps.ite ?_ ?_)
    | (fail_if_no_progress (with_reducible refine Keeps.upd ?_))
    | (fail_if_no_progress (with_reducible refine Keeps.updHold ?_ rfl))
    | split
    | (dsimp only)

theorem keeps_bankSetDone_eq {a : Block} {b : Block} {x1 : List ℕ} {v} {c : Block} (e : bankSetDone x1 b = (c, v))
    (h : Keeps a b) : Keeps a c := by
  have := keeps_bankSetDone x1 h; rw [e] at this; exact this

theorem keeps_queueScrub {a : Block} {b : Block} (x1 : ℕ)
    (h : Keeps a b) : Keeps a (queueScrub x1 b) := by
  delta queueScrub
  repeat' first
    | (with_reducible assumption)
    | (intro)
    | (with_reducible first
        | refine keeps_modHold (fun _ => rfl) ?_ | refine Keeps.foldl ?_ ?_ | refine Keeps.ite ?_ ?_)
    | (fail_if_no_progress (with_reducible refine Keeps.upd ?_))
    | (fail_if_no_progress (with_reducible refine Keeps.updHold ?_ rfl))
    | split
    | (dsimp only)

theorem keeps_freeRange {a : Block} {b : Block} (x1 : ℕ)
    (h : Keeps a b) : Keeps a (freeRange x1 b) := by
  delta freeRange
  repeat' first
    | (with_reducible assumption)
    | (intro)
    | (with_reducible first
        | refine keeps_modHold (fun _ => rfl) ?_ | apply keeps_setBank | refine Keeps.foldl ?_ ?_ | refine Keeps.ite ?_ ?_)
    | (fail_if_no_progress (with_reducible refine Keeps.upd ?_))
    | (fail_if_no_progress (with_reducible refine Keeps.updHold ?_ rfl))
    | split
    | (dsimp only)

/-! ### Observe -/

theorem keeps_traceAt {a : Block} {b : Block} (x1 : ℕ) (x2 : ℕ) (x3 : TraceRec)
    (h : Keeps a b) : Keeps a (traceAt x1 x2 x3 b) := by
  delta traceAt
  repeat' first
    | (with_reducible assumption)
    | (intro)
    | (with_reducible first
        | apply keeps_raise | refine Keeps.foldl ?_ ?_ | refine Keeps.ite ?_ ?_)
    | (fail_if_no_progress (with_reducible refine Keeps.upd ?_))
    | (fail_if_no_progress (with_reducible refine Keeps.updHold ?_ rfl))
    | split
    | (dsimp only)

theorem keeps_modDbg {a : Block} {b : Block} (x1 : Dbg → Dbg)
    (h : Keeps a b) : Keeps a (modDbg x1 b) := by
  delta modDbg
  repeat' first
    | (with_reducible assumption)
    | (intro)
    | (with_reducible first
        | refine Keeps.foldl ?_ ?_ | refine Keeps.ite ?_ ?_)
    | (fail_if_no_progress (with_reducible refine Keeps.upd ?_))
    | (fail_if_no_progress (with_reducible refine Keeps.updHold ?_ rfl))
    | split
    | (dsimp only)

theorem keeps_windowEnd {a : Block} {b : Block} (x1 : Option ℕ)
    (h : Keeps a b) : Keeps a (windowEnd x1 b) := by
  delta windowEnd
  repeat' first
    | (with_reducible assumption)
    | (intro)
    | (with_reducible first
        | apply keeps_modDbg | apply keeps_raise | apply keeps_traceAt | refine Keeps.foldl ?_ ?_ | refine Keeps.ite ?_ ?_)
    | (fail_if_no_progress (with_reducible refine Keeps.upd ?_))
    | (fail_if_no_progress (with_reducible refine Keeps.updHold ?_ rfl))
    | split
    | (dsimp only)

theorem keeps_closeWindows {a : Block} {b : Block} (x1 : Option ℕ)
    (h : Keeps a b) : Keeps a (closeWindows x1 b) := by
  delta closeWindows
  repeat' first
    | (with_reducible assumption)
    | (intro)
    | (with_reducible first
        | apply keeps_windowEnd | refine Keeps.foldl ?_ ?_ | refine Keeps.ite ?_ ?_)
    | (fail_if_no_progress (with_reducible refine Keeps.upd ?_))
    | (fail_if_no_progress (with_reducible refine Keeps.updHold ?_ rfl))
    | split
    | (dsimp only)

theorem keeps_trace {a : Block} {b : Block} (x1 : ℕ) (x2 : TraceRec)
    (h : Keeps a b) : Keeps a (trace x1 x2 b) := by
  delta trace
  repeat' first
    | (with_reducible assumption)
    | (intro)
    | (with_reducible first
        | apply keeps_closeWindows | apply keeps_traceAt | refine Keeps.foldl ?_ ?_ | refine Keeps.ite ?_ ?_)
    | (fail_if_no_progress (with_reducible refine Keeps.upd ?_))
    | (fail_if_no_progress (with_reducible refine Keeps.updHold ?_ rfl))
    | split
    | (dsimp only)

theorem keeps_count {a : Block} {b : Block} (x1 : ℕ) (x2 : Option ℕ) (x3 : ℕ)
    (h : Keeps a b) : Keeps a (count x1 x2 x3 b) := by
  delta count
  repeat' first
    | (with_reducible assumption)
    | (intro)
    | (with_reducible first
        | apply keeps_closeWindows | refine Keeps.foldl ?_ ?_ | refine Keeps.ite ?_ ?_)
    | (fail_if_no_progress (with_reducible refine Keeps.upd ?_))
    | (fail_if_no_progress (with_reducible refine Keeps.updHold ?_ rfl))
    | split
    | (dsimp only)

theorem keeps_eccEvent {a : Block} {b : Block} (x1 : ℕ) (x2 : Bool) (x3 : Option ℕ) (x4 : ℕ) (x5 : ℕ) (x6 : ℕ)
    (h : Keeps a b) : Keeps a (eccEvent x1 x2 x3 x4 x5 x6 b) := by
  delta eccEvent
  repeat' first
    | (with_reducible assumption)
    | (intro)
    | (with_reducible first
        | apply keeps_count | apply keeps_eccLog | refine Keeps.foldl ?_ ?_ | refine Keeps.ite ?_ ?_)
    | (fail_if_no_progress (with_reducible refine Keeps.upd ?_))
    | (fail_if_no_progress (with_reducible refine Keeps.updHold ?_ rfl))
    | split
    | (dsimp only)

theorem keeps_senseByte {a : Block} {r : Bool × Block} (x1 : Option ℕ) (x2 : ℕ × (Byte × BitVec 5)) (h : Keeps a r.2) :
    Keeps a (senseByte x1 x2 r).2 := by
  delta senseByte
  dsimp only
  split
  · rename_i v _
    have hm := keeps_modHold_mem (f := fun k => { k with mem := tset 0 k.mem x2.1 v, upsets := tset (0, 0) k.upsets x2.1 (0, 0) })
      (fun _ m => tcanon_tset _ _ m) h
    show Keeps a (if _ then _ else _)
    split
    · exact hm
    · exact keeps_eccEvent _ _ _ _ _ _ hm
  · exact keeps_poisonLine _ (keeps_eccEvent _ _ _ _ _ _ h)

theorem keeps_senseLines {a : Block} {b : Block} (x1 : Option ℕ) (x2 : List ℕ)
    (h : Keeps a b) : Keeps a (senseLines x1 x2 b).2 := by
  delta senseLines
  repeat' first
    | (with_reducible assumption)
    | (intro)
    | (extract_lets +onlyGivenNames x; first
        | (refine Keeps.named (a := a) x ?_ ?_; (on_goal 1 => (revert x; show Keeps _ _)); (on_goal -1 => (intro hx; clear_value x)))
        | (refine Keeps.namedSnd (a := a) x ?_ ?_; (on_goal 1 => (revert x; show Keeps _ _)); (on_goal -1 => (intro hx; clear_value x)))
        | (refine Keeps.namedThird (a := a) x ?_ ?_; (on_goal 1 => (revert x; show Keeps _ _)); (on_goal -1 => (intro hx; clear_value x)))
        | (refine Keeps.namedFst (a := a) x ?_ ?_; (on_goal 1 => (revert x; show Keeps _ _)); (on_goal -1 => (intro hx; clear_value x)))
        | clear_value x)
    | (with_reducible first
        | apply keeps_senseByte | refine Keeps.foldlSnd ?_ ?_ | refine Keeps.foldl ?_ ?_ | refine Keeps.foldlSnd ?_ ?_
        | refine Keeps.ite ?_ ?_)
    | (fail_if_no_progress (with_reducible refine Keeps.upd ?_))
    | (fail_if_no_progress (with_reducible refine Keeps.updHold ?_ rfl))
    | split
    | (dsimp only)

theorem keeps_senseLines_eq {a : Block} {b : Block} {x1 : Option ℕ} {x2 : List ℕ} {v} {c : Block} (e : senseLines x1 x2 b = (v, c))
    (h : Keeps a b) : Keeps a c := by
  have := keeps_senseLines x1 x2 h; rw [e] at this; exact this

theorem keeps_poisonError {a : Block} {b : Block} (x1 : Bool) (x2 : Option ℕ) (x3 : ℕ) (x4 : ℕ)
    (h : Keeps a b) : Keeps a (poisonError x1 x2 x3 x4 b) := by
  delta poisonError
  repeat' first
    | (with_reducible assumption)
    | (intro)
    | (with_reducible first
        | apply keeps_eccEvent | refine Keeps.foldl ?_ ?_ | refine Keeps.ite ?_ ?_)
    | (fail_if_no_progress (with_reducible refine Keeps.upd ?_))
    | (fail_if_no_progress (with_reducible refine Keeps.updHold ?_ rfl))
    | split
    | (dsimp only)

theorem keeps_pathWord {a : Block} {r : Bytes × Bool × Block} (x1 : Option ℕ) (x2 x3 x4 : ℕ) (x5 : WordErr) (h : Keeps a r.2.2) :
    Keeps a (pathWord x1 x2 x3 x4 x5 r).2.2 := by
  delta pathWord
  dsimp only
  split
  · exact h
  · split
    · dsimp only
      split
      · exact h
      · exact keeps_eccEvent _ _ _ _ _ _ h
    · exact keeps_eccEvent 7 true x1 _ x3 x4 h

theorem keeps_pathRead {a : Block} {b : Block} (x1 : Option ℕ) (x2 x3 : ℕ) (x4 : ℕ → ℕ) (x5 : List WordErr) (x6 : Bytes)
    (h : Keeps a b) : Keeps a (pathRead x1 x2 x3 x4 x5 x6 b).2.2 := by
  delta pathRead
  exact Keeps.foldlThird (fun _ _ h => keeps_pathWord _ _ _ _ _ h) h

theorem keeps_pathRead_eq {a : Block} {b : Block} {x1 : Option ℕ} {x2 : ℕ} {x3 : ℕ} {x4 : ℕ → ℕ} {x5 : List WordErr} {x6 : Bytes} {v w} {c : Block} (e : pathRead x1 x2 x3 x4 x5 x6 b = (v, w, c))
    (h : Keeps a b) : Keeps a c := by
  have := keeps_pathRead x1 x2 x3 x4 x5 x6 h; rw [e] at this; exact this

/-! ### Crossings -/

theorem keeps_queueCtl {a : Block} {b : Block} (x1 : ℕ) (x2 : ℕ) (x3 : Bytes)
    (h : Keeps a b) : Keeps a (queueCtl x1 x2 x3 b) := by
  delta queueCtl
  repeat' first
    | (with_reducible assumption)
    | (intro)
    | (with_reducible first
        | apply keeps_modLnd | refine Keeps.foldl ?_ ?_ | refine Keeps.ite ?_ ?_)
    | (fail_if_no_progress (with_reducible refine Keeps.upd ?_))
    | (fail_if_no_progress (with_reducible refine Keeps.updHold ?_ rfl))
    | split
    | (dsimp only)

theorem keeps_sendAck {a : Block} {b : Block} (x1 : ℕ) (x2 : ℕ)
    (h : Keeps a b) : Keeps a (sendAck x1 x2 b) := by
  delta sendAck
  repeat' first
    | (with_reducible assumption)
    | (intro)
    | (with_reducible first
        | apply keeps_modLnd | apply keeps_queueCtl | refine Keeps.foldl ?_ ?_ | refine Keeps.ite ?_ ?_)
    | (fail_if_no_progress (with_reducible refine Keeps.upd ?_))
    | (fail_if_no_progress (with_reducible refine Keeps.updHold ?_ rfl))
    | split
    | (dsimp only)

theorem keeps_sendNak {a : Block} {b : Block} (x1 : ℕ) (x2 : ℕ) (x3 : ℕ)
    (h : Keeps a b) : Keeps a (sendNak x1 x2 x3 b) := by
  delta sendNak
  repeat' first
    | (with_reducible assumption)
    | (intro)
    | (with_reducible first
        | apply keeps_queueCtl | refine Keeps.foldl ?_ ?_ | refine Keeps.ite ?_ ?_)
    | (fail_if_no_progress (with_reducible refine Keeps.upd ?_))
    | (fail_if_no_progress (with_reducible refine Keeps.updHold ?_ rfl))
    | split
    | (dsimp only)

theorem keeps_watchXing {a : Block} {b : Block} (x1 : ℕ) (x2 : ℕ)
    (h : Keeps a b) : Keeps a (watchXing x1 x2 b) := by
  delta watchXing
  repeat' first
    | (with_reducible assumption)
    | (intro)
    | (with_reducible first
        | apply keeps_modXing | refine Keeps.foldl ?_ ?_ | refine Keeps.ite ?_ ?_)
    | (fail_if_no_progress (with_reducible refine Keeps.upd ?_))
    | (fail_if_no_progress (with_reducible refine Keeps.updHold ?_ rfl))
    | split
    | (dsimp only)

theorem keeps_countTx {a : Block} {b : Block} (x1 : ℕ) (x2 : ℕ) (x3 : ℕ)
    (h : Keeps a b) : Keeps a (countTx x1 x2 x3 b) := by
  delta countTx
  repeat' first
    | (with_reducible assumption)
    | (intro)
    | (with_reducible first
        | apply keeps_count | apply keeps_modXing | apply keeps_raise | refine Keeps.foldl ?_ ?_ | refine Keeps.ite ?_ ?_)
    | (fail_if_no_progress (with_reducible refine Keeps.upd ?_))
    | (fail_if_no_progress (with_reducible refine Keeps.updHold ?_ rfl))
    | split
    | (dsimp only)

theorem keeps_dropFrames {a : Block} {b : Block} (x1 : ℕ) (x2 : ℕ)
    (h : Keeps a b) : Keeps a (dropFrames x1 x2 b) := by
  delta dropFrames
  repeat' first
    | (with_reducible assumption)
    | (intro)
    | (with_reducible first
        | refine keeps_modHold (fun _ => rfl) ?_ | apply keeps_modXing | apply keeps_unpinLines | refine Keeps.foldl ?_ ?_
        | refine Keeps.ite ?_ ?_)
    | (fail_if_no_progress (with_reducible refine Keeps.upd ?_))
    | (fail_if_no_progress (with_reducible refine Keeps.updHold ?_ rfl))
    | split
    | (dsimp only)

theorem keeps_failXing {a : Block} {b : Block} (x1 : ℕ) (x2 : ℕ) (x3 : Byte)
    (h : Keeps a b) : Keeps a (failXing x1 x2 x3 b) := by
  delta failXing
  repeat' first
    | (with_reducible assumption)
    | (intro)
    | (with_reducible first
        | apply keeps_dropFrames | apply keeps_later | apply keeps_modXing | apply keeps_poisonXing | apply keeps_queueCtl
        | apply keeps_raise | apply keeps_record | refine Keeps.foldl ?_ ?_ | refine Keeps.ite ?_ ?_)
    | (fail_if_no_progress (with_reducible refine Keeps.upd ?_))
    | (fail_if_no_progress (with_reducible refine Keeps.updHold ?_ rfl))
    | split
    | (dsimp only)

theorem keeps_discardXing {a : Block} {b : Block} (x1 : ℕ) (x2 : ℕ)
    (h : Keeps a b) : Keeps a (discardXing x1 x2 b) := by
  delta discardXing
  repeat' first
    | (with_reducible assumption)
    | (intro)
    | (with_reducible first
        | apply keeps_dropFrames | apply keeps_later | refine Keeps.foldl ?_ ?_ | refine Keeps.ite ?_ ?_)
    | (fail_if_no_progress (with_reducible refine Keeps.upd ?_))
    | (fail_if_no_progress (with_reducible refine Keeps.updHold ?_ rfl))
    | split
    | (dsimp only)

theorem keeps_closeXing {a : Block} {b : Block} (x1 : ℕ) (x2 : ℕ)
    (h : Keeps a b) : Keeps a (closeXing x1 x2 b) := by
  delta closeXing
  repeat' first
    | (with_reducible assumption)
    | (intro)
    | (with_reducible first
        | apply keeps_modXing | apply keeps_watchXing | refine Keeps.foldl ?_ ?_ | refine Keeps.ite ?_ ?_)
    | (fail_if_no_progress (with_reducible refine Keeps.upd ?_))
    | (fail_if_no_progress (with_reducible refine Keeps.updHold ?_ rfl))
    | split
    | (dsimp only)

theorem keeps_turnPhase {a : Block} {b : Block} (x1 : ℕ) (x2 : ℕ)
    (h : Keeps a b) : Keeps a (turnPhase x1 x2 b) := by
  delta turnPhase
  repeat' first
    | (with_reducible assumption)
    | (intro)
    | (with_reducible first
        | apply keeps_modXing | refine Keeps.foldl ?_ ?_ | refine Keeps.ite ?_ ?_)
    | (fail_if_no_progress (with_reducible refine Keeps.upd ?_))
    | (fail_if_no_progress (with_reducible refine Keeps.updHold ?_ rfl))
    | split
    | (dsimp only)

theorem keeps_freeAcked {a : Block} {b : Block} (x1 : ℕ) (x2 : ℕ) (x3 : ℕ)
    (h : Keeps a b) : Keeps a (freeAcked x1 x2 x3 b) := by
  delta freeAcked
  repeat' first
    | (with_reducible assumption)
    | (intro)
    | (with_reducible first
        | apply keeps_later | apply keeps_modXing | apply keeps_turnPhase | apply keeps_unpinLines | apply keeps_watchXing
        | refine Keeps.foldl ?_ ?_ | refine Keeps.ite ?_ ?_)
    | (fail_if_no_progress (with_reducible refine Keeps.upd ?_))
    | (fail_if_no_progress (with_reducible refine Keeps.updHold ?_ rfl))
    | split
    | (dsimp only)

theorem keeps_startResend {a : Block} {b : Block} (x1 : ℕ) (x2 : ℕ)
    (h : Keeps a b) : Keeps a (startResend x1 x2 b) := by
  delta startResend
  repeat' first
    | (with_reducible assumption)
    | (intro)
    | (with_reducible first
        | apply keeps_failXing | apply keeps_modXing | refine Keeps.foldl ?_ ?_ | refine Keeps.ite ?_ ?_)
    | (fail_if_no_progress (with_reducible refine Keeps.upd ?_))
    | (fail_if_no_progress (with_reducible refine Keeps.updHold ?_ rfl))
    | split
    | (dsimp only)

theorem keeps_resendTimeout {a : Block} {b : Block} (x1 : ℕ) (x2 : ℕ)
    (h : Keeps a b) : Keeps a (resendTimeout x1 x2 b) := by
  delta resendTimeout
  repeat' first
    | (with_reducible assumption)
    | (intro)
    | (with_reducible first
        | apply keeps_modXing | apply keeps_startResend | refine Keeps.foldl ?_ ?_ | refine Keeps.ite ?_ ?_)
    | (fail_if_no_progress (with_reducible refine Keeps.upd ?_))
    | (fail_if_no_progress (with_reducible refine Keeps.updHold ?_ rfl))
    | split
    | (dsimp only)

theorem keeps_putFrame {a : Block} {b : Block} (x1 : ℕ) (x2 : ℕ) (x3 : Bytes)
    (h : Keeps a b) : Keeps a (putFrame x1 x2 x3 b).2 := by
  delta putFrame
  repeat' first
    | (with_reducible assumption)
    | (intro)
    | (with_reducible first
        | apply keeps_emit | refine Keeps.foldl ?_ ?_ | refine Keeps.ite ?_ ?_)
    | (fail_if_no_progress (with_reducible refine Keeps.upd ?_))
    | (fail_if_no_progress (with_reducible refine Keeps.updHold ?_ rfl))
    | split
    | (dsimp only)

theorem keeps_putFrame_eq {a : Block} {b : Block} {x1 : ℕ} {x2 : ℕ} {x3 : Bytes} {v} {c : Block} (e : putFrame x1 x2 x3 b = (v, c))
    (h : Keeps a b) : Keeps a c := by
  have := keeps_putFrame x1 x2 x3 h; rw [e] at this; exact this

theorem keeps_readItem {a : Block} {b : Block} (x1 : ℕ) (x2 : ℕ) (x3 : TxItem) (x4 : List WordErr)
    (h : Keeps a b) : Keeps a (readItem x1 x2 x3 x4 b).2.2 := by
  delta readItem
  repeat' first
    | (with_reducible assumption)
    | (intro)
    | (with_reducible first
        | apply keeps_pathRead | refine keeps_pathRead_eq (by with_reducible assumption) ?_ | apply keeps_count | refine Keeps.foldl ?_ ?_
        | refine Keeps.ite ?_ ?_)
    | (fail_if_no_progress (with_reducible refine Keeps.upd ?_))
    | (fail_if_no_progress (with_reducible refine Keeps.updHold ?_ rfl))
    | split
    | (dsimp only)

theorem keeps_readItem_eq {a : Block} {b : Block} {x1 : ℕ} {x2 : ℕ} {x3 : TxItem} {x4 : List WordErr} {v w} {c : Block} (e : readItem x1 x2 x3 x4 b = (v, w, c))
    (h : Keeps a b) : Keeps a c := by
  have := keeps_readItem x1 x2 x3 x4 h; rw [e] at this; exact this

theorem keeps_egressWait {a : Block} {b : Block} (x1 : ℕ) (x2 : OpRef)
    (h : Keeps a b) : Keeps a (egressWait x1 x2 b) := by
  delta egressWait
  repeat' first
    | (with_reducible assumption)
    | (intro)
    | (with_reducible first
        | apply keeps_addWait | refine Keeps.foldl ?_ ?_ | refine Keeps.ite ?_ ?_)
    | (fail_if_no_progress (with_reducible refine Keeps.upd ?_))
    | (fail_if_no_progress (with_reducible refine Keeps.updHold ?_ rfl))
    | split
    | (dsimp only)

theorem keeps_loseUnacked {a : Block} {b : Block} (x1 : ℕ) (x2 : ℕ) (x3 : Unacked) (x4 : Byte)
    (h : Keeps a b) : Keeps a (loseUnacked x1 x2 x3 x4 b) := by
  delta loseUnacked
  repeat' first
    | (with_reducible assumption)
    | (intro)
    | (with_reducible first
        | apply keeps_later | apply keeps_modXing | refine Keeps.foldl ?_ ?_ | refine Keeps.ite ?_ ?_)
    | (fail_if_no_progress (with_reducible refine Keeps.upd ?_))
    | (fail_if_no_progress (with_reducible refine Keeps.updHold ?_ rfl))
    | split
    | (dsimp only)

theorem keeps_sendAgain {a : Block} {b : Block} (x1 : ℕ) (x2 : ℕ) (x3 : ℕ) (x4 : Unacked) (x5 : List WordErr)
    (h : Keeps a b) : Keeps a (sendAgain x1 x2 x3 x4 x5 b).2 := by
  delta sendAgain
  repeat' first
    | (with_reducible assumption)
    | (intro)
    | (with_reducible first
        | apply keeps_countTx | apply keeps_egressWait | apply keeps_failXing | apply keeps_loseUnacked | apply keeps_modXing
        | apply keeps_putFrame | apply keeps_readItem | apply keeps_senseLines
        | refine keeps_putFrame_eq (by with_reducible assumption) ?_ | refine keeps_readItem_eq (by with_reducible assumption) ?_
        | refine keeps_senseLines_eq (by with_reducible assumption) ?_ | refine Keeps.foldl ?_ ?_ | refine Keeps.ite ?_ ?_)
    | (fail_if_no_progress (with_reducible refine Keeps.upd ?_))
    | (fail_if_no_progress (with_reducible refine Keeps.updHold ?_ rfl))
    | split
    | (dsimp only)

theorem keeps_sendAgain_eq {a : Block} {b : Block} {x1 : ℕ} {x2 : ℕ} {x3 : ℕ} {x4 : Unacked} {x5 : List WordErr} {v} {c : Block} (e : sendAgain x1 x2 x3 x4 x5 b = (v, c))
    (h : Keeps a b) : Keeps a c := by
  have := keeps_sendAgain x1 x2 x3 x4 x5 h; rw [e] at this; exact this

theorem keeps_dropItems {a : Block} {b : Block} (x1 : ℕ) (x2 : ℕ) (x3 : TxItem)
    (h : Keeps a b) : Keeps a (dropItems x1 x2 x3 b) := by
  delta dropItems
  repeat' first
    | (with_reducible assumption)
    | (intro)
    | (with_reducible first
        | refine keeps_modHold (fun _ => rfl) ?_ | apply keeps_modXing | apply keeps_unpinLines | apply keeps_watchXing
        | refine Keeps.foldl ?_ ?_ | refine Keeps.ite ?_ ?_)
    | (fail_if_no_progress (with_reducible refine Keeps.upd ?_))
    | (fail_if_no_progress (with_reducible refine Keeps.updHold ?_ rfl))
    | split
    | (dsimp only)

theorem keeps_sendFresh {a : Block} {b : Block} (x1 : ℕ) (x2 : ℕ) (x3 : ℕ) (x4 : TxItem) (x5 : List WordErr)
    (h : Keeps a b) : Keeps a (sendFresh x1 x2 x3 x4 x5 b).2 := by
  delta sendFresh
  repeat' first
    | (with_reducible assumption)
    | (intro)
    | (with_reducible first
        | apply keeps_cipherRefused | apply keeps_countTx | apply keeps_dropItems | apply keeps_egressWait | apply keeps_failXing
        | apply keeps_later | refine keeps_modHold (fun _ => rfl) ?_ | apply keeps_modXing | apply keeps_pinLines | apply keeps_putFrame
        | apply keeps_readItem | apply keeps_senseLines | refine keeps_putFrame_eq (by with_reducible assumption) ?_
        | refine keeps_readItem_eq (by with_reducible assumption) ?_ | refine keeps_senseLines_eq (by with_reducible assumption) ?_
        | refine Keeps.foldl ?_ ?_ | refine Keeps.ite ?_ ?_)
    | (fail_if_no_progress (with_reducible refine Keeps.upd ?_))
    | (fail_if_no_progress (with_reducible refine Keeps.updHold ?_ rfl))
    | split
    | (dsimp only)

theorem keeps_sendFresh_eq {a : Block} {b : Block} {x1 : ℕ} {x2 : ℕ} {x3 : ℕ} {x4 : TxItem} {x5 : List WordErr} {v} {c : Block} (e : sendFresh x1 x2 x3 x4 x5 b = (v, c))
    (h : Keeps a b) : Keeps a c := by
  have := keeps_sendFresh x1 x2 x3 x4 x5 h; rw [e] at this; exact this

theorem keeps_sendOne {a : Block} {b : Block} (x1 : ℕ) (x2 : ℕ) (x3 : ℕ) (x4 : Bool) (x5 : ℕ) (x6 : List WordErr)
    (h : Keeps a b) : Keeps a (sendOne x1 x2 x3 x4 x5 x6 b).2 := by
  delta sendOne
  repeat' first
    | (with_reducible assumption)
    | (intro)
    | (with_reducible first
        | apply keeps_sendAgain | apply keeps_sendFresh | refine keeps_sendAgain_eq (by with_reducible assumption) ?_
        | refine keeps_sendFresh_eq (by with_reducible assumption) ?_ | refine Keeps.foldl ?_ ?_ | refine Keeps.ite ?_ ?_)
    | (fail_if_no_progress (with_reducible refine Keeps.upd ?_))
    | (fail_if_no_progress (with_reducible refine Keeps.updHold ?_ rfl))
    | split
    | (dsimp only)

theorem keeps_sendOne_eq {a : Block} {b : Block} {x1 : ℕ} {x2 : ℕ} {x3 : ℕ} {x4 : Bool} {x5 : ℕ} {x6 : List WordErr} {v} {c : Block} (e : sendOne x1 x2 x3 x4 x5 x6 b = (v, c))
    (h : Keeps a b) : Keeps a c := by
  have := keeps_sendOne x1 x2 x3 x4 x5 x6 h; rw [e] at this; exact this

theorem keeps_pinResume {a : Block} {b : Block} (x1 : ℕ) (x2 : ℕ)
    (h : Keeps a b) : Keeps a (pinResume x1 x2 b) := by
  delta pinResume
  repeat' first
    | (with_reducible assumption)
    | (intro)
    | (with_reducible first
        | refine keeps_modHold (fun _ => rfl) ?_ | apply keeps_modXing | apply keeps_pinLines | refine Keeps.foldl ?_ ?_
        | refine Keeps.ite ?_ ?_)
    | (fail_if_no_progress (with_reducible refine Keeps.upd ?_))
    | (fail_if_no_progress (with_reducible refine Keeps.updHold ?_ rfl))
    | split
    | (dsimp only)

theorem keeps_enqueue {a : Block} {b : Block} (x1 : ℕ) (x2 : ℕ) (x3 : List TxItem)
    (h : Keeps a b) : Keeps a (enqueue x1 x2 x3 b) := by
  delta enqueue
  repeat' first
    | (with_reducible assumption)
    | (intro)
    | (with_reducible first
        | apply keeps_modXing | apply keeps_watchXing | refine Keeps.foldl ?_ ?_ | refine Keeps.ite ?_ ?_)
    | (fail_if_no_progress (with_reducible refine Keeps.upd ?_))
    | (fail_if_no_progress (with_reducible refine Keeps.updHold ?_ rfl))
    | split
    | (dsimp only)

theorem keeps_startProve {a : Block} {b : Block} (x1 : ℕ) (x2 : ℕ)
    (h : Keeps a b) : Keeps a (startProve x1 x2 b) := by
  delta startProve
  repeat' first
    | (with_reducible assumption)
    | (intro)
    | (with_reducible first
        | apply keeps_modXing | refine Keeps.foldl ?_ ?_ | refine Keeps.ite ?_ ?_)
    | (fail_if_no_progress (with_reducible refine Keeps.upd ?_))
    | (fail_if_no_progress (with_reducible refine Keeps.updHold ?_ rfl))
    | split
    | (dsimp only)

theorem keeps_startProves {a : Block} {b : Block} (x1 : ℕ)
    (h : Keeps a b) : Keeps a (startProves x1 b) := by
  delta startProves
  repeat' first
    | (with_reducible assumption)
    | (intro)
    | (with_reducible first
        | apply keeps_startProve | refine Keeps.foldl ?_ ?_ | refine Keeps.ite ?_ ?_)
    | (fail_if_no_progress (with_reducible refine Keeps.upd ?_))
    | (fail_if_no_progress (with_reducible refine Keeps.updHold ?_ rfl))
    | split
    | (dsimp only)

theorem keeps_sendProve {a : Block} {b : Block} (x1 : ℕ) (x2 : ℕ) (x3 : ℕ)
    (h : Keeps a b) : Keeps a (sendProve x1 x2 x3 b).2 := by
  delta sendProve
  repeat' first
    | (with_reducible assumption)
    | (intro)
    | (with_reducible first
        | apply keeps_cipherRefused | apply keeps_countTx | apply keeps_draw | apply keeps_failXing | apply keeps_modLnd
        | apply keeps_modXing | apply keeps_putFrame | refine keeps_draw_eq (by with_reducible assumption) ?_
        | refine keeps_putFrame_eq (by with_reducible assumption) ?_ | refine Keeps.foldl ?_ ?_ | refine Keeps.ite ?_ ?_)
    | (fail_if_no_progress (with_reducible refine Keeps.upd ?_))
    | (fail_if_no_progress (with_reducible refine Keeps.updHold ?_ rfl))
    | split
    | (dsimp only)

theorem keeps_sendProve_eq {a : Block} {b : Block} {x1 : ℕ} {x2 : ℕ} {x3 : ℕ} {v} {c : Block} (e : sendProve x1 x2 x3 b = (v, c))
    (h : Keeps a b) : Keeps a c := by
  have := keeps_sendProve x1 x2 x3 h; rw [e] at this; exact this

theorem keeps_openXing {a : Block} {b : Block} (x1 : ℕ) (x2 : ℕ) (x3 : ℕ)
    (h : Keeps a b) : Keeps a (openXing x1 x2 x3 b) := by
  delta openXing
  repeat' first
    | (with_reducible assumption)
    | (intro)
    | (with_reducible first
        | apply keeps_freeAcked | apply keeps_modLnd | apply keeps_modXing | apply keeps_raise | apply keeps_startResend
        | apply keeps_watchXing | refine Keeps.foldl ?_ ?_ | refine Keeps.ite ?_ ?_)
    | (fail_if_no_progress (with_reducible refine Keeps.upd ?_))
    | (fail_if_no_progress (with_reducible refine Keeps.updHold ?_ rfl))
    | split
    | (dsimp only)

theorem keeps_acceptProve {a : Block} {b : Block} (x1 : ℕ) (x2 : ℕ) (x3 : Bytes)
    (h : Keeps a b) : Keeps a (acceptProve x1 x2 x3 b) := by
  delta acceptProve
  repeat' first
    | (with_reducible assumption)
    | (intro)
    | (with_reducible first
        | apply keeps_modXing | apply keeps_openXing | apply keeps_sendAck | refine Keeps.foldl ?_ ?_ | refine Keeps.ite ?_ ?_)
    | (fail_if_no_progress (with_reducible refine Keeps.upd ?_))
    | (fail_if_no_progress (with_reducible refine Keeps.updHold ?_ rfl))
    | split
    | (dsimp only)

theorem keeps_ackArrives {a : Block} {b : Block} (x1 : ℕ) (x2 : Bytes)
    (h : Keeps a b) : Keeps a (ackArrives x1 x2 b) := by
  delta ackArrives
  repeat' first
    | (with_reducible assumption)
    | (intro)
    | (with_reducible first
        | apply keeps_freeAcked | apply keeps_modXing | apply keeps_openXing | refine Keeps.foldl ?_ ?_ | refine Keeps.ite ?_ ?_)
    | (fail_if_no_progress (with_reducible refine Keeps.upd ?_))
    | (fail_if_no_progress (with_reducible refine Keeps.updHold ?_ rfl))
    | split
    | (dsimp only)

theorem keeps_nakArrives {a : Block} {b : Block} (x1 : ℕ) (x2 : Bytes)
    (h : Keeps a b) : Keeps a (nakArrives x1 x2 b) := by
  delta nakArrives
  repeat' first
    | (with_reducible assumption)
    | (intro)
    | (with_reducible first
        | apply keeps_modXing | apply keeps_startResend | refine Keeps.foldl ?_ ?_ | refine Keeps.ite ?_ ?_)
    | (fail_if_no_progress (with_reducible refine Keeps.upd ?_))
    | (fail_if_no_progress (with_reducible refine Keeps.updHold ?_ rfl))
    | split
    | (dsimp only)

theorem keeps_proveTimeout {a : Block} {b : Block} (x1 : ℕ) (x2 : ℕ)
    (h : Keeps a b) : Keeps a (proveTimeout x1 x2 b) := by
  delta proveTimeout
  repeat' first
    | (with_reducible assumption)
    | (intro)
    | (with_reducible first
        | apply keeps_modXing | apply keeps_raise | refine Keeps.foldl ?_ ?_ | refine Keeps.ite ?_ ?_)
    | (fail_if_no_progress (with_reducible refine Keeps.upd ?_))
    | (fail_if_no_progress (with_reducible refine Keeps.updHold ?_ rfl))
    | split
    | (dsimp only)

theorem keeps_integrity {a : Block} {b : Block} (x1 : ℕ) (x2 : ℕ) (x3 : Byte)
    (h : Keeps a b) : Keeps a (integrity x1 x2 x3 b) := by
  delta integrity
  repeat' first
    | (with_reducible assumption)
    | (intro)
    | (with_reducible first
        | apply keeps_failXing | apply keeps_modLnd | apply keeps_modXing | refine Keeps.foldl ?_ ?_ | refine Keeps.ite ?_ ?_)
    | (fail_if_no_progress (with_reducible refine Keeps.upd ?_))
    | (fail_if_no_progress (with_reducible refine Keeps.updHold ?_ rfl))
    | split
    | (dsimp only)

theorem keeps_countDeny {a : Block} {b : Block} (x1 : ℕ)
    (h : Keeps a b) : Keeps a (countDeny x1 b) := by
  delta countDeny
  repeat' first
    | (with_reducible assumption)
    | (intro)
    | (with_reducible first
        | apply keeps_modLnd | refine Keeps.foldl ?_ ?_ | refine Keeps.ite ?_ ?_)
    | (fail_if_no_progress (with_reducible refine Keeps.upd ?_))
    | (fail_if_no_progress (with_reducible refine Keeps.updHold ?_ rfl))
    | split
    | (dsimp only)

theorem keeps_usePhase {a : Block} {b : Block} (x1 : ℕ) (x2 : ℕ) (x3 : ℕ) (x4 : FrameHdr)
    (h : Keeps a b) : Keeps a (usePhase x1 x2 x3 x4 b) := by
  delta usePhase
  repeat' first
    | (with_reducible assumption)
    | (intro)
    | (with_reducible first
        | apply keeps_modXing | refine Keeps.foldl ?_ ?_ | refine Keeps.ite ?_ ?_)
    | (fail_if_no_progress (with_reducible refine Keeps.upd ?_))
    | (fail_if_no_progress (with_reducible refine Keeps.updHold ?_ rfl))
    | split
    | (dsimp only)

theorem keeps_acceptSeq {a : Block} {b : Block} (x1 : ℕ) (x2 : ℕ) (x3 : ℕ) (x4 : FrameHdr)
    (h : Keeps a b) : Keeps a (acceptSeq x1 x2 x3 x4 b) := by
  delta acceptSeq
  repeat' first
    | (with_reducible assumption)
    | (intro)
    | (with_reducible first
        | apply keeps_modXing | apply keeps_sendAck | apply keeps_usePhase | refine Keeps.foldl ?_ ?_ | refine Keeps.ite ?_ ?_)
    | (fail_if_no_progress (with_reducible refine Keeps.upd ?_))
    | (fail_if_no_progress (with_reducible refine Keeps.updHold ?_ rfl))
    | split
    | (dsimp only)

theorem keeps_spoilFrame {a : Block} {b : Block} (x1 : ℕ) (x2 : ℕ) (x3 : List ℕ)
    (h : Keeps a b) : Keeps a (spoilFrame x1 x2 x3 b) := by
  delta spoilFrame
  repeat' first
    | (with_reducible assumption)
    | (intro)
    | (with_reducible first
        | apply keeps_ingressWrite | apply keeps_spoilLines | refine Keeps.foldl ?_ ?_ | refine Keeps.ite ?_ ?_)
    | (fail_if_no_progress (with_reducible refine Keeps.upd ?_))
    | (fail_if_no_progress (with_reducible refine Keeps.updHold ?_ rfl))
    | split
    | (dsimp only)

theorem keeps_openAndAccept {a : Block} {b : Block} (x1 : ℕ) (x2 : ℕ) (x3 : ℕ) (x4 : FrameHdr) (x5 : BitVec 256) (x6 : Bytes)
    (h : Keeps a b) : Keeps a (openAndAccept x1 x2 x3 x4 x5 x6 b) := by
  delta openAndAccept
  repeat' first
    | (with_reducible assumption)
    | (intro)
    | (with_reducible first
        | apply keeps_acceptProve | apply keeps_acceptSeq | apply keeps_ingressWrite | apply keeps_integrity | apply keeps_later
        | apply keeps_releaseLines | apply keeps_sendNak | apply keeps_spoilFrame | apply keeps_usePhase | apply keeps_count | refine Keeps.foldl ?_ ?_
        | refine Keeps.ite ?_ ?_)
    | (fail_if_no_progress (with_reducible refine Keeps.upd ?_))
    | (fail_if_no_progress (with_reducible refine Keeps.updHold ?_ rfl))
    | split
    | (dsimp only)

theorem keeps_takeFrame {a : Block} {b : Block} (x1 : ℕ) (x2 : Bytes)
    (h : Keeps a b) : Keeps a (takeFrame x1 x2 b) := by
  delta takeFrame
  repeat' first
    | (with_reducible assumption)
    | (intro)
    | (with_reducible first
        | apply keeps_cipherRefused | apply keeps_countDeny | apply keeps_failXing | apply keeps_modXing | apply keeps_openAndAccept
        | apply keeps_sendAck | apply keeps_sendNak | refine Keeps.foldl ?_ ?_ | refine Keeps.ite ?_ ?_)
    | (fail_if_no_progress (with_reducible refine Keeps.upd ?_))
    | (fail_if_no_progress (with_reducible refine Keeps.updHold ?_ rfl))
    | split
    | (dsimp only)

/-! ### Landings -/

theorem keeps_applyMaps {a : Block} {b : Block} (x1 : ℕ) (x2 : Bool) (x3 : ℕ)
    (h : Keeps a b) : Keeps a (applyMaps x1 x2 x3 b) := by
  delta applyMaps
  repeat' first
    | (with_reducible assumption)
    | (intro)
    | (with_reducible first
        | apply keeps_modLnd | apply keeps_setReg | refine Keeps.foldl ?_ ?_ | refine Keeps.ite ?_ ?_)
    | (fail_if_no_progress (with_reducible refine Keeps.upd ?_))
    | (fail_if_no_progress (with_reducible refine Keeps.updHold ?_ rfl))
    | split
    | (dsimp only)

theorem keeps_roundXing {a : Block} {b : Block} (x1 : ℕ) (x2 : ℕ) (x3 : ℕ)
    (h : Keeps a b) : Keeps a (roundXing x1 x2 x3 b) := by
  delta roundXing
  repeat' first
    | (with_reducible assumption)
    | (intro)
    | (with_reducible first
        | apply keeps_modXing | apply keeps_turnPhase | refine Keeps.foldl ?_ ?_ | refine Keeps.ite ?_ ?_)
    | (fail_if_no_progress (with_reducible refine Keeps.upd ?_))
    | (fail_if_no_progress (with_reducible refine Keeps.updHold ?_ rfl))
    | split
    | (dsimp only)

theorem keeps_helloDueNow {a : Block} {b : Block} (x1 : ℕ) (x2 : ℕ)
    (h : Keeps a b) : Keeps a (helloDueNow x1 x2 b) := by
  delta helloDueNow
  repeat' first
    | (with_reducible assumption)
    | (intro)
    | (with_reducible first
        | apply keeps_modLnd | refine Keeps.foldl ?_ ?_ | refine Keeps.ite ?_ ?_)
    | (fail_if_no_progress (with_reducible refine Keeps.upd ?_))
    | (fail_if_no_progress (with_reducible refine Keeps.updHold ?_ rfl))
    | split
    | (dsimp only)

theorem keeps_startRound {a : Block} {b : Block} (x1 : ℕ)
    (h : Keeps a b) : Keeps a (startRound x1 b) := by
  delta startRound
  repeat' first
    | (with_reducible assumption)
    | (intro)
    | (with_reducible first
        | apply keeps_applyMaps | apply keeps_emit | apply keeps_helloDueNow | apply keeps_modLnd | apply keeps_roundXing
        | refine Keeps.foldl ?_ ?_ | refine Keeps.ite ?_ ?_)
    | (fail_if_no_progress (with_reducible refine Keeps.upd ?_))
    | (fail_if_no_progress (with_reducible refine Keeps.updHold ?_ rfl))
    | split
    | (dsimp only)

theorem keeps_portDown {a : Block} {b : Block} (x1 : ℕ)
    (h : Keeps a b) : Keeps a (portDown x1 b) := by
  delta portDown
  repeat' first
    | (with_reducible assumption)
    | (intro)
    | (with_reducible first
        | apply keeps_closeXing | apply keeps_modLnd | apply keeps_modPage | apply keeps_raise | refine Keeps.foldl ?_ ?_
        | refine Keeps.ite ?_ ?_)
    | (fail_if_no_progress (with_reducible refine Keeps.upd ?_))
    | (fail_if_no_progress (with_reducible refine Keeps.updHold ?_ rfl))
    | split
    | (dsimp only)

theorem keeps_resetLanding {a : Block} {b : Block} (x1 : ℕ)
    (h : Keeps a b) : Keeps a (resetLanding x1 b) := by
  delta resetLanding
  repeat' first
    | (with_reducible assumption)
    | (intro)
    | (with_reducible first
        | apply keeps_portDown | apply keeps_record | refine Keeps.foldl ?_ ?_ | refine Keeps.ite ?_ ?_)
    | (fail_if_no_progress (with_reducible refine Keeps.upd ?_))
    | (fail_if_no_progress (with_reducible refine Keeps.updHold ?_ rfl))
    | split
    | (dsimp only)

theorem keeps_beginFord {a : Block} {b : Block} (x1 : ℕ)
    (h : Keeps a b) : Keeps a (beginFord x1 b) := by
  delta beginFord
  repeat' first
    | (with_reducible assumption)
    | (intro)
    | (with_reducible first
        | apply keeps_draw | apply keeps_modLnd | refine keeps_draw_eq (by with_reducible assumption) ?_ | refine Keeps.foldl ?_ ?_
        | refine Keeps.ite ?_ ?_)
    | (fail_if_no_progress (with_reducible refine Keeps.upd ?_))
    | (fail_if_no_progress (with_reducible refine Keeps.updHold ?_ rfl))
    | split
    | (dsimp only)

theorem keeps_enterFord {a : Block} {b : Block} (x1 : ℕ)
    (h : Keeps a b) : Keeps a (enterFord x1 b) := by
  delta enterFord
  repeat' first
    | (with_reducible assumption)
    | (intro)
    | (with_reducible first
        | apply keeps_beginFord | apply keeps_modLnd | apply keeps_raise | refine Keeps.foldl ?_ ?_ | refine Keeps.ite ?_ ?_)
    | (fail_if_no_progress (with_reducible refine Keeps.upd ?_))
    | (fail_if_no_progress (with_reducible refine Keeps.updHold ?_ rfl))
    | split
    | (dsimp only)

theorem keeps_fordTimeout {a : Block} {b : Block} (x1 : ℕ)
    (h : Keeps a b) : Keeps a (fordTimeout x1 b) := by
  delta fordTimeout
  repeat' first
    | (with_reducible assumption)
    | (intro)
    | (with_reducible first
        | apply keeps_modLnd | apply keeps_raise | refine Keeps.foldl ?_ ?_ | refine Keeps.ite ?_ ?_)
    | (fail_if_no_progress (with_reducible refine Keeps.upd ?_))
    | (fail_if_no_progress (with_reducible refine Keeps.updHold ?_ rfl))
    | split
    | (dsimp only)

theorem keeps_reprove {a : Block} {b : Block} (x1 : ℕ) (x2 : ℕ)
    (h : Keeps a b) : Keeps a (reprove x1 x2 b) := by
  delta reprove
  repeat' first
    | (with_reducible assumption)
    | (intro)
    | (with_reducible first
        | apply keeps_modXing | refine Keeps.foldl ?_ ?_ | refine Keeps.ite ?_ ?_)
    | (fail_if_no_progress (with_reducible refine Keeps.upd ?_))
    | (fail_if_no_progress (with_reducible refine Keeps.updHold ?_ rfl))
    | split
    | (dsimp only)

theorem keeps_unlink {a : Block} {b : Block} (x1 : ℕ)
    (h : Keeps a b) : Keeps a (unlink x1 b) := by
  delta unlink
  repeat' first
    | (with_reducible assumption)
    | (intro)
    | (with_reducible first
        | apply keeps_beginFord | apply keeps_closeXing | apply keeps_modLnd | apply keeps_raise | apply keeps_reprove
        | refine Keeps.foldl ?_ ?_ | refine Keeps.ite ?_ ?_)
    | (fail_if_no_progress (with_reducible refine Keeps.upd ?_))
    | (fail_if_no_progress (with_reducible refine Keeps.updHold ?_ rfl))
    | split
    | (dsimp only)

theorem keeps_takeHello {a : Block} {b : Block} (x1 : ℕ) (x2 : Bytes)
    (h : Keeps a b) : Keeps a (takeHello x1 x2 b) := by
  delta takeHello
  repeat' first
    | (with_reducible assumption)
    | (intro)
    | (with_reducible first
        | apply keeps_modLnd | apply keeps_recordErr | apply keeps_startProves | apply keeps_unlink | refine Keeps.foldl ?_ ?_
        | refine Keeps.ite ?_ ?_)
    | (fail_if_no_progress (with_reducible refine Keeps.upd ?_))
    | (fail_if_no_progress (with_reducible refine Keeps.updHold ?_ rfl))
    | split
    | (dsimp only)

theorem keeps_sendControls {a : Block} {b : Block} (x1 : ℕ) (x2 : ℕ)
    (h : Keeps a b) : Keeps a (sendControls x1 x2 b) := by
  delta sendControls
  repeat' first
    | (with_reducible assumption)
    | (intro)
    | (with_reducible first
        | apply keeps_emit | apply keeps_modLnd | refine Keeps.foldl ?_ ?_ | refine Keeps.ite ?_ ?_)
    | (fail_if_no_progress (with_reducible refine Keeps.upd ?_))
    | (fail_if_no_progress (with_reducible refine Keeps.updHold ?_ rfl))
    | split
    | (dsimp only)

theorem keeps_sendHello {a : Block} {b : Block} (x1 : ℕ) (x2 : ℕ) (x3 : ℕ)
    (h : Keeps a b) : Keeps a (sendHello x1 x2 x3 b).2 := by
  delta sendHello
  repeat' first
    | (with_reducible assumption)
    | (intro)
    | (with_reducible first
        | apply keeps_count | apply keeps_modLnd | apply keeps_putFrame | refine keeps_putFrame_eq (by with_reducible assumption) ?_
        | refine Keeps.foldl ?_ ?_ | refine Keeps.ite ?_ ?_)
    | (fail_if_no_progress (with_reducible refine Keeps.upd ?_))
    | (fail_if_no_progress (with_reducible refine Keeps.updHold ?_ rfl))
    | split
    | (dsimp only)

theorem keeps_sendHello_eq {a : Block} {b : Block} {x1 : ℕ} {x2 : ℕ} {x3 : ℕ} {v} {c : Block} (e : sendHello x1 x2 x3 b = (v, c))
    (h : Keeps a b) : Keeps a c := by
  have := keeps_sendHello x1 x2 x3 h; rw [e] at this; exact this

theorem keeps_sendUrgent {a : Block} {b : Block} (x1 : ℕ) (x2 : ℕ) (x3 : ℕ)
    (h : Keeps a b) : Keeps a (sendUrgent x1 x2 x3 b).2 := by
  delta sendUrgent
  repeat' first
    | (with_reducible assumption)
    | (intro)
    | (with_reducible first
        | apply keeps_modLnd | apply keeps_putFrame | refine keeps_putFrame_eq (by with_reducible assumption) ?_
        | refine Keeps.foldl ?_ ?_ | refine Keeps.ite ?_ ?_)
    | (fail_if_no_progress (with_reducible refine Keeps.upd ?_))
    | (fail_if_no_progress (with_reducible refine Keeps.updHold ?_ rfl))
    | split
    | (dsimp only)

theorem keeps_sendUrgent_eq {a : Block} {b : Block} {x1 : ℕ} {x2 : ℕ} {x3 : ℕ} {v} {c : Block} (e : sendUrgent x1 x2 x3 b = (v, c))
    (h : Keeps a b) : Keeps a c := by
  have := keeps_sendUrgent x1 x2 x3 h; rw [e] at this; exact this

theorem keeps_sendShared {a : Block} {b : Block} (x1 : ℕ) (x2 : ℕ) (x3 : ℕ) (x4 : List WordErr) (x5 : ℕ)
    (h : Keeps a b) : Keeps a (sendShared x1 x2 x3 x4 x5 b).2 := by
  delta sendShared
  repeat' first
    | (with_reducible assumption)
    | (intro)
    | (with_reducible first
        | apply keeps_sendOne | apply keeps_sendProve | refine keeps_sendOne_eq (by with_reducible assumption) ?_
        | refine keeps_sendProve_eq (by with_reducible assumption) ?_ | refine Keeps.foldl ?_ ?_ | refine Keeps.ite ?_ ?_)
    | (fail_if_no_progress (with_reducible refine Keeps.upd ?_))
    | (fail_if_no_progress (with_reducible refine Keeps.updHold ?_ rfl))
    | split
    | (dsimp only)

theorem keeps_sendShared_eq {a : Block} {b : Block} {x1 : ℕ} {x2 : ℕ} {x3 : ℕ} {x4 : List WordErr} {x5 : ℕ} {v} {c : Block} (e : sendShared x1 x2 x3 x4 x5 b = (v, c))
    (h : Keeps a b) : Keeps a c := by
  have := keeps_sendShared x1 x2 x3 x4 x5 h; rw [e] at this; exact this

theorem keeps_nextShared {a : Block} {b : Block} (x1 : ℕ) (x2 : ℕ) (x3 : ℕ) (x4 : List WordErr)
    (h : Keeps a b) : Keeps a (nextShared x1 x2 x3 x4 b).2 := by
  delta nextShared
  repeat' first
    | (with_reducible assumption)
    | (intro)
    | (extract_lets +onlyGivenNames x; first
        | (refine Keeps.named (a := a) x ?_ ?_; (on_goal 1 => (revert x; show Keeps _ _)); (on_goal -1 => (intro hx; clear_value x)))
        | (refine Keeps.namedSnd (a := a) x ?_ ?_; (on_goal 1 => (revert x; show Keeps _ _)); (on_goal -1 => (intro hx; clear_value x)))
        | (refine Keeps.namedThird (a := a) x ?_ ?_; (on_goal 1 => (revert x; show Keeps _ _)); (on_goal -1 => (intro hx; clear_value x)))
        | (refine Keeps.namedFst (a := a) x ?_ ?_; (on_goal 1 => (revert x; show Keeps _ _)); (on_goal -1 => (intro hx; clear_value x)))
        | clear_value x)
    | (with_reducible first
        | apply keeps_modLnd | apply keeps_sendHello | apply keeps_sendShared | apply keeps_sendUrgent
        | refine keeps_sendHello_eq (by with_reducible assumption) ?_ | refine keeps_sendShared_eq (by with_reducible assumption) ?_
        | refine keeps_sendUrgent_eq (by with_reducible assumption) ?_ | refine Keeps.foldl ?_ ?_ | refine Keeps.foldlSnd ?_ ?_
        | refine Keeps.ite ?_ ?_)
    | (fail_if_no_progress (with_reducible refine Keeps.upd ?_))
    | (fail_if_no_progress (with_reducible refine Keeps.updHold ?_ rfl))
    | split
    | (dsimp only)

theorem keeps_nextShared_eq {a : Block} {b : Block} {x1 : ℕ} {x2 : ℕ} {x3 : ℕ} {x4 : List WordErr} {v} {c : Block} (e : nextShared x1 x2 x3 x4 b = (v, c))
    (h : Keeps a b) : Keeps a c := by
  have := keeps_nextShared x1 x2 x3 x4 h; rw [e] at this; exact this

theorem keeps_fillSlot {a : Block} {b : Block} (x1 : ℕ) (x2 : ℕ) (x3 : Option ℕ) (x4 : ℕ) (x5 : ℕ) (x6 : List WordErr)
    (h : Keeps a b) : Keeps a (fillSlot x1 x2 x3 x4 x5 x6 b) := by
  induction x4 generalizing x5 x6 b with
  | zero => rw [fillSlot.eq_def]; exact keeps_emit _ h
  | succ n ih =>
    rw [fillSlot.eq_def]; dsimp -zeta only
    repeat' first
      | (with_reducible assumption)
      | (with_reducible apply ih)
      | (intro)
      | (extract_lets +onlyGivenNames x; first
          | (refine Keeps.named (a := a) x ?_ ?_; (on_goal 1 => (revert x; show Keeps _ _)); (on_goal -1 => (intro hx; clear_value x)))
          | (refine Keeps.namedSnd (a := a) x ?_ ?_; (on_goal 1 => (revert x; show Keeps _ _)); (on_goal -1 => (intro hx; clear_value x)))
          | (refine Keeps.namedThird (a := a) x ?_ ?_; (on_goal 1 => (revert x; show Keeps _ _)); (on_goal -1 => (intro hx; clear_value x)))
          | (refine Keeps.namedFst (a := a) x ?_ ?_; (on_goal 1 => (revert x; show Keeps _ _)); (on_goal -1 => (intro hx; clear_value x)))
          | clear_value x)
      | (with_reducible first
          | apply keeps_emit | apply keeps_nextShared | apply keeps_sendOne | refine keeps_nextShared_eq (by with_reducible assumption) ?_
          | refine keeps_sendOne_eq (by with_reducible assumption) ?_ | refine Keeps.foldl ?_ ?_ | refine Keeps.foldlSnd ?_ ?_
          | refine Keeps.ite ?_ ?_)
      | (fail_if_no_progress (with_reducible refine Keeps.upd ?_))
      | (fail_if_no_progress (with_reducible refine Keeps.updHold ?_ rfl))
      | split
      | (dsimp only)

theorem keeps_fillUrgent {a : Block} {b : Block} (x1 : ℕ) (x2 : ℕ) (x3 : ℕ) (x4 : ℕ)
    (h : Keeps a b) : Keeps a (fillUrgent x1 x2 x3 x4 b) := by
  induction x3 generalizing x4 b with
  | zero => rw [fillUrgent]; exact keeps_emit _ h
  | succ n ih =>
    rw [fillUrgent]
    repeat' first
      | (with_reducible assumption)
      | (with_reducible apply ih)
      | (intro)
      | (extract_lets +onlyGivenNames x; first
          | (refine Keeps.named (a := a) x ?_ ?_; (on_goal 1 => (revert x; show Keeps _ _)); (on_goal -1 => (intro hx; clear_value x)))
          | (refine Keeps.namedSnd (a := a) x ?_ ?_; (on_goal 1 => (revert x; show Keeps _ _)); (on_goal -1 => (intro hx; clear_value x)))
          | (refine Keeps.namedThird (a := a) x ?_ ?_; (on_goal 1 => (revert x; show Keeps _ _)); (on_goal -1 => (intro hx; clear_value x)))
          | (refine Keeps.namedFst (a := a) x ?_ ?_; (on_goal 1 => (revert x; show Keeps _ _)); (on_goal -1 => (intro hx; clear_value x)))
          | clear_value x)
      | (with_reducible first
          | apply keeps_emit | apply keeps_sendUrgent | refine keeps_sendUrgent_eq (by with_reducible assumption) ?_
          | refine Keeps.foldl ?_ ?_ | refine Keeps.foldlSnd ?_ ?_ | refine Keeps.ite ?_ ?_)
      | (fail_if_no_progress (with_reducible refine Keeps.upd ?_))
      | (fail_if_no_progress (with_reducible refine Keeps.updHold ?_ rfl))
      | split
      | (dsimp only)

theorem keeps_lastSlot {a : Block} {b : Block} (x1 : ℕ) (x2 : ℕ) (x3 : Bool)
    (h : Keeps a b) : Keeps a (lastSlot x1 x2 x3 b) := by
  delta lastSlot
  repeat' first
    | (with_reducible assumption)
    | (intro)
    | (with_reducible first
        | apply keeps_emit | apply keeps_fillUrgent | apply keeps_modLnd | apply keeps_sendControls | refine Keeps.foldl ?_ ?_
        | refine Keeps.ite ?_ ?_)
    | (fail_if_no_progress (with_reducible refine Keeps.upd ?_))
    | (fail_if_no_progress (with_reducible refine Keeps.updHold ?_ rfl))
    | split
    | (dsimp only)

theorem keeps_transmitSlot {a : Block} {b : Block} (x1 : ℕ) (x2 : ℕ) (x3 : List WordErr)
    (h : Keeps a b) : Keeps a (transmitSlot x1 x2 x3 b) := by
  delta transmitSlot
  repeat' first
    | (with_reducible assumption)
    | (intro)
    | (with_reducible first
        | apply keeps_fillSlot | apply keeps_lastSlot | apply keeps_modLnd | apply keeps_sendControls | refine Keeps.foldl ?_ ?_
        | refine Keeps.ite ?_ ?_)
    | (fail_if_no_progress (with_reducible refine Keeps.upd ?_))
    | (fail_if_no_progress (with_reducible refine Keeps.updHold ?_ rfl))
    | split
    | (dsimp only)

theorem keeps_beginReceived {a : Block} {b : Block} (x1 : ℕ)
    (h : Keeps a b) : Keeps a (beginReceived x1 b) := by
  delta beginReceived
  repeat' first
    | (with_reducible assumption)
    | (intro)
    | (with_reducible first
        | apply keeps_modLnd | refine Keeps.foldl ?_ ?_ | refine Keeps.ite ?_ ?_)
    | (fail_if_no_progress (with_reducible refine Keeps.upd ?_))
    | (fail_if_no_progress (with_reducible refine Keeps.updHold ?_ rfl))
    | split
    | (dsimp only)

theorem keeps_reachSlot {a : Block} {b : Block} (x1 : ℕ) (x2 : ℕ)
    (h : Keeps a b) : Keeps a (reachSlot x1 x2 b) := by
  delta reachSlot
  repeat' first
    | (with_reducible assumption)
    | (intro)
    | (with_reducible first
        | apply keeps_modLnd | refine Keeps.foldl ?_ ?_ | refine Keeps.ite ?_ ?_)
    | (fail_if_no_progress (with_reducible refine Keeps.upd ?_))
    | (fail_if_no_progress (with_reducible refine Keeps.updHold ?_ rfl))
    | split
    | (dsimp only)

theorem keeps_takeMarker {a : Block} {b : Block} (x1 : ℕ) (x2 : List Bytes)
    (h : Keeps a b) : Keeps a (takeMarker x1 x2 b) := by
  delta takeMarker
  repeat' first
    | (with_reducible assumption)
    | (intro)
    | (with_reducible first
        | apply keeps_applyMaps | apply keeps_beginReceived | apply keeps_modLnd | apply keeps_resetLanding | refine Keeps.foldl ?_ ?_
        | refine Keeps.ite ?_ ?_)
    | (fail_if_no_progress (with_reducible refine Keeps.upd ?_))
    | (fail_if_no_progress (with_reducible refine Keeps.updHold ?_ rfl))
    | split
    | (dsimp only)

theorem keeps_lineError {a : Block} {b : Block} (x1 : ℕ)
    (h : Keeps a b) : Keeps a (lineError x1 b) := by
  delta lineError
  repeat' first
    | (with_reducible assumption)
    | (intro)
    | (with_reducible first
        | apply keeps_modLnd | apply keeps_raise | refine Keeps.foldl ?_ ?_ | refine Keeps.ite ?_ ?_)
    | (fail_if_no_progress (with_reducible refine Keeps.upd ?_))
    | (fail_if_no_progress (with_reducible refine Keeps.updHold ?_ rfl))
    | split
    | (dsimp only)

theorem keeps_lateDrop {a : Block} {b : Block} (x1 : ℕ)
    (h : Keeps a b) : Keeps a (lateDrop x1 b) := by
  delta lateDrop
  repeat' first
    | (with_reducible assumption)
    | (intro)
    | (with_reducible first
        | apply keeps_modLnd | apply keeps_recordErr | refine Keeps.foldl ?_ ?_ | refine Keeps.ite ?_ ?_)
    | (fail_if_no_progress (with_reducible refine Keeps.upd ?_))
    | (fail_if_no_progress (with_reducible refine Keeps.updHold ?_ rfl))
    | split
    | (dsimp only)

theorem keeps_tollPays {a : Block} {b : Block} (x1 : ℕ) (x2 : FrameHdr)
    (h : Keeps a b) : Keeps a (tollPays x1 x2 b).2 := by
  delta tollPays
  repeat' first
    | (with_reducible assumption)
    | (intro)
    | (with_reducible first
        | apply keeps_modLnd | apply keeps_queueCtl | refine Keeps.foldl ?_ ?_ | refine Keeps.ite ?_ ?_)
    | (fail_if_no_progress (with_reducible refine Keeps.upd ?_))
    | (fail_if_no_progress (with_reducible refine Keeps.updHold ?_ rfl))
    | split
    | (dsimp only)

theorem keeps_tollPays_eq {a : Block} {b : Block} {x1 : ℕ} {x2 : FrameHdr} {v} {c : Block} (e : tollPays x1 x2 b = (v, c))
    (h : Keeps a b) : Keeps a c := by
  have := keeps_tollPays x1 x2 h; rw [e] at this; exact this

theorem keeps_dropArea {a : Block} {b : Block} (x1 : ℕ) (x2 : ℕ)
    (h : Keeps a b) : Keeps a (dropArea x1 x2 b) := by
  delta dropArea
  repeat' first
    | (with_reducible assumption)
    | (intro)
    | (with_reducible first
        | apply keeps_modLnd | refine Keeps.foldl ?_ ?_ | refine Keeps.ite ?_ ?_)
    | (fail_if_no_progress (with_reducible refine Keeps.upd ?_))
    | (fail_if_no_progress (with_reducible refine Keeps.updHold ?_ rfl))
    | split
    | (dsimp only)

theorem keeps_checkFrame {a : Block} {b : Block} (x1 : ℕ) (x2 : ℕ) (x3 : Bytes)
    (h : Keeps a b) : Keeps a (checkFrame x1 x2 x3 b) := by
  delta checkFrame
  repeat' first
    | (with_reducible assumption)
    | (intro)
    | (with_reducible first
        | apply keeps_countDeny | apply keeps_dropArea | apply keeps_integrity | apply keeps_lateDrop | apply keeps_modLnd
        | apply keeps_recordErr | apply keeps_sendNak | apply keeps_spoilFrame | apply keeps_takeFrame | apply keeps_takeHello
        | apply keeps_tollPays | refine keeps_tollPays_eq (by with_reducible assumption) ?_ | refine Keeps.foldl ?_ ?_
        | refine Keeps.ite ?_ ?_)
    | (fail_if_no_progress (with_reducible refine Keeps.upd ?_))
    | (fail_if_no_progress (with_reducible refine Keeps.updHold ?_ rfl))
    | split
    | (dsimp only)

theorem keeps_takeWords {a : Block} {b : Block} (x1 : ℕ) (x2 : ℕ) (x3 : Bytes) (x4 : List WordErr)
    (h : Keeps a b) : Keeps a (takeWords x1 x2 x3 x4 b) := by
  delta takeWords
  repeat' first
    | (with_reducible assumption)
    | (intro)
    | (with_reducible first
        | apply keeps_checkFrame | apply keeps_count | apply keeps_dropArea | apply keeps_lineError | apply keeps_modLnd
        | apply keeps_pathRead | apply keeps_sendNak | apply keeps_spoilFrame | refine keeps_pathRead_eq (by with_reducible assumption) ?_
        | refine Keeps.foldl ?_ ?_ | refine Keeps.ite ?_ ?_)
    | (fail_if_no_progress (with_reducible refine Keeps.upd ?_))
    | (fail_if_no_progress (with_reducible refine Keeps.updHold ?_ rfl))
    | split
    | (dsimp only)

theorem keeps_receiveFrame {a : Block} {b : Block} (x1 : ℕ) (x2 : ℕ) (x3 : Bytes) (x4 : List WordErr)
    (h : Keeps a b) : Keeps a (receiveFrame x1 x2 x3 x4 b) := by
  delta receiveFrame
  repeat' first
    | (with_reducible assumption)
    | (intro)
    | (with_reducible first
        | apply keeps_reachSlot | apply keeps_takeWords | refine Keeps.foldl ?_ ?_ | refine Keeps.ite ?_ ?_)
    | (fail_if_no_progress (with_reducible refine Keeps.upd ?_))
    | (fail_if_no_progress (with_reducible refine Keeps.updHold ?_ rfl))
    | split
    | (dsimp only)

theorem keeps_receiveType {a : Block} {b : Block} (x1 : ℕ) (x2 : ℕ) (x3 : ℕ) (x4 : Bytes)
    (h : Keeps a b) : Keeps a (receiveType x1 x2 x3 x4 b) := by
  delta receiveType
  repeat' first
    | (with_reducible assumption)
    | (intro)
    | (with_reducible first
        | apply keeps_receiveFrame | refine Keeps.foldl ?_ ?_ | refine Keeps.ite ?_ ?_)
    | (fail_if_no_progress (with_reducible refine Keeps.upd ?_))
    | (fail_if_no_progress (with_reducible refine Keeps.updHold ?_ rfl))
    | split
    | (dsimp only)

theorem keeps_receiveControl {a : Block} {b : Block} (x1 : ℕ) (x2 : ℕ) (x3 : ℕ) (x4 : Bytes) (f5 : Bytes → Block → Block)
    (hf5 : ∀ y0 b, Keeps a b → Keeps a (f5 y0 b)) (h : Keeps a b) : Keeps a (receiveControl x1 x2 x3 x4 f5 b) := by
  delta receiveControl
  repeat' first
    | (with_reducible assumption)
    | (intro)
    | (with_reducible first
        | apply hf5 | apply keeps_lateDrop | apply keeps_lineError | apply keeps_modLnd | apply keeps_reachSlot | refine Keeps.foldl ?_ ?_
        | refine Keeps.ite ?_ ?_)
    | (fail_if_no_progress (with_reducible refine Keeps.upd ?_))
    | (fail_if_no_progress (with_reducible refine Keeps.updHold ?_ rfl))
    | split
    | (dsimp only)

theorem keeps_takeAck {a : Block} {b : Block} (x1 : ℕ) (x2 : Bytes)
    (h : Keeps a b) : Keeps a (takeAck x1 x2 b) := by
  delta takeAck
  repeat' first
    | (with_reducible assumption)
    | (intro)
    | (with_reducible first
        | apply keeps_ackArrives | refine Keeps.foldl ?_ ?_ | refine Keeps.ite ?_ ?_)
    | (fail_if_no_progress (with_reducible refine Keeps.upd ?_))
    | (fail_if_no_progress (with_reducible refine Keeps.updHold ?_ rfl))
    | split
    | (dsimp only)

theorem keeps_takeToll {a : Block} {b : Block} (x1 : ℕ) (x2 : Bytes)
    (h : Keeps a b) : Keeps a (takeToll x1 x2 b) := by
  delta takeToll
  repeat' first
    | (with_reducible assumption)
    | (intro)
    | (with_reducible first
        | apply keeps_modLnd | apply keeps_modXing | refine Keeps.foldl ?_ ?_ | refine Keeps.ite ?_ ?_)
    | (fail_if_no_progress (with_reducible refine Keeps.upd ?_))
    | (fail_if_no_progress (with_reducible refine Keeps.updHold ?_ rfl))
    | split
    | (dsimp only)

theorem keeps_takeFail {a : Block} {b : Block} (x1 : ℕ) (x2 : Bytes)
    (h : Keeps a b) : Keeps a (takeFail x1 x2 b) := by
  delta takeFail
  repeat' first
    | (with_reducible assumption)
    | (intro)
    | (with_reducible first
        | apply keeps_failXing | refine Keeps.foldl ?_ ?_ | refine Keeps.ite ?_ ?_)
    | (fail_if_no_progress (with_reducible refine Keeps.upd ?_))
    | (fail_if_no_progress (with_reducible refine Keeps.updHold ?_ rfl))
    | split
    | (dsimp only)

theorem keeps_drainedLanding {a : Block} {b : Block} (x1 : ℕ)
    (h : Keeps a b) : Keeps a (drainedLanding x1 b) := by
  delta drainedLanding
  repeat' first
    | (with_reducible assumption)
    | (intro)
    | (with_reducible first
        | apply keeps_modLnd | apply keeps_modPage | apply keeps_portDown | refine Keeps.foldl ?_ ?_ | refine Keeps.ite ?_ ?_)
    | (fail_if_no_progress (with_reducible refine Keeps.upd ?_))
    | (fail_if_no_progress (with_reducible refine Keeps.updHold ?_ rfl))
    | split
    | (dsimp only)

theorem keeps_landingDrained {a : Block} {b : Block} (x1 : ℕ)
    (h : Keeps a b) : Keeps a (landingDrained x1 b) := by
  delta landingDrained
  repeat' first
    | (with_reducible assumption)
    | (intro)
    | (with_reducible first
        | apply keeps_drainedLanding | refine Keeps.foldl ?_ ?_ | refine Keeps.ite ?_ ?_)
    | (fail_if_no_progress (with_reducible refine Keeps.upd ?_))
    | (fail_if_no_progress (with_reducible refine Keeps.updHold ?_ rfl))
    | split
    | (dsimp only)

theorem keeps_landingDrainTimeout {a : Block} {b : Block} (x1 : ℕ)
    (h : Keeps a b) : Keeps a (landingDrainTimeout x1 b) := by
  delta landingDrainTimeout
  repeat' first
    | (with_reducible assumption)
    | (intro)
    | (with_reducible first
        | apply keeps_drainedLanding | refine Keeps.foldl ?_ ?_ | refine Keeps.ite ?_ ?_)
    | (fail_if_no_progress (with_reducible refine Keeps.upd ?_))
    | (fail_if_no_progress (with_reducible refine Keeps.updHold ?_ rfl))
    | split
    | (dsimp only)

theorem keeps_holdFrames {a : Block} {b : Block} (x1 : ℕ) (x2 : ℕ) (f3 : Block → ℕ × Block)
    (hf3 : ∀ b, Keeps a b → Keeps a (f3 b).2) (h : Keeps a b) : Keeps a (holdFrames x1 x2 f3 b) := by
  delta holdFrames
  repeat' first
    | (with_reducible assumption)
    | (intro)
    | (with_reducible first
        | apply hf3 | apply keeps_modLnd | refine Keeps.foldl ?_ ?_ | refine Keeps.ite ?_ ?_)
    | (fail_if_no_progress (with_reducible refine Keeps.upd ?_))
    | (fail_if_no_progress (with_reducible refine Keeps.updHold ?_ rfl))
    | split
    | (dsimp only)

theorem keeps_sendNow {a : Block} {b : Block} (x1 : ℕ) (x2 : ℕ) (x3 : Bytes)
    (h : Keeps a b) : Keeps a (sendNow x1 x2 x3 b) := by
  delta sendNow
  repeat' first
    | (with_reducible assumption)
    | (intro)
    | (with_reducible first
        | apply keeps_holdFrames | apply keeps_sendAgain | apply keeps_sendFresh
        | refine keeps_sendAgain_eq (by with_reducible assumption) ?_ | refine keeps_sendFresh_eq (by with_reducible assumption) ?_
        | refine Keeps.foldl ?_ ?_ | refine Keeps.ite ?_ ?_)
    | (fail_if_no_progress (with_reducible refine Keeps.upd ?_))
    | (fail_if_no_progress (with_reducible refine Keeps.updHold ?_ rfl))
    | split
    | (dsimp only)

theorem keeps_unmapShadow {a : Block} {b : Block} (x1 : ℕ) (x2 : ℕ) (x3 : ℕ)
    (h : Keeps a b) : Keeps a (unmapShadow x1 x2 x3 b) := by
  delta unmapShadow
  repeat' first
    | (with_reducible assumption)
    | (intro)
    | (with_reducible first
        | apply keeps_setReg | refine Keeps.foldl ?_ ?_ | refine Keeps.ite ?_ ?_)
    | (fail_if_no_progress (with_reducible refine Keeps.upd ?_))
    | (fail_if_no_progress (with_reducible refine Keeps.updHold ?_ rfl))
    | split
    | (dsimp only)

theorem keeps_scrubXing {a : Block} {b : Block} (x1 : ℕ) (x2 : ℕ)
    (h : Keeps a b) : Keeps a (scrubXing x1 x2 b) := by
  delta scrubXing
  repeat' first
    | (with_reducible assumption)
    | (intro)
    | (with_reducible first
        | apply keeps_discardXing | apply keeps_modLnd | apply keeps_setReg | apply keeps_unmapShadow | refine Keeps.foldl ?_ ?_
        | refine Keeps.ite ?_ ?_)
    | (fail_if_no_progress (with_reducible refine Keeps.upd ?_))
    | (fail_if_no_progress (with_reducible refine Keeps.updHold ?_ rfl))
    | split
    | (dsimp only)

theorem keeps_scrubLnkc {a : Block} {b : Block} (x1 : ℕ)
    (h : Keeps a b) : Keeps a (scrubLnkc x1 b) := by
  delta scrubLnkc
  repeat' first
    | (with_reducible assumption)
    | (intro)
    | (with_reducible first
        | apply keeps_setReg | refine Keeps.foldl ?_ ?_ | refine Keeps.ite ?_ ?_)
    | (fail_if_no_progress (with_reducible refine Keeps.upd ?_))
    | (fail_if_no_progress (with_reducible refine Keeps.updHold ?_ rfl))
    | split
    | (dsimp only)

theorem keeps_resetUse {a : Block} {b : Block} (x1 : ℕ) (x2 : ℕ) (x3 : ℕ)
    (h : Keeps a b) : Keeps a (resetUse x1 x2 x3 b) := by
  delta resetUse
  repeat' first
    | (with_reducible assumption)
    | (intro)
    | (with_reducible first
        | apply keeps_modXing | refine Keeps.foldl ?_ ?_ | refine Keeps.ite ?_ ?_)
    | (fail_if_no_progress (with_reducible refine Keeps.upd ?_))
    | (fail_if_no_progress (with_reducible refine Keeps.updHold ?_ rfl))
    | split
    | (dsimp only)

theorem keeps_refill {a : Block} {b : Block} (x1 : ℕ) (x2 : ℕ) (x3 : Bool)
    (h : Keeps a b) : Keeps a (refill x1 x2 x3 b) := by
  delta refill
  repeat' first
    | (with_reducible assumption)
    | (intro)
    | (with_reducible first
        | apply keeps_modXing | apply keeps_resetUse | refine Keeps.foldl ?_ ?_ | refine Keeps.ite ?_ ?_)
    | (fail_if_no_progress (with_reducible refine Keeps.upd ?_))
    | (fail_if_no_progress (with_reducible refine Keeps.updHold ?_ rfl))
    | split
    | (dsimp only)

theorem keeps_resetGphUse {a : Block} {b : Block} (x1 : ℕ) (x2 : Bool)
    (h : Keeps a b) : Keeps a (resetGphUse x1 x2 b) := by
  delta resetGphUse
  repeat' first
    | (with_reducible assumption)
    | (intro)
    | (with_reducible first
        | apply keeps_resetUse | refine Keeps.foldl ?_ ?_ | refine Keeps.ite ?_ ?_)
    | (fail_if_no_progress (with_reducible refine Keeps.upd ?_))
    | (fail_if_no_progress (with_reducible refine Keeps.updHold ?_ rfl))
    | split
    | (dsimp only)

theorem keeps_setGkm {a : Block} {b : Block} (x1 : ℕ) (x2 : ℕ) (x3 : Bool) (x4 : Word)
    (h : Keeps a b) : Keeps a (setGkm x1 x2 x3 x4 b) := by
  delta setGkm
  repeat' first
    | (with_reducible assumption)
    | (intro)
    | (with_reducible first
        | apply keeps_resetGphUse | apply keeps_setReg | refine Keeps.foldl ?_ ?_ | refine Keeps.ite ?_ ?_)
    | (fail_if_no_progress (with_reducible refine Keeps.upd ?_))
    | (fail_if_no_progress (with_reducible refine Keeps.updHold ?_ rfl))
    | split
    | (dsimp only)

theorem keeps_setXkid {a : Block} {b : Block} (x1 : ℕ) (x2 : ℕ) (x3 : Word)
    (h : Keeps a b) : Keeps a (setXkid x1 x2 x3 b) := by
  delta setXkid
  repeat' first
    | (with_reducible assumption)
    | (intro)
    | (with_reducible first
        | apply keeps_refill | apply keeps_setReg | refine Keeps.foldl ?_ ?_ | refine Keeps.ite ?_ ?_)
    | (fail_if_no_progress (with_reducible refine Keeps.upd ?_))
    | (fail_if_no_progress (with_reducible refine Keeps.updHold ?_ rfl))
    | split
    | (dsimp only)

theorem keeps_setXswitch {a : Block} {b : Block} (x1 : ℕ) (x2 : ℕ) (x3 : Word)
    (h : Keeps a b) : Keeps a (setXswitch x1 x2 x3 b) := by
  delta setXswitch
  repeat' first
    | (with_reducible assumption)
    | (intro)
    | (with_reducible first
        | apply keeps_modXing | apply keeps_setReg | refine Keeps.foldl ?_ ?_ | refine Keeps.ite ?_ ?_)
    | (fail_if_no_progress (with_reducible refine Keeps.upd ?_))
    | (fail_if_no_progress (with_reducible refine Keeps.updHold ?_ rfl))
    | split
    | (dsimp only)

theorem keeps_xingWrite {a : Block} {b : Block} (x1 : ℕ) (x2 : ℕ) (x3 : Word) (x4 : Option ℕ)
    (h : Keeps a b) : Keeps a (xingWrite x1 x2 x3 x4 b) := by
  delta xingWrite
  repeat' first
    | (with_reducible assumption)
    | (intro)
    | (with_reducible first
        | apply keeps_recordErr | apply keeps_setReg | apply keeps_setXkid | apply keeps_setXswitch | apply keeps_startProve
        | refine Keeps.foldl ?_ ?_ | refine Keeps.ite ?_ ?_)
    | (fail_if_no_progress (with_reducible refine Keeps.upd ?_))
    | (fail_if_no_progress (with_reducible refine Keeps.updHold ?_ rfl))
    | split
    | (dsimp only)

end Sys2Proof.Machine
end

