-- ==== Sys2Proof/Laws/KeepsMemory.lean ====
section
/-!
SUPPORT. What the operations keep (Keeps), one lemma an operation: ports, engine S, objects, contexts, engine A and transfers.
-/

set_option linter.unusedTactic false
set_option linter.unreachableTactic false

namespace Sys2Proof.Machine

/-! ### Ports -/

theorem keeps_modMema {a : Block} {b : Block} (x1 : Mema → Mema)
    (h : Keeps a b) : Keeps a (modMema x1 b) := by
  delta modMema
  repeat' first
    | (with_reducible assumption)
    | (intro)
    | (with_reducible first
        | refine Keeps.foldl ?_ ?_ | refine Keeps.ite ?_ ?_)
    | (fail_if_no_progress (with_reducible refine Keeps.upd ?_))
    | (fail_if_no_progress (with_reducible refine Keeps.updHold ?_ rfl))
    | split
    | (dsimp only)

theorem keeps_putRead {a : Block} {b : Block} (x1 : ℕ) (x2 : ℕ) (x3 : ℕ)
    (h : Keeps a b) : Keeps a (putRead x1 x2 x3 b) := by
  delta putRead
  repeat' first
    | (with_reducible assumption)
    | (intro)
    | (with_reducible first
        | apply keeps_emit | refine Keeps.foldl ?_ ?_ | refine Keeps.ite ?_ ?_)
    | (fail_if_no_progress (with_reducible refine Keeps.upd ?_))
    | (fail_if_no_progress (with_reducible refine Keeps.updHold ?_ rfl))
    | split
    | (dsimp only)

theorem keeps_putWrite {a : Block} {b : Block} (x1 : ℕ) (x2 : ℕ) (x3 : ℕ) (x4 : Bytes)
    (h : Keeps a b) : Keeps a (putWrite x1 x2 x3 x4 b) := by
  delta putWrite
  repeat' first
    | (with_reducible assumption)
    | (intro)
    | (with_reducible first
        | apply keeps_emit | refine Keeps.foldl ?_ ?_ | refine Keeps.ite ?_ ?_)
    | (fail_if_no_progress (with_reducible refine Keeps.upd ?_))
    | (fail_if_no_progress (with_reducible refine Keeps.updHold ?_ rfl))
    | split
    | (dsimp only)

theorem keeps_sendRead {a : Block} {b : Block} (x1 : ℕ) (x2 : ℕ) (x3 : AFetch)
    (h : Keeps a b) : Keeps a (sendRead x1 x2 x3 b) := by
  delta sendRead
  repeat' first
    | (with_reducible assumption)
    | (intro)
    | (with_reducible first
        | apply keeps_modMema | apply keeps_putRead | refine Keeps.foldl ?_ ?_ | refine Keeps.ite ?_ ?_)
    | (fail_if_no_progress (with_reducible refine Keeps.upd ?_))
    | (fail_if_no_progress (with_reducible refine Keeps.updHold ?_ rfl))
    | split
    | (dsimp only)

theorem keeps_sendWrite {a : Block} {b : Block} (x1 : ℕ) (x2 : ℕ) (x3 : ℕ) (x4 : Bytes) (x5 : OpRef)
    (h : Keeps a b) : Keeps a (sendWrite x1 x2 x3 x4 x5 b) := by
  delta sendWrite
  repeat' first
    | (with_reducible assumption)
    | (intro)
    | (with_reducible first
        | apply keeps_modMema | apply keeps_putWrite | refine Keeps.foldl ?_ ?_ | refine Keeps.ite ?_ ?_)
    | (fail_if_no_progress (with_reducible refine Keeps.upd ?_))
    | (fail_if_no_progress (with_reducible refine Keeps.updHold ?_ rfl))
    | split
    | (dsimp only)

/-! ### Mems -/

theorem keeps_modMems {a : Block} {b : Block} (x1 : Mems → Mems)
    (h : Keeps a b) : Keeps a (modMems x1 b) := by
  delta modMems
  repeat' first
    | (with_reducible assumption)
    | (intro)
    | (with_reducible first
        | refine Keeps.foldl ?_ ?_ | refine Keeps.ite ?_ ?_)
    | (fail_if_no_progress (with_reducible refine Keeps.upd ?_))
    | (fail_if_no_progress (with_reducible refine Keeps.updHold ?_ rfl))
    | split
    | (dsimp only)

theorem keeps_modSrgn {a : Block} {b : Block} (x1 : ℕ) (x2 : SRegion → SRegion)
    (h : Keeps a b) : Keeps a (modSrgn x1 x2 b) := by
  delta modSrgn
  repeat' first
    | (with_reducible assumption)
    | (intro)
    | (with_reducible first
        | apply keeps_modMems | refine Keeps.foldl ?_ ?_ | refine Keeps.ite ?_ ?_)
    | (fail_if_no_progress (with_reducible refine Keeps.upd ?_))
    | (fail_if_no_progress (with_reducible refine Keeps.updHold ?_ rfl))
    | split
    | (dsimp only)

theorem keeps_denyMems {a : Block} {b : Block} (x1 : ℕ)
    (h : Keeps a b) : Keeps a (denyMems x1 b) := by
  delta denyMems
  repeat' first
    | (with_reducible assumption)
    | (intro)
    | (with_reducible first
        | apply keeps_modMems | apply keeps_raise | apply keeps_recordErr | refine Keeps.foldl ?_ ?_ | refine Keeps.ite ?_ ?_)
    | (fail_if_no_progress (with_reducible refine Keeps.upd ?_))
    | (fail_if_no_progress (with_reducible refine Keeps.updHold ?_ rfl))
    | split
    | (dsimp only)

theorem keeps_sliceRead {a : Block} {b : Block} (x1 : SReq)
    (h : Keeps a b) : Keeps a (sliceRead x1 b) := by
  delta sliceRead
  repeat' first
    | (with_reducible assumption)
    | (intro)
    | (with_reducible first
        | apply keeps_emit | apply keeps_modMems | refine Keeps.foldl ?_ ?_ | refine Keeps.ite ?_ ?_)
    | (fail_if_no_progress (with_reducible refine Keeps.upd ?_))
    | (fail_if_no_progress (with_reducible refine Keeps.updHold ?_ rfl))
    | split
    | (dsimp only)

theorem keeps_sliceWrite {a : Block} {b : Block} (x1 : ℕ) (x2 : ℕ) (x3 : ℕ) (x4 : ℕ) (x5 : ℕ) (x6 : Bytes)
    (h : Keeps a b) : Keeps a (sliceWrite x1 x2 x3 x4 x5 x6 b) := by
  delta sliceWrite
  repeat' first
    | (with_reducible assumption)
    | (intro)
    | (with_reducible first
        | apply keeps_emit | refine Keeps.foldl ?_ ?_ | refine Keeps.ite ?_ ?_)
    | (fail_if_no_progress (with_reducible refine Keeps.upd ?_))
    | (fail_if_no_progress (with_reducible refine Keeps.updHold ?_ rfl))
    | split
    | (dsimp only)

theorem keeps_addPatch {a : Block} {b : Block} (x1 : ℕ) (x2 : ℕ) (x3 : ℕ) (x4 : Bytes)
    (h : Keeps a b) : Keeps a (addPatch x1 x2 x3 x4 b) := by
  delta addPatch
  repeat' first
    | (with_reducible assumption)
    | (intro)
    | (with_reducible first
        | apply keeps_modMems | refine Keeps.foldl ?_ ?_ | refine Keeps.ite ?_ ?_)
    | (fail_if_no_progress (with_reducible refine Keeps.upd ?_))
    | (fail_if_no_progress (with_reducible refine Keeps.updHold ?_ rfl))
    | split
    | (dsimp only)

theorem keeps_fabricRequest {a : Block} {b : Block} (x1 : ℕ) (x2 : ℕ) (x3 : ℕ) (x4 : ℕ) (x5 : ℕ) (x6 : Option Bytes)
    (h : Keeps a b) : Keeps a (fabricRequest x1 x2 x3 x4 x5 x6 b) := by
  delta fabricRequest
  repeat' first
    | (with_reducible assumption)
    | (intro)
    | (with_reducible first
        | apply keeps_addPatch | apply keeps_denyMems | apply keeps_emit | apply keeps_sliceRead | apply keeps_sliceWrite
        | refine Keeps.foldl ?_ ?_ | refine Keeps.ite ?_ ?_)
    | (fail_if_no_progress (with_reducible refine Keeps.upd ?_))
    | (fail_if_no_progress (with_reducible refine Keeps.updHold ?_ rfl))
    | split
    | (dsimp only)

theorem keeps_internalRead {a : Block} {b : Block} (x1 : ℕ) (x2 : ℕ) (x3 : ℕ) (x4 : OpRef)
    (h : Keeps a b) : Keeps a (internalRead x1 x2 x3 x4 b) := by
  delta internalRead
  repeat' first
    | (with_reducible assumption)
    | (intro)
    | (with_reducible first
        | apply keeps_count | apply keeps_denyMems | apply keeps_later | apply keeps_sliceRead | refine Keeps.foldl ?_ ?_
        | refine Keeps.ite ?_ ?_)
    | (fail_if_no_progress (with_reducible refine Keeps.upd ?_))
    | (fail_if_no_progress (with_reducible refine Keeps.updHold ?_ rfl))
    | split
    | (dsimp only)

theorem keeps_pumpWrites {a : Block} {b : Block} (x1 : ℕ) (x2 : ℕ)
    (h : Keeps a b) : Keeps a (pumpWrites x1 x2 b) := by
  induction x2 generalizing b with
  | zero => rw [pumpWrites]; with_reducible assumption
  | succ n ih =>
    first | rw [pumpWrites] | (rw [pumpWrites.eq_def]; dsimp -zeta only)
    repeat' first
      | (with_reducible assumption)
      | (with_reducible apply ih)
      | (intro)
      | (extract_lets +onlyGivenNames x; first
          | (refine Keeps.named (a := a) x ?_ ?_; (on_goal 1 => (revert x; show Keeps _ _)); (on_goal -1 => (intro hx; clear_value x)))
          | (refine Keeps.namedSnd (a := a) x ?_ ?_; (on_goal 1 => (revert x; show Keeps _ _)); (on_goal -1 => (intro hx; clear_value x)))
          | (refine Keeps.namedThird (a := a) x ?_ ?_; (on_goal 1 => (revert x; show Keeps _ _)); (on_goal -1 => (intro hx; clear_value x)))
          | (refine Keeps.namedFst (a := a) x ?_ ?_; (on_goal 1 => (revert x; show Keeps _ _)); (on_goal -1 => (intro hx; clear_value x)))
          | clear_value x)
      | (with_reducible first
          | apply keeps_count | apply keeps_later | apply keeps_modMems | apply keeps_sliceRead | apply keeps_sliceWrite
          | refine Keeps.foldl ?_ ?_ | refine Keeps.foldlSnd ?_ ?_ | refine Keeps.ite ?_ ?_)
      | (fail_if_no_progress (with_reducible refine Keeps.upd ?_))
      | (fail_if_no_progress (with_reducible refine Keeps.updHold ?_ rfl))
      | split
      | (dsimp only)

theorem keeps_internalWrite {a : Block} {b : Block} (x1 : ℕ) (x2 : ℕ) (x3 : ℕ) (x4 : ℕ) (x5 : Bytes) (x6 : OpRef)
    (h : Keeps a b) : Keeps a (internalWrite x1 x2 x3 x4 x5 x6 b) := by
  delta internalWrite
  repeat' first
    | (with_reducible assumption)
    | (intro)
    | (with_reducible first
        | apply keeps_denyMems | apply keeps_later | apply keeps_modMems | apply keeps_pumpWrites | refine Keeps.foldl ?_ ?_
        | refine Keeps.ite ?_ ?_)
    | (fail_if_no_progress (with_reducible refine Keeps.upd ?_))
    | (fail_if_no_progress (with_reducible refine Keeps.updHold ?_ rfl))
    | split
    | (dsimp only)

theorem keeps_blockWrite {a : Block} {b : Block} (x1 : ℕ) (x2 : RgnEnt) (x3 : ℕ) (x4 : Bytes) (x5 : OpRef)
    (h : Keeps a b) : Keeps a (blockWrite x1 x2 x3 x4 x5 b) := by
  delta blockWrite
  repeat' first
    | (with_reducible assumption)
    | (intro)
    | (with_reducible first
        | apply keeps_internalWrite | apply keeps_sendWrite | refine Keeps.foldl ?_ ?_ | refine Keeps.ite ?_ ?_)
    | (fail_if_no_progress (with_reducible refine Keeps.upd ?_))
    | (fail_if_no_progress (with_reducible refine Keeps.updHold ?_ rfl))
    | split
    | (dsimp only)

theorem keeps_answerFabric {a : Block} {b : Block} (x1 : SReq) (x2 : Bytes) (x3 : Bool)
    (h : Keeps a b) : Keeps a (answerFabric x1 x2 x3 b) := by
  delta answerFabric
  repeat' first
    | (with_reducible assumption)
    | (intro)
    | (with_reducible first
        | apply keeps_emit | refine Keeps.foldl ?_ ?_ | refine Keeps.ite ?_ ?_)
    | (fail_if_no_progress (with_reducible refine Keeps.upd ?_))
    | (fail_if_no_progress (with_reducible refine Keeps.updHold ?_ rfl))
    | split
    | (dsimp only)

theorem keeps_answerInternal {a : Block} {b : Block} (x1 : SReq) (x2 : Bytes)
    (h : Keeps a b) : Keeps a (answerInternal x1 x2 b) := by
  delta answerInternal
  repeat' first
    | (with_reducible assumption)
    | (intro)
    | (with_reducible first
        | apply keeps_count | apply keeps_later | apply keeps_pumpWrites | apply keeps_sliceWrite | refine Keeps.foldl ?_ ?_
        | refine Keeps.ite ?_ ?_)
    | (fail_if_no_progress (with_reducible refine Keeps.upd ?_))
    | (fail_if_no_progress (with_reducible refine Keeps.updHold ?_ rfl))
    | split
    | (dsimp only)

theorem keeps_mcResponse {a : Block} {b : Block} (x1 : ℕ) (x2 : ℕ) (x3 : ℕ) (x4 : Bytes) (x5 : Bool) (x6 : List WordErr)
    (h : Keeps a b) : Keeps a (mcResponse x1 x2 x3 x4 x5 x6 b) := by
  delta mcResponse
  repeat' first
    | (with_reducible assumption)
    | (intro)
    | (extract_lets +onlyGivenNames x; first
        | (refine Keeps.named (a := a) x ?_ ?_; (on_goal 1 => (revert x; show Keeps _ _)); (on_goal -1 => (intro hx; clear_value x)))
        | (refine Keeps.namedSnd (a := a) x ?_ ?_; (on_goal 1 => (revert x; show Keeps _ _)); (on_goal -1 => (intro hx; clear_value x)))
        | (refine Keeps.namedThird (a := a) x ?_ ?_; (on_goal 1 => (revert x; show Keeps _ _)); (on_goal -1 => (intro hx; clear_value x)))
        | (refine Keeps.namedFst (a := a) x ?_ ?_; (on_goal 1 => (revert x; show Keeps _ _)); (on_goal -1 => (intro hx; clear_value x)))
        | clear_value x)
    | (with_reducible first
        | apply keeps_answerFabric | apply keeps_answerInternal | apply keeps_later | apply keeps_modMems | apply keeps_pathRead
        | apply keeps_poisonError | apply keeps_pumpWrites | apply keeps_sliceRead
        | refine keeps_pathRead_eq (by with_reducible assumption) ?_ | refine Keeps.foldl ?_ ?_ | refine Keeps.foldlSnd ?_ ?_
        | refine Keeps.ite ?_ ?_)
    | (fail_if_no_progress (with_reducible refine Keeps.upd ?_))
    | (fail_if_no_progress (with_reducible refine Keeps.updHold ?_ rfl))
    | split
    | (dsimp only)

theorem keeps_mixLoaded {a : Block} {b : Block} (x1 : ℕ)
    (h : Keeps a b) : Keeps a (mixLoaded x1 b).2 := by
  delta mixLoaded
  repeat' first
    | (with_reducible assumption)
    | (intro)
    | (with_reducible first
        | apply keeps_modMems | refine Keeps.foldl ?_ ?_ | refine Keeps.ite ?_ ?_)
    | (fail_if_no_progress (with_reducible refine Keeps.upd ?_))
    | (fail_if_no_progress (with_reducible refine Keeps.updHold ?_ rfl))
    | split
    | (dsimp only)

theorem keeps_mixLoaded_eq {a : Block} {b : Block} {x1 : ℕ} {v} {c : Block} (e : mixLoaded x1 b = (v, c))
    (h : Keeps a b) : Keeps a c := by
  have := keeps_mixLoaded x1 h; rw [e] at this; exact this

theorem keeps_mixUnload {a : Block} {b : Block} (x1 : ℕ)
    (h : Keeps a b) : Keeps a (mixUnload x1 b) := by
  delta mixUnload
  repeat' first
    | (with_reducible assumption)
    | (intro)
    | (with_reducible first
        | apply keeps_later | apply keeps_modMems | refine Keeps.foldl ?_ ?_ | refine Keeps.ite ?_ ?_)
    | (fail_if_no_progress (with_reducible refine Keeps.upd ?_))
    | (fail_if_no_progress (with_reducible refine Keeps.updHold ?_ rfl))
    | split
    | (dsimp only)

theorem keeps_srgnWrite {a : Block} {b : Block} (x1 : ℕ) (x2 : Word)
    (h : Keeps a b) : Keeps a (srgnWrite x1 x2 b) := by
  delta srgnWrite
  repeat' first
    | (with_reducible assumption)
    | (intro)
    | (with_reducible first
        | apply keeps_modSrgn | apply keeps_recordErr | refine Keeps.foldl ?_ ?_ | refine Keeps.ite ?_ ?_)
    | (fail_if_no_progress (with_reducible refine Keeps.upd ?_))
    | (fail_if_no_progress (with_reducible refine Keeps.updHold ?_ rfl))
    | split
    | (dsimp only)

theorem keeps_createHbm_eq {a : Block} {b : Block} {w g base len : ℕ} {v} {c : Block} (e : createHbm w g base len b = some (v, c))
    (h : Keeps a b) : Keeps a c := by
  simp only [createHbm] at e
  split at e
  · simp at e
  · split at e
    · simp at e
    · split at e <;> simp at e
      obtain ⟨-, rfl⟩ := e
      exact keeps_modSrgn _ _ h

theorem keeps_clearSrgns {a : Block} {b : Block} (x1 : ℕ)
    (h : Keeps a b) : Keeps a (clearSrgns x1 b) := by
  delta clearSrgns
  repeat' first
    | (with_reducible assumption)
    | (intro)
    | (with_reducible first
        | apply keeps_modMems | refine Keeps.foldl ?_ ?_ | refine Keeps.ite ?_ ?_)
    | (fail_if_no_progress (with_reducible refine Keeps.upd ?_))
    | (fail_if_no_progress (with_reducible refine Keeps.updHold ?_ rfl))
    | split
    | (dsimp only)

/-! ### Objects -/

theorem keeps_newObj_eq {a : Block} {b : Block} {w : ℕ} {k : ObjKind} {v} {c : Block} (e : newObj w k b = some (v, c)) (h : Keeps a b) :
    Keeps a c := by
  simp only [newObj] at e
  split at e <;> simp at e
  obtain ⟨-, rfl⟩ := e
  exact keeps_modObj _ _ h

theorem keeps_writeMirror {a : Block} {b : Block} (x1 : ℕ)
    (h : Keeps a b) : Keeps a (writeMirror x1 b) := by
  delta writeMirror
  repeat' first
    | (with_reducible assumption)
    | (intro)
    | (with_reducible first
        | apply keeps_blockWrite | refine Keeps.foldl ?_ ?_ | refine Keeps.ite ?_ ?_)
    | (fail_if_no_progress (with_reducible refine Keeps.upd ?_))
    | (fail_if_no_progress (with_reducible refine Keeps.updHold ?_ rfl))
    | split
    | (dsimp only)

theorem keeps_changeFence {a : Block} {b : Block} (x1 : ℕ) (x2 : Fence → Fence)
    (h : Keeps a b) : Keeps a (changeFence x1 x2 b) := by
  delta changeFence
  repeat' first
    | (with_reducible assumption)
    | (intro)
    | (with_reducible first
        | apply keeps_later | apply keeps_modFence | apply keeps_writeMirror | refine Keeps.foldl ?_ ?_ | refine Keeps.ite ?_ ?_)
    | (fail_if_no_progress (with_reducible refine Keeps.upd ?_))
    | (fail_if_no_progress (with_reducible refine Keeps.updHold ?_ rfl))
    | split
    | (dsimp only)

theorem keeps_newFence_eq {a : Block} {b : Block} {w : ℕ} {i} {m} {v} {c : Block} (e : newFence w i m b = some (v, c)) (h : Keeps a b) :
    Keeps a c := by
  simp only [newFence] at e
  split at e <;> simp at e
  obtain ⟨-, rfl⟩ := e
  exact keeps_writeMirror _ (keeps_modFence _ _ h)

theorem keeps_failFence {a : Block} {b : Block} (x1 : ℕ)
    (h : Keeps a b) : Keeps a (failFence x1 b) := by
  delta failFence
  repeat' first
    | (with_reducible assumption)
    | (intro)
    | (with_reducible first
        | apply keeps_changeFence | apply keeps_later | refine Keeps.foldl ?_ ?_ | refine Keeps.ite ?_ ?_)
    | (fail_if_no_progress (with_reducible refine Keeps.upd ?_))
    | (fail_if_no_progress (with_reducible refine Keeps.updHold ?_ rfl))
    | split
    | (dsimp only)

theorem keeps_signalFence {a : Block} {b : Block} (x1 : ℕ) (x2 : ℕ) (x3 : BitVec 64)
    (h : Keeps a b) : Keeps a (signalFence x1 x2 x3 b).2 := by
  delta signalFence
  repeat' first
    | (with_reducible assumption)
    | (intro)
    | (with_reducible first
        | apply keeps_changeFence | apply keeps_failFence | apply keeps_modFence | apply keeps_trace | apply keeps_writeMirror
        | refine Keeps.foldl ?_ ?_ | refine Keeps.ite ?_ ?_)
    | (fail_if_no_progress (with_reducible refine Keeps.upd ?_))
    | (fail_if_no_progress (with_reducible refine Keeps.updHold ?_ rfl))
    | split
    | (dsimp only)

theorem keeps_signalFence_eq {a : Block} {b : Block} {x1 : ℕ} {x2 : ℕ} {x3 : BitVec 64} {v} {c : Block} (e : signalFence x1 x2 x3 b = (v, c))
    (h : Keeps a b) : Keeps a c := by
  have := keeps_signalFence x1 x2 x3 h; rw [e] at this; exact this

theorem keeps_resetFence {a : Block} {b : Block} (x1 : ℕ)
    (h : Keeps a b) : Keeps a (resetFence x1 b).2 := by
  delta resetFence
  repeat' first
    | (with_reducible assumption)
    | (intro)
    | (with_reducible first
        | apply keeps_changeFence | refine Keeps.foldl ?_ ?_ | refine Keeps.ite ?_ ?_)
    | (fail_if_no_progress (with_reducible refine Keeps.upd ?_))
    | (fail_if_no_progress (with_reducible refine Keeps.updHold ?_ rfl))
    | split
    | (dsimp only)

theorem keeps_resetFence_eq {a : Block} {b : Block} {x1 : ℕ} {v} {c : Block} (e : resetFence x1 b = (v, c))
    (h : Keeps a b) : Keeps a c := by
  have := keeps_resetFence x1 h; rw [e] at this; exact this

theorem keeps_deferredSignal {a : Block} {b : Block} (x1 : Option Deferred)
    (h : Keeps a b) : Keeps a (deferredSignal x1 b) := by
  delta deferredSignal
  repeat' first
    | (with_reducible assumption)
    | (intro)
    | (with_reducible first
        | apply keeps_later | apply keeps_signalFence | refine keeps_signalFence_eq (by with_reducible assumption) ?_
        | refine Keeps.foldl ?_ ?_ | refine Keeps.ite ?_ ?_)
    | (fail_if_no_progress (with_reducible refine Keeps.upd ?_))
    | (fail_if_no_progress (with_reducible refine Keeps.updHold ?_ rfl))
    | split
    | (dsimp only)

theorem keeps_finishFree {a : Block} {b : Block} (x1 : Bool) (x2 : ℕ)
    (h : Keeps a b) : Keeps a (finishFree x1 x2 b) := by
  delta finishFree
  repeat' first
    | (with_reducible assumption)
    | (intro)
    | (with_reducible first
        | apply keeps_emptyLine | apply keeps_modFence | apply keeps_modObj | refine Keeps.foldl ?_ ?_ | refine Keeps.ite ?_ ?_)
    | (fail_if_no_progress (with_reducible refine Keeps.upd ?_))
    | (fail_if_no_progress (with_reducible refine Keeps.updHold ?_ rfl))
    | split
    | (dsimp only)

theorem keeps_acceptFree {a : Block} {b : Block} (x1 : Bool) (x2 : ℕ) (x3 : Option Deferred)
    (h : Keeps a b) : Keeps a (acceptFree x1 x2 x3 b).2 := by
  delta acceptFree
  repeat' first
    | (with_reducible assumption)
    | (intro)
    | (with_reducible first
        | apply keeps_finishFree | apply keeps_later | apply keeps_modFence | apply keeps_modObj | refine Keeps.foldl ?_ ?_
        | refine Keeps.ite ?_ ?_)
    | (fail_if_no_progress (with_reducible refine Keeps.upd ?_))
    | (fail_if_no_progress (with_reducible refine Keeps.updHold ?_ rfl))
    | split
    | (dsimp only)

theorem keeps_acceptFree_eq {a : Block} {b : Block} {x1 : Bool} {x2 : ℕ} {x3 : Option Deferred} {v} {c : Block} (e : acceptFree x1 x2 x3 b = (v, c))
    (h : Keeps a b) : Keeps a c := by
  have := keeps_acceptFree x1 x2 x3 h; rw [e] at this; exact this

theorem keeps_deferredFree {a : Block} {b : Block} (x1 : Bool) (x2 : ℕ)
    (h : Keeps a b) : Keeps a (deferredFree x1 x2 b) := by
  delta deferredFree
  repeat' first
    | (with_reducible assumption)
    | (intro)
    | (with_reducible first
        | apply keeps_deferredSignal | apply keeps_finishFree | refine Keeps.foldl ?_ ?_ | refine Keeps.ite ?_ ?_)
    | (fail_if_no_progress (with_reducible refine Keeps.upd ?_))
    | (fail_if_no_progress (with_reducible refine Keeps.updHold ?_ rfl))
    | split
    | (dsimp only)

theorem keeps_scrubObjects {a : Block} {b : Block} (x1 : ℕ)
    (h : Keeps a b) : Keeps a (scrubObjects x1 b) := by
  delta scrubObjects
  repeat' first
    | (with_reducible assumption)
    | (intro)
    | (with_reducible first
        | apply keeps_modFence | apply keeps_modObj | refine Keeps.foldl ?_ ?_ | refine Keeps.ite ?_ ?_)
    | (fail_if_no_progress (with_reducible refine Keeps.upd ?_))
    | (fail_if_no_progress (with_reducible refine Keeps.updHold ?_ rfl))
    | split
    | (dsimp only)

/-! ### Contexts -/

theorem keeps_acceptCmd {a : Block} {b : Block} (x1 : ℕ) (x2 : ℕ) (x3 : Bytes)
    (h : Keeps a b) : Keeps a (acceptCmd x1 x2 x3 b) := by
  delta acceptCmd
  repeat' first
    | (with_reducible assumption)
    | (intro)
    | (with_reducible first
        | apply keeps_acceptFree | apply keeps_count | apply keeps_modCtx | refine keeps_acceptFree_eq (by with_reducible assumption) ?_
        | refine Keeps.foldl ?_ ?_ | refine Keeps.ite ?_ ?_)
    | (fail_if_no_progress (with_reducible refine Keeps.upd ?_))
    | (fail_if_no_progress (with_reducible refine Keeps.updHold ?_ rfl))
    | split
    | (dsimp only)

theorem keeps_descWrite {a : Block} {b : Block} (x1 : ℕ) (x2 : ℕ) (x3 : Bytes)
    (h : Keeps a b) : Keeps a (descWrite x1 x2 x3 b) := by
  delta descWrite
  repeat' first
    | (with_reducible assumption)
    | (intro)
    | (with_reducible first
        | apply keeps_blockWrite | refine Keeps.foldl ?_ ?_ | refine Keeps.ite ?_ ?_)
    | (fail_if_no_progress (with_reducible refine Keeps.upd ?_))
    | (fail_if_no_progress (with_reducible refine Keeps.updHold ?_ rfl))
    | split
    | (dsimp only)

theorem keeps_cplWrite {a : Block} {b : Block} (x1 : ℕ) (x2 : Bytes)
    (h : Keeps a b) : Keeps a (cplWrite x1 x2 b) := by
  delta cplWrite
  repeat' first
    | (with_reducible assumption)
    | (intro)
    | (with_reducible first
        | apply keeps_blockWrite | refine Keeps.foldl ?_ ?_ | refine Keeps.ite ?_ ?_)
    | (fail_if_no_progress (with_reducible refine Keeps.upd ?_))
    | (fail_if_no_progress (with_reducible refine Keeps.updHold ?_ rfl))
    | split
    | (dsimp only)

theorem keeps_modCmd {a : Block} {b : Block} (x1 : ℕ) (x2 : ℕ) (x3 : Cmd → Cmd)
    (h : Keeps a b) : Keeps a (modCmd x1 x2 x3 b) := by
  delta modCmd
  repeat' first
    | (with_reducible assumption)
    | (intro)
    | (with_reducible first
        | apply keeps_modCtx | refine Keeps.foldl ?_ ?_ | refine Keeps.ite ?_ ?_)
    | (fail_if_no_progress (with_reducible refine Keeps.upd ?_))
    | (fail_if_no_progress (with_reducible refine Keeps.updHold ?_ rfl))
    | split
    | (dsimp only)

theorem keeps_finishCmd {a : Block} {b : Block} (x1 : ℕ) (x2 : ℕ) (x3 : Byte) (x4 : Word)
    (h : Keeps a b) : Keeps a (finishCmd x1 x2 x3 x4 b) := by
  delta finishCmd
  repeat' first
    | (with_reducible assumption)
    | (intro)
    | (with_reducible first
        | apply keeps_modCmd | refine Keeps.foldl ?_ ?_ | refine Keeps.ite ?_ ?_)
    | (fail_if_no_progress (with_reducible refine Keeps.upd ?_))
    | (fail_if_no_progress (with_reducible refine Keeps.updHold ?_ rfl))
    | split
    | (dsimp only)

theorem keeps_chargeOverrun {a : Block} {b : Block} (x1 : ℕ) (x2 : ℕ)
    (h : Keeps a b) : Keeps a (chargeOverrun x1 x2 b) := by
  delta chargeOverrun
  repeat' first
    | (with_reducible assumption)
    | (intro)
    | (with_reducible first
        | apply keeps_modBerth | apply keeps_modCtx | refine Keeps.foldl ?_ ?_ | refine Keeps.ite ?_ ?_)
    | (fail_if_no_progress (with_reducible refine Keeps.upd ?_))
    | (fail_if_no_progress (with_reducible refine Keeps.updHold ?_ rfl))
    | split
    | (dsimp only)

theorem keeps_retireSignal {a : Block} {b : Block} (x1 : Nat) (x2 : Cmd) (x3 : Byte)
    (h : Keeps a b) : Keeps a (retireSignal x1 x2 x3 b).2.2.2 := by
  delta retireSignal
  repeat' first
    | (with_reducible assumption)
    | (intro)
    | (with_reducible first
        | apply keeps_failFence | apply keeps_signalFence | refine keeps_signalFence_eq (by with_reducible assumption) ?_
        | refine Keeps.foldl ?_ ?_ | refine Keeps.ite ?_ ?_)
    | (fail_if_no_progress (with_reducible refine Keeps.upd ?_))
    | (fail_if_no_progress (with_reducible refine Keeps.updHold ?_ rfl))
    | split
    | (dsimp only)

theorem keeps_retireSignal_eq {a : Block} {b : Block} {x1 : Nat} {x2 : Cmd} {x3 : Byte} {v w u} {c : Block} (e : retireSignal x1 x2 x3 b = (v, w, u, c))
    (h : Keeps a b) : Keeps a c := by
  have := keeps_retireSignal x1 x2 x3 h; rw [e] at this; exact this

theorem keeps_retireNow {a : Block} {b : Block} (x1 : ℕ) (x2 : ℕ)
    (h : Keeps a b) : Keeps a (retireNow x1 x2 b).2 := by
  delta retireNow
  repeat' first
    | (with_reducible assumption)
    | (intro)
    | (extract_lets +onlyGivenNames x; first
        | (refine Keeps.named (a := a) x ?_ ?_; (on_goal 1 => (revert x; show Keeps _ _)); (on_goal -1 => (intro hx; clear_value x)))
        | (refine Keeps.namedSnd (a := a) x ?_ ?_; (on_goal 1 => (revert x; show Keeps _ _)); (on_goal -1 => (intro hx; clear_value x)))
        | (refine Keeps.namedThird (a := a) x ?_ ?_; (on_goal 1 => (revert x; show Keeps _ _)); (on_goal -1 => (intro hx; clear_value x)))
        | (refine Keeps.namedFst (a := a) x ?_ ?_; (on_goal 1 => (revert x; show Keeps _ _)); (on_goal -1 => (intro hx; clear_value x)))
        | clear_value x)
    | (with_reducible first
        | apply keeps_chargeOverrun | apply keeps_count | apply keeps_cplWrite | apply keeps_descWrite | apply keeps_later
        | apply keeps_modCtx | apply keeps_retireSignal | apply keeps_trace
        | refine keeps_retireSignal_eq (by with_reducible assumption) ?_ | refine Keeps.foldl ?_ ?_ | refine Keeps.foldlSnd ?_ ?_
        | refine Keeps.ite ?_ ?_)
    | (fail_if_no_progress (with_reducible refine Keeps.upd ?_))
    | (fail_if_no_progress (with_reducible refine Keeps.updHold ?_ rfl))
    | split
    | (dsimp only)

theorem keeps_retireNow_eq {a : Block} {b : Block} {x1 : ℕ} {x2 : ℕ} {v} {c : Block} (e : retireNow x1 x2 b = (v, c))
    (h : Keeps a b) : Keeps a c := by
  have := keeps_retireNow x1 x2 h; rw [e] at this; exact this

theorem keeps_loseUnstarted {a : Block} {b : Block} (x1 : ℕ) (x2 : List Cmd)
    (h : Keeps a b) : Keeps a (loseUnstarted x1 x2 b) := by
  induction x2 generalizing b with
  | nil => rw [loseUnstarted]; with_reducible assumption
  | cons y ys ih =>
    first | rw [loseUnstarted] | (rw [loseUnstarted.eq_def]; dsimp -zeta only)
    repeat' first
      | (with_reducible assumption)
      | (with_reducible apply ih)
      | (intro)
      | (with_reducible first
          | apply keeps_finishCmd | apply keeps_retireNow | refine keeps_retireNow_eq (by with_reducible assumption) ?_
          | refine Keeps.foldl ?_ ?_ | refine Keeps.ite ?_ ?_)
      | (fail_if_no_progress (with_reducible refine Keeps.upd ?_))
      | (fail_if_no_progress (with_reducible refine Keeps.updHold ?_ rfl))
      | split
      | (dsimp only)

theorem keeps_loseCtx {a : Block} {b : Block} (x1 : ℕ) (x2 : Byte) (x3 : ℕ) (x4 : ℕ) (x5 : ℕ)
    (h : Keeps a b) : Keeps a (loseCtx x1 x2 x3 x4 x5 b) := by
  delta loseCtx
  repeat' first
    | (with_reducible assumption)
    | (intro)
    | (with_reducible first
        | apply keeps_descWrite | apply keeps_failFence | apply keeps_later | apply keeps_loseUnstarted | apply keeps_modCtx
        | apply keeps_raise | apply keeps_record | apply keeps_retireNow | refine keeps_retireNow_eq (by with_reducible assumption) ?_
        | refine Keeps.foldl ?_ ?_ | refine Keeps.ite ?_ ?_)
    | (fail_if_no_progress (with_reducible refine Keeps.upd ?_))
    | (fail_if_no_progress (with_reducible refine Keeps.updHold ?_ rfl))
    | split
    | (dsimp only)

theorem keeps_faultCmd {a : Block} {b : Block} (x1 : ℕ) (x2 : ℕ) (x3 : Byte) (x4 : ℕ) (x5 : ℕ) (x6 : ℕ)
    (h : Keeps a b) : Keeps a (faultCmd x1 x2 x3 x4 x5 x6 b) := by
  delta faultCmd
  repeat' first
    | (with_reducible assumption)
    | (intro)
    | (with_reducible first
        | apply keeps_loseCtx | apply keeps_modCmd | refine Keeps.foldl ?_ ?_ | refine Keeps.ite ?_ ?_)
    | (fail_if_no_progress (with_reducible refine Keeps.upd ?_))
    | (fail_if_no_progress (with_reducible refine Keeps.updHold ?_ rfl))
    | split
    | (dsimp only)

theorem keeps_swapIn {a : Block} {b : Block} (x1 : ℕ)
    (h : Keeps a b) : Keeps a (swapIn x1 b) := by
  delta swapIn
  repeat' first
    | (with_reducible assumption)
    | (intro)
    | (with_reducible first
        | apply keeps_count | apply keeps_modCtx | refine Keeps.foldl ?_ ?_ | refine Keeps.ite ?_ ?_)
    | (fail_if_no_progress (with_reducible refine Keeps.upd ?_))
    | (fail_if_no_progress (with_reducible refine Keeps.updHold ?_ rfl))
    | split
    | (dsimp only)

theorem keeps_swapOut {a : Block} {b : Block} (x1 : ℕ)
    (h : Keeps a b) : Keeps a (swapOut x1 b) := by
  delta swapOut
  repeat' first
    | (with_reducible assumption)
    | (intro)
    | (with_reducible first
        | apply keeps_modCtx | apply keeps_trace | refine Keeps.foldl ?_ ?_ | refine Keeps.ite ?_ ?_)
    | (fail_if_no_progress (with_reducible refine Keeps.upd ?_))
    | (fail_if_no_progress (with_reducible refine Keeps.updHold ?_ rfl))
    | split
    | (dsimp only)

theorem keeps_joinList {a : Block} {b : Block} (x1 : ℕ)
    (h : Keeps a b) : Keeps a (joinList x1 b) := by
  delta joinList
  repeat' first
    | (with_reducible assumption)
    | (intro)
    | (with_reducible first
        | apply keeps_modCtx | refine Keeps.foldl ?_ ?_ | refine Keeps.ite ?_ ?_)
    | (fail_if_no_progress (with_reducible refine Keeps.upd ?_))
    | (fail_if_no_progress (with_reducible refine Keeps.updHold ?_ rfl))
    | split
    | (dsimp only)

theorem keeps_fillSlots {a : Block} {b : Block} (x1 : ℕ) (x2 : ℕ)
    (h : Keeps a b) : Keeps a (fillSlots x1 x2 b) := by
  induction x2 generalizing b with
  | zero => rw [fillSlots]; with_reducible assumption
  | succ n ih =>
    first | rw [fillSlots] | (rw [fillSlots.eq_def]; dsimp -zeta only)
    repeat' first
      | (with_reducible assumption)
      | (with_reducible apply ih)
      | (intro)
      | (with_reducible first
          | apply keeps_swapIn | refine Keeps.foldl ?_ ?_ | refine Keeps.ite ?_ ?_)
      | (fail_if_no_progress (with_reducible refine Keeps.upd ?_))
      | (fail_if_no_progress (with_reducible refine Keeps.updHold ?_ rfl))
      | split
      | (dsimp only)

theorem keeps_schedule {a : Block} {b : Block} (x1 : ℕ)
    (h : Keeps a b) : Keeps a (schedule x1 b) := by
  delta schedule
  repeat' first
    | (with_reducible assumption)
    | (intro)
    | (with_reducible first
        | apply keeps_fillSlots | apply keeps_joinList | apply keeps_swapIn | apply keeps_swapOut | refine Keeps.foldl ?_ ?_
        | refine Keeps.ite ?_ ?_)
    | (fail_if_no_progress (with_reducible refine Keeps.upd ?_))
    | (fail_if_no_progress (with_reducible refine Keeps.updHold ?_ rfl))
    | split
    | (dsimp only)

theorem keeps_swapDone {a : Block} {b : Block} (x1 : ℕ)
    (h : Keeps a b) : Keeps a (swapDone x1 b) := by
  delta swapDone
  repeat' first
    | (with_reducible assumption)
    | (intro)
    | (with_reducible first
        | apply keeps_later | apply keeps_modCtx | apply keeps_trace | refine Keeps.foldl ?_ ?_ | refine Keeps.ite ?_ ?_)
    | (fail_if_no_progress (with_reducible refine Keeps.upd ?_))
    | (fail_if_no_progress (with_reducible refine Keeps.updHold ?_ rfl))
    | split
    | (dsimp only)

theorem keeps_sliceEnded {a : Block} {b : Block} (x1 : ℕ)
    (h : Keeps a b) : Keeps a (sliceEnded x1 b) := by
  delta sliceEnded
  repeat' first
    | (with_reducible assumption)
    | (intro)
    | (with_reducible first
        | apply keeps_later | apply keeps_modCtx | apply keeps_swapIn | apply keeps_swapOut | refine Keeps.foldl ?_ ?_
        | refine Keeps.ite ?_ ?_)
    | (fail_if_no_progress (with_reducible refine Keeps.upd ?_))
    | (fail_if_no_progress (with_reducible refine Keeps.updHold ?_ rfl))
    | split
    | (dsimp only)

theorem keeps_activateCtx {a : Block} {b : Block} (x1 : ℕ) (x2 : ℕ) (x3 : Bytes)
    (h : Keeps a b) : Keeps a (activateCtx x1 x2 x3 b) := by
  delta activateCtx
  repeat' first
    | (with_reducible assumption)
    | (intro)
    | (with_reducible first
        | apply keeps_descWrite | apply keeps_modCtx | refine Keeps.foldl ?_ ?_ | refine Keeps.ite ?_ ?_)
    | (fail_if_no_progress (with_reducible refine Keeps.upd ?_))
    | (fail_if_no_progress (with_reducible refine Keeps.updHold ?_ rfl))
    | split
    | (dsimp only)

theorem keeps_queueFetch {a : Block} {b : Block} (x1 : ℕ) (x2 : RgnEnt) (x3 : ℕ) (x4 : Bool)
    (h : Keeps a b) : Keeps a (queueFetch x1 x2 x3 x4 b).2 := by
  delta queueFetch
  repeat' first
    | (with_reducible assumption)
    | (intro)
    | (with_reducible first
        | apply keeps_count | apply keeps_denyMems | apply keeps_eccEvent | refine Keeps.foldl ?_ ?_ | refine Keeps.ite ?_ ?_)
    | (fail_if_no_progress (with_reducible refine Keeps.upd ?_))
    | (fail_if_no_progress (with_reducible refine Keeps.updHold ?_ rfl))
    | split
    | (dsimp only)

theorem keeps_queueFetch_eq {a : Block} {b : Block} {x1 : ℕ} {x2 : RgnEnt} {x3 : ℕ} {x4 : Bool} {v} {c : Block} (e : queueFetch x1 x2 x3 x4 b = (v, c))
    (h : Keeps a b) : Keeps a c := by
  have := keeps_queueFetch x1 x2 x3 x4 h; rw [e] at this; exact this

theorem keeps_fetchCmds {a : Block} {b : Block} (x1 : ℕ) (x2 : ℕ) (x3 : RgnEnt) (x4 : List FetchedCmd)
    (h : Keeps a b) : Keeps a (fetchCmds x1 x2 x3 x4 b) := by
  induction x4 generalizing b with
  | nil => rw [fetchCmds]; with_reducible assumption
  | cons y ys ih =>
    first | rw [fetchCmds] | (rw [fetchCmds.eq_def]; dsimp -zeta only)
    repeat' first
      | (with_reducible assumption)
      | (with_reducible apply ih)
      | (intro)
      | (extract_lets +onlyGivenNames x; first
          | (refine Keeps.named (a := a) x ?_ ?_; (on_goal 1 => (revert x; show Keeps _ _)); (on_goal -1 => (intro hx; clear_value x)))
          | (refine Keeps.namedSnd (a := a) x ?_ ?_; (on_goal 1 => (revert x; show Keeps _ _)); (on_goal -1 => (intro hx; clear_value x)))
          | (refine Keeps.namedThird (a := a) x ?_ ?_; (on_goal 1 => (revert x; show Keeps _ _)); (on_goal -1 => (intro hx; clear_value x)))
          | (refine Keeps.namedFst (a := a) x ?_ ?_; (on_goal 1 => (revert x; show Keeps _ _)); (on_goal -1 => (intro hx; clear_value x)))
          | clear_value x)
      | (with_reducible first
          | apply keeps_acceptCmd | apply keeps_loseCtx | apply keeps_queueFetch
          | refine keeps_queueFetch_eq (by with_reducible assumption) ?_ | refine Keeps.foldl ?_ ?_ | refine Keeps.foldlSnd ?_ ?_
          | refine Keeps.ite ?_ ?_)
      | (fail_if_no_progress (with_reducible refine Keeps.upd ?_))
      | (fail_if_no_progress (with_reducible refine Keeps.updHold ?_ rfl))
      | split
      | (dsimp only)

theorem keeps_scanFetch {a : Block} {b : Block} (x1 : ℕ) (x2 : ℕ) (x3 : RgnEnt) (x4 : Bytes) (x5 : List FetchedCmd)
    (h : Keeps a b) : Keeps a (scanFetch x1 x2 x3 x4 x5 b) := by
  delta scanFetch
  repeat' first
    | (with_reducible assumption)
    | (intro)
    | (with_reducible first
        | apply keeps_descWrite | apply keeps_fetchCmds | apply keeps_later | apply keeps_loseCtx | apply keeps_modCtx
        | refine Keeps.foldl ?_ ?_ | refine Keeps.ite ?_ ?_)
    | (fail_if_no_progress (with_reducible refine Keeps.upd ?_))
    | (fail_if_no_progress (with_reducible refine Keeps.updHold ?_ rfl))
    | split
    | (dsimp only)

theorem keeps_scanNow {a : Block} {b : Block} (x1 : ℕ) (x2 : ℕ) (x3 : RgnEnt) (x4 : ℕ) (x5 : ScanCause) (x6 : Bytes) (x7 : Bool) (x8 : List FetchedCmd)
    (h : Keeps a b) : Keeps a (scanNow x1 x2 x3 x4 x5 x6 x7 x8 b) := by
  delta scanNow
  repeat' first
    | (with_reducible assumption)
    | (intro)
    | (with_reducible first
        | apply keeps_activateCtx | apply keeps_loseCtx | apply keeps_modCtx | apply keeps_queueFetch | apply keeps_scanFetch
        | refine keeps_queueFetch_eq (by with_reducible assumption) ?_ | refine Keeps.foldl ?_ ?_ | refine Keeps.ite ?_ ?_)
    | (fail_if_no_progress (with_reducible refine Keeps.upd ?_))
    | (fail_if_no_progress (with_reducible refine Keeps.updHold ?_ rfl))
    | split
    | (dsimp only)

theorem keeps_scanQueue {a : Block} {b : Block} (x1 : ℕ) (x2 : ScanCause) (x3 : BitVec 12) (x4 : Bytes) (x5 : Bool) (x6 : List FetchedCmd)
    (h : Keeps a b) : Keeps a (scanQueue x1 x2 x3 x4 x5 x6 b) := by
  delta scanQueue
  repeat' first
    | (with_reducible assumption)
    | (intro)
    | (with_reducible first
        | apply keeps_recordErr | apply keeps_scanNow | refine Keeps.foldl ?_ ?_ | refine Keeps.ite ?_ ?_)
    | (fail_if_no_progress (with_reducible refine Keeps.upd ?_))
    | (fail_if_no_progress (with_reducible refine Keeps.updHold ?_ rfl))
    | split
    | (dsimp only)

theorem keeps_startCmd {a : Block} {b : Block} (x1 : ℕ)
    (h : Keeps a b) : Keeps a (startCmd x1 b) := by
  delta startCmd
  repeat' first
    | (with_reducible assumption)
    | (intro)
    | (with_reducible first
        | apply keeps_finishCmd | apply keeps_later | apply keeps_modCmd | apply keeps_sliceEnded | apply keeps_trace
        | refine Keeps.foldl ?_ ?_ | refine Keeps.ite ?_ ?_)
    | (fail_if_no_progress (with_reducible refine Keeps.upd ?_))
    | (fail_if_no_progress (with_reducible refine Keeps.updHold ?_ rfl))
    | split
    | (dsimp only)

theorem keeps_retireCmd {a : Block} {b : Block} (x1 : ℕ) (x2 : ℕ)
    (h : Keeps a b) : Keeps a (retireCmd x1 x2 b) := by
  delta retireCmd
  repeat' first
    | (with_reducible assumption)
    | (intro)
    | (with_reducible first
        | apply keeps_loseCtx | apply keeps_retireNow | refine keeps_retireNow_eq (by with_reducible assumption) ?_
        | refine Keeps.foldl ?_ ?_ | refine Keeps.ite ?_ ?_)
    | (fail_if_no_progress (with_reducible refine Keeps.upd ?_))
    | (fail_if_no_progress (with_reducible refine Keeps.updHold ?_ rfl))
    | split
    | (dsimp only)

theorem keeps_dropIssued {a : Block} {b : Block} (x1 : ℕ) (x2 : ℕ)
    (h : Keeps a b) : Keeps a (dropIssued x1 x2 b) := by
  delta dropIssued
  repeat' first
    | (with_reducible assumption)
    | (intro)
    | (with_reducible first
        | apply keeps_modAtt | refine Keeps.foldl ?_ ?_ | refine Keeps.ite ?_ ?_)
    | (fail_if_no_progress (with_reducible refine Keeps.upd ?_))
    | (fail_if_no_progress (with_reducible refine Keeps.updHold ?_ rfl))
    | split
    | (dsimp only)

theorem keeps_npExpired {a : Block} {b : Block} (x1 : ℕ)
    (h : Keeps a b) : Keeps a (npExpired x1 b) := by
  delta npExpired
  repeat' first
    | (with_reducible assumption)
    | (intro)
    | (with_reducible first
        | apply keeps_dropIssued | apply keeps_faultCmd | apply keeps_modBerth | apply keeps_modCmd | apply keeps_raise
        | refine Keeps.foldl ?_ ?_ | refine Keeps.ite ?_ ?_)
    | (fail_if_no_progress (with_reducible refine Keeps.upd ?_))
    | (fail_if_no_progress (with_reducible refine Keeps.updHold ?_ rfl))
    | split
    | (dsimp only)

theorem keeps_stopUnstarted {a : Block} {b : Block} (x1 : ℕ) (x2 : Byte)
    (h : Keeps a b) : Keeps a (stopUnstarted x1 x2 b) := by
  delta stopUnstarted
  repeat' first
    | (with_reducible assumption)
    | (intro)
    | (with_reducible first
        | apply keeps_modCtx | refine Keeps.foldl ?_ ?_ | refine Keeps.ite ?_ ?_)
    | (fail_if_no_progress (with_reducible refine Keeps.upd ?_))
    | (fail_if_no_progress (with_reducible refine Keeps.updHold ?_ rfl))
    | split
    | (dsimp only)

theorem keeps_wakeScans {a : Block} {b : Block} (x1 : ℕ)
    (h : Keeps a b) : Keeps a (wakeScans x1 b) := by
  delta wakeScans
  repeat' first
    | (with_reducible assumption)
    | (intro)
    | (with_reducible first
        | apply keeps_modCtx | refine Keeps.foldl ?_ ?_ | refine Keeps.ite ?_ ?_)
    | (fail_if_no_progress (with_reducible refine Keeps.upd ?_))
    | (fail_if_no_progress (with_reducible refine Keeps.updHold ?_ rfl))
    | split
    | (dsimp only)

/-! ### Mema -/

theorem keeps_cachePut {a : Block} {b : Block} (x1 : ℕ) (x2 : ℕ) (x3 : ℕ) (x4 : Bytes) (x5 : Bool)
    (h : Keeps a b) : Keeps a (cachePut x1 x2 x3 x4 x5 b) := by
  delta cachePut
  repeat' first
    | (with_reducible assumption)
    | (intro)
    | (with_reducible first
        | apply keeps_modMema | refine Keeps.foldl ?_ ?_ | refine Keeps.ite ?_ ?_)
    | (fail_if_no_progress (with_reducible refine Keeps.upd ?_))
    | (fail_if_no_progress (with_reducible refine Keeps.updHold ?_ rfl))
    | split
    | (dsimp only)

theorem keeps_cacheHit {a : Block} {b : Block} (x1 : ℕ) (x2 : ℕ) (x3 : ℕ)
    (h : Keeps a b) : Keeps a (cacheHit x1 x2 x3 b) := by
  delta cacheHit
  repeat' first
    | (with_reducible assumption)
    | (intro)
    | (with_reducible first
        | apply keeps_modMema | refine Keeps.foldl ?_ ?_ | refine Keeps.ite ?_ ?_)
    | (fail_if_no_progress (with_reducible refine Keeps.upd ?_))
    | (fail_if_no_progress (with_reducible refine Keeps.updHold ?_ rfl))
    | split
    | (dsimp only)

theorem keeps_setParentCtr {a : Block} {b : Block} (x1 : ℕ) (x2 : ℕ) (x3 : ℕ) (x4 : ℕ)
    (h : Keeps a b) : Keeps a (setParentCtr x1 x2 x3 x4 b) := by
  delta setParentCtr
  repeat' first
    | (with_reducible assumption)
    | (intro)
    | (with_reducible first
        | apply keeps_cachePut | apply keeps_modRgn | refine Keeps.foldl ?_ ?_ | refine Keeps.ite ?_ ?_)
    | (fail_if_no_progress (with_reducible refine Keeps.upd ?_))
    | (fail_if_no_progress (with_reducible refine Keeps.updHold ?_ rfl))
    | split
    | (dsimp only)

theorem keeps_spoilDest {a : Block} {b : Block} (x1 : AKind)
    (h : Keeps a b) : Keeps a (spoilDest x1 b) := by
  delta spoilDest
  repeat' first
    | (with_reducible assumption)
    | (intro)
    | (with_reducible first
        | apply keeps_poisonLine | refine Keeps.foldl ?_ ?_ | refine Keeps.ite ?_ ?_)
    | (fail_if_no_progress (with_reducible refine Keeps.upd ?_))
    | (fail_if_no_progress (with_reducible refine Keeps.updHold ?_ rfl))
    | split
    | (dsimp only)

theorem keeps_loseRegion {a : Block} {b : Block} (x1 : ℕ) (x2 : Byte) (x3 : ℕ) (x4 : ℕ)
    (h : Keeps a b) : Keeps a (loseRegion x1 x2 x3 x4 b) := by
  delta loseRegion
  repeat' first
    | (with_reducible assumption)
    | (intro)
    | (with_reducible first
        | apply keeps_later | apply keeps_modMema | apply keeps_modRgn | apply keeps_raise | apply keeps_record | apply keeps_spoilDest
        | refine Keeps.foldl ?_ ?_ | refine Keeps.ite ?_ ?_)
    | (fail_if_no_progress (with_reducible refine Keeps.upd ?_))
    | (fail_if_no_progress (with_reducible refine Keeps.updHold ?_ rfl))
    | split
    | (dsimp only)

theorem keeps_writeBack {a : Block} {b : Block} (x1 : CacheLine)
    (h : Keeps a b) : Keeps a (writeBack x1 b) := by
  delta writeBack
  repeat' first
    | (with_reducible assumption)
    | (intro)
    | (with_reducible first
        | apply keeps_cachePut | apply keeps_loseRegion | apply keeps_modMema | apply keeps_sendWrite | apply keeps_setParentCtr
        | refine Keeps.foldl ?_ ?_ | refine Keeps.ite ?_ ?_)
    | (fail_if_no_progress (with_reducible refine Keeps.upd ?_))
    | (fail_if_no_progress (with_reducible refine Keeps.updHold ?_ rfl))
    | split
    | (dsimp only)

theorem keeps_dropLine {a : Block} {b : Block} (x1 : CacheLine)
    (h : Keeps a b) : Keeps a (dropLine x1 b) := by
  delta dropLine
  repeat' first
    | (with_reducible assumption)
    | (intro)
    | (with_reducible first
        | apply keeps_modMema | refine Keeps.foldl ?_ ?_ | refine Keeps.ite ?_ ?_)
    | (fail_if_no_progress (with_reducible refine Keeps.upd ?_))
    | (fail_if_no_progress (with_reducible refine Keeps.updHold ?_ rfl))
    | split
    | (dsimp only)

theorem keeps_insertLine {a : Block} {b : Block} (x1 : ℕ) (x2 : ℕ) (x3 : ℕ) (x4 : Bytes)
    (h : Keeps a b) : Keeps a (insertLine x1 x2 x3 x4 b) := by
  delta insertLine
  repeat' first
    | (with_reducible assumption)
    | (intro)
    | (with_reducible first
        | apply keeps_modMema | refine Keeps.foldl ?_ ?_ | refine Keeps.ite ?_ ?_)
    | (fail_if_no_progress (with_reducible refine Keeps.upd ?_))
    | (fail_if_no_progress (with_reducible refine Keeps.updHold ?_ rfl))
    | split
    | (dsimp only)

theorem keeps_bring {a : Block} {b : Block} (x1 : ℕ) (x2 : Need) (h : Keeps a b) : Keeps a (bring x1 x2 b).1 := by
  induction x1 generalizing x2 b with
  | zero => rw [bring]; with_reducible assumption
  | succ n ih =>
    cases x2 with
    | room w s =>
      rw [bring]
      split
      · with_reducible assumption
      · split
        · with_reducible assumption
        · split
          · exact keeps_dropLine _ (keeps_writeBack _ h)
          · exact ih _ h
    | node r j i =>
      rw [bring]
      split
      · with_reducible assumption
      · split
        · with_reducible assumption
        · extract_lets +onlyGivenNames up
          have hup : Keeps a up.1 := by
            revert up; show Keeps _ _
            split
            · exact h
            · exact ih _ h
          clear_value up
          split
          · exact hup
          · split
            · exact hup
            · extract_lets +onlyGivenNames m
              have hm : Keeps a m.1 := by
                revert m; show Keeps _ _
                exact ih _ hup
              clear_value m
              split
              · exact hm
              · extract_lets +onlyGivenNames y
                have hy : Keeps a y := by
                  revert y; show Keeps _ _
                  exact keeps_modMema _ hm
                clear_value y
                split
                · exact keeps_insertLine _ _ _ _ hy
                · split
                  · exact keeps_sendRead _ _ _ hy
                  · exact hy

theorem keeps_bring_eq {a : Block} {b : Block} {x1 : ℕ} {x2 : Need} {v} {c : Block} (e : bring x1 x2 b = (c, v))
    (h : Keeps a b) : Keeps a c := by
  have := keeps_bring x1 x2 h; rw [e] at this; exact this

theorem keeps_modOp {a : Block} {b : Block} (x1 : ℕ) (x2 : AOp → AOp)
    (h : Keeps a b) : Keeps a (modOp x1 x2 b) := by
  delta modOp
  repeat' first
    | (with_reducible assumption)
    | (intro)
    | (with_reducible first
        | apply keeps_modMema | refine Keeps.foldl ?_ ?_ | refine Keeps.ite ?_ ?_)
    | (fail_if_no_progress (with_reducible refine Keeps.upd ?_))
    | (fail_if_no_progress (with_reducible refine Keeps.updHold ?_ rfl))
    | split
    | (dsimp only)

theorem keeps_endOp {a : Block} {b : Block} (x1 : ℕ)
    (h : Keeps a b) : Keeps a (endOp x1 b) := by
  delta endOp
  repeat' first
    | (with_reducible assumption)
    | (intro)
    | (with_reducible first
        | apply keeps_modMema | refine Keeps.foldl ?_ ?_ | refine Keeps.ite ?_ ?_)
    | (fail_if_no_progress (with_reducible refine Keeps.upd ?_))
    | (fail_if_no_progress (with_reducible refine Keeps.updHold ?_ rfl))
    | split
    | (dsimp only)

theorem keeps_bringTag {a : Block} {b : Block} (x1 : AOp) (x2 : ℕ)
    (h : Keeps a b) : Keeps a (bringTag x1 x2 b).1 := by
  delta bringTag
  repeat' first
    | (with_reducible assumption)
    | (intro)
    | (with_reducible first
        | apply keeps_bring | apply keeps_cacheHit | apply keeps_insertLine | apply keeps_modMema | apply keeps_modOp
        | apply keeps_sendRead | refine keeps_bring_eq (by with_reducible assumption) ?_ | refine Keeps.foldl ?_ ?_
        | refine Keeps.ite ?_ ?_)
    | (fail_if_no_progress (with_reducible refine Keeps.upd ?_))
    | (fail_if_no_progress (with_reducible refine Keeps.updHold ?_ rfl))
    | split
    | (dsimp only)

theorem keeps_bringTag_eq {a : Block} {b : Block} {x1 : AOp} {x2 : ℕ} {v} {c : Block} (e : bringTag x1 x2 b = (c, v))
    (h : Keeps a b) : Keeps a c := by
  have := keeps_bringTag x1 x2 h; rw [e] at this; exact this

theorem keeps_dataFetch {a : Block} {b : Block} (x1 : AOp) (x2 : ℕ)
    (h : Keeps a b) : Keeps a (dataFetch x1 x2 b).1 := by
  delta dataFetch
  repeat' first
    | (with_reducible assumption)
    | (intro)
    | (with_reducible first
        | apply keeps_sendRead | refine Keeps.foldl ?_ ?_ | refine Keeps.ite ?_ ?_)
    | (fail_if_no_progress (with_reducible refine Keeps.upd ?_))
    | (fail_if_no_progress (with_reducible refine Keeps.updHold ?_ rfl))
    | split
    | (dsimp only)

theorem keeps_dataFetch_eq {a : Block} {b : Block} {x1 : AOp} {x2 : ℕ} {v} {c : Block} (e : dataFetch x1 x2 b = (c, v))
    (h : Keeps a b) : Keeps a c := by
  have := keeps_dataFetch x1 x2 h; rw [e] at this; exact this

theorem keeps_markPoison {a : Block} {b : Block} (x1 : ℕ) (x2 : ℕ)
    (h : Keeps a b) : Keeps a (markPoison x1 x2 b) := by
  delta markPoison
  repeat' first
    | (with_reducible assumption)
    | (intro)
    | (with_reducible first
        | apply keeps_cachePut | refine Keeps.foldl ?_ ?_ | refine Keeps.ite ?_ ?_)
    | (fail_if_no_progress (with_reducible refine Keeps.upd ?_))
    | (fail_if_no_progress (with_reducible refine Keeps.updHold ?_ rfl))
    | split
    | (dsimp only)

theorem keeps_storeLine {a : Block} {b : Block} (x1 : ℕ) (x2 : ℕ) (x3 : ℕ) (x4 : Bool) (x5 : Bytes)
    (h : Keeps a b) : Keeps a (storeLine x1 x2 x3 x4 x5 b) := by
  delta storeLine
  repeat' first
    | (with_reducible assumption)
    | (intro)
    | (with_reducible first
        | apply keeps_cachePut | apply keeps_count | apply keeps_loseRegion | apply keeps_modRgn | apply keeps_raise
        | apply keeps_sendWrite | refine Keeps.foldl ?_ ?_ | refine Keeps.ite ?_ ?_)
    | (fail_if_no_progress (with_reducible refine Keeps.upd ?_))
    | (fail_if_no_progress (with_reducible refine Keeps.updHold ?_ rfl))
    | split
    | (dsimp only)

theorem keeps_convertLine {a : Block} {b : Block} (x1 : ℕ) (x2 : ℕ) (x3 : Bool) (x4 : Bytes)
    (h : Keeps a b) : Keeps a (convertLine x1 x2 x3 x4 b) := by
  delta convertLine
  repeat' first
    | (with_reducible assumption)
    | (intro)
    | (with_reducible first
        | apply keeps_markPoison | apply keeps_storeLine | refine Keeps.foldl ?_ ?_ | refine Keeps.ite ?_ ?_)
    | (fail_if_no_progress (with_reducible refine Keeps.upd ?_))
    | (fail_if_no_progress (with_reducible refine Keeps.updHold ?_ rfl))
    | split
    | (dsimp only)

theorem keeps_convertGroup {a : Block} {b : Block} (x1 : AOp) (x2 : ℕ)
    (h : Keeps a b) : Keeps a (convertGroup x1 x2 b) := by
  delta convertGroup
  repeat' first
    | (with_reducible assumption)
    | (intro)
    | (with_reducible first
        | apply keeps_cachePut | apply keeps_convertLine | apply keeps_dataFetch
        | refine keeps_dataFetch_eq (by with_reducible assumption) ?_ | refine Keeps.foldl ?_ ?_ | refine Keeps.ite ?_ ?_)
    | (fail_if_no_progress (with_reducible refine Keeps.upd ?_))
    | (fail_if_no_progress (with_reducible refine Keeps.updHold ?_ rfl))
    | split
    | (dsimp only)

theorem keeps_convertStep {a : Block} {b : Block} (x1 : AOp) (x2 : ℕ)
    (h : Keeps a b) : Keeps a (convertStep x1 x2 b).1 := by
  delta convertStep
  repeat' first
    | (with_reducible assumption)
    | (intro)
    | (with_reducible first
        | apply keeps_bringTag | apply keeps_convertGroup | apply keeps_dataFetch
        | refine keeps_bringTag_eq (by with_reducible assumption) ?_ | refine keeps_dataFetch_eq (by with_reducible assumption) ?_
        | refine Keeps.foldl ?_ ?_ | refine Keeps.ite ?_ ?_)
    | (fail_if_no_progress (with_reducible refine Keeps.upd ?_))
    | (fail_if_no_progress (with_reducible refine Keeps.updHold ?_ rfl))
    | split
    | (dsimp only)

theorem keeps_convertStep_eq {a : Block} {b : Block} {x1 : AOp} {x2 : ℕ} {v} {c : Block} (e : convertStep x1 x2 b = (c, v))
    (h : Keeps a b) : Keeps a c := by
  have := keeps_convertStep x1 x2 h; rw [e] at this; exact this

theorem keeps_deliver {a : Block} {b : Block} (x1 : AOp) (x2 : Option ℕ) (x3 : Bytes)
    (h : Keeps a b) : Keeps a (deliver x1 x2 x3 b) := by
  delta deliver
  repeat' first
    | (with_reducible assumption)
    | (intro)
    | (with_reducible first
        | apply keeps_count | apply keeps_later | apply keeps_producerWrite | apply keeps_count | refine Keeps.foldl ?_ ?_ | refine Keeps.ite ?_ ?_)
    | (fail_if_no_progress (with_reducible refine Keeps.upd ?_))
    | (fail_if_no_progress (with_reducible refine Keeps.updHold ?_ rfl))
    | split
    | (dsimp only)

theorem keeps_failOp {a : Block} {b : Block} (x1 : AOp) (x2 : Byte)
    (h : Keeps a b) : Keeps a (failOp x1 x2 b) := by
  delta failOp
  repeat' first
    | (with_reducible assumption)
    | (intro)
    | (with_reducible first
        | apply keeps_later | apply keeps_spoilDest | refine Keeps.foldl ?_ ?_ | refine Keeps.ite ?_ ?_)
    | (fail_if_no_progress (with_reducible refine Keeps.upd ?_))
    | (fail_if_no_progress (with_reducible refine Keeps.updHold ?_ rfl))
    | split
    | (dsimp only)

theorem keeps_hurtOp {a : Block} {b : Block} (x1 : AOp) (x2 : Byte)
    (h : Keeps a b) : Keeps a (hurtOp x1 x2 b) := by
  delta hurtOp
  repeat' first
    | (with_reducible assumption)
    | (intro)
    | (with_reducible first
        | apply keeps_later | apply keeps_spoilDest | refine Keeps.foldl ?_ ?_ | refine Keeps.ite ?_ ?_)
    | (fail_if_no_progress (with_reducible refine Keeps.upd ?_))
    | (fail_if_no_progress (with_reducible refine Keeps.updHold ?_ rfl))
    | split
    | (dsimp only)

theorem keeps_bringAll {a : Block} {b : Block} (x1 : ℕ) (x2 : ℕ) (x3 : List ℕ)
    (h : Keeps a b) : Keeps a (bringAll x1 x2 x3 b).1 := by
  induction x3 generalizing b with
  | nil => rw [bringAll]; with_reducible assumption
  | cons y ys ih =>
    first | rw [bringAll] | (rw [bringAll.eq_def]; dsimp -zeta only)
    repeat' first
      | (with_reducible assumption)
      | (with_reducible apply ih)
      | (intro)
      | (with_reducible first
          | apply keeps_bring | refine keeps_bring_eq (by with_reducible assumption) ?_ | refine Keeps.foldl ?_ ?_
          | refine Keeps.ite ?_ ?_)
      | (fail_if_no_progress (with_reducible refine Keeps.upd ?_))
      | (fail_if_no_progress (with_reducible refine Keeps.updHold ?_ rfl))
      | split
      | (dsimp only)

theorem keeps_bringAll_eq {a : Block} {b : Block} {x1 : ℕ} {x2 : ℕ} {x3 : List ℕ} {v} {c : Block} (e : bringAll x1 x2 x3 b = (c, v))
    (h : Keeps a b) : Keeps a c := by
  have := keeps_bringAll x1 x2 x3 h; rw [e] at this; exact this

theorem keeps_turnNodes {a : Block} {b : Block} (x1 : ℕ) (x2 : ℕ) (x3 : List ℕ)
    (h : Keeps a b) : Keeps a (turnNodes x1 x2 x3 b) := by
  delta turnNodes
  repeat' first
    | (with_reducible assumption)
    | (intro)
    | (with_reducible first
        | apply keeps_cachePut | refine Keeps.foldl ?_ ?_ | refine Keeps.ite ?_ ?_)
    | (fail_if_no_progress (with_reducible refine Keeps.upd ?_))
    | (fail_if_no_progress (with_reducible refine Keeps.updHold ?_ rfl))
    | split
    | (dsimp only)

theorem keeps_advRead {a : Block} {b : Block} (x1 : AOp) (x2 : Option ℕ)
    (h : Keeps a b) : Keeps a (advRead x1 x2 b).1 := by
  delta advRead
  repeat' first
    | (with_reducible assumption)
    | (intro)
    | (with_reducible first
        | apply keeps_bringTag | apply keeps_dataFetch | apply keeps_deliver | apply keeps_endOp | apply keeps_failOp | apply keeps_hurtOp
        | apply keeps_markPoison | refine keeps_bringTag_eq (by with_reducible assumption) ?_
        | refine keeps_dataFetch_eq (by with_reducible assumption) ?_ | refine Keeps.foldl ?_ ?_ | refine Keeps.ite ?_ ?_)
    | (fail_if_no_progress (with_reducible refine Keeps.upd ?_))
    | (fail_if_no_progress (with_reducible refine Keeps.updHold ?_ rfl))
    | split
    | (dsimp only)

theorem keeps_advRead_eq {a : Block} {b : Block} {x1 : AOp} {x2 : Option ℕ} {v} {c : Block} (e : advRead x1 x2 b = (c, v))
    (h : Keeps a b) : Keeps a c := by
  have := keeps_advRead x1 x2 h; rw [e] at this; exact this

theorem keeps_storeEnd {a : Block} {b : Block} (x1 : AOp) (x2 : ℕ) (x3 : Bool) (x4 : Bytes)
    (h : Keeps a b) : Keeps a (storeEnd x1 x2 x3 x4 b).1 := by
  delta storeEnd
  repeat' first
    | (with_reducible assumption)
    | (intro)
    | (with_reducible first
        | apply keeps_endOp | apply keeps_later | apply keeps_storeLine | refine Keeps.foldl ?_ ?_ | refine Keeps.ite ?_ ?_)
    | (fail_if_no_progress (with_reducible refine Keeps.upd ?_))
    | (fail_if_no_progress (with_reducible refine Keeps.updHold ?_ rfl))
    | split
    | (dsimp only)

theorem keeps_storeEnd_eq {a : Block} {b : Block} {x1 : AOp} {x2 : ℕ} {x3 : Bool} {x4 : Bytes} {v} {c : Block} (e : storeEnd x1 x2 x3 x4 b = (c, v))
    (h : Keeps a b) : Keeps a c := by
  have := keeps_storeEnd x1 x2 x3 x4 h; rw [e] at this; exact this

theorem keeps_advPart {a : Block} {b : Block} (x1 : AOp) (x2 : ℕ) (x3 : Bytes) (x4 : Bool)
    (h : Keeps a b) : Keeps a (advPart x1 x2 x3 x4 b).1 := by
  delta advPart
  repeat' first
    | (with_reducible assumption)
    | (intro)
    | (with_reducible first
        | apply keeps_dataFetch | apply keeps_endOp | apply keeps_failOp | apply keeps_hurtOp | apply keeps_markPoison
        | apply keeps_storeEnd | refine keeps_dataFetch_eq (by with_reducible assumption) ?_
        | refine keeps_storeEnd_eq (by with_reducible assumption) ?_ | refine Keeps.foldl ?_ ?_ | refine Keeps.ite ?_ ?_)
    | (fail_if_no_progress (with_reducible refine Keeps.upd ?_))
    | (fail_if_no_progress (with_reducible refine Keeps.updHold ?_ rfl))
    | split
    | (dsimp only)

theorem keeps_advPart_eq {a : Block} {b : Block} {x1 : AOp} {x2 : ℕ} {x3 : Bytes} {x4 : Bool} {v} {c : Block} (e : advPart x1 x2 x3 x4 b = (c, v))
    (h : Keeps a b) : Keeps a c := by
  have := keeps_advPart x1 x2 x3 x4 h; rw [e] at this; exact this

theorem keeps_refuseOp {a : Block} {b : Block} (x1 : AOp)
    (h : Keeps a b) : Keeps a (refuseOp x1 b).1 := by
  delta refuseOp
  repeat' first
    | (with_reducible assumption)
    | (intro)
    | (with_reducible first
        | apply keeps_cipherRefused | apply keeps_endOp | apply keeps_later | refine Keeps.foldl ?_ ?_ | refine Keeps.ite ?_ ?_)
    | (fail_if_no_progress (with_reducible refine Keeps.upd ?_))
    | (fail_if_no_progress (with_reducible refine Keeps.updHold ?_ rfl))
    | split
    | (dsimp only)

theorem keeps_refuseOp_eq {a : Block} {b : Block} {x1 : AOp} {v} {c : Block} (e : refuseOp x1 b = (c, v))
    (h : Keeps a b) : Keeps a c := by
  have := keeps_refuseOp x1 h; rw [e] at this; exact this

theorem keeps_advWrite {a : Block} {b : Block} (x1 : AOp) (x2 : Option ℕ) (x3 : Bytes)
    (h : Keeps a b) : Keeps a (advWrite x1 x2 x3 b).1 := by
  delta advWrite
  repeat' first
    | (with_reducible assumption)
    | (intro)
    | (with_reducible first
        | apply keeps_advPart | apply keeps_bringTag | apply keeps_convertStep | apply keeps_refuseOp | apply keeps_storeEnd
        | refine keeps_advPart_eq (by with_reducible assumption) ?_ | refine keeps_bringTag_eq (by with_reducible assumption) ?_
        | refine keeps_convertStep_eq (by with_reducible assumption) ?_ | refine keeps_refuseOp_eq (by with_reducible assumption) ?_
        | refine keeps_storeEnd_eq (by with_reducible assumption) ?_ | refine Keeps.foldl ?_ ?_ | refine Keeps.ite ?_ ?_)
    | (fail_if_no_progress (with_reducible refine Keeps.upd ?_))
    | (fail_if_no_progress (with_reducible refine Keeps.updHold ?_ rfl))
    | split
    | (dsimp only)

theorem keeps_advWrite_eq {a : Block} {b : Block} {x1 : AOp} {x2 : Option ℕ} {x3 : Bytes} {v} {c : Block} (e : advWrite x1 x2 x3 b = (c, v))
    (h : Keeps a b) : Keeps a c := by
  have := keeps_advWrite x1 x2 x3 h; rw [e] at this; exact this

theorem keeps_advConv {a : Block} {b : Block} (x1 : AOp)
    (h : Keeps a b) : Keeps a (advConv x1 b).1 := by
  delta advConv
  repeat' first
    | (with_reducible assumption)
    | (intro)
    | (with_reducible first
        | apply keeps_bringAll | apply keeps_convertStep | apply keeps_endOp | apply keeps_modRgn | apply keeps_turnNodes
        | refine keeps_bringAll_eq (by with_reducible assumption) ?_ | refine keeps_convertStep_eq (by with_reducible assumption) ?_
        | refine Keeps.foldl ?_ ?_ | refine Keeps.ite ?_ ?_)
    | (fail_if_no_progress (with_reducible refine Keeps.upd ?_))
    | (fail_if_no_progress (with_reducible refine Keeps.updHold ?_ rfl))
    | split
    | (dsimp only)

theorem keeps_advConv_eq {a : Block} {b : Block} {x1 : AOp} {v} {c : Block} (e : advConv x1 b = (c, v))
    (h : Keeps a b) : Keeps a c := by
  have := keeps_advConv x1 h; rw [e] at this; exact this

theorem keeps_lookPath {a : Block} {b : Block} (x1 : AOp)
    (h : Keeps a b) : Keeps a (lookPath x1 b) := by
  delta lookPath
  repeat' first
    | (with_reducible assumption)
    | (intro)
    | (with_reducible first
        | apply keeps_cacheHit | apply keeps_modOp | refine Keeps.foldl ?_ ?_ | refine Keeps.ite ?_ ?_)
    | (fail_if_no_progress (with_reducible refine Keeps.upd ?_))
    | (fail_if_no_progress (with_reducible refine Keeps.updHold ?_ rfl))
    | split
    | (dsimp only)

theorem keeps_advance {a : Block} {b : Block} (x1 : AOp)
    (h : Keeps a b) : Keeps a (advance x1 b).1 := by
  delta advance
  repeat' first
    | (with_reducible assumption)
    | (intro)
    | (with_reducible first
        | apply keeps_advConv | apply keeps_advRead | apply keeps_advWrite | apply keeps_bring | apply keeps_lookPath
        | apply keeps_refuseOp | refine keeps_advConv_eq (by with_reducible assumption) ?_
        | refine keeps_advRead_eq (by with_reducible assumption) ?_ | refine keeps_advWrite_eq (by with_reducible assumption) ?_
        | refine keeps_bring_eq (by with_reducible assumption) ?_ | refine keeps_refuseOp_eq (by with_reducible assumption) ?_
        | refine Keeps.foldl ?_ ?_ | refine Keeps.ite ?_ ?_)
    | (fail_if_no_progress (with_reducible refine Keeps.upd ?_))
    | (fail_if_no_progress (with_reducible refine Keeps.updHold ?_ rfl))
    | split
    | (dsimp only)

theorem keeps_advance_eq {a : Block} {b : Block} {x1 : AOp} {v} {c : Block} (e : advance x1 b = (c, v))
    (h : Keeps a b) : Keeps a c := by
  have := keeps_advance x1 h; rw [e] at this; exact this

theorem keeps_sweepStep {a : Block} {b : Block} (x1 : ℕ)
    (h : Keeps a b) : Keeps a (sweepStep x1 b).1 := by
  delta sweepStep
  repeat' first
    | (with_reducible assumption)
    | (intro)
    | (with_reducible first
        | apply keeps_modMema | refine Keeps.foldl ?_ ?_ | refine Keeps.ite ?_ ?_)
    | (fail_if_no_progress (with_reducible refine Keeps.upd ?_))
    | (fail_if_no_progress (with_reducible refine Keeps.updHold ?_ rfl))
    | split
    | (dsimp only)

theorem keeps_sweepStep_eq {a : Block} {b : Block} {x1 : ℕ} {v} {c : Block} (e : sweepStep x1 b = (c, v))
    (h : Keeps a b) : Keeps a c := by
  have := keeps_sweepStep x1 h; rw [e] at this; exact this

theorem keeps_flushLevel {a : Block} {b : Block} (x1 : CacheLine → Bool) (x3 : ℕ)
    (h : Keeps a b) : Keeps a (flushLevel x1 b x3) := by
  delta flushLevel
  repeat' first
    | (with_reducible assumption)
    | (intro)
    | (with_reducible first
        | apply keeps_bring | apply keeps_writeBack | refine keeps_bring_eq (by with_reducible assumption) ?_ | refine Keeps.foldl ?_ ?_
        | refine Keeps.ite ?_ ?_)
    | (fail_if_no_progress (with_reducible refine Keeps.upd ?_))
    | (fail_if_no_progress (with_reducible refine Keeps.updHold ?_ rfl))
    | split
    | (dsimp only)

theorem keeps_flush {a : Block} {b : Block} (x1 : CacheLine → Bool)
    (h : Keeps a b) : Keeps a (flush x1 b) := by
  delta flush
  repeat' first
    | (with_reducible assumption)
    | (intro)
    | (with_reducible first
        | apply keeps_flushLevel | refine Keeps.foldl ?_ ?_ | refine Keeps.ite ?_ ?_)
    | (fail_if_no_progress (with_reducible refine Keeps.upd ?_))
    | (fail_if_no_progress (with_reducible refine Keeps.updHold ?_ rfl))
    | split
    | (dsimp only)

theorem keeps_runRegion {a : Block} {b : Block} (x1 : ℕ) (x2 : ℕ) (h : Keeps a b) : Keeps a (runRegion x1 x2 b) := by
  induction x2 generalizing b with
  | zero => rw [runRegion]; with_reducible assumption
  | succ n ih =>
    rw [runRegion]
    split
    all_goals
      rename_i c e
      have hx : Keeps a c := by
        split at e
        · exact keeps_advance_eq e h
        · exact keeps_sweepStep_eq e h
    · exact ih hx
    · exact hx

theorem keeps_engineA {a : Block} {b : Block}
    (h : Keeps a b) : Keeps a (engineA b) := by
  delta engineA
  repeat' first
    | (with_reducible assumption)
    | (intro)
    | (with_reducible first
        | apply keeps_flush | apply keeps_runRegion | refine Keeps.foldl ?_ ?_ | refine Keeps.ite ?_ ?_)
    | (fail_if_no_progress (with_reducible refine Keeps.upd ?_))
    | (fail_if_no_progress (with_reducible refine Keeps.updHold ?_ rfl))
    | split
    | (dsimp only)

theorem keeps_access {a : Block} {b : Block} (x1 : ℕ) (x2 : ℕ) (x3 : AKind) (x4 : OpRef)
    (h : Keeps a b) : Keeps a (access x1 x2 x3 x4 b) := by
  delta access
  repeat' first
    | (with_reducible assumption)
    | (intro)
    | (with_reducible first
        | apply keeps_later | apply keeps_modMema | apply keeps_poisonLine | refine Keeps.foldl ?_ ?_ | refine Keeps.ite ?_ ?_)
    | (fail_if_no_progress (with_reducible refine Keeps.upd ?_))
    | (fail_if_no_progress (with_reducible refine Keeps.updHold ?_ rfl))
    | split
    | (dsimp only)

theorem keeps_rawWrite {a : Block} {b : Block} (x1 : ℕ) (x2 : ℕ) (x3 : Bytes) (x4 : OpRef)
    (h : Keeps a b) : Keeps a (rawWrite x1 x2 x3 x4 b) := by
  delta rawWrite
  repeat' first
    | (with_reducible assumption)
    | (intro)
    | (with_reducible first
        | apply keeps_later | apply keeps_sendWrite | refine Keeps.foldl ?_ ?_ | refine Keeps.ite ?_ ?_)
    | (fail_if_no_progress (with_reducible refine Keeps.upd ?_))
    | (fail_if_no_progress (with_reducible refine Keeps.updHold ?_ rfl))
    | split
    | (dsimp only)

theorem keeps_rawRead {a : Block} {b : Block} (x1 : ℕ) (x2 : ℕ) (x3 : OpRef)
    (h : Keeps a b) : Keeps a (rawRead x1 x2 x3 b) := by
  delta rawRead
  repeat' first
    | (with_reducible assumption)
    | (intro)
    | (with_reducible first
        | apply keeps_later | apply keeps_sendRead | refine Keeps.foldl ?_ ?_ | refine Keeps.ite ?_ ?_)
    | (fail_if_no_progress (with_reducible refine Keeps.upd ?_))
    | (fail_if_no_progress (with_reducible refine Keeps.updHold ?_ rfl))
    | split
    | (dsimp only)

theorem keeps_staleReply {a : Block} {b : Block}
    (h : Keeps a b) : Keeps a (staleReply b) := by
  delta staleReply
  repeat' first
    | (with_reducible assumption)
    | (intro)
    | (with_reducible first
        | apply keeps_recordErr | refine Keeps.foldl ?_ ?_ | refine Keeps.ite ?_ ?_)
    | (fail_if_no_progress (with_reducible refine Keeps.upd ?_))
    | (fail_if_no_progress (with_reducible refine Keeps.updHold ?_ rfl))
    | split
    | (dsimp only)

theorem keeps_nodeArrives {a : Block} {b : Block} (x1 : ℕ) (x2 : ℕ) (x3 : ℕ) (x4 : Bytes)
    (h : Keeps a b) : Keeps a (nodeArrives x1 x2 x3 x4 b) := by
  delta nodeArrives
  repeat' first
    | (with_reducible assumption)
    | (intro)
    | (with_reducible first
        | apply keeps_insertLine | apply keeps_loseRegion | refine Keeps.foldl ?_ ?_ | refine Keeps.ite ?_ ?_)
    | (fail_if_no_progress (with_reducible refine Keeps.upd ?_))
    | (fail_if_no_progress (with_reducible refine Keeps.updHold ?_ rfl))
    | split
    | (dsimp only)

theorem keeps_poisonGroup {a : Block} {b : Block} (x1 : ℕ) (x2 : ℕ)
    (h : Keeps a b) : Keeps a (poisonGroup x1 x2 b) := by
  delta poisonGroup
  repeat' first
    | (with_reducible assumption)
    | (intro)
    | (with_reducible first
        | apply keeps_markPoison | refine Keeps.foldl ?_ ?_ | refine Keeps.ite ?_ ?_)
    | (fail_if_no_progress (with_reducible refine Keeps.upd ?_))
    | (fail_if_no_progress (with_reducible refine Keeps.updHold ?_ rfl))
    | split
    | (dsimp only)

theorem keeps_tagArrives {a : Block} {b : Block} (x1 : ℕ) (x2 : ℕ) (x3 : Bytes) (x4 : Arrival)
    (h : Keeps a b) : Keeps a (tagArrives x1 x2 x3 x4 b) := by
  delta tagArrives
  repeat' first
    | (with_reducible assumption)
    | (intro)
    | (with_reducible first
        | apply keeps_endOp | apply keeps_hurtOp | apply keeps_insertLine | apply keeps_markPoison | apply keeps_poisonGroup
        | refine Keeps.foldl ?_ ?_ | refine Keeps.ite ?_ ?_)
    | (fail_if_no_progress (with_reducible refine Keeps.upd ?_))
    | (fail_if_no_progress (with_reducible refine Keeps.updHold ?_ rfl))
    | split
    | (dsimp only)

theorem keeps_fillHeld {a : Block} {b : Block} (x1 : AOp) (x2 : ℕ) (x3 : Bytes)
    (h : Keeps a b) : Keeps a (fillHeld x1 x2 x3 b) := by
  delta fillHeld
  repeat' first
    | (with_reducible assumption)
    | (intro)
    | (with_reducible first
        | apply keeps_modOp | apply keeps_modTag | apply keeps_putLine | refine Keeps.foldl ?_ ?_ | refine Keeps.ite ?_ ?_)
    | (fail_if_no_progress (with_reducible refine Keeps.upd ?_))
    | (fail_if_no_progress (with_reducible refine Keeps.updHold ?_ rfl))
    | split
    | (dsimp only)

theorem keeps_dataArrives {a : Block} {b : Block} (x1 : AOp) (x2 : ℕ) (x3 : Bytes) (x4 : Arrival)
    (h : Keeps a b) : Keeps a (dataArrives x1 x2 x3 x4 b) := by
  delta dataArrives
  repeat' first
    | (with_reducible assumption)
    | (intro)
    | (with_reducible first
        | apply keeps_endOp | apply keeps_fillHeld | apply keeps_hurtOp | apply keeps_modOp | refine Keeps.foldl ?_ ?_
        | refine Keeps.ite ?_ ?_)
    | (fail_if_no_progress (with_reducible refine Keeps.upd ?_))
    | (fail_if_no_progress (with_reducible refine Keeps.updHold ?_ rfl))
    | split
    | (dsimp only)

theorem keeps_fetchArrives {a : Block} {b : Block} (x1 : ARead) (x2 : Bytes) (x3 : Arrival)
    (h : Keeps a b) : Keeps a (fetchArrives x1 x2 x3 b) := by
  delta fetchArrives
  repeat' first
    | (with_reducible assumption)
    | (intro)
    | (with_reducible first
        | apply keeps_dataArrives | apply keeps_later | apply keeps_loseRegion | apply keeps_nodeArrives | apply keeps_tagArrives
        | refine Keeps.foldl ?_ ?_ | refine Keeps.ite ?_ ?_)
    | (fail_if_no_progress (with_reducible refine Keeps.upd ?_))
    | (fail_if_no_progress (with_reducible refine Keeps.updHold ?_ rfl))
    | split
    | (dsimp only)

theorem keeps_fetchAgain {a : Block} {b : Block} (x1 : ARead)
    (h : Keeps a b) : Keeps a (fetchAgain x1 b) := by
  delta fetchAgain
  repeat' first
    | (with_reducible assumption)
    | (intro)
    | (with_reducible first
        | apply keeps_modMema | apply keeps_putRead | refine Keeps.foldl ?_ ?_ | refine Keeps.ite ?_ ?_)
    | (fail_if_no_progress (with_reducible refine Keeps.upd ?_))
    | (fail_if_no_progress (with_reducible refine Keeps.updHold ?_ rfl))
    | split
    | (dsimp only)

theorem keeps_drsArrives {a : Block} {b : Block} (x1 : ℕ) (x2 : ℕ) (x3 : BitVec 12) (x4 : Bytes) (x5 : Bool) (x6 : List WordErr)
    (h : Keeps a b) : Keeps a (drsArrives x1 x2 x3 x4 x5 x6 b) := by
  delta drsArrives
  repeat' first
    | (with_reducible assumption)
    | (intro)
    | (extract_lets +onlyGivenNames x; first
        | (refine Keeps.named (a := a) x ?_ ?_; (on_goal 1 => (revert x; show Keeps _ _)); (on_goal -1 => (intro hx; clear_value x)))
        | (refine Keeps.namedSnd (a := a) x ?_ ?_; (on_goal 1 => (revert x; show Keeps _ _)); (on_goal -1 => (intro hx; clear_value x)))
        | (refine Keeps.namedThird (a := a) x ?_ ?_; (on_goal 1 => (revert x; show Keeps _ _)); (on_goal -1 => (intro hx; clear_value x)))
        | (refine Keeps.namedFst (a := a) x ?_ ?_; (on_goal 1 => (revert x; show Keeps _ _)); (on_goal -1 => (intro hx; clear_value x)))
        | clear_value x)
    | (with_reducible first
        | apply keeps_fetchAgain | apply keeps_fetchArrives | apply keeps_later | apply keeps_modMema | apply keeps_pathRead
        | apply keeps_poisonError | apply keeps_staleReply | refine keeps_pathRead_eq (by with_reducible assumption) ?_
        | refine Keeps.foldl ?_ ?_ | refine Keeps.foldlSnd ?_ ?_ | refine Keeps.ite ?_ ?_)
    | (fail_if_no_progress (with_reducible refine Keeps.upd ?_))
    | (fail_if_no_progress (with_reducible refine Keeps.updHold ?_ rfl))
    | split
    | (dsimp only)

theorem keeps_settleDrain {a : Block} {b : Block} (x1 : ℕ)
    (h : Keeps a b) : Keeps a (settleDrain x1 b) := by
  delta settleDrain
  repeat' first
    | (with_reducible assumption)
    | (intro)
    | (with_reducible first
        | apply keeps_later | apply keeps_modRgn | refine Keeps.foldl ?_ ?_ | refine Keeps.ite ?_ ?_)
    | (fail_if_no_progress (with_reducible refine Keeps.upd ?_))
    | (fail_if_no_progress (with_reducible refine Keeps.updHold ?_ rfl))
    | split
    | (dsimp only)

theorem keeps_ndrArrives {a : Block} {b : Block} (x1 : ℕ) (x2 : ℕ) (x3 : BitVec 12)
    (h : Keeps a b) : Keeps a (ndrArrives x1 x2 x3 b) := by
  delta ndrArrives
  repeat' first
    | (with_reducible assumption)
    | (intro)
    | (with_reducible first
        | apply keeps_later | apply keeps_modMema | apply keeps_settleDrain | apply keeps_staleReply | refine Keeps.foldl ?_ ?_
        | refine Keeps.ite ?_ ?_)
    | (fail_if_no_progress (with_reducible refine Keeps.upd ?_))
    | (fail_if_no_progress (with_reducible refine Keeps.updHold ?_ rfl))
    | split
    | (dsimp only)

theorem keeps_createRgn {a : Block} {b : Block} (x1 : ℕ)
    (h : Keeps a b) : Keeps a (createRgn x1 b) := by
  delta createRgn
  repeat' first
    | (with_reducible assumption)
    | (intro)
    | (with_reducible first
        | apply keeps_modRgn | apply keeps_recordErr | refine Keeps.foldl ?_ ?_ | refine Keeps.ite ?_ ?_)
    | (fail_if_no_progress (with_reducible refine Keeps.upd ?_))
    | (fail_if_no_progress (with_reducible refine Keeps.updHold ?_ rfl))
    | split
    | (dsimp only)

theorem keeps_drainRgn {a : Block} {b : Block} (x1 : ℕ)
    (h : Keeps a b) : Keeps a (drainRgn x1 b) := by
  delta drainRgn
  repeat' first
    | (with_reducible assumption)
    | (intro)
    | (with_reducible first
        | apply keeps_later | apply keeps_modMema | apply keeps_modRgn | apply keeps_settleDrain | apply keeps_spoilDest
        | refine Keeps.foldl ?_ ?_ | refine Keeps.ite ?_ ?_)
    | (fail_if_no_progress (with_reducible refine Keeps.upd ?_))
    | (fail_if_no_progress (with_reducible refine Keeps.updHold ?_ rfl))
    | split
    | (dsimp only)

theorem keeps_rgnWrite {a : Block} {b : Block} (x1 : ℕ) (x2 : Word)
    (h : Keeps a b) : Keeps a (rgnWrite x1 x2 b) := by
  delta rgnWrite
  repeat' first
    | (with_reducible assumption)
    | (intro)
    | (with_reducible first
        | apply keeps_createRgn | apply keeps_drainRgn | apply keeps_modRgn | apply keeps_recordErr | refine Keeps.foldl ?_ ?_
        | refine Keeps.ite ?_ ?_)
    | (fail_if_no_progress (with_reducible refine Keeps.upd ?_))
    | (fail_if_no_progress (with_reducible refine Keeps.updHold ?_ rfl))
    | split
    | (dsimp only)

theorem keeps_createRegion_eq {a : Block} {b : Block} {w k p l x s : ℕ} {v} {c : Block} (e : createRegion w k p l x s b = some (v, c))
    (h : Keeps a b) : Keeps a c := by
  simp only [createRegion] at e
  split at e
  · simp at e
  · split at e
    · simp at e
    · split at e <;> simp at e
      obtain ⟨-, rfl⟩ := e
      exact keeps_createRgn _ (keeps_modRgn _ _ h)

theorem keeps_turnEmpty {a : Block} {b : Block} (x1 : ℕ)
    (h : Keeps a b) : Keeps a (turnEmpty x1 b) := by
  delta turnEmpty
  repeat' first
    | (with_reducible assumption)
    | (intro)
    | (with_reducible first
        | apply keeps_modMema | refine Keeps.foldl ?_ ?_ | refine Keeps.ite ?_ ?_)
    | (fail_if_no_progress (with_reducible refine Keeps.upd ?_))
    | (fail_if_no_progress (with_reducible refine Keeps.updHold ?_ rfl))
    | split
    | (dsimp only)

theorem keeps_startRoll {a : Block} {b : Block} (x1 : ℕ)
    (h : Keeps a b) : Keeps a (startRoll x1 b) := by
  delta startRoll
  repeat' first
    | (with_reducible assumption)
    | (intro)
    | (with_reducible first
        | apply keeps_later | apply keeps_modMema | apply keeps_modRgn | apply keeps_turnEmpty | refine Keeps.foldl ?_ ?_
        | refine Keeps.ite ?_ ?_)
    | (fail_if_no_progress (with_reducible refine Keeps.upd ?_))
    | (fail_if_no_progress (with_reducible refine Keeps.updHold ?_ rfl))
    | split
    | (dsimp only)

theorem keeps_rollDone {a : Block} {b : Block} (x1 : ℕ)
    (h : Keeps a b) : Keeps a (rollDone x1 b) := by
  delta rollDone
  repeat' first
    | (with_reducible assumption)
    | (intro)
    | (with_reducible first
        | apply keeps_flush | apply keeps_modRgn | apply keeps_raise | apply keeps_runRegion | refine Keeps.foldl ?_ ?_
        | refine Keeps.ite ?_ ?_)
    | (fail_if_no_progress (with_reducible refine Keeps.upd ?_))
    | (fail_if_no_progress (with_reducible refine Keeps.updHold ?_ rfl))
    | split
    | (dsimp only)

theorem keeps_wayCmd {a : Block} {b : Block} (x1 : Master) (x2 : Word)
    (h : Keeps a b) : Keeps a (wayCmd x1 x2 b) := by
  delta wayCmd
  repeat' first
    | (with_reducible assumption)
    | (intro)
    | (with_reducible first
        | apply keeps_later | apply keeps_modMema | apply keeps_raise | apply keeps_recordErr | refine Keeps.foldl ?_ ?_
        | refine Keeps.ite ?_ ?_)
    | (fail_if_no_progress (with_reducible refine Keeps.upd ?_))
    | (fail_if_no_progress (with_reducible refine Keeps.updHold ?_ rfl))
    | split
    | (dsimp only)

theorem keeps_wayDone {a : Block} {b : Block}
    (h : Keeps a b) : Keeps a (wayDone b) := by
  delta wayDone
  repeat' first
    | (with_reducible assumption)
    | (intro)
    | (with_reducible first
        | apply keeps_flush | apply keeps_modMema | apply keeps_raise | refine Keeps.foldl ?_ ?_ | refine Keeps.ite ?_ ?_)
    | (fail_if_no_progress (with_reducible refine Keeps.upd ?_))
    | (fail_if_no_progress (with_reducible refine Keeps.updHold ?_ rfl))
    | split
    | (dsimp only)

theorem keeps_portReset {a : Block} {b : Block} (x1 : ℕ)
    (h : Keeps a b) : Keeps a (portReset x1 b) := by
  delta portReset
  repeat' first
    | (with_reducible assumption)
    | (intro)
    | (with_reducible first
        | apply keeps_modMema | apply keeps_modPage | apply keeps_modPort | apply keeps_raise | refine Keeps.foldl ?_ ?_
        | refine Keeps.ite ?_ ?_)
    | (fail_if_no_progress (with_reducible refine Keeps.upd ?_))
    | (fail_if_no_progress (with_reducible refine Keeps.updHold ?_ rfl))
    | split
    | (dsimp only)

theorem keeps_resumePort {a : Block} {b : Block} (x1 : ℕ)
    (h : Keeps a b) : Keeps a (resumePort x1 b) := by
  delta resumePort
  repeat' first
    | (with_reducible assumption)
    | (intro)
    | (with_reducible first
        | apply keeps_later | apply keeps_modMema | apply keeps_putRead | apply keeps_putWrite | refine Keeps.foldl ?_ ?_
        | refine Keeps.ite ?_ ?_)
    | (fail_if_no_progress (with_reducible refine Keeps.upd ?_))
    | (fail_if_no_progress (with_reducible refine Keeps.updHold ?_ rfl))
    | split
    | (dsimp only)

theorem keeps_portReturn {a : Block} {b : Block} (x1 : ℕ)
    (h : Keeps a b) : Keeps a (portReturn x1 b) := by
  delta portReturn
  repeat' first
    | (with_reducible assumption)
    | (intro)
    | (with_reducible first
        | apply keeps_modPort | apply keeps_raise | apply keeps_resumePort | refine Keeps.foldl ?_ ?_ | refine Keeps.ite ?_ ?_)
    | (fail_if_no_progress (with_reducible refine Keeps.upd ?_))
    | (fail_if_no_progress (with_reducible refine Keeps.updHold ?_ rfl))
    | split
    | (dsimp only)

theorem keeps_portsTurn {a : Block} {b : Block}
    (h : Keeps a b) : Keeps a (portsTurn b) := by
  delta portsTurn
  repeat' first
    | (with_reducible assumption)
    | (intro)
    | (with_reducible first
        | apply keeps_raise | refine Keeps.foldl ?_ ?_ | refine Keeps.ite ?_ ?_)
    | (fail_if_no_progress (with_reducible refine Keeps.upd ?_))
    | (fail_if_no_progress (with_reducible refine Keeps.updHold ?_ rfl))
    | split
    | (dsimp only)

theorem keeps_clearWays {a : Block} {b : Block} (x1 : ℕ)
    (h : Keeps a b) : Keeps a (clearWays x1 b) := by
  delta clearWays
  repeat' first
    | (with_reducible assumption)
    | (intro)
    | (with_reducible first
        | apply keeps_modMema | refine Keeps.foldl ?_ ?_ | refine Keeps.ite ?_ ?_)
    | (fail_if_no_progress (with_reducible refine Keeps.upd ?_))
    | (fail_if_no_progress (with_reducible refine Keeps.updHold ?_ rfl))
    | split
    | (dsimp only)

/-! ### Transfers -/

theorem keeps_cmdFault {a : Block} {b : Block} (x1 : ℕ) (x2 : ℕ) (x3 : Byte) (x4 : ℕ) (x5 : ℕ) (x6 : ℕ)
    (h : Keeps a b) : Keeps a (cmdFault x1 x2 x3 x4 x5 x6 b) := by
  delta cmdFault
  repeat' first
    | (with_reducible assumption)
    | (intro)
    | (with_reducible first
        | apply keeps_faultCmd | apply keeps_finishCmd | refine Keeps.foldl ?_ ?_ | refine Keeps.ite ?_ ?_)
    | (fail_if_no_progress (with_reducible refine Keeps.upd ?_))
    | (fail_if_no_progress (with_reducible refine Keeps.updHold ?_ rfl))
    | split
    | (dsimp only)

theorem keeps_runCmd {a : Block} {b : Block} (x1 : ℕ) (x2 : ℕ) (x3 : ℕ) (x4 : ℕ) (f5 : ℕ → Cmd → Block → Block)
    (hf5 : ∀ y0 y1 b, Keeps a b → Keeps a (f5 y0 y1 b)) (h : Keeps a b) : Keeps a (runCmd x1 x2 x3 x4 f5 b) := by
  delta runCmd
  repeat' first
    | (with_reducible assumption)
    | (intro)
    | (with_reducible first
        | apply hf5 | refine Keeps.foldl ?_ ?_ | refine Keeps.ite ?_ ?_)
    | (fail_if_no_progress (with_reducible refine Keeps.upd ?_))
    | (fail_if_no_progress (with_reducible refine Keeps.updHold ?_ rfl))
    | split
    | (dsimp only)

theorem keeps_nopCmd {a : Block} {b : Block} (x1 : ℕ) (x2 : ℕ)
    (h : Keeps a b) : Keeps a (nopCmd x1 x2 b) := by
  delta nopCmd
  repeat' first
    | (with_reducible assumption)
    | (intro)
    | (with_reducible first
        | apply keeps_finishCmd | apply keeps_runCmd | refine Keeps.foldl ?_ ?_ | refine Keeps.ite ?_ ?_)
    | (fail_if_no_progress (with_reducible refine Keeps.upd ?_))
    | (fail_if_no_progress (with_reducible refine Keeps.updHold ?_ rfl))
    | split
    | (dsimp only)

theorem keeps_fenceNew {a : Block} {b : Block} (x1 : ℕ) (x2 : ℕ)
    (h : Keeps a b) : Keeps a (fenceNew x1 x2 b) := by
  delta fenceNew
  repeat' first
    | (with_reducible assumption)
    | (intro)
    | (with_reducible first
        | apply keeps_finishCmd | apply keeps_runCmd | refine keeps_newFence_eq (by with_reducible assumption) ?_
        | refine Keeps.foldl ?_ ?_ | refine Keeps.ite ?_ ?_)
    | (fail_if_no_progress (with_reducible refine Keeps.upd ?_))
    | (fail_if_no_progress (with_reducible refine Keeps.updHold ?_ rfl))
    | split
    | (dsimp only)

theorem keeps_fenceReset {a : Block} {b : Block} (x1 : ℕ) (x2 : ℕ)
    (h : Keeps a b) : Keeps a (fenceReset x1 x2 b) := by
  delta fenceReset
  repeat' first
    | (with_reducible assumption)
    | (intro)
    | (with_reducible first
        | apply keeps_finishCmd | apply keeps_resetFence | apply keeps_runCmd
        | refine keeps_resetFence_eq (by with_reducible assumption) ?_ | refine Keeps.foldl ?_ ?_ | refine Keeps.ite ?_ ?_)
    | (fail_if_no_progress (with_reducible refine Keeps.upd ?_))
    | (fail_if_no_progress (with_reducible refine Keeps.updHold ?_ rfl))
    | split
    | (dsimp only)

theorem keeps_bufferNew {a : Block} {b : Block} (x1 : ℕ) (x2 : ℕ)
    (h : Keeps a b) : Keeps a (bufferNew x1 x2 b) := by
  delta bufferNew
  repeat' first
    | (with_reducible assumption)
    | (intro)
    | (with_reducible first
        | apply keeps_finishCmd | apply keeps_runCmd | refine keeps_newObj_eq (by with_reducible assumption) ?_ | refine Keeps.foldl ?_ ?_
        | refine Keeps.ite ?_ ?_)
    | (fail_if_no_progress (with_reducible refine Keeps.upd ?_))
    | (fail_if_no_progress (with_reducible refine Keeps.updHold ?_ rfl))
    | split
    | (dsimp only)

theorem keeps_objFree {a : Block} {b : Block} (x1 : ℕ) (x2 : ℕ)
    (h : Keeps a b) : Keeps a (objFree x1 x2 b) := by
  delta objFree
  repeat' first
    | (with_reducible assumption)
    | (intro)
    | (with_reducible first
        | apply keeps_retireCmd | refine Keeps.foldl ?_ ?_ | refine Keeps.ite ?_ ?_)
    | (fail_if_no_progress (with_reducible refine Keeps.upd ?_))
    | (fail_if_no_progress (with_reducible refine Keeps.updHold ?_ rfl))
    | split
    | (dsimp only)

theorem keeps_recycleCmd {a : Block} {b : Block} (x1 : ℕ) (x2 : ℕ)
    (h : Keeps a b) : Keeps a (recycleCmd x1 x2 b) := by
  delta recycleCmd
  repeat' first
    | (with_reducible assumption)
    | (intro)
    | (with_reducible first
        | apply keeps_finishCmd | apply keeps_recycle | apply keeps_runCmd | refine keeps_recycle_eq (by with_reducible assumption) ?_
        | refine Keeps.foldl ?_ ?_ | refine Keeps.ite ?_ ?_)
    | (fail_if_no_progress (with_reducible refine Keeps.upd ?_))
    | (fail_if_no_progress (with_reducible refine Keeps.updHold ?_ rfl))
    | split
    | (dsimp only)

theorem keeps_dropCopy {a : Block} {b : Block} (x1 : ℕ) (x2 : ℕ)
    (h : Keeps a b) : Keeps a (dropCopy x1 x2 b) := by
  delta dropCopy
  repeat' first
    | (with_reducible assumption)
    | (intro)
    | (with_reducible first
        | refine Keeps.foldl ?_ ?_ | refine Keeps.ite ?_ ?_)
    | (fail_if_no_progress (with_reducible refine Keeps.upd ?_))
    | (fail_if_no_progress (with_reducible refine Keeps.updHold ?_ rfl))
    | split
    | (dsimp only)

theorem keeps_endCopy {a : Block} {b : Block} (x1 : ℕ) (x2 : ℕ) (x3 : Byte)
    (h : Keeps a b) : Keeps a (endCopy x1 x2 x3 b) := by
  delta endCopy
  repeat' first
    | (with_reducible assumption)
    | (intro)
    | (with_reducible first
        | apply keeps_dropCopy | apply keeps_finishCmd | refine Keeps.foldl ?_ ?_ | refine Keeps.ite ?_ ?_)
    | (fail_if_no_progress (with_reducible refine Keeps.upd ?_))
    | (fail_if_no_progress (with_reducible refine Keeps.updHold ?_ rfl))
    | split
    | (dsimp only)

theorem keeps_faultCopy {a : Block} {b : Block} (x1 : ℕ) (x2 : ℕ) (x3 : Byte) (x4 : ℕ) (x5 : ℕ)
    (h : Keeps a b) : Keeps a (faultCopy x1 x2 x3 x4 x5 b) := by
  delta faultCopy
  repeat' first
    | (with_reducible assumption)
    | (intro)
    | (with_reducible first
        | apply keeps_cmdFault | apply keeps_dropCopy | refine Keeps.foldl ?_ ?_ | refine Keeps.ite ?_ ?_)
    | (fail_if_no_progress (with_reducible refine Keeps.upd ?_))
    | (fail_if_no_progress (with_reducible refine Keeps.updHold ?_ rfl))
    | split
    | (dsimp only)

theorem keeps_copyAdvance {a : Block} {b : Block} (x1 : ℕ) (x2 : ℕ)
    (h : Keeps a b) : Keeps a (copyAdvance x1 x2 b) := by
  delta copyAdvance
  repeat' first
    | (with_reducible assumption)
    | (intro)
    | (with_reducible first
        | apply keeps_endCopy | refine Keeps.foldl ?_ ?_ | refine Keeps.ite ?_ ?_)
    | (fail_if_no_progress (with_reducible refine Keeps.upd ?_))
    | (fail_if_no_progress (with_reducible refine Keeps.updHold ?_ rfl))
    | split
    | (dsimp only)

theorem keeps_copyStore {a : Block} {b : Block} (x1 : ℕ) (x2 : ℕ) (x3 : ℕ) (x4 : Cmd) (x5 : ℕ) (x6 : Bytes)
    (h : Keeps a b) : Keeps a (copyStore x1 x2 x3 x4 x5 x6 b) := by
  delta copyStore
  repeat' first
    | (with_reducible assumption)
    | (intro)
    | (with_reducible first
        | apply keeps_access | apply keeps_copyAdvance | apply keeps_count | apply keeps_endCopy | apply keeps_faultCopy
        | apply keeps_internalWrite | apply keeps_producerWrite | refine Keeps.foldl ?_ ?_ | refine Keeps.ite ?_ ?_)
    | (fail_if_no_progress (with_reducible refine Keeps.upd ?_))
    | (fail_if_no_progress (with_reducible refine Keeps.updHold ?_ rfl))
    | split
    | (dsimp only)

theorem keeps_copyPath {a : Block} {b : Block} (x1 x2 x3 x4 x5 x6 : ℕ) (x7 : Bytes) (h : Keeps a b) :
    Keeps a (copyPath x1 x2 x3 x4 x5 x6 x7 b).2.2 :=
  Keeps.iteThird (keeps_pathRead _ _ _ _ _ _ (keeps_pathRead _ _ _ _ _ _ h)) (keeps_pathRead _ _ _ _ _ _ h)

theorem keeps_copyPath_eq {a : Block} {b : Block} {x1 : ℕ} {x2 : ℕ} {x3 : ℕ} {x4 : ℕ} {x5 : ℕ} {x6 : ℕ} {x7 : Bytes} {v w} {c : Block} (e : copyPath x1 x2 x3 x4 x5 x6 x7 b = (v, w, c))
    (h : Keeps a b) : Keeps a c := by
  have := keeps_copyPath x1 x2 x3 x4 x5 x6 x7 h; rw [e] at this; exact this

theorem keeps_copyLoad {a : Block} {b : Block} (x1 : ℕ) (x2 : ℕ) (x3 : ℕ) (x4 : Cmd) (x5 : ℕ)
    (h : Keeps a b) : Keeps a (copyLoad x1 x2 x3 x4 x5 b) := by
  delta copyLoad
  repeat' first
    | (with_reducible assumption)
    | (intro)
    | (extract_lets +onlyGivenNames x; first
        | (refine Keeps.named (a := a) x ?_ ?_; (on_goal 1 => (revert x; show Keeps _ _)); (on_goal -1 => (intro hx; clear_value x)))
        | (refine Keeps.namedSnd (a := a) x ?_ ?_; (on_goal 1 => (revert x; show Keeps _ _)); (on_goal -1 => (intro hx; clear_value x)))
        | (refine Keeps.namedThird (a := a) x ?_ ?_; (on_goal 1 => (revert x; show Keeps _ _)); (on_goal -1 => (intro hx; clear_value x)))
        | (refine Keeps.namedFst (a := a) x ?_ ?_; (on_goal 1 => (revert x; show Keeps _ _)); (on_goal -1 => (intro hx; clear_value x)))
        | clear_value x)
    | (with_reducible first
        | apply keeps_access | apply keeps_addWait | apply keeps_copyPath | apply keeps_copyStore | apply keeps_count
        | apply keeps_faultCopy | apply keeps_internalRead | apply keeps_later | apply keeps_senseLines
        | refine keeps_copyPath_eq (by with_reducible assumption) ?_ | refine keeps_senseLines_eq (by with_reducible assumption) ?_
        | refine Keeps.foldl ?_ ?_ | refine Keeps.foldlSnd ?_ ?_ | refine Keeps.ite ?_ ?_)
    | (fail_if_no_progress (with_reducible refine Keeps.upd ?_))
    | (fail_if_no_progress (with_reducible refine Keeps.updHold ?_ rfl))
    | split
    | (dsimp only)

theorem keeps_copyRun {a : Block} {b : Block} (x1 : ℕ) (x2 : ℕ) (x3 : ℕ)
    (h : Keeps a b) : Keeps a (copyRun x1 x2 x3 b) := by
  induction x3 generalizing b with
  | zero => rw [copyRun]; with_reducible assumption
  | succ n ih =>
    first | rw [copyRun] | (rw [copyRun.eq_def]; dsimp -zeta only)
    repeat' first
      | (with_reducible assumption)
      | (with_reducible apply ih)
      | (intro)
      | (with_reducible first
          | apply keeps_copyLoad | refine Keeps.foldl ?_ ?_ | refine Keeps.ite ?_ ?_)
      | (fail_if_no_progress (with_reducible refine Keeps.upd ?_))
      | (fail_if_no_progress (with_reducible refine Keeps.updHold ?_ rfl))
      | split
      | (dsimp only)

theorem keeps_copyGo {a : Block} {b : Block} (x1 : ℕ) (x2 : ℕ)
    (h : Keeps a b) : Keeps a (copyGo x1 x2 b) := by
  delta copyGo
  repeat' first
    | (with_reducible assumption)
    | (intro)
    | (with_reducible first
        | apply keeps_copyRun | refine Keeps.foldl ?_ ?_ | refine Keeps.ite ?_ ?_)
    | (fail_if_no_progress (with_reducible refine Keeps.upd ?_))
    | (fail_if_no_progress (with_reducible refine Keeps.updHold ?_ rfl))
    | split
    | (dsimp only)

theorem keeps_copyCmd {a : Block} {b : Block} (x1 : ℕ) (x2 : ℕ) (x3 : List LineErr)
    (h : Keeps a b) : Keeps a (copyCmd x1 x2 x3 b) := by
  delta copyCmd
  repeat' first
    | (with_reducible assumption)
    | (intro)
    | (with_reducible first
        | apply keeps_copyGo | apply keeps_modCmd | apply keeps_runCmd | refine Keeps.foldl ?_ ?_ | refine Keeps.ite ?_ ?_)
    | (fail_if_no_progress (with_reducible refine Keeps.upd ?_))
    | (fail_if_no_progress (with_reducible refine Keeps.updHold ?_ rfl))
    | split
    | (dsimp only)

theorem keeps_haltChannel {a : Block} {b : Block} (x1 : ℕ)
    (h : Keeps a b) : Keeps a (haltChannel x1 b) := by
  delta haltChannel
  repeat' first
    | (with_reducible assumption)
    | (intro)
    | (with_reducible first
        | apply keeps_raise | refine Keeps.foldl ?_ ?_ | refine Keeps.ite ?_ ?_)
    | (fail_if_no_progress (with_reducible refine Keeps.upd ?_))
    | (fail_if_no_progress (with_reducible refine Keeps.updHold ?_ rfl))
    | split
    | (dsimp only)

theorem keeps_copyLine {a : Block} {b : Block} (x1 : ℕ) (x2 : ℕ) (x3 : Bytes)
    (h : Keeps a b) : Keeps a (copyLine x1 x2 x3 b) := by
  delta copyLine
  repeat' first
    | (with_reducible assumption)
    | (intro)
    | (with_reducible first
        | apply keeps_copyGo | apply keeps_copyStore | refine Keeps.foldl ?_ ?_ | refine Keeps.ite ?_ ?_)
    | (fail_if_no_progress (with_reducible refine Keeps.upd ?_))
    | (fail_if_no_progress (with_reducible refine Keeps.updHold ?_ rfl))
    | split
    | (dsimp only)

theorem keeps_copyAnswer {a : Block} {b : Block} (x1 : ℕ) (x2 : ℕ) (x3 : Byte)
    (h : Keeps a b) : Keeps a (copyAnswer x1 x2 x3 b) := by
  delta copyAnswer
  repeat' first
    | (with_reducible assumption)
    | (intro)
    | (with_reducible first
        | apply keeps_copyAdvance | apply keeps_copyGo | apply keeps_endCopy | refine Keeps.foldl ?_ ?_ | refine Keeps.ite ?_ ?_)
    | (fail_if_no_progress (with_reducible refine Keeps.upd ?_))
    | (fail_if_no_progress (with_reducible refine Keeps.updHold ?_ rfl))
    | split
    | (dsimp only)

theorem keeps_copyLost {a : Block} {b : Block} (x1 : ℕ) (x2 : ℕ) (x3 : Byte)
    (h : Keeps a b) : Keeps a (copyLost x1 x2 x3 b) := by
  delta copyLost
  repeat' first
    | (with_reducible assumption)
    | (intro)
    | (with_reducible first
        | apply keeps_faultCopy | refine Keeps.foldl ?_ ?_ | refine Keeps.ite ?_ ?_)
    | (fail_if_no_progress (with_reducible refine Keeps.upd ?_))
    | (fail_if_no_progress (with_reducible refine Keeps.updHold ?_ rfl))
    | split
    | (dsimp only)

theorem keeps_copyHurt {a : Block} {b : Block} (x1 : ℕ) (x2 : ℕ)
    (h : Keeps a b) : Keeps a (copyHurt x1 x2 b) := by
  delta copyHurt
  repeat' first
    | (with_reducible assumption)
    | (intro)
    | (with_reducible first
        | apply keeps_copyLost | apply keeps_haltChannel | refine Keeps.foldl ?_ ?_ | refine Keeps.ite ?_ ?_)
    | (fail_if_no_progress (with_reducible refine Keeps.upd ?_))
    | (fail_if_no_progress (with_reducible refine Keeps.updHold ?_ rfl))
    | split
    | (dsimp only)

theorem keeps_sendCmd {a : Block} {b : Block} (x1 : ℕ) (x2 : ℕ)
    (h : Keeps a b) : Keeps a (sendCmd x1 x2 b) := by
  delta sendCmd
  repeat' first
    | (with_reducible assumption)
    | (intro)
    | (with_reducible first
        | apply keeps_addWait | apply keeps_cmdFault | apply keeps_count | apply keeps_enqueue | apply keeps_modCmd | apply keeps_runCmd
        | refine Keeps.foldl ?_ ?_ | refine Keeps.ite ?_ ?_)
    | (fail_if_no_progress (with_reducible refine Keeps.upd ?_))
    | (fail_if_no_progress (with_reducible refine Keeps.updHold ?_ rfl))
    | split
    | (dsimp only)

theorem keeps_sendAnswer {a : Block} {b : Block} (x1 : ℕ) (x2 : ℕ) (x3 : Byte)
    (h : Keeps a b) : Keeps a (sendAnswer x1 x2 x3 b) := by
  delta sendAnswer
  repeat' first
    | (with_reducible assumption)
    | (intro)
    | (with_reducible first
        | apply keeps_finishCmd | apply keeps_modCmd | refine Keeps.foldl ?_ ?_ | refine Keeps.ite ?_ ?_)
    | (fail_if_no_progress (with_reducible refine Keeps.upd ?_))
    | (fail_if_no_progress (with_reducible refine Keeps.updHold ?_ rfl))
    | split
    | (dsimp only)

theorem keeps_sendLost {a : Block} {b : Block} (x1 : ℕ) (x2 : ℕ) (x3 : Byte)
    (h : Keeps a b) : Keeps a (sendLost x1 x2 x3 b) := by
  delta sendLost
  repeat' first
    | (with_reducible assumption)
    | (intro)
    | (with_reducible first
        | apply keeps_cmdFault | refine Keeps.foldl ?_ ?_ | refine Keeps.ite ?_ ?_)
    | (fail_if_no_progress (with_reducible refine Keeps.upd ?_))
    | (fail_if_no_progress (with_reducible refine Keeps.updHold ?_ rfl))
    | split
    | (dsimp only)

theorem keeps_cmdDone {a : Block} {b : Block} (x1 : ℕ) (x2 : ℕ) (x3 : Byte)
    (h : Keeps a b) : Keeps a (cmdDone x1 x2 x3 b) := by
  delta cmdDone
  repeat' first
    | (with_reducible assumption)
    | (intro)
    | (with_reducible first
        | apply keeps_copyAnswer | apply keeps_sendAnswer | refine Keeps.foldl ?_ ?_ | refine Keeps.ite ?_ ?_)
    | (fail_if_no_progress (with_reducible refine Keeps.upd ?_))
    | (fail_if_no_progress (with_reducible refine Keeps.updHold ?_ rfl))
    | split
    | (dsimp only)

theorem keeps_cmdLost {a : Block} {b : Block} (x1 : ℕ) (x2 : ℕ) (x3 : Byte)
    (h : Keeps a b) : Keeps a (cmdLost x1 x2 x3 b) := by
  delta cmdLost
  repeat' first
    | (with_reducible assumption)
    | (intro)
    | (with_reducible first
        | apply keeps_copyLost | apply keeps_sendLost | refine Keeps.foldl ?_ ?_ | refine Keeps.ite ?_ ?_)
    | (fail_if_no_progress (with_reducible refine Keeps.upd ?_))
    | (fail_if_no_progress (with_reducible refine Keeps.updHold ?_ rfl))
    | split
    | (dsimp only)

theorem keeps_cmdHurt {a : Block} {b : Block} (x1 : ℕ) (x2 : ℕ) (x3 : Byte)
    (h : Keeps a b) : Keeps a (cmdHurt x1 x2 x3 b) := by
  delta cmdHurt
  repeat' first
    | (with_reducible assumption)
    | (intro)
    | (with_reducible first
        | apply keeps_cmdLost | apply keeps_copyHurt | refine Keeps.foldl ?_ ?_ | refine Keeps.ite ?_ ?_)
    | (fail_if_no_progress (with_reducible refine Keeps.upd ?_))
    | (fail_if_no_progress (with_reducible refine Keeps.updHold ?_ rfl))
    | split
    | (dsimp only)

theorem keeps_cmdResume {a : Block} {b : Block} (x1 : ℕ) (x2 : ℕ)
    (h : Keeps a b) : Keeps a (cmdResume x1 x2 b) := by
  delta cmdResume
  repeat' first
    | (with_reducible assumption)
    | (intro)
    | (with_reducible first
        | apply keeps_copyGo | apply keeps_sendCmd | refine Keeps.foldl ?_ ?_ | refine Keeps.ite ?_ ?_)
    | (fail_if_no_progress (with_reducible refine Keeps.upd ?_))
    | (fail_if_no_progress (with_reducible refine Keeps.updHold ?_ rfl))
    | split
    | (dsimp only)

theorem keeps_ceIssue {a : Block} {b : Block} (x1 : ℕ)
    (h : Keeps a b) : Keeps a (ceIssue x1 b) := by
  delta ceIssue
  repeat' first
    | (with_reducible assumption)
    | (intro)
    | (with_reducible first
        | apply keeps_emit | apply keeps_modAtt | apply keeps_modCmd | refine Keeps.foldl ?_ ?_ | refine Keeps.ite ?_ ?_)
    | (fail_if_no_progress (with_reducible refine Keeps.upd ?_))
    | (fail_if_no_progress (with_reducible refine Keeps.updHold ?_ rfl))
    | split
    | (dsimp only)

theorem keeps_ceComplete {a : Block} {b : Block} (x1 : ℕ) (x2 : Byte) (x3 : ℕ) (x4 : BitVec 12)
    (h : Keeps a b) : Keeps a (ceComplete x1 x2 x3 x4 b) := by
  delta ceComplete
  repeat' first
    | (with_reducible assumption)
    | (intro)
    | (with_reducible first
        | apply keeps_cmdFault | apply keeps_finishCmd | apply keeps_modAtt | apply keeps_recordErr | refine Keeps.foldl ?_ ?_
        | refine Keeps.ite ?_ ?_)
    | (fail_if_no_progress (with_reducible refine Keeps.upd ?_))
    | (fail_if_no_progress (with_reducible refine Keeps.updHold ?_ rfl))
    | split
    | (dsimp only)

theorem keeps_attachLost {a : Block} {b : Block} (x1 : ℕ)
    (h : Keeps a b) : Keeps a (attachLost x1 b) := by
  delta attachLost
  repeat' first
    | (with_reducible assumption)
    | (intro)
    | (with_reducible first
        | apply keeps_cmdFault | apply keeps_modAtt | apply keeps_raise | refine Keeps.foldl ?_ ?_ | refine Keeps.ite ?_ ?_)
    | (fail_if_no_progress (with_reducible refine Keeps.upd ?_))
    | (fail_if_no_progress (with_reducible refine Keeps.updHold ?_ rfl))
    | split
    | (dsimp only)

theorem keeps_resetAttach {a : Block} {b : Block} (x1 : ℕ) (x2 : Bool)
    (h : Keeps a b) : Keeps a (resetAttach x1 x2 b) := by
  delta resetAttach
  repeat' first
    | (with_reducible assumption)
    | (intro)
    | (with_reducible first
        | apply keeps_attachLost | apply keeps_modAtt | apply keeps_record | refine Keeps.foldl ?_ ?_ | refine Keeps.ite ?_ ?_)
    | (fail_if_no_progress (with_reducible refine Keeps.upd ?_))
    | (fail_if_no_progress (with_reducible refine Keeps.updHold ?_ rfl))
    | split
    | (dsimp only)

theorem keeps_operandGo {a : Block} {b : Block} (x1 : ℕ) (x2 : ℕ) (x3 : ℕ) (x4 : ℕ) (x5 : Option Bytes)
    (h : Keeps a b) : Keeps a (operandGo x1 x2 x3 x4 x5 b) := by
  delta operandGo
  extract_lets ls z
  have hz : ∀ c, Keeps a c → Keeps a (z c) := by
    intro c hc
    simp only [z]
    split
    · exact hc
    · exact keeps_emit _ hc
  clear_value z
  repeat' first
    | (with_reducible assumption)
    | (intro)
    | (extract_lets +onlyGivenNames x; first
        | (refine Keeps.named (a := a) x ?_ ?_; (on_goal 1 => (revert x; show Keeps _ _)); (on_goal -1 => (intro hx; clear_value x)))
        | (refine Keeps.namedSnd (a := a) x ?_ ?_; (on_goal 1 => (revert x; show Keeps _ _)); (on_goal -1 => (intro hx; clear_value x)))
        | (refine Keeps.namedThird (a := a) x ?_ ?_; (on_goal 1 => (revert x; show Keeps _ _)); (on_goal -1 => (intro hx; clear_value x)))
        | (refine Keeps.namedFst (a := a) x ?_ ?_; (on_goal 1 => (revert x; show Keeps _ _)); (on_goal -1 => (intro hx; clear_value x)))
        | clear_value x)
    | (with_reducible first
        | apply hz | apply keeps_addWait | apply keeps_cmdFault | apply keeps_count | apply keeps_emit | apply keeps_producerWrite
        | apply keeps_recordErr | apply keeps_senseLines | refine keeps_senseLines_eq (by with_reducible assumption) ?_
        | refine Keeps.foldl ?_ ?_ | refine Keeps.foldlSnd ?_ ?_ | refine Keeps.ite ?_ ?_)
    | (fail_if_no_progress (with_reducible refine Keeps.upd ?_))
    | (fail_if_no_progress (with_reducible refine Keeps.updHold ?_ rfl))
    | split
    | (dsimp only)

theorem keeps_operandLost {a : Block} {b : Block} (x1 : ℕ) (x2 : ℕ) (x3 : ℕ) (x4 : ℕ) (x5 : Byte)
    (h : Keeps a b) : Keeps a (operandLost x1 x2 x3 x4 x5 b) := by
  delta operandLost
  repeat' first
    | (with_reducible assumption)
    | (intro)
    | (with_reducible first
        | apply keeps_cmdFault | apply keeps_emit | refine Keeps.foldl ?_ ?_ | refine Keeps.ite ?_ ?_)
    | (fail_if_no_progress (with_reducible refine Keeps.upd ?_))
    | (fail_if_no_progress (with_reducible refine Keeps.updHold ?_ rfl))
    | split
    | (dsimp only)

theorem keeps_operandTransfer {a : Block} {b : Block} (x1 : ℕ) (x2 : ℕ) (x3 : ℕ) (x4 : ℕ) (x5 : Option Bytes)
    (h : Keeps a b) : Keeps a (operandTransfer x1 x2 x3 x4 x5 b) := by
  delta operandTransfer
  repeat' first
    | (with_reducible assumption)
    | (intro)
    | (with_reducible first
        | apply keeps_operandGo | refine Keeps.foldl ?_ ?_ | refine Keeps.ite ?_ ?_)
    | (fail_if_no_progress (with_reducible refine Keeps.upd ?_))
    | (fail_if_no_progress (with_reducible refine Keeps.updHold ?_ rfl))
    | split
    | (dsimp only)

end Sys2Proof.Machine
end

