-- ==== Sys2Proof/Laws/KeepsEngines.lean ====
section
/-!
SUPPORT. What the operations keep (Keeps), one lemma an operation: the key stage, the GSE, SYNC and the SUE.
-/

set_option linter.unusedTactic false
set_option linter.unreachableTactic false

namespace Sys2Proof.Machine

/-! ### KeyStage -/

theorem keeps_modKstg {a : Block} {b : Block} (x1 : Kstg → Kstg)
    (h : Keeps a b) : Keeps a (modKstg x1 b) := by
  delta modKstg
  repeat' first
    | (with_reducible assumption)
    | (intro)
    | (with_reducible first
        | refine Keeps.foldl ?_ ?_ | refine Keeps.ite ?_ ?_)
    | (fail_if_no_progress (with_reducible refine Keeps.upd ?_))
    | (fail_if_no_progress (with_reducible refine Keeps.updHold ?_ rfl))
    | split
    | (dsimp only)

theorem keeps_stageIdle {a : Block} {b : Block}
    (h : Keeps a b) : Keeps a (stageIdle b) := by
  delta stageIdle
  repeat' first
    | (with_reducible assumption)
    | (intro)
    | (with_reducible first
        | apply keeps_later | apply keeps_modKstg | refine Keeps.foldl ?_ ?_ | refine Keeps.ite ?_ ?_)
    | (fail_if_no_progress (with_reducible refine Keeps.upd ?_))
    | (fail_if_no_progress (with_reducible refine Keeps.updHold ?_ rfl))
    | split
    | (dsimp only)

theorem keeps_touchStage {a : Block} {b : Block} (x1 : Master)
    (h : Keeps a b) : Keeps a (touchStage x1 b) := by
  delta touchStage
  repeat' first
    | (with_reducible assumption)
    | (intro)
    | (with_reducible first
        | apply keeps_modKstg | refine Keeps.foldl ?_ ?_ | refine Keeps.ite ?_ ?_)
    | (fail_if_no_progress (with_reducible refine Keeps.upd ?_))
    | (fail_if_no_progress (with_reducible refine Keeps.updHold ?_ rfl))
    | split
    | (dsimp only)

theorem keeps_setLast {a : Block} {b : Block} (x1 : Byte)
    (h : Keeps a b) : Keeps a (setLast x1 b) := by
  delta setLast
  repeat' first
    | (with_reducible assumption)
    | (intro)
    | (with_reducible first
        | apply keeps_modKstg | refine Keeps.foldl ?_ ?_ | refine Keeps.ite ?_ ?_)
    | (fail_if_no_progress (with_reducible refine Keeps.upd ?_))
    | (fail_if_no_progress (with_reducible refine Keeps.updHold ?_ rfl))
    | split
    | (dsimp only)

theorem keeps_stageRefused {a : Block} {b : Block}
    (h : Keeps a b) : Keeps a (stageRefused b) := by
  delta stageRefused
  repeat' first
    | (with_reducible assumption)
    | (intro)
    | (with_reducible first
        | apply keeps_recordErr | apply keeps_setLast | refine Keeps.foldl ?_ ?_ | refine Keeps.ite ?_ ?_)
    | (fail_if_no_progress (with_reducible refine Keeps.upd ?_))
    | (fail_if_no_progress (with_reducible refine Keeps.updHold ?_ rfl))
    | split
    | (dsimp only)

theorem keeps_asHolder {a : Block} {b : Block} (x1 : Master) (f2 : Block → Block)
    (hf2 : ∀ b, Keeps a b → Keeps a (f2 b)) (h : Keeps a b) : Keeps a (asHolder x1 f2 b) := by
  delta asHolder
  repeat' first
    | (with_reducible assumption)
    | (intro)
    | (with_reducible first
        | apply hf2 | apply keeps_recordErr | apply keeps_setLast | apply keeps_touchStage | refine Keeps.foldl ?_ ?_
        | refine Keeps.ite ?_ ?_)
    | (fail_if_no_progress (with_reducible refine Keeps.upd ?_))
    | (fail_if_no_progress (with_reducible refine Keeps.updHold ?_ rfl))
    | split
    | (dsimp only)

theorem keeps_kstgClaim {a : Block} {b : Block} (x1 : Master)
    (h : Keeps a b) : Keeps a (kstgClaim x1 b) := by
  delta kstgClaim
  repeat' first
    | (with_reducible assumption)
    | (intro)
    | (with_reducible first
        | apply keeps_modKstg | apply keeps_recordErr | apply keeps_setLast | apply keeps_touchStage | refine Keeps.foldl ?_ ?_
        | refine Keeps.ite ?_ ?_)
    | (fail_if_no_progress (with_reducible refine Keeps.upd ?_))
    | (fail_if_no_progress (with_reducible refine Keeps.updHold ?_ rfl))
    | split
    | (dsimp only)

theorem keeps_kstgUnwrap {a : Block} {b : Block} (x1 : Master)
    (h : Keeps a b) : Keeps a (kstgUnwrap x1 b) := by
  delta kstgUnwrap
  repeat' first
    | (with_reducible assumption)
    | (intro)
    | (with_reducible first
        | apply keeps_asHolder | apply keeps_modKstg | apply keeps_raise | apply keeps_recordErr | apply keeps_stageRefused
        | refine Keeps.foldl ?_ ?_ | refine Keeps.ite ?_ ?_)
    | (fail_if_no_progress (with_reducible refine Keeps.upd ?_))
    | (fail_if_no_progress (with_reducible refine Keeps.updHold ?_ rfl))
    | split
    | (dsimp only)

theorem keeps_kstgUnwrapDone {a : Block} {b : Block}
    (h : Keeps a b) : Keeps a (kstgUnwrapDone b) := by
  delta kstgUnwrapDone
  repeat' first
    | (with_reducible assumption)
    | (intro)
    | (with_reducible first
        | apply keeps_later | apply keeps_modKstg | apply keeps_raise | apply keeps_setLast | refine Keeps.foldl ?_ ?_
        | refine Keeps.ite ?_ ?_)
    | (fail_if_no_progress (with_reducible refine Keeps.upd ?_))
    | (fail_if_no_progress (with_reducible refine Keeps.updHold ?_ rfl))
    | split
    | (dsimp only)

theorem keeps_kstgVerify {a : Block} {b : Block} (x1 : Master)
    (h : Keeps a b) : Keeps a (kstgVerify x1 b) := by
  delta kstgVerify
  repeat' first
    | (with_reducible assumption)
    | (intro)
    | (with_reducible first
        | apply keeps_asHolder | apply keeps_modKstg | apply keeps_stageRefused | refine Keeps.foldl ?_ ?_ | refine Keeps.ite ?_ ?_)
    | (fail_if_no_progress (with_reducible refine Keeps.upd ?_))
    | (fail_if_no_progress (with_reducible refine Keeps.updHold ?_ rfl))
    | split
    | (dsimp only)

theorem keeps_kstgVerifyDone {a : Block} {b : Block}
    (h : Keeps a b) : Keeps a (kstgVerifyDone b) := by
  delta kstgVerifyDone
  repeat' first
    | (with_reducible assumption)
    | (intro)
    | (with_reducible first
        | apply keeps_later | apply keeps_modKstg | apply keeps_raise | apply keeps_setLast | refine Keeps.foldl ?_ ?_
        | refine Keeps.ite ?_ ?_)
    | (fail_if_no_progress (with_reducible refine Keeps.upd ?_))
    | (fail_if_no_progress (with_reducible refine Keeps.updHold ?_ rfl))
    | split
    | (dsimp only)

theorem keeps_importKey {a : Block} {b : Block} (x1 : ℕ) (x2 : ℕ) (x3 : ℕ) (x4 : Option ℕ) (x5 : BitVec 256)
    (h : Keeps a b) : Keeps a (importKey x1 x2 x3 x4 x5 b) := by
  delta importKey
  repeat' first
    | (with_reducible assumption)
    | (intro)
    | (with_reducible first
        | apply keeps_makeLive | apply keeps_modKey | refine Keeps.foldl ?_ ?_ | refine Keeps.ite ?_ ?_)
    | (fail_if_no_progress (with_reducible refine Keeps.upd ?_))
    | (fail_if_no_progress (with_reducible refine Keeps.updHold ?_ rfl))
    | split
    | (dsimp only)

theorem keeps_kstgCommit {a : Block} {b : Block} (x1 : Master)
    (h : Keeps a b) : Keeps a (kstgCommit x1 b) := by
  delta kstgCommit
  repeat' first
    | (with_reducible assumption)
    | (intro)
    | (with_reducible first
        | apply keeps_asHolder | apply keeps_deriveFirst | apply keeps_importKey | apply keeps_later | apply keeps_modKstg
        | apply keeps_raise | apply keeps_stageRefused | refine Keeps.foldl ?_ ?_ | refine Keeps.ite ?_ ?_)
    | (fail_if_no_progress (with_reducible refine Keeps.upd ?_))
    | (fail_if_no_progress (with_reducible refine Keeps.updHold ?_ rfl))
    | split
    | (dsimp only)

theorem keeps_kstgAbort {a : Block} {b : Block} (x1 : Master)
    (h : Keeps a b) : Keeps a (kstgAbort x1 b) := by
  delta kstgAbort
  repeat' first
    | (with_reducible assumption)
    | (intro)
    | (with_reducible first
        | apply keeps_asHolder | apply keeps_modKstg | refine Keeps.foldl ?_ ?_ | refine Keeps.ite ?_ ?_)
    | (fail_if_no_progress (with_reducible refine Keeps.upd ?_))
    | (fail_if_no_progress (with_reducible refine Keeps.updHold ?_ rfl))
    | split
    | (dsimp only)

theorem keeps_kstgRelease {a : Block} {b : Block} (x1 : Master)
    (h : Keeps a b) : Keeps a (kstgRelease x1 b) := by
  delta kstgRelease
  repeat' first
    | (with_reducible assumption)
    | (intro)
    | (with_reducible first
        | apply keeps_asHolder | apply keeps_setLast | apply keeps_stageIdle | refine Keeps.foldl ?_ ?_ | refine Keeps.ite ?_ ?_)
    | (fail_if_no_progress (with_reducible refine Keeps.upd ?_))
    | (fail_if_no_progress (with_reducible refine Keeps.updHold ?_ rfl))
    | split
    | (dsimp only)

theorem keeps_kstgCmd {a : Block} {b : Block} (x1 : Master) (x2 : Word)
    (h : Keeps a b) : Keeps a (kstgCmd x1 x2 b) := by
  delta kstgCmd
  repeat' first
    | (with_reducible assumption)
    | (intro)
    | (with_reducible first
        | apply keeps_kstgAbort | apply keeps_kstgClaim | apply keeps_kstgCommit | apply keeps_kstgRelease | apply keeps_kstgUnwrap
        | apply keeps_kstgVerify | apply keeps_recordErr | refine Keeps.foldl ?_ ?_ | refine Keeps.ite ?_ ?_)
    | (fail_if_no_progress (with_reducible refine Keeps.upd ?_))
    | (fail_if_no_progress (with_reducible refine Keeps.updHold ?_ rfl))
    | split
    | (dsimp only)

theorem keeps_stageWrite {a : Block} {b : Block} (x1 : Master) (f2 : Block → Block)
    (hf2 : ∀ b, Keeps a b → Keeps a (f2 b)) (h : Keeps a b) : Keeps a (stageWrite x1 f2 b) := by
  delta stageWrite
  repeat' first
    | (with_reducible assumption)
    | (intro)
    | (with_reducible first
        | apply hf2 | apply keeps_modKstg | apply keeps_recordErr | apply keeps_touchStage | refine Keeps.foldl ?_ ?_
        | refine Keeps.ite ?_ ?_)
    | (fail_if_no_progress (with_reducible refine Keeps.upd ?_))
    | (fail_if_no_progress (with_reducible refine Keeps.updHold ?_ rfl))
    | split
    | (dsimp only)

theorem keeps_kstgKeyWrite {a : Block} {b : Block} (x1 : Master) (x2 : ℕ) (x3 : Word)
    (h : Keeps a b) : Keeps a (kstgKeyWrite x1 x2 x3 b) := by
  delta kstgKeyWrite
  repeat' first
    | (with_reducible assumption)
    | (intro)
    | (with_reducible first
        | apply keeps_modKstg | apply keeps_stageWrite | refine Keeps.foldl ?_ ?_ | refine Keeps.ite ?_ ?_)
    | (fail_if_no_progress (with_reducible refine Keeps.upd ?_))
    | (fail_if_no_progress (with_reducible refine Keeps.updHold ?_ rfl))
    | split
    | (dsimp only)

theorem keeps_kstgBlobWrite {a : Block} {b : Block} (x1 : Master) (x2 : ℕ) (x3 : Word)
    (h : Keeps a b) : Keeps a (kstgBlobWrite x1 x2 x3 b) := by
  delta kstgBlobWrite
  repeat' first
    | (with_reducible assumption)
    | (intro)
    | (with_reducible first
        | apply keeps_modKstg | apply keeps_stageWrite | refine Keeps.foldl ?_ ?_ | refine Keeps.ite ?_ ?_)
    | (fail_if_no_progress (with_reducible refine Keeps.upd ?_))
    | (fail_if_no_progress (with_reducible refine Keeps.updHold ?_ rfl))
    | split
    | (dsimp only)

theorem keeps_kstgSetup {a : Block} {b : Block} (x1 : Master) (x2 : ℕ) (x3 : Word)
    (h : Keeps a b) : Keeps a (kstgSetup x1 x2 x3 b) := by
  delta kstgSetup
  repeat' first
    | (with_reducible assumption)
    | (intro)
    | (with_reducible first
        | apply keeps_setReg | apply keeps_stageWrite | refine Keeps.foldl ?_ ?_ | refine Keeps.ite ?_ ?_)
    | (fail_if_no_progress (with_reducible refine Keeps.upd ?_))
    | (fail_if_no_progress (with_reducible refine Keeps.updHold ?_ rfl))
    | split
    | (dsimp only)

theorem keeps_kstgIdleTimeout {a : Block} {b : Block}
    (h : Keeps a b) : Keeps a (kstgIdleTimeout b) := by
  delta kstgIdleTimeout
  repeat' first
    | (with_reducible assumption)
    | (intro)
    | (with_reducible first
        | apply keeps_stageIdle | refine Keeps.foldl ?_ ?_ | refine Keeps.ite ?_ ?_)
    | (fail_if_no_progress (with_reducible refine Keeps.upd ?_))
    | (fail_if_no_progress (with_reducible refine Keeps.updHold ?_ rfl))
    | split
    | (dsimp only)

theorem keeps_stageScrubbed {a : Block} {b : Block} (x1 : ℕ)
    (h : Keeps a b) : Keeps a (stageScrubbed x1 b) := by
  delta stageScrubbed
  repeat' first
    | (with_reducible assumption)
    | (intro)
    | (with_reducible first
        | apply keeps_stageIdle | refine Keeps.foldl ?_ ?_ | refine Keeps.ite ?_ ?_)
    | (fail_if_no_progress (with_reducible refine Keeps.upd ?_))
    | (fail_if_no_progress (with_reducible refine Keeps.updHold ?_ rfl))
    | split
    | (dsimp only)

/-! ### Gse -/

theorem keeps_modGse {a : Block} {b : Block} (x1 : Gse → Gse)
    (h : Keeps a b) : Keeps a (modGse x1 b) := by
  delta modGse
  repeat' first
    | (with_reducible assumption)
    | (intro)
    | (with_reducible first
        | refine Keeps.foldl ?_ ?_ | refine Keeps.ite ?_ ?_)
    | (fail_if_no_progress (with_reducible refine Keeps.upd ?_))
    | (fail_if_no_progress (with_reducible refine Keeps.updHold ?_ rfl))
    | split
    | (dsimp only)

theorem keeps_openSess {a : Block} {b : Block} (x1 : ℕ) (x2 : SessState) (x3 : Bool) (x4 : Bool) (x5 : Bool) (x6 : ℕ) (x7 : BitVec 256) (x8 : Bytes)
    (h : Keeps a b) : Keeps a (openSess x1 x2 x3 x4 x5 x6 x7 x8 b) := by
  delta openSess
  repeat' first
    | (with_reducible assumption)
    | (intro)
    | (with_reducible first
        | apply keeps_modSess | refine Keeps.foldl ?_ ?_ | refine Keeps.ite ?_ ?_)
    | (fail_if_no_progress (with_reducible refine Keeps.upd ?_))
    | (fail_if_no_progress (with_reducible refine Keeps.updHold ?_ rfl))
    | split
    | (dsimp only)

theorem keeps_endSess {a : Block} {b : Block} (x1 : ℕ) (x2 : SessState)
    (h : Keeps a b) : Keeps a (endSess x1 x2 b) := by
  delta endSess
  repeat' first
    | (with_reducible assumption)
    | (intro)
    | (with_reducible first
        | apply keeps_modSess | apply keeps_raise | refine Keeps.foldl ?_ ?_ | refine Keeps.ite ?_ ?_)
    | (fail_if_no_progress (with_reducible refine Keeps.upd ?_))
    | (fail_if_no_progress (with_reducible refine Keeps.updHold ?_ rfl))
    | split
    | (dsimp only)

theorem keeps_gseComplete {a : Block} {b : Block} (x1 : GseCmd) (x2 : Byte)
    (h : Keeps a b) : Keeps a (gseComplete x1 x2 b) := by
  delta gseComplete
  repeat' first
    | (with_reducible assumption)
    | (intro)
    | (with_reducible first
        | apply keeps_later | apply keeps_modGse | apply keeps_raise | refine Keeps.foldl ?_ ?_ | refine Keeps.ite ?_ ?_)
    | (fail_if_no_progress (with_reducible refine Keeps.upd ?_))
    | (fail_if_no_progress (with_reducible refine Keeps.updHold ?_ rfl))
    | split
    | (dsimp only)

theorem keeps_gsePumpGo {a : Block} {b : Block} (x1 : ℕ)
    (h : Keeps a b) : Keeps a (gsePumpGo x1 b) := by
  induction x1 generalizing b with
  | zero => rw [gsePumpGo]; with_reducible assumption
  | succ n ih =>
    first | rw [gsePumpGo] | (rw [gsePumpGo.eq_def]; dsimp -zeta only)
    repeat' first
      | (with_reducible assumption)
      | (with_reducible apply ih)
      | (intro)
      | (with_reducible first
          | apply keeps_gseComplete | apply keeps_modGse | refine Keeps.foldl ?_ ?_ | refine Keeps.ite ?_ ?_)
      | (fail_if_no_progress (with_reducible refine Keeps.upd ?_))
      | (fail_if_no_progress (with_reducible refine Keeps.updHold ?_ rfl))
      | split
      | (dsimp only)

theorem keeps_gsePump {a : Block} {b : Block}
    (h : Keeps a b) : Keeps a (gsePump b) := by
  delta gsePump
  repeat' first
    | (with_reducible assumption)
    | (intro)
    | (with_reducible first
        | apply keeps_gsePumpGo | refine Keeps.foldl ?_ ?_ | refine Keeps.ite ?_ ?_)
    | (fail_if_no_progress (with_reducible refine Keeps.upd ?_))
    | (fail_if_no_progress (with_reducible refine Keeps.updHold ?_ rfl))
    | split
    | (dsimp only)

theorem keeps_gseSubmit {a : Block} {b : Block}
    (h : Keeps a b) : Keeps a (gseSubmit b) := by
  delta gseSubmit
  repeat' first
    | (with_reducible assumption)
    | (intro)
    | (with_reducible first
        | apply keeps_gsePump | apply keeps_modGse | apply keeps_recordErr | refine Keeps.foldl ?_ ?_ | refine Keeps.ite ?_ ?_)
    | (fail_if_no_progress (with_reducible refine Keeps.upd ?_))
    | (fail_if_no_progress (with_reducible refine Keeps.updHold ?_ rfl))
    | split
    | (dsimp only)

theorem keeps_gsePop {a : Block} {b : Block}
    (h : Keeps a b) : Keeps a (gsePop b).2 := by
  delta gsePop
  repeat' first
    | (with_reducible assumption)
    | (intro)
    | (with_reducible first
        | apply keeps_gsePump | apply keeps_modGse | refine Keeps.foldl ?_ ?_ | refine Keeps.ite ?_ ?_)
    | (fail_if_no_progress (with_reducible refine Keeps.upd ?_))
    | (fail_if_no_progress (with_reducible refine Keeps.updHold ?_ rfl))
    | split
    | (dsimp only)

theorem keeps_gsePop_eq {a : Block} {b : Block}  {v} {c : Block} (e : gsePop b = (v, c))
    (h : Keeps a b) : Keeps a c := by
  have := keeps_gsePop  h; rw [e] at this; exact this

theorem keeps_gseTake {a : Block} {b : Block} (x1 : GseOp) (f2 : GseCmd → Block → Block)
    (hf2 : ∀ y0 b, Keeps a b → Keeps a (f2 y0 b)) (h : Keeps a b) : Keeps a (gseTake x1 f2 b) := by
  delta gseTake
  repeat' first
    | (with_reducible assumption)
    | (intro)
    | (with_reducible first
        | apply hf2 | apply keeps_gsePump | apply keeps_modGse | refine Keeps.foldl ?_ ?_ | refine Keeps.ite ?_ ?_)
    | (fail_if_no_progress (with_reducible refine Keeps.upd ?_))
    | (fail_if_no_progress (with_reducible refine Keeps.updHold ?_ rfl))
    | split
    | (dsimp only)

theorem keeps_objRead {a : Block} {b : Block} (x1 : ℕ) (x2 : ℕ) (x3 : ℕ) (x4 : ℕ) (x5 : ℕ → OpRef)
    (h : Keeps a b) : Keeps a (objRead x1 x2 x3 x4 x5 b) := by
  delta objRead
  repeat' first
    | (with_reducible assumption)
    | (intro)
    | (with_reducible first
        | apply keeps_access | apply keeps_emit | apply keeps_internalRead | apply keeps_later | apply keeps_rawRead
        | refine Keeps.foldl ?_ ?_ | refine Keeps.ite ?_ ?_)
    | (fail_if_no_progress (with_reducible refine Keeps.upd ?_))
    | (fail_if_no_progress (with_reducible refine Keeps.updHold ?_ rfl))
    | split
    | (dsimp only)

theorem keeps_objWrite {a : Block} {b : Block} (x1 : ℕ) (x2 : ℕ) (x3 : ℕ) (x4 : Bytes) (x5 : OpRef)
    (h : Keeps a b) : Keeps a (objWrite x1 x2 x3 x4 x5 b) := by
  delta objWrite
  repeat' first
    | (with_reducible assumption)
    | (intro)
    | (with_reducible first
        | apply keeps_access | apply keeps_emit | apply keeps_internalWrite | apply keeps_later | apply keeps_rawWrite
        | refine Keeps.foldl ?_ ?_ | refine Keeps.ite ?_ ?_)
    | (fail_if_no_progress (with_reducible refine Keeps.upd ?_))
    | (fail_if_no_progress (with_reducible refine Keeps.updHold ?_ rfl))
    | split
    | (dsimp only)

theorem keeps_takeSector {a : Block} {b : Block} (x1 : GseCmd)
    (h : Keeps a b) : Keeps a (takeSector x1 b) := by
  delta takeSector
  repeat' first
    | (with_reducible assumption)
    | (intro)
    | (with_reducible first
        | apply keeps_later | apply keeps_modGse | apply keeps_objRead | refine Keeps.foldl ?_ ?_ | refine Keeps.ite ?_ ?_)
    | (fail_if_no_progress (with_reducible refine Keeps.upd ?_))
    | (fail_if_no_progress (with_reducible refine Keeps.updHold ?_ rfl))
    | split
    | (dsimp only)

theorem keeps_fillCores {a : Block} {b : Block} (x1 : ℕ)
    (h : Keeps a b) : Keeps a (fillCores x1 b) := by
  induction x1 generalizing b with
  | zero => rw [fillCores]; with_reducible assumption
  | succ n ih =>
    first | rw [fillCores] | (rw [fillCores.eq_def]; dsimp -zeta only)
    repeat' first
      | (with_reducible assumption)
      | (with_reducible apply ih)
      | (intro)
      | (with_reducible first
          | apply keeps_takeSector | refine Keeps.foldl ?_ ?_ | refine Keeps.ite ?_ ?_)
      | (fail_if_no_progress (with_reducible refine Keeps.upd ?_))
      | (fail_if_no_progress (with_reducible refine Keeps.updHold ?_ rfl))
      | split
      | (dsimp only)

theorem keeps_startSectors {a : Block} {b : Block} (x1 : GseCmd) (x2 : SessState) (x3 : Bool)
    (h : Keeps a b) : Keeps a (startSectors x1 x2 x3 b) := by
  delta startSectors
  repeat' first
    | (with_reducible assumption)
    | (intro)
    | (with_reducible first
        | apply keeps_cipherRefused | apply keeps_fillCores | apply keeps_gseComplete | apply keeps_modGse | refine Keeps.foldl ?_ ?_
        | refine Keeps.ite ?_ ?_)
    | (fail_if_no_progress (with_reducible refine Keeps.upd ?_))
    | (fail_if_no_progress (with_reducible refine Keeps.updHold ?_ rfl))
    | split
    | (dsimp only)

theorem keeps_endSectors {a : Block} {b : Block} (x1 : GseCmd) (x2 : Byte)
    (h : Keeps a b) : Keeps a (endSectors x1 x2 b) := by
  delta endSectors
  repeat' first
    | (with_reducible assumption)
    | (intro)
    | (with_reducible first
        | apply keeps_fillCores | apply keeps_gseComplete | apply keeps_gsePump | apply keeps_modGse | apply keeps_modSess
        | refine Keeps.foldl ?_ ?_ | refine Keeps.ite ?_ ?_)
    | (fail_if_no_progress (with_reducible refine Keeps.upd ?_))
    | (fail_if_no_progress (with_reducible refine Keeps.updHold ?_ rfl))
    | split
    | (dsimp only)

theorem keeps_gseFail {a : Block} {b : Block} (x1 : ℕ) (x2 : Byte)
    (h : Keeps a b) : Keeps a (gseFail x1 x2 b) := by
  delta gseFail
  repeat' first
    | (with_reducible assumption)
    | (intro)
    | (with_reducible first
        | apply keeps_endSectors | refine Keeps.foldl ?_ ?_ | refine Keeps.ite ?_ ?_)
    | (fail_if_no_progress (with_reducible refine Keeps.upd ?_))
    | (fail_if_no_progress (with_reducible refine Keeps.updHold ?_ rfl))
    | split
    | (dsimp only)

theorem keeps_modSec {a : Block} {b : Block} (x1 : ℕ) (x2 : GseSec → GseSec)
    (h : Keeps a b) : Keeps a (modSec x1 x2 b) := by
  delta modSec
  repeat' first
    | (with_reducible assumption)
    | (intro)
    | (with_reducible first
        | apply keeps_modGse | refine Keeps.foldl ?_ ?_ | refine Keeps.ite ?_ ?_)
    | (fail_if_no_progress (with_reducible refine Keeps.upd ?_))
    | (fail_if_no_progress (with_reducible refine Keeps.updHold ?_ rfl))
    | split
    | (dsimp only)

theorem keeps_drawPiece {a : Block} {b : Block}
    (h : Keeps a b) : Keeps a (drawPiece b) := by
  delta drawPiece
  repeat' first
    | (with_reducible assumption)
    | (intro)
    | (with_reducible first
        | apply keeps_modGse | refine Keeps.foldl ?_ ?_ | refine Keeps.ite ?_ ?_)
    | (fail_if_no_progress (with_reducible refine Keeps.upd ?_))
    | (fail_if_no_progress (with_reducible refine Keeps.updHold ?_ rfl))
    | split
    | (dsimp only)

theorem keeps_cryptSector {a : Block} {b : Block} (x1 : GseSec) (x2 : GseCmd) (x3 : Bytes)
    (h : Keeps a b) : Keeps a (cryptSector x1 x2 x3 b) := by
  delta cryptSector
  repeat' first
    | (with_reducible assumption)
    | (intro)
    | (with_reducible first
        | apply keeps_cipherRefused | apply keeps_count | apply keeps_drawPiece | apply keeps_fillCores | apply keeps_gseFail
        | apply keeps_modGse | apply keeps_modSec | apply keeps_objWrite | refine Keeps.foldl ?_ ?_ | refine Keeps.ite ?_ ?_)
    | (fail_if_no_progress (with_reducible refine Keeps.upd ?_))
    | (fail_if_no_progress (with_reducible refine Keeps.updHold ?_ rfl))
    | split
    | (dsimp only)

theorem keeps_secLine {a : Block} {b : Block} (x1 : ℕ) (x2 : ℕ) (x3 : Bytes)
    (h : Keeps a b) : Keeps a (secLine x1 x2 x3 b) := by
  delta secLine
  repeat' first
    | (with_reducible assumption)
    | (intro)
    | (with_reducible first
        | apply keeps_modSec | refine Keeps.foldl ?_ ?_ | refine Keeps.ite ?_ ?_)
    | (fail_if_no_progress (with_reducible refine Keeps.upd ?_))
    | (fail_if_no_progress (with_reducible refine Keeps.updHold ?_ rfl))
    | split
    | (dsimp only)

theorem keeps_secFails {a : Block} {b : Block} (x1 : ℕ) (x2 : ℕ) (x3 : Byte)
    (h : Keeps a b) : Keeps a (secFails x1 x2 x3 b) := by
  delta secFails
  repeat' first
    | (with_reducible assumption)
    | (intro)
    | (with_reducible first
        | apply keeps_gseFail | refine Keeps.foldl ?_ ?_ | refine Keeps.ite ?_ ?_)
    | (fail_if_no_progress (with_reducible refine Keeps.upd ?_))
    | (fail_if_no_progress (with_reducible refine Keeps.updHold ?_ rfl))
    | split
    | (dsimp only)

theorem keeps_staleHif {a : Block} {b : Block}
    (h : Keeps a b) : Keeps a (staleHif b) := by
  delta staleHif
  repeat' first
    | (with_reducible assumption)
    | (intro)
    | (with_reducible first
        | apply keeps_recordErr | refine Keeps.foldl ?_ ?_ | refine Keeps.ite ?_ ?_)
    | (fail_if_no_progress (with_reducible refine Keeps.upd ?_))
    | (fail_if_no_progress (with_reducible refine Keeps.updHold ?_ rfl))
    | split
    | (dsimp only)

theorem keeps_sectorDone {a : Block} {b : Block} (x1 : ℕ) (x2 : ℕ) (x3 : BitVec 12) (x4 : Bytes) (x5 : Option Byte)
    (h : Keeps a b) : Keeps a (sectorDone x1 x2 x3 x4 x5 b) := by
  delta sectorDone
  repeat' first
    | (with_reducible assumption)
    | (intro)
    | (with_reducible first
        | apply keeps_cryptSector | apply keeps_gseFail | apply keeps_staleHif | refine Keeps.foldl ?_ ?_ | refine Keeps.ite ?_ ?_)
    | (fail_if_no_progress (with_reducible refine Keeps.upd ?_))
    | (fail_if_no_progress (with_reducible refine Keeps.updHold ?_ rfl))
    | split
    | (dsimp only)

theorem keeps_secWritten {a : Block} {b : Block} (x1 : ℕ) (x2 : ℕ) (x3 : Byte)
    (h : Keeps a b) : Keeps a (secWritten x1 x2 x3 b) := by
  delta secWritten
  repeat' first
    | (with_reducible assumption)
    | (intro)
    | (with_reducible first
        | apply keeps_endSectors | apply keeps_gseFail | apply keeps_modGse | apply keeps_modSec | refine Keeps.foldl ?_ ?_
        | refine Keeps.ite ?_ ?_)
    | (fail_if_no_progress (with_reducible refine Keeps.upd ?_))
    | (fail_if_no_progress (with_reducible refine Keeps.updHold ?_ rfl))
    | split
    | (dsimp only)

theorem keeps_fwRead {a : Block} {b : Block} (x1 : ℕ)
    (h : Keeps a b) : Keeps a (fwRead x1 b) := by
  delta fwRead
  repeat' first
    | (with_reducible assumption)
    | (intro)
    | (with_reducible first
        | apply keeps_modGse | refine Keeps.foldl ?_ ?_ | refine Keeps.ite ?_ ?_)
    | (fail_if_no_progress (with_reducible refine Keeps.upd ?_))
    | (fail_if_no_progress (with_reducible refine Keeps.updHold ?_ rfl))
    | split
    | (dsimp only)

theorem keeps_queueKeyOp {a : Block} {b : Block} (x1 : GseCmd)
    (h : Keeps a b) : Keeps a (queueKeyOp x1 b) := by
  delta queueKeyOp
  repeat' first
    | (with_reducible assumption)
    | (intro)
    | (with_reducible first
        | apply keeps_later | apply keeps_modGse | refine Keeps.foldl ?_ ?_ | refine Keeps.ite ?_ ?_)
    | (fail_if_no_progress (with_reducible refine Keeps.upd ?_))
    | (fail_if_no_progress (with_reducible refine Keeps.updHold ?_ rfl))
    | split
    | (dsimp only)

theorem keeps_sealRan {a : Block} {b : Block} (x1 : ℕ) (x2 : Byte)
    (h : Keeps a b) : Keeps a (sealRan x1 x2 b) := by
  delta sealRan
  repeat' first
    | (with_reducible assumption)
    | (intro)
    | (with_reducible first
        | apply keeps_later | apply keeps_modBerth | refine Keeps.foldl ?_ ?_ | refine Keeps.ite ?_ ?_)
    | (fail_if_no_progress (with_reducible refine Keeps.upd ?_))
    | (fail_if_no_progress (with_reducible refine Keeps.updHold ?_ rfl))
    | split
    | (dsimp only)

theorem keeps_sealStopped {a : Block} {b : Block} (x1 : ℕ)
    (h : Keeps a b) : Keeps a (sealStopped x1 b) := by
  delta sealStopped
  repeat' first
    | (with_reducible assumption)
    | (intro)
    | (with_reducible first
        | apply keeps_sealRan | refine Keeps.foldl ?_ ?_ | refine Keeps.ite ?_ ?_)
    | (fail_if_no_progress (with_reducible refine Keeps.upd ?_))
    | (fail_if_no_progress (with_reducible refine Keeps.updHold ?_ rfl))
    | split
    | (dsimp only)

theorem keeps_sealOpen {a : Block} {b : Block} (x1 : GseDesc)
    (h : Keeps a b) : Keeps a (sealOpen x1 b) := by
  delta sealOpen
  repeat' first
    | (with_reducible assumption)
    | (intro)
    | (with_reducible first
        | apply keeps_fwRead | apply keeps_gseComplete | apply keeps_later | apply keeps_modBerth | apply keeps_queueKeyOp
        | apply keeps_sealStopped | refine Keeps.foldl ?_ ?_ | refine Keeps.ite ?_ ?_)
    | (fail_if_no_progress (with_reducible refine Keeps.upd ?_))
    | (fail_if_no_progress (with_reducible refine Keeps.updHold ?_ rfl))
    | split
    | (dsimp only)

theorem keeps_sealSectors {a : Block} {b : Block} (x1 : GseDesc)
    (h : Keeps a b) : Keeps a (sealSectors x1 b) := by
  delta sealSectors
  repeat' first
    | (with_reducible assumption)
    | (intro)
    | (with_reducible first
        | apply keeps_fwRead | apply keeps_startSectors | refine Keeps.foldl ?_ ?_ | refine Keeps.ite ?_ ?_)
    | (fail_if_no_progress (with_reducible refine Keeps.upd ?_))
    | (fail_if_no_progress (with_reducible refine Keeps.updHold ?_ rfl))
    | split
    | (dsimp only)

theorem keeps_sealClose {a : Block} {b : Block} (x1 : GseDesc)
    (h : Keeps a b) : Keeps a (sealClose x1 b) := by
  delta sealClose
  repeat' first
    | (with_reducible assumption)
    | (intro)
    | (with_reducible first
        | apply keeps_fwRead | apply keeps_gseComplete | apply keeps_queueKeyOp | apply keeps_sealRan | apply keeps_sealStopped
        | refine Keeps.foldl ?_ ?_ | refine Keeps.ite ?_ ?_)
    | (fail_if_no_progress (with_reducible refine Keeps.upd ?_))
    | (fail_if_no_progress (with_reducible refine Keeps.updHold ?_ rfl))
    | split
    | (dsimp only)

theorem keeps_generateKey {a : Block} {b : Block} (x1 : ℕ) (x2 : ℕ) (x3 : BitVec 256)
    (h : Keeps a b) : Keeps a (generateKey x1 x2 x3 b) := by
  delta generateKey
  repeat' first
    | (with_reducible assumption)
    | (intro)
    | (with_reducible first
        | apply keeps_makeLive | apply keeps_modKey | refine Keeps.foldl ?_ ?_ | refine Keeps.ite ?_ ?_)
    | (fail_if_no_progress (with_reducible refine Keeps.upd ?_))
    | (fail_if_no_progress (with_reducible refine Keeps.updHold ?_ rfl))
    | split
    | (dsimp only)

theorem keeps_doSealOpen {a : Block} {b : Block} (x1 : GseCmd)
    (h : Keeps a b) : Keeps a (doSealOpen x1 b) := by
  delta doSealOpen
  repeat' first
    | (with_reducible assumption)
    | (intro)
    | (extract_lets +onlyGivenNames x; first
        | (refine Keeps.named (a := a) x ?_ ?_; (on_goal 1 => (revert x; show Keeps _ _)); (on_goal -1 => (intro hx; clear_value x)))
        | (refine Keeps.namedSnd (a := a) x ?_ ?_; (on_goal 1 => (revert x; show Keeps _ _)); (on_goal -1 => (intro hx; clear_value x)))
        | (refine Keeps.namedThird (a := a) x ?_ ?_; (on_goal 1 => (revert x; show Keeps _ _)); (on_goal -1 => (intro hx; clear_value x)))
        | (refine Keeps.namedFst (a := a) x ?_ ?_; (on_goal 1 => (revert x; show Keeps _ _)); (on_goal -1 => (intro hx; clear_value x)))
        | clear_value x)
    | (with_reducible first
        | apply keeps_cipherRefused | apply keeps_draw | apply keeps_generateKey | apply keeps_gseComplete | apply keeps_modGse
        | apply keeps_openSess | refine keeps_draw_eq (by with_reducible assumption) ?_ | refine Keeps.foldl ?_ ?_
        | refine Keeps.foldlSnd ?_ ?_ | refine Keeps.ite ?_ ?_)
    | (fail_if_no_progress (with_reducible refine Keeps.upd ?_))
    | (fail_if_no_progress (with_reducible refine Keeps.updHold ?_ rfl))
    | split
    | (dsimp only)

theorem keeps_doSealClose {a : Block} {b : Block} (x1 : GseCmd)
    (h : Keeps a b) : Keeps a (doSealClose x1 b) := by
  delta doSealClose
  repeat' first
    | (with_reducible assumption)
    | (intro)
    | (with_reducible first
        | apply keeps_modGse | apply keeps_modSess | apply keeps_objWrite | refine Keeps.foldl ?_ ?_ | refine Keeps.ite ?_ ?_)
    | (fail_if_no_progress (with_reducible refine Keeps.upd ?_))
    | (fail_if_no_progress (with_reducible refine Keeps.updHold ?_ rfl))
    | split
    | (dsimp only)

theorem keeps_sealCloseEnds {a : Block} {b : Block} (x1 : GseCmd) (x2 : Byte)
    (h : Keeps a b) : Keeps a (sealCloseEnds x1 x2 b) := by
  delta sealCloseEnds
  repeat' first
    | (with_reducible assumption)
    | (intro)
    | (with_reducible first
        | apply keeps_endSess | apply keeps_gseComplete | apply keeps_modBerth | apply keeps_modSess | apply keeps_sealRan
        | refine Keeps.foldl ?_ ?_ | refine Keeps.ite ?_ ?_)
    | (fail_if_no_progress (with_reducible refine Keeps.upd ?_))
    | (fail_if_no_progress (with_reducible refine Keeps.updHold ?_ rfl))
    | split
    | (dsimp only)

theorem keeps_readRecord {a : Block} {b : Block} (x1 : GseCmd)
    (h : Keeps a b) : Keeps a (readRecord x1 b) := by
  delta readRecord
  repeat' first
    | (with_reducible assumption)
    | (intro)
    | (with_reducible first
        | apply keeps_objRead | apply keeps_queueKeyOp | refine Keeps.foldl ?_ ?_ | refine Keeps.ite ?_ ?_)
    | (fail_if_no_progress (with_reducible refine Keeps.upd ?_))
    | (fail_if_no_progress (with_reducible refine Keeps.updHold ?_ rfl))
    | split
    | (dsimp only)

theorem keeps_keyOpEnds {a : Block} {b : Block} (x1 : GseCmd) (x2 : Byte)
    (h : Keeps a b) : Keeps a (keyOpEnds x1 x2 b) := by
  delta keyOpEnds
  repeat' first
    | (with_reducible assumption)
    | (intro)
    | (with_reducible first
        | apply keeps_gseComplete | apply keeps_gsePump | apply keeps_later | apply keeps_modGse | refine Keeps.foldl ?_ ?_
        | refine Keeps.ite ?_ ?_)
    | (fail_if_no_progress (with_reducible refine Keeps.upd ?_))
    | (fail_if_no_progress (with_reducible refine Keeps.updHold ?_ rfl))
    | split
    | (dsimp only)

theorem keeps_unsealStart {a : Block} {b : Block}
    (h : Keeps a b) : Keeps a (unsealStart b) := by
  delta unsealStart
  repeat' first
    | (with_reducible assumption)
    | (intro)
    | (with_reducible first
        | apply keeps_gseComplete | apply keeps_gseTake | apply keeps_readRecord | refine Keeps.foldl ?_ ?_ | refine Keeps.ite ?_ ?_)
    | (fail_if_no_progress (with_reducible refine Keeps.upd ?_))
    | (fail_if_no_progress (with_reducible refine Keeps.updHold ?_ rfl))
    | split
    | (dsimp only)

theorem keeps_unsealRecord {a : Block} {b : Block} (x1 : GseCmd) (x2 : Bytes)
    (h : Keeps a b) : Keeps a (unsealRecord x1 x2 b) := by
  delta unsealRecord
  repeat' first
    | (with_reducible assumption)
    | (intro)
    | (with_reducible first
        | apply keeps_keyOpEnds | apply keeps_later | apply keeps_modGse | refine Keeps.foldl ?_ ?_ | refine Keeps.ite ?_ ?_)
    | (fail_if_no_progress (with_reducible refine Keeps.upd ?_))
    | (fail_if_no_progress (with_reducible refine Keeps.updHold ?_ rfl))
    | split
    | (dsimp only)

theorem keeps_unsealSectors {a : Block} {b : Block}
    (h : Keeps a b) : Keeps a (unsealSectors b) := by
  delta unsealSectors
  repeat' first
    | (with_reducible assumption)
    | (intro)
    | (with_reducible first
        | apply keeps_gseTake | apply keeps_startSectors | refine Keeps.foldl ?_ ?_ | refine Keeps.ite ?_ ?_)
    | (fail_if_no_progress (with_reducible refine Keeps.upd ?_))
    | (fail_if_no_progress (with_reducible refine Keeps.updHold ?_ rfl))
    | split
    | (dsimp only)

theorem keeps_unsealClose {a : Block} {b : Block}
    (h : Keeps a b) : Keeps a (unsealClose b) := by
  delta unsealClose
  repeat' first
    | (with_reducible assumption)
    | (intro)
    | (with_reducible first
        | apply keeps_gseComplete | apply keeps_gseTake | apply keeps_queueKeyOp | refine Keeps.foldl ?_ ?_ | refine Keeps.ite ?_ ?_)
    | (fail_if_no_progress (with_reducible refine Keeps.upd ?_))
    | (fail_if_no_progress (with_reducible refine Keeps.updHold ?_ rfl))
    | split
    | (dsimp only)

theorem keeps_claimRestore {a : Block} {b : Block}
    (h : Keeps a b) : Keeps a (claimRestore b) := by
  delta claimRestore
  repeat' first
    | (with_reducible assumption)
    | (intro)
    | (with_reducible first
        | apply keeps_cipherRefused | apply keeps_keyOpEnds | apply keeps_modKstg | apply keeps_setReg | refine Keeps.foldl ?_ ?_
        | refine Keeps.ite ?_ ?_)
    | (fail_if_no_progress (with_reducible refine Keeps.upd ?_))
    | (fail_if_no_progress (with_reducible refine Keeps.updHold ?_ rfl))
    | split
    | (dsimp only)

theorem keeps_restoreEnds {a : Block} {b : Block} (x1 : ℕ) (x2 : Byte)
    (h : Keeps a b) : Keeps a (restoreEnds x1 x2 b) := by
  delta restoreEnds
  repeat' first
    | (with_reducible assumption)
    | (intro)
    | (with_reducible first
        | apply keeps_keyOpEnds | apply keeps_stageIdle | refine Keeps.foldl ?_ ?_ | refine Keeps.ite ?_ ?_)
    | (fail_if_no_progress (with_reducible refine Keeps.upd ?_))
    | (fail_if_no_progress (with_reducible refine Keeps.updHold ?_ rfl))
    | split
    | (dsimp only)

theorem keeps_doUnsealOpen {a : Block} {b : Block} (x1 : GseCmd)
    (h : Keeps a b) : Keeps a (doUnsealOpen x1 b) := by
  delta doUnsealOpen
  repeat' first
    | (with_reducible assumption)
    | (intro)
    | (with_reducible first
        | apply keeps_drawPiece | apply keeps_importKey | apply keeps_keyOpEnds | apply keeps_openSess | apply keeps_raise
        | apply keeps_restoreEnds | apply keeps_setLast | apply keeps_stageIdle | refine Keeps.foldl ?_ ?_ | refine Keeps.ite ?_ ?_)
    | (fail_if_no_progress (with_reducible refine Keeps.upd ?_))
    | (fail_if_no_progress (with_reducible refine Keeps.updHold ?_ rfl))
    | split
    | (dsimp only)

theorem keeps_loseAll {a : Block} {b : Block} (x1 : ℕ) (x2 : Byte) (x3 : ℕ)
    (h : Keeps a b) : Keeps a (loseAll x1 x2 x3 b) := by
  delta loseAll
  repeat' first
    | (with_reducible assumption)
    | (intro)
    | (with_reducible first
        | apply keeps_loseCtx | refine Keeps.foldl ?_ ?_ | refine Keeps.ite ?_ ?_)
    | (fail_if_no_progress (with_reducible refine Keeps.upd ?_))
    | (fail_if_no_progress (with_reducible refine Keeps.updHold ?_ rfl))
    | split
    | (dsimp only)

theorem keeps_doUnsealClose {a : Block} {b : Block} (x1 : GseCmd)
    (h : Keeps a b) : Keeps a (doUnsealClose x1 b) := by
  delta doUnsealClose
  repeat' first
    | (with_reducible assumption)
    | (intro)
    | (with_reducible first
        | apply keeps_endSess | apply keeps_gseComplete | apply keeps_later | apply keeps_loseAll | refine Keeps.foldl ?_ ?_
        | refine Keeps.ite ?_ ?_)
    | (fail_if_no_progress (with_reducible refine Keeps.upd ?_))
    | (fail_if_no_progress (with_reducible refine Keeps.updHold ?_ rfl))
    | split
    | (dsimp only)

theorem keeps_restoreTimeout {a : Block} {b : Block}
    (h : Keeps a b) : Keeps a (restoreTimeout b) := by
  delta restoreTimeout
  repeat' first
    | (with_reducible assumption)
    | (intro)
    | (with_reducible first
        | apply keeps_keyOpEnds | refine Keeps.foldl ?_ ?_ | refine Keeps.ite ?_ ?_)
    | (fail_if_no_progress (with_reducible refine Keeps.upd ?_))
    | (fail_if_no_progress (with_reducible refine Keeps.updHold ?_ rfl))
    | split
    | (dsimp only)

theorem keeps_dropSession {a : Block} {b : Block} (x1 : ℕ) (x2 : Byte) (x3 : Bool)
    (h : Keeps a b) : Keeps a (dropSession x1 x2 x3 b) := by
  delta dropSession
  repeat' first
    | (with_reducible assumption)
    | (intro)
    | (with_reducible first
        | apply keeps_fillCores | apply keeps_gseComplete | apply keeps_later | apply keeps_modGse | apply keeps_stageIdle
        | refine Keeps.foldl ?_ ?_ | refine Keeps.ite ?_ ?_)
    | (fail_if_no_progress (with_reducible refine Keeps.upd ?_))
    | (fail_if_no_progress (with_reducible refine Keeps.updHold ?_ rfl))
    | split
    | (dsimp only)

theorem keeps_sessLeaves {a : Block} {b : Block} (x1 : ℕ)
    (h : Keeps a b) : Keeps a (sessLeaves x1 b) := by
  delta sessLeaves
  repeat' first
    | (with_reducible assumption)
    | (intro)
    | (with_reducible first
        | apply keeps_dropSession | apply keeps_endSess | refine Keeps.foldl ?_ ?_ | refine Keeps.ite ?_ ?_)
    | (fail_if_no_progress (with_reducible refine Keeps.upd ?_))
    | (fail_if_no_progress (with_reducible refine Keeps.updHold ?_ rfl))
    | split
    | (dsimp only)

theorem keeps_rewrapStart {a : Block} {b : Block} (x1 : GseDesc)
    (h : Keeps a b) : Keeps a (rewrapStart x1 b) := by
  delta rewrapStart
  repeat' first
    | (with_reducible assumption)
    | (intro)
    | (with_reducible first
        | apply keeps_cipherRefused | apply keeps_fwRead | apply keeps_gseComplete | apply keeps_modGse | apply keeps_readRecord
        | refine Keeps.foldl ?_ ?_ | refine Keeps.ite ?_ ?_)
    | (fail_if_no_progress (with_reducible refine Keeps.upd ?_))
    | (fail_if_no_progress (with_reducible refine Keeps.updHold ?_ rfl))
    | split
    | (dsimp only)

theorem keeps_rewrapRecord {a : Block} {b : Block} (x1 : GseCmd) (x2 : Bytes)
    (h : Keeps a b) : Keeps a (rewrapRecord x1 x2 b) := by
  delta rewrapRecord
  repeat' first
    | (with_reducible assumption)
    | (intro)
    | (with_reducible first
        | apply keeps_keyOpEnds | apply keeps_modGse | refine Keeps.foldl ?_ ?_ | refine Keeps.ite ?_ ?_)
    | (fail_if_no_progress (with_reducible refine Keeps.upd ?_))
    | (fail_if_no_progress (with_reducible refine Keeps.updHold ?_ rfl))
    | split
    | (dsimp only)

theorem keeps_doRewrap {a : Block} {b : Block} (x1 : GseCmd)
    (h : Keeps a b) : Keeps a (doRewrap x1 b) := by
  delta doRewrap
  repeat' first
    | (with_reducible assumption)
    | (intro)
    | (with_reducible first
        | apply keeps_cipherRefused | apply keeps_keyOpEnds | apply keeps_modGse | apply keeps_objWrite | refine Keeps.foldl ?_ ?_
        | refine Keeps.ite ?_ ?_)
    | (fail_if_no_progress (with_reducible refine Keeps.upd ?_))
    | (fail_if_no_progress (with_reducible refine Keeps.updHold ?_ rfl))
    | split
    | (dsimp only)

theorem keeps_recordRead {a : Block} {b : Block} (x1 : GseCmd) (x2 : Bytes)
    (h : Keeps a b) : Keeps a (recordRead x1 x2 b) := by
  delta recordRead
  repeat' first
    | (with_reducible assumption)
    | (intro)
    | (with_reducible first
        | apply keeps_rewrapRecord | apply keeps_unsealRecord | refine Keeps.foldl ?_ ?_ | refine Keeps.ite ?_ ?_)
    | (fail_if_no_progress (with_reducible refine Keeps.upd ?_))
    | (fail_if_no_progress (with_reducible refine Keeps.updHold ?_ rfl))
    | split
    | (dsimp only)

theorem keeps_recLine {a : Block} {b : Block} (x1 : ℕ) (x2 : ℕ) (x3 : Bytes)
    (h : Keeps a b) : Keeps a (recLine x1 x2 x3 b) := by
  delta recLine
  repeat' first
    | (with_reducible assumption)
    | (intro)
    | (with_reducible first
        | apply keeps_modGse | apply keeps_recordRead | refine Keeps.foldl ?_ ?_ | refine Keeps.ite ?_ ?_)
    | (fail_if_no_progress (with_reducible refine Keeps.upd ?_))
    | (fail_if_no_progress (with_reducible refine Keeps.updHold ?_ rfl))
    | split
    | (dsimp only)

theorem keeps_windowRecord {a : Block} {b : Block} (x1 : ℕ) (x2 : BitVec 12) (x3 : Bytes)
    (h : Keeps a b) : Keeps a (windowRecord x1 x2 x3 b) := by
  delta windowRecord
  repeat' first
    | (with_reducible assumption)
    | (intro)
    | (with_reducible first
        | apply keeps_recordRead | apply keeps_staleHif | refine Keeps.foldl ?_ ?_ | refine Keeps.ite ?_ ?_)
    | (fail_if_no_progress (with_reducible refine Keeps.upd ?_))
    | (fail_if_no_progress (with_reducible refine Keeps.updHold ?_ rfl))
    | split
    | (dsimp only)

theorem keeps_recDone {a : Block} {b : Block} (x1 : ℕ) (x2 : Byte)
    (h : Keeps a b) : Keeps a (recDone x1 x2 b) := by
  delta recDone
  repeat' first
    | (with_reducible assumption)
    | (intro)
    | (with_reducible first
        | apply keeps_keyOpEnds | apply keeps_later | apply keeps_modGse | apply keeps_sealCloseEnds | refine Keeps.foldl ?_ ?_
        | refine Keeps.ite ?_ ?_)
    | (fail_if_no_progress (with_reducible refine Keeps.upd ?_))
    | (fail_if_no_progress (with_reducible refine Keeps.updHold ?_ rfl))
    | split
    | (dsimp only)

theorem keeps_unsealOpen {a : Block} {b : Block} (x1 : BitVec 12) (x2 : Bytes)
    (h : Keeps a b) : Keeps a (unsealOpen x1 x2 b) := by
  delta unsealOpen
  repeat' first
    | (with_reducible assumption)
    | (intro)
    | (with_reducible first
        | apply keeps_unsealStart | apply keeps_windowRecord | refine Keeps.foldl ?_ ?_ | refine Keeps.ite ?_ ?_)
    | (fail_if_no_progress (with_reducible refine Keeps.upd ?_))
    | (fail_if_no_progress (with_reducible refine Keeps.updHold ?_ rfl))
    | split
    | (dsimp only)

theorem keeps_rewrap {a : Block} {b : Block} (x1 : GseDesc) (x2 : BitVec 12) (x3 : Bytes)
    (h : Keeps a b) : Keeps a (rewrap x1 x2 x3 b) := by
  delta rewrap
  repeat' first
    | (with_reducible assumption)
    | (intro)
    | (with_reducible first
        | apply keeps_rewrapStart | apply keeps_windowRecord | refine Keeps.foldl ?_ ?_ | refine Keeps.ite ?_ ?_)
    | (fail_if_no_progress (with_reducible refine Keeps.upd ?_))
    | (fail_if_no_progress (with_reducible refine Keeps.updHold ?_ rfl))
    | split
    | (dsimp only)

theorem keeps_keyOpDone {a : Block} {b : Block} (x1 : ℕ)
    (h : Keeps a b) : Keeps a (keyOpDone x1 b) := by
  delta keyOpDone
  repeat' first
    | (with_reducible assumption)
    | (intro)
    | (with_reducible first
        | apply keeps_doRewrap | apply keeps_doSealClose | apply keeps_doSealOpen | apply keeps_doUnsealClose | apply keeps_doUnsealOpen
        | apply keeps_drawPiece | apply keeps_gsePump | apply keeps_later | apply keeps_modGse | refine Keeps.foldl ?_ ?_
        | refine Keeps.ite ?_ ?_)
    | (fail_if_no_progress (with_reducible refine Keeps.upd ?_))
    | (fail_if_no_progress (with_reducible refine Keeps.updHold ?_ rfl))
    | split
    | (dsimp only)

theorem keeps_drbgReseed {a : Block} {b : Block} (x1 : Bool)
    (h : Keeps a b) : Keeps a (drbgReseed x1 b) := by
  delta drbgReseed
  repeat' first
    | (with_reducible assumption)
    | (intro)
    | (with_reducible first
        | apply keeps_gseComplete | apply keeps_gsePump | apply keeps_modGse | apply keeps_recordErr | refine Keeps.foldl ?_ ?_
        | refine Keeps.ite ?_ ?_)
    | (fail_if_no_progress (with_reducible refine Keeps.upd ?_))
    | (fail_if_no_progress (with_reducible refine Keeps.updHold ?_ rfl))
    | split
    | (dsimp only)

theorem keeps_scrubSess {a : Block} {b : Block} (x1 : ℕ)
    (h : Keeps a b) : Keeps a (scrubSess x1 b) := by
  delta scrubSess
  repeat' first
    | (with_reducible assumption)
    | (intro)
    | (with_reducible first
        | apply keeps_modSess | refine Keeps.foldl ?_ ?_ | refine Keeps.ite ?_ ?_)
    | (fail_if_no_progress (with_reducible refine Keeps.upd ?_))
    | (fail_if_no_progress (with_reducible refine Keeps.updHold ?_ rfl))
    | split
    | (dsimp only)

/-! ### Sync -/

theorem keeps_modSync {a : Block} {b : Block} (x1 : Sync → Sync)
    (h : Keeps a b) : Keeps a (modSync x1 b) := by
  delta modSync
  repeat' first
    | (with_reducible assumption)
    | (intro)
    | (with_reducible first
        | refine Keeps.foldl ?_ ?_ | refine Keeps.ite ?_ ?_)
    | (fail_if_no_progress (with_reducible refine Keeps.upd ?_))
    | (fail_if_no_progress (with_reducible refine Keeps.updHold ?_ rfl))
    | split
    | (dsimp only)

theorem keeps_fireWire {a : Block} {b : Block} (x1 : ℕ) (x2 : Bool)
    (h : Keeps a b) : Keeps a (fireWire x1 x2 b) := by
  delta fireWire
  repeat' first
    | (with_reducible assumption)
    | (intro)
    | (with_reducible first
        | apply keeps_modSync | apply keeps_modWire | apply keeps_raise | refine Keeps.foldl ?_ ?_ | refine Keeps.ite ?_ ?_)
    | (fail_if_no_progress (with_reducible refine Keeps.upd ?_))
    | (fail_if_no_progress (with_reducible refine Keeps.updHold ?_ rfl))
    | split
    | (dsimp only)

theorem keeps_wakeAck {a : Block} {b : Block} (x1 : ℕ) (x2 : Bool)
    (h : Keeps a b) : Keeps a (wakeAck x1 x2 b) := by
  delta wakeAck
  repeat' first
    | (with_reducible assumption)
    | (intro)
    | (with_reducible first
        | apply keeps_modWire | refine Keeps.foldl ?_ ?_ | refine Keeps.ite ?_ ?_)
    | (fail_if_no_progress (with_reducible refine Keeps.upd ?_))
    | (fail_if_no_progress (with_reducible refine Keeps.updHold ?_ rfl))
    | split
    | (dsimp only)

theorem keeps_evalWatch {a : Block} {b : Block} (x1 : ℕ)
    (h : Keeps a b) : Keeps a (evalWatch x1 b) := by
  delta evalWatch
  repeat' first
    | (with_reducible assumption)
    | (intro)
    | (with_reducible first
        | apply keeps_fireWire | refine Keeps.foldl ?_ ?_ | refine Keeps.ite ?_ ?_)
    | (fail_if_no_progress (with_reducible refine Keeps.upd ?_))
    | (fail_if_no_progress (with_reducible refine Keeps.updHold ?_ rfl))
    | split
    | (dsimp only)

theorem keeps_watchFence {a : Block} {b : Block} (x1 : ℕ)
    (h : Keeps a b) : Keeps a (watchFence x1 b) := by
  delta watchFence
  repeat' first
    | (with_reducible assumption)
    | (intro)
    | (with_reducible first
        | apply keeps_evalWatch | refine Keeps.foldl ?_ ?_ | refine Keeps.ite ?_ ?_)
    | (fail_if_no_progress (with_reducible refine Keeps.upd ?_))
    | (fail_if_no_progress (with_reducible refine Keeps.updHold ?_ rfl))
    | split
    | (dsimp only)

theorem keeps_setArmRes {a : Block} {b : Block} (x1 : ℕ) (x2 : Byte)
    (h : Keeps a b) : Keeps a (setArmRes x1 x2 b) := by
  delta setArmRes
  repeat' first
    | (with_reducible assumption)
    | (intro)
    | (with_reducible first
        | apply keeps_modSync | refine Keeps.foldl ?_ ?_ | refine Keeps.ite ?_ ?_)
    | (fail_if_no_progress (with_reducible refine Keeps.upd ?_))
    | (fail_if_no_progress (with_reducible refine Keeps.updHold ?_ rfl))
    | split
    | (dsimp only)

theorem keeps_armCmd {a : Block} {b : Block} (x1 : ℕ) (x2 : Word)
    (h : Keeps a b) : Keeps a (armCmd x1 x2 b) := by
  delta armCmd
  repeat' first
    | (with_reducible assumption)
    | (intro)
    | (with_reducible first
        | apply keeps_evalWatch | apply keeps_modWire | apply keeps_setArmRes | refine Keeps.foldl ?_ ?_ | refine Keeps.ite ?_ ?_)
    | (fail_if_no_progress (with_reducible refine Keeps.upd ?_))
    | (fail_if_no_progress (with_reducible refine Keeps.updHold ?_ rfl))
    | split
    | (dsimp only)

theorem keeps_wireWrite {a : Block} {b : Block} (x1 : ℕ) (x2 : Word)
    (h : Keeps a b) : Keeps a (wireWrite x1 x2 b) := by
  delta wireWrite
  repeat' first
    | (with_reducible assumption)
    | (intro)
    | (with_reducible first
        | apply keeps_modWire | refine Keeps.foldl ?_ ?_ | refine Keeps.ite ?_ ?_)
    | (fail_if_no_progress (with_reducible refine Keeps.upd ?_))
    | (fail_if_no_progress (with_reducible refine Keeps.updHold ?_ rfl))
    | split
    | (dsimp only)

theorem keeps_scrubWires {a : Block} {b : Block} (x1 : ℕ)
    (h : Keeps a b) : Keeps a (scrubWires x1 b) := by
  delta scrubWires
  repeat' first
    | (with_reducible assumption)
    | (intro)
    | (with_reducible first
        | apply keeps_modWire | refine Keeps.foldl ?_ ?_ | refine Keeps.ite ?_ ?_)
    | (fail_if_no_progress (with_reducible refine Keeps.upd ?_))
    | (fail_if_no_progress (with_reducible refine Keeps.updHold ?_ rfl))
    | split
    | (dsimp only)

theorem keeps_sendMsg {a : Block} {b : Block} (x1 : ℕ) (x2 : Bytes)
    (h : Keeps a b) : Keeps a (sendMsg x1 x2 b) := by
  delta sendMsg
  repeat' first
    | (with_reducible assumption)
    | (intro)
    | (with_reducible first
        | apply keeps_enqueue | refine Keeps.foldl ?_ ?_ | refine Keeps.ite ?_ ?_)
    | (fail_if_no_progress (with_reducible refine Keeps.upd ?_))
    | (fail_if_no_progress (with_reducible refine Keeps.updHold ?_ rfl))
    | split
    | (dsimp only)

theorem keeps_failBar {a : Block} {b : Block} (x1 : ℕ) (x2 : Byte) (x3 : Option ℕ)
    (h : Keeps a b) : Keeps a (failBar x1 x2 x3 b) := by
  delta failBar
  repeat' first
    | (with_reducible assumption)
    | (intro)
    | (with_reducible first
        | apply keeps_failFence | apply keeps_later | apply keeps_modBar | apply keeps_modSync | apply keeps_raise | apply keeps_record
        | apply keeps_sendMsg | refine Keeps.foldl ?_ ?_ | refine Keeps.ite ?_ ?_)
    | (fail_if_no_progress (with_reducible refine Keeps.upd ?_))
    | (fail_if_no_progress (with_reducible refine Keeps.updHold ?_ rfl))
    | split
    | (dsimp only)

theorem keeps_releaseBar {a : Block} {b : Block} (x1 : ℕ) (x2 : ℕ) (x3 : BitVec 64)
    (h : Keeps a b) : Keeps a (releaseBar x1 x2 x3 b) := by
  delta releaseBar
  repeat' first
    | (with_reducible assumption)
    | (intro)
    | (with_reducible first
        | apply keeps_later | apply keeps_modBar | apply keeps_sendMsg | apply keeps_signalFence | apply keeps_trace
        | refine keeps_signalFence_eq (by with_reducible assumption) ?_ | refine Keeps.foldl ?_ ?_ | refine Keeps.ite ?_ ?_)
    | (fail_if_no_progress (with_reducible refine Keeps.upd ?_))
    | (fail_if_no_progress (with_reducible refine Keeps.updHold ?_ rfl))
    | split
    | (dsimp only)

theorem keeps_evalBar {a : Block} {b : Block} (x1 : ℕ)
    (h : Keeps a b) : Keeps a (evalBar x1 b) := by
  delta evalBar
  repeat' first
    | (with_reducible assumption)
    | (intro)
    | (with_reducible first
        | apply keeps_failBar | apply keeps_modBar | apply keeps_releaseBar | apply keeps_sendMsg | refine Keeps.foldl ?_ ?_
        | refine Keeps.ite ?_ ?_)
    | (fail_if_no_progress (with_reducible refine Keeps.upd ?_))
    | (fail_if_no_progress (with_reducible refine Keeps.updHold ?_ rfl))
    | split
    | (dsimp only)

theorem keeps_takeMsg {a : Block} {b : Block} (x1 : ℕ) (x2 : ℕ) (x3 : Bytes)
    (h : Keeps a b) : Keeps a (takeMsg x1 x2 x3 b) := by
  delta takeMsg
  repeat' first
    | (with_reducible assumption)
    | (intro)
    | (with_reducible first
        | apply keeps_evalBar | apply keeps_failBar | apply keeps_modBar | apply keeps_recordErr | apply keeps_releaseBar
        | refine Keeps.foldl ?_ ?_ | refine Keeps.ite ?_ ?_)
    | (fail_if_no_progress (with_reducible refine Keeps.upd ?_))
    | (fail_if_no_progress (with_reducible refine Keeps.updHold ?_ rfl))
    | split
    | (dsimp only)

theorem keeps_takeKind {a : Block} {b : Block} (x1 : ℕ) (x2 : ℕ) (x3 : ℕ) (x4 : Bytes)
    (h : Keeps a b) : Keeps a (takeKind x1 x2 x3 x4 b) := by
  delta takeKind
  repeat' first
    | (with_reducible assumption)
    | (intro)
    | (with_reducible first
        | apply keeps_takeMsg | refine Keeps.foldl ?_ ?_ | refine Keeps.ite ?_ ?_)
    | (fail_if_no_progress (with_reducible refine Keeps.upd ?_))
    | (fail_if_no_progress (with_reducible refine Keeps.updHold ?_ rfl))
    | split
    | (dsimp only)

theorem keeps_barFence {a : Block} {b : Block} (x1 : ℕ)
    (h : Keeps a b) : Keeps a (barFence x1 b) := by
  delta barFence
  repeat' first
    | (with_reducible assumption)
    | (intro)
    | (with_reducible first
        | apply keeps_evalBar | apply keeps_modBar | refine Keeps.foldl ?_ ?_ | refine Keeps.ite ?_ ?_)
    | (fail_if_no_progress (with_reducible refine Keeps.upd ?_))
    | (fail_if_no_progress (with_reducible refine Keeps.updHold ?_ rfl))
    | split
    | (dsimp only)

theorem keeps_excludeFence {a : Block} {b : Block} (x1 : ℕ)
    (h : Keeps a b) : Keeps a (excludeFence x1 b) := by
  delta excludeFence
  repeat' first
    | (with_reducible assumption)
    | (intro)
    | (with_reducible first
        | apply keeps_evalBar | apply keeps_modBar | refine Keeps.foldl ?_ ?_ | refine Keeps.ite ?_ ?_)
    | (fail_if_no_progress (with_reducible refine Keeps.upd ?_))
    | (fail_if_no_progress (with_reducible refine Keeps.updHold ?_ rfl))
    | split
    | (dsimp only)

theorem keeps_barEdgeFailed {a : Block} {b : Block} (x1 : ℕ) (x2 : ℕ) (x3 : Byte)
    (h : Keeps a b) : Keeps a (barEdgeFailed x1 x2 x3 b) := by
  delta barEdgeFailed
  repeat' first
    | (with_reducible assumption)
    | (intro)
    | (with_reducible first
        | apply keeps_failBar | refine Keeps.foldl ?_ ?_ | refine Keeps.ite ?_ ?_)
    | (fail_if_no_progress (with_reducible refine Keeps.upd ?_))
    | (fail_if_no_progress (with_reducible refine Keeps.updHold ?_ rfl))
    | split
    | (dsimp only)

theorem keeps_depositMask {a : Block} {b : Block} (x1 : ℕ) (x2 : BitVec 64)
    (h : Keeps a b) : Keeps a (depositMask x1 x2 b) := by
  delta depositMask
  repeat' first
    | (with_reducible assumption)
    | (intro)
    | (with_reducible first
        | apply keeps_evalBar | apply keeps_modBar | refine Keeps.foldl ?_ ?_ | refine Keeps.ite ?_ ?_)
    | (fail_if_no_progress (with_reducible refine Keeps.upd ?_))
    | (fail_if_no_progress (with_reducible refine Keeps.updHold ?_ rfl))
    | split
    | (dsimp only)

theorem keeps_scrubBars {a : Block} {b : Block} (x1 : ℕ)
    (h : Keeps a b) : Keeps a (scrubBars x1 b) := by
  delta scrubBars
  repeat' first
    | (with_reducible assumption)
    | (intro)
    | (with_reducible first
        | apply keeps_modSync | apply keeps_sendNow | refine Keeps.foldl ?_ ?_ | refine Keeps.ite ?_ ?_)
    | (fail_if_no_progress (with_reducible refine Keeps.upd ?_))
    | (fail_if_no_progress (with_reducible refine Keeps.updHold ?_ rfl))
    | split
    | (dsimp only)

/-! ### Sue -/

theorem keeps_raiseSue {a : Block} {b : Block} (x1 : ℕ) (x2 : ℕ)
    (h : Keeps a b) : Keeps a (raiseSue x1 x2 b) := by
  delta raiseSue
  repeat' first
    | (with_reducible assumption)
    | (intro)
    | (with_reducible first
        | apply keeps_raise | refine Keeps.foldl ?_ ?_ | refine Keeps.ite ?_ ?_)
    | (fail_if_no_progress (with_reducible refine Keeps.upd ?_))
    | (fail_if_no_progress (with_reducible refine Keeps.updHold ?_ rfl))
    | split
    | (dsimp only)

theorem keeps_raiseSues {a : Block} {b : Block} (x1 : ℕ) (x2 : ℕ)
    (h : Keeps a b) : Keeps a (raiseSues x1 x2 b) := by
  delta raiseSues
  repeat' first
    | (with_reducible assumption)
    | (intro)
    | (with_reducible first
        | apply keeps_raise | refine Keeps.foldl ?_ ?_ | refine Keeps.ite ?_ ?_)
    | (fail_if_no_progress (with_reducible refine Keeps.upd ?_))
    | (fail_if_no_progress (with_reducible refine Keeps.updHold ?_ rfl))
    | split
    | (dsimp only)

theorem keeps_endLane {a : Block} {b : Block} (x1 : ℕ) (x2 : Byte)
    (h : Keeps a b) : Keeps a (endLane x1 x2 b) := by
  delta endLane
  repeat' first
    | (with_reducible assumption)
    | (intro)
    | (with_reducible first
        | apply keeps_raiseSue | refine Keeps.foldl ?_ ?_ | refine Keeps.ite ?_ ?_)
    | (fail_if_no_progress (with_reducible refine Keeps.upd ?_))
    | (fail_if_no_progress (with_reducible refine Keeps.updHold ?_ rfl))
    | split
    | (dsimp only)

theorem keeps_laneCmd {a : Block} {b : Block} (x1 : Master) (x2 : Word)
    (h : Keeps a b) : Keeps a (laneCmd x1 x2 b) := by
  delta laneCmd
  repeat' first
    | (with_reducible assumption)
    | (intro)
    | (with_reducible first
        | apply keeps_endLane | apply keeps_recordErr | refine Keeps.foldl ?_ ?_ | refine Keeps.ite ?_ ?_)
    | (fail_if_no_progress (with_reducible refine Keeps.upd ?_))
    | (fail_if_no_progress (with_reducible refine Keeps.updHold ?_ rfl))
    | split
    | (dsimp only)

theorem keeps_laneDone {a : Block} {b : Block}
    (h : Keeps a b) : Keeps a (laneDone b) := by
  delta laneDone
  repeat' first
    | (with_reducible assumption)
    | (intro)
    | (with_reducible first
        | apply keeps_endLane | refine Keeps.foldl ?_ ?_ | refine Keeps.ite ?_ ?_)
    | (fail_if_no_progress (with_reducible refine Keeps.upd ?_))
    | (fail_if_no_progress (with_reducible refine Keeps.updHold ?_ rfl))
    | split
    | (dsimp only)

theorem keeps_stepApplied {a : Block} {b : Block} (x1 : ℕ)
    (h : Keeps a b) : Keeps a (stepApplied x1 b) := by
  delta stepApplied
  repeat' first
    | (with_reducible assumption)
    | (intro)
    | (with_reducible first
        | apply keeps_modSue | apply keeps_raiseSue | refine Keeps.foldl ?_ ?_ | refine Keeps.ite ?_ ?_)
    | (fail_if_no_progress (with_reducible refine Keeps.upd ?_))
    | (fail_if_no_progress (with_reducible refine Keeps.updHold ?_ rfl))
    | split
    | (dsimp only)

theorem keeps_checkApplied {a : Block} {b : Block} (x1 : ℕ)
    (h : Keeps a b) : Keeps a (checkApplied x1 b) := by
  delta checkApplied
  repeat' first
    | (with_reducible assumption)
    | (intro)
    | (with_reducible first
        | apply keeps_stepApplied | refine Keeps.foldl ?_ ?_ | refine Keeps.ite ?_ ?_)
    | (fail_if_no_progress (with_reducible refine Keeps.upd ?_))
    | (fail_if_no_progress (with_reducible refine Keeps.updHold ?_ rfl))
    | split
    | (dsimp only)

theorem keeps_finOp {a : Block} {b : Block} (x1 : ℕ) (x2 : ℕ)
    (h : Keeps a b) : Keeps a (finOp x1 x2 b) := by
  delta finOp
  repeat' first
    | (with_reducible assumption)
    | (intro)
    | (with_reducible first
        | apply keeps_checkApplied | apply keeps_modSue | refine Keeps.foldl ?_ ?_ | refine Keeps.ite ?_ ?_)
    | (fail_if_no_progress (with_reducible refine Keeps.upd ?_))
    | (fail_if_no_progress (with_reducible refine Keeps.updHold ?_ rfl))
    | split
    | (dsimp only)

theorem keeps_setNeed {a : Block} {b : Block} (x1 : ℕ) (x2 : ℕ) (x3 : ℕ)
    (h : Keeps a b) : Keeps a (setNeed x1 x2 x3 b) := by
  delta setNeed
  repeat' first
    | (with_reducible assumption)
    | (intro)
    | (with_reducible first
        | apply keeps_modSue | refine Keeps.foldl ?_ ?_ | refine Keeps.ite ?_ ?_)
    | (fail_if_no_progress (with_reducible refine Keeps.upd ?_))
    | (fail_if_no_progress (with_reducible refine Keeps.updHold ?_ rfl))
    | split
    | (dsimp only)

theorem keeps_progFail {a : Block} {b : Block} (x1 : ℕ) (x2 : Byte)
    (h : Keeps a b) : Keeps a (progFail x1 x2 b) := by
  delta progFail
  repeat' first
    | (with_reducible assumption)
    | (intro)
    | (with_reducible first
        | apply keeps_failBar | apply keeps_later | apply keeps_loseAll | apply keeps_modSue | apply keeps_raiseSue | apply keeps_record
        | refine Keeps.foldl ?_ ?_ | refine Keeps.ite ?_ ?_)
    | (fail_if_no_progress (with_reducible refine Keeps.upd ?_))
    | (fail_if_no_progress (with_reducible refine Keeps.updHold ?_ rfl))
    | split
    | (dsimp only)

theorem keeps_progJoin {a : Block} {b : Block} (x1 : ℕ)
    (h : Keeps a b) : Keeps a (progJoin x1 b) := by
  delta progJoin
  repeat' first
    | (with_reducible assumption)
    | (intro)
    | (with_reducible first
        | apply keeps_depositMask | refine Keeps.foldl ?_ ?_ | refine Keeps.ite ?_ ?_)
    | (fail_if_no_progress (with_reducible refine Keeps.upd ?_))
    | (fail_if_no_progress (with_reducible refine Keeps.updHold ?_ rfl))
    | split
    | (dsimp only)

theorem keeps_progSealing {a : Block} {b : Block} (x1 : ℕ)
    (h : Keeps a b) : Keeps a (progSealing x1 b) := by
  delta progSealing
  repeat' first
    | (with_reducible assumption)
    | (intro)
    | (with_reducible first
        | apply keeps_modSue | apply keeps_raiseSue | refine Keeps.foldl ?_ ?_ | refine Keeps.ite ?_ ?_)
    | (fail_if_no_progress (with_reducible refine Keeps.upd ?_))
    | (fail_if_no_progress (with_reducible refine Keeps.updHold ?_ rfl))
    | split
    | (dsimp only)

theorem keeps_progReleased {a : Block} {b : Block} (x1 : ℕ) (x2 : ℕ) (x3 : BitVec 64)
    (h : Keeps a b) : Keeps a (progReleased x1 x2 x3 b) := by
  delta progReleased
  repeat' first
    | (with_reducible assumption)
    | (intro)
    | (with_reducible first
        | apply keeps_checkApplied | apply keeps_modSue | apply keeps_raiseSues | refine Keeps.foldl ?_ ?_ | refine Keeps.ite ?_ ?_)
    | (fail_if_no_progress (with_reducible refine Keeps.upd ?_))
    | (fail_if_no_progress (with_reducible refine Keeps.updHold ?_ rfl))
    | split
    | (dsimp only)

theorem keeps_partLines {a : Block} {b : Block} (x1 : ℕ) (x2 : OpRef) (x3 : ℕ) (x4 : ℕ) (x5 : Bytes) (h : Keeps a b) :
    Keeps a (partLines x1 x2 x3 x4 x5 b) := by
  induction x3 generalizing x4 x5 b with
  | zero => rw [partLines]; exact h
  | succ n ih =>
    cases x5 with
    | nil => rw [partLines]; exact h
    | cons y ys =>
      rw [partLines]
      · exact ih _ _ (keeps_access _ _ _ _ h)
      · simp

theorem keeps_tensorWrite {a : Block} {b : Block} (x1 : ℕ) (x2 : ℕ) (x3 : ℕ × ℕ) (x4 : ℕ) (x5 : Bytes)
    (h : Keeps a b) : Keeps a (tensorWrite x1 x2 x3 x4 x5 b) := by
  delta tensorWrite
  repeat' first
    | (with_reducible assumption)
    | (intro)
    | (with_reducible first
        | apply keeps_count | apply keeps_internalWrite | apply keeps_modSue | apply keeps_partLines | refine Keeps.foldl ?_ ?_
        | refine Keeps.ite ?_ ?_)
    | (fail_if_no_progress (with_reducible refine Keeps.upd ?_))
    | (fail_if_no_progress (with_reducible refine Keeps.updHold ?_ rfl))
    | split
    | (dsimp only)

theorem keeps_tensorRead {a : Block} {b : Block} (x1 : ℕ) (x2 : ℕ) (x3 : SGroup) (x4 : ℕ) (x5 : ℕ)
    (h : Keeps a b) : Keeps a (tensorRead x1 x2 x3 x4 x5 b) := by
  delta tensorRead
  repeat' first
    | (with_reducible assumption)
    | (intro)
    | (with_reducible first
        | apply keeps_access | apply keeps_count | apply keeps_internalRead | apply keeps_modSue | refine Keeps.foldl ?_ ?_
        | refine Keeps.ite ?_ ?_)
    | (fail_if_no_progress (with_reducible refine Keeps.upd ?_))
    | (fail_if_no_progress (with_reducible refine Keeps.updHold ?_ rfl))
    | split
    | (dsimp only)

theorem keeps_startOp {a : Block} {b : Block} (x1 : ℕ) (x2 : ℕ) (x3 : ℕ) (f4 : SueBerth → Bytes → Block → Block)
    (hf4 : ∀ y0 y1 b, Keeps a b → Keeps a (f4 y0 y1 b)) (h : Keeps a b) : Keeps a (startOp x1 x2 x3 f4 b) := by
  delta startOp
  repeat' first
    | (with_reducible assumption)
    | (intro)
    | (with_reducible first
        | apply hf4 | apply keeps_modSue | refine Keeps.foldl ?_ ?_ | refine Keeps.ite ?_ ?_)
    | (fail_if_no_progress (with_reducible refine Keeps.upd ?_))
    | (fail_if_no_progress (with_reducible refine Keeps.updHold ?_ rfl))
    | split
    | (dsimp only)

theorem keeps_waitOp {a : Block} {b : Block} (x1 : ℕ) (x2 : ℕ)
    (h : Keeps a b) : Keeps a (waitOp x1 x2 b) := by
  delta waitOp
  repeat' first
    | (with_reducible assumption)
    | (intro)
    | (with_reducible first
        | apply keeps_progFail | apply keeps_startOp | refine Keeps.foldl ?_ ?_ | refine Keeps.ite ?_ ?_)
    | (fail_if_no_progress (with_reducible refine Keeps.upd ?_))
    | (fail_if_no_progress (with_reducible refine Keeps.updHold ?_ rfl))
    | split
    | (dsimp only)

theorem keeps_signalOp {a : Block} {b : Block} (x1 : ℕ) (x2 : ℕ)
    (h : Keeps a b) : Keeps a (signalOp x1 x2 b) := by
  delta signalOp
  repeat' first
    | (with_reducible assumption)
    | (intro)
    | (with_reducible first
        | apply keeps_signalFence | apply keeps_startOp | refine keeps_signalFence_eq (by with_reducible assumption) ?_
        | refine Keeps.foldl ?_ ?_ | refine Keeps.ite ?_ ?_)
    | (fail_if_no_progress (with_reducible refine Keeps.upd ?_))
    | (fail_if_no_progress (with_reducible refine Keeps.updHold ?_ rfl))
    | split
    | (dsimp only)

theorem keeps_sendGradGo {a : Block} {b : Block} (x1 : ℕ) (x2 : ℕ)
    (h : Keeps a b) : Keeps a (sendGradGo x1 x2 b) := by
  delta sendGradGo
  repeat' first
    | (with_reducible assumption)
    | (intro)
    | (with_reducible first
        | apply keeps_addWait | apply keeps_count | apply keeps_enqueue | apply keeps_progFail | apply keeps_setNeed
        | refine Keeps.foldl ?_ ?_ | refine Keeps.ite ?_ ?_)
    | (fail_if_no_progress (with_reducible refine Keeps.upd ?_))
    | (fail_if_no_progress (with_reducible refine Keeps.updHold ?_ rfl))
    | split
    | (dsimp only)

theorem keeps_sendGradOp {a : Block} {b : Block} (x1 : ℕ) (x2 : ℕ)
    (h : Keeps a b) : Keeps a (sendGradOp x1 x2 b) := by
  delta sendGradOp
  repeat' first
    | (with_reducible assumption)
    | (intro)
    | (with_reducible first
        | apply keeps_sendGradGo | apply keeps_startOp | refine Keeps.foldl ?_ ?_ | refine Keeps.ite ?_ ?_)
    | (fail_if_no_progress (with_reducible refine Keeps.upd ?_))
    | (fail_if_no_progress (with_reducible refine Keeps.updHold ?_ rfl))
    | split
    | (dsimp only)

theorem keeps_sumWrite {a : Block} {b : Block} (x1 : ℕ) (x2 : SueBerth) (x3 : ℕ) (x4 : ℕ) (x5 : Bytes)
    (h : Keeps a b) : Keeps a (sumWrite x1 x2 x3 x4 x5 b) := by
  delta sumWrite
  repeat' first
    | (with_reducible assumption)
    | (intro)
    | (with_reducible first
        | apply keeps_count | apply keeps_producerWrite | apply keeps_progFail | refine Keeps.foldl ?_ ?_ | refine Keeps.ite ?_ ?_)
    | (fail_if_no_progress (with_reducible refine Keeps.upd ?_))
    | (fail_if_no_progress (with_reducible refine Keeps.updHold ?_ rfl))
    | split
    | (dsimp only)

theorem keeps_reduceDense {a : Block} {b : Block} (x1 : ℕ) (x2 : ℕ) (x3 : SueBerth) (x4 : SGroup) (x5 : Bytes) (x6 : List Bytes)
    (h : Keeps a b) : Keeps a (reduceDense x1 x2 x3 x4 x5 x6 b) := by
  delta reduceDense
  repeat' first
    | (with_reducible assumption)
    | (intro)
    | (with_reducible first
        | apply keeps_count | apply keeps_modSue | apply keeps_sumWrite | apply keeps_tensorWrite | refine Keeps.foldl ?_ ?_
        | refine Keeps.ite ?_ ?_)
    | (fail_if_no_progress (with_reducible refine Keeps.upd ?_))
    | (fail_if_no_progress (with_reducible refine Keeps.updHold ?_ rfl))
    | split
    | (dsimp only)

theorem keeps_reduceSparse {a : Block} {b : Block} (x1 : ℕ) (x2 : ℕ) (x3 : SueBerth) (x4 : SGroup) (x5 : Bytes) (x6 : List Bytes)
    (h : Keeps a b) : Keeps a (reduceSparse x1 x2 x3 x4 x5 x6 b) := by
  delta reduceSparse
  repeat' first
    | (with_reducible assumption)
    | (intro)
    | (with_reducible first
        | apply keeps_count | apply keeps_modSue | apply keeps_progFail | apply keeps_sumWrite | apply keeps_tensorWrite
        | refine Keeps.foldl ?_ ?_ | refine Keeps.ite ?_ ?_)
    | (fail_if_no_progress (with_reducible refine Keeps.upd ?_))
    | (fail_if_no_progress (with_reducible refine Keeps.updHold ?_ rfl))
    | split
    | (dsimp only)

theorem keeps_reduceGo {a : Block} {b : Block} (x1 : ℕ) (x2 : ℕ)
    (h : Keeps a b) : Keeps a (reduceGo x1 x2 b) := by
  delta reduceGo
  repeat' first
    | (with_reducible assumption)
    | (intro)
    | (with_reducible first
        | apply keeps_addWait | apply keeps_count | apply keeps_progFail | apply keeps_reduceDense | apply keeps_reduceSparse
        | apply keeps_senseLines | apply keeps_setNeed | refine keeps_senseLines_eq (by with_reducible assumption) ?_
        | refine Keeps.foldl ?_ ?_ | refine Keeps.ite ?_ ?_)
    | (fail_if_no_progress (with_reducible refine Keeps.upd ?_))
    | (fail_if_no_progress (with_reducible refine Keeps.updHold ?_ rfl))
    | split
    | (dsimp only)

theorem keeps_reduceOp {a : Block} {b : Block} (x1 : ℕ) (x2 : ℕ)
    (h : Keeps a b) : Keeps a (reduceOp x1 x2 b) := by
  delta reduceOp
  repeat' first
    | (with_reducible assumption)
    | (intro)
    | (with_reducible first
        | apply keeps_reduceGo | apply keeps_startOp | refine Keeps.foldl ?_ ?_ | refine Keeps.ite ?_ ?_)
    | (fail_if_no_progress (with_reducible refine Keeps.upd ?_))
    | (fail_if_no_progress (with_reducible refine Keeps.updHold ?_ rfl))
    | split
    | (dsimp only)

theorem keeps_arriveOp {a : Block} {b : Block} (x1 : ℕ) (x2 : ℕ)
    (h : Keeps a b) : Keeps a (arriveOp x1 x2 b) := by
  delta arriveOp
  repeat' first
    | (with_reducible assumption)
    | (intro)
    | (with_reducible first
        | apply keeps_depositMask | apply keeps_modSue | apply keeps_startOp | refine Keeps.foldl ?_ ?_ | refine Keeps.ite ?_ ?_)
    | (fail_if_no_progress (with_reducible refine Keeps.upd ?_))
    | (fail_if_no_progress (with_reducible refine Keeps.updHold ?_ rfl))
    | split
    | (dsimp only)

theorem keeps_recycleOp {a : Block} {b : Block} (x1 : ℕ) (x2 : ℕ)
    (h : Keeps a b) : Keeps a (recycleOp x1 x2 b) := by
  delta recycleOp
  repeat' first
    | (with_reducible assumption)
    | (intro)
    | (with_reducible first
        | apply keeps_recycle | apply keeps_setNeed | apply keeps_startOp | refine keeps_recycle_eq (by with_reducible assumption) ?_
        | refine Keeps.foldl ?_ ?_ | refine Keeps.ite ?_ ?_)
    | (fail_if_no_progress (with_reducible refine Keeps.upd ?_))
    | (fail_if_no_progress (with_reducible refine Keeps.updHold ?_ rfl))
    | split
    | (dsimp only)

theorem keeps_writeElems {a : Block} {b : Block} (x1 : ℕ) (x2 : ℕ) (x3 : ℕ) (x4 : SGroup) (x5 : ℕ) (x6 : ℕ) (x7 : List Elem)
    (h : Keeps a b) : Keeps a (writeElems x1 x2 x3 x4 x5 x6 x7 b) := by
  delta writeElems
  repeat' first
    | (with_reducible assumption)
    | (intro)
    | (with_reducible first
        | apply keeps_tensorWrite | refine Keeps.foldl ?_ ?_ | refine Keeps.ite ?_ ?_)
    | (fail_if_no_progress (with_reducible refine Keeps.upd ?_))
    | (fail_if_no_progress (with_reducible refine Keeps.updHold ?_ rfl))
    | split
    | (dsimp only)

theorem keeps_noteNonFinite {a : Block} {b : Block} (x1 : ℕ) (x2 : Bool)
    (h : Keeps a b) : Keeps a (noteNonFinite x1 x2 b) := by
  delta noteNonFinite
  repeat' first
    | (with_reducible assumption)
    | (intro)
    | (with_reducible first
        | apply keeps_modSue | apply keeps_raiseSues | refine Keeps.foldl ?_ ?_ | refine Keeps.ite ?_ ?_)
    | (fail_if_no_progress (with_reducible refine Keeps.upd ?_))
    | (fail_if_no_progress (with_reducible refine Keeps.updHold ?_ rfl))
    | split
    | (dsimp only)

theorem keeps_applyDense {a : Block} {b : Block} (x1 : ℕ) (x2 : ℕ) (x3 : ℕ) (x4 : SueBerth) (x5 : SGroup) (x6 : StepConst) (x7 : ℕ) (x8 : ℕ)
    (h : Keeps a b) : Keeps a (applyDense x1 x2 x3 x4 x5 x6 x7 x8 b) := by
  delta applyDense
  repeat' first
    | (with_reducible assumption)
    | (intro)
    | (with_reducible first
        | apply keeps_count | apply keeps_noteNonFinite | apply keeps_writeElems | refine Keeps.foldl ?_ ?_ | refine Keeps.ite ?_ ?_)
    | (fail_if_no_progress (with_reducible refine Keeps.upd ?_))
    | (fail_if_no_progress (with_reducible refine Keeps.updHold ?_ rfl))
    | split
    | (dsimp only)

theorem keeps_applySparse {a : Block} {b : Block} (x1 : ℕ) (x2 : ℕ) (x3 : ℕ) (x4 : SueBerth) (x5 : SGroup) (x6 : StepConst)
    (h : Keeps a b) : Keeps a (applySparse x1 x2 x3 x4 x5 x6 b) := by
  delta applySparse
  repeat' first
    | (with_reducible assumption)
    | (intro)
    | (with_reducible first
        | apply keeps_count | apply keeps_noteNonFinite | apply keeps_tensorWrite | apply keeps_writeElems | refine Keeps.foldl ?_ ?_
        | refine Keeps.ite ?_ ?_)
    | (fail_if_no_progress (with_reducible refine Keeps.upd ?_))
    | (fail_if_no_progress (with_reducible refine Keeps.updHold ?_ rfl))
    | split
    | (dsimp only)

theorem keeps_readLines {a : Block} {b : Block} (x1 : ℕ) (x2 : ℕ) (x3 : SGroup) (x4 : List (ℕ × ℕ))
    (h : Keeps a b) : Keeps a (readLines x1 x2 x3 x4 b) := by
  delta readLines
  repeat' first
    | (with_reducible assumption)
    | (intro)
    | (with_reducible first
        | apply keeps_tensorRead | refine Keeps.foldl ?_ ?_ | refine Keeps.ite ?_ ?_)
    | (fail_if_no_progress (with_reducible refine Keeps.upd ?_))
    | (fail_if_no_progress (with_reducible refine Keeps.updHold ?_ rfl))
    | split
    | (dsimp only)

theorem keeps_applyNext {a : Block} {b : Block} (x1 : ℕ) (x2 : ℕ)
    (h : Keeps a b) : Keeps a (applyNext x1 x2 b) := by
  delta applyNext
  repeat' first
    | (with_reducible assumption)
    | (intro)
    | (with_reducible first
        | apply keeps_applyDense | apply keeps_applySparse | apply keeps_modSue | apply keeps_readLines | refine Keeps.foldl ?_ ?_
        | refine Keeps.ite ?_ ?_)
    | (fail_if_no_progress (with_reducible refine Keeps.upd ?_))
    | (fail_if_no_progress (with_reducible refine Keeps.updHold ?_ rfl))
    | split
    | (dsimp only)

theorem keeps_stageStore {a : Block} {b : Block} (x1 : ℕ) (x2 : Bytes)
    (h : Keeps a b) : Keeps a (stageStore x1 x2 b) := by
  delta stageStore
  repeat' first
    | (with_reducible assumption)
    | (intro)
    | (with_reducible first
        | apply keeps_producerWrite | refine Keeps.foldl ?_ ?_ | refine Keeps.ite ?_ ?_)
    | (fail_if_no_progress (with_reducible refine Keeps.upd ?_))
    | (fail_if_no_progress (with_reducible refine Keeps.updHold ?_ rfl))
    | split
    | (dsimp only)

theorem keeps_tensorLine {a : Block} {b : Block} (x1 : ℕ) (x2 : ℕ) (x3 : ℕ) (x4 : ℕ) (x5 : Bytes)
    (h : Keeps a b) : Keeps a (tensorLine x1 x2 x3 x4 x5 b) := by
  delta tensorLine
  repeat' first
    | (with_reducible assumption)
    | (intro)
    | (with_reducible first
        | apply keeps_applyNext | apply keeps_modSue | apply keeps_stageStore | refine Keeps.foldl ?_ ?_ | refine Keeps.ite ?_ ?_)
    | (fail_if_no_progress (with_reducible refine Keeps.upd ?_))
    | (fail_if_no_progress (with_reducible refine Keeps.updHold ?_ rfl))
    | split
    | (dsimp only)

theorem keeps_applyOp {a : Block} {b : Block} (x1 : ℕ) (x2 : ℕ)
    (h : Keeps a b) : Keeps a (applyOp x1 x2 b) := by
  delta applyOp
  repeat' first
    | (with_reducible assumption)
    | (intro)
    | (with_reducible first
        | apply keeps_finOp | apply keeps_progFail | apply keeps_readLines | apply keeps_startOp | refine Keeps.foldl ?_ ?_
        | refine Keeps.ite ?_ ?_)
    | (fail_if_no_progress (with_reducible refine Keeps.upd ?_))
    | (fail_if_no_progress (with_reducible refine Keeps.updHold ?_ rfl))
    | split
    | (dsimp only)

theorem keeps_completeOp {a : Block} {b : Block} (x1 : ℕ) (x2 : ℕ)
    (h : Keeps a b) : Keeps a (completeOp x1 x2 b) := by
  delta completeOp
  repeat' first
    | (with_reducible assumption)
    | (intro)
    | (with_reducible first
        | apply keeps_finOp | apply keeps_progFail | refine Keeps.foldl ?_ ?_ | refine Keeps.ite ?_ ?_)
    | (fail_if_no_progress (with_reducible refine Keeps.upd ?_))
    | (fail_if_no_progress (with_reducible refine Keeps.updHold ?_ rfl))
    | split
    | (dsimp only)

theorem keeps_progDone {a : Block} {b : Block} (x1 : ℕ) (x2 : ℕ) (x3 : Byte)
    (h : Keeps a b) : Keeps a (progDone x1 x2 x3 b) := by
  delta progDone
  repeat' first
    | (with_reducible assumption)
    | (intro)
    | (with_reducible first
        | apply keeps_progFail | apply keeps_setNeed | refine Keeps.foldl ?_ ?_ | refine Keeps.ite ?_ ?_)
    | (fail_if_no_progress (with_reducible refine Keeps.upd ?_))
    | (fail_if_no_progress (with_reducible refine Keeps.updHold ?_ rfl))
    | split
    | (dsimp only)

theorem keeps_progLost {a : Block} {b : Block} (x1 : ℕ) (x2 : ℕ) (x3 : Byte)
    (h : Keeps a b) : Keeps a (progLost x1 x2 x3 b) := by
  delta progLost
  repeat' first
    | (with_reducible assumption)
    | (intro)
    | (with_reducible first
        | apply keeps_progFail | refine Keeps.foldl ?_ ?_ | refine Keeps.ite ?_ ?_)
    | (fail_if_no_progress (with_reducible refine Keeps.upd ?_))
    | (fail_if_no_progress (with_reducible refine Keeps.updHold ?_ rfl))
    | split
    | (dsimp only)

theorem keeps_progResume {a : Block} {b : Block} (x1 : ℕ) (x2 : ℕ)
    (h : Keeps a b) : Keeps a (progResume x1 x2 b) := by
  delta progResume
  repeat' first
    | (with_reducible assumption)
    | (intro)
    | (with_reducible first
        | apply keeps_reduceGo | apply keeps_sendGradGo | refine Keeps.foldl ?_ ?_ | refine Keeps.ite ?_ ?_)
    | (fail_if_no_progress (with_reducible refine Keeps.upd ?_))
    | (fail_if_no_progress (with_reducible refine Keeps.updHold ?_ rfl))
    | split
    | (dsimp only)

theorem keeps_progFence {a : Block} {b : Block} (x1 : ℕ)
    (h : Keeps a b) : Keeps a (progFence x1 b) := by
  delta progFence
  repeat' first
    | (with_reducible assumption)
    | (intro)
    | (with_reducible first
        | apply keeps_progFail | refine Keeps.foldl ?_ ?_ | refine Keeps.ite ?_ ?_)
    | (fail_if_no_progress (with_reducible refine Keeps.upd ?_))
    | (fail_if_no_progress (with_reducible refine Keeps.updHold ?_ rfl))
    | split
    | (dsimp only)

theorem keeps_layerScale {a : Block} {b : Block} (x1 : ℕ) (x2 : ℕ)
    (h : Keeps a b) : Keeps a (layerScale x1 x2 b) := by
  delta layerScale
  repeat' first
    | (with_reducible assumption)
    | (intro)
    | (with_reducible first
        | apply keeps_finishCmd | apply keeps_modSue | apply keeps_runCmd | refine Keeps.foldl ?_ ?_ | refine Keeps.ite ?_ ?_)
    | (fail_if_no_progress (with_reducible refine Keeps.upd ?_))
    | (fail_if_no_progress (with_reducible refine Keeps.updHold ?_ rfl))
    | split
    | (dsimp only)

theorem keeps_stepInfo {a : Block} {b : Block} (x1 : ℕ) (x2 : ℕ)
    (h : Keeps a b) : Keeps a (stepInfo x1 x2 b) := by
  delta stepInfo
  repeat' first
    | (with_reducible assumption)
    | (intro)
    | (with_reducible first
        | apply keeps_finishCmd | apply keeps_runCmd | refine Keeps.foldl ?_ ?_ | refine Keeps.ite ?_ ?_)
    | (fail_if_no_progress (with_reducible refine Keeps.upd ?_))
    | (fail_if_no_progress (with_reducible refine Keeps.updHold ?_ rfl))
    | split
    | (dsimp only)

theorem keeps_modEng {a : Block} {b : Block} (x1 : ℕ) (x2 : ℕ) (x3 : SEngine → SEngine)
    (h : Keeps a b) : Keeps a (modEng x1 x2 x3 b) := by
  delta modEng
  repeat' first
    | (with_reducible assumption)
    | (intro)
    | (with_reducible first
        | apply keeps_modSue | refine Keeps.foldl ?_ ?_ | refine Keeps.ite ?_ ?_)
    | (fail_if_no_progress (with_reducible refine Keeps.upd ?_))
    | (fail_if_no_progress (with_reducible refine Keeps.updHold ?_ rfl))
    | split
    | (dsimp only)

theorem keeps_commitEng {a : Block} {b : Block} (x1 : Master) (x2 : ℕ) (x3 : ℕ)
    (h : Keeps a b) : Keeps a (commitEng x1 x2 x3 b) := by
  delta commitEng
  repeat' first
    | (with_reducible assumption)
    | (intro)
    | (with_reducible first
        | apply keeps_modEng | refine Keeps.foldl ?_ ?_ | refine Keeps.ite ?_ ?_)
    | (fail_if_no_progress (with_reducible refine Keeps.upd ?_))
    | (fail_if_no_progress (with_reducible refine Keeps.updHold ?_ rfl))
    | split
    | (dsimp only)

theorem keeps_clearEng {a : Block} {b : Block} (x1 : Master) (x2 : ℕ) (x3 : ℕ)
    (h : Keeps a b) : Keeps a (clearEng x1 x2 x3 b) := by
  delta clearEng
  repeat' first
    | (with_reducible assumption)
    | (intro)
    | (with_reducible first
        | apply keeps_modEng | refine Keeps.foldl ?_ ?_ | refine Keeps.ite ?_ ?_)
    | (fail_if_no_progress (with_reducible refine Keeps.upd ?_))
    | (fail_if_no_progress (with_reducible refine Keeps.updHold ?_ rfl))
    | split
    | (dsimp only)

theorem keeps_engWrite {a : Block} {b : Block} (x1 : Master) (x2 : ℕ) (x3 : ℕ) (x4 : ℕ) (x5 : Word)
    (h : Keeps a b) : Keeps a (engWrite x1 x2 x3 x4 x5 b) := by
  delta engWrite
  repeat' first
    | (with_reducible assumption)
    | (intro)
    | (with_reducible first
        | apply keeps_clearEng | apply keeps_commitEng | apply keeps_modEng | apply keeps_recordErr | refine Keeps.foldl ?_ ?_
        | refine Keeps.ite ?_ ?_)
    | (fail_if_no_progress (with_reducible refine Keeps.upd ?_))
    | (fail_if_no_progress (with_reducible refine Keeps.updHold ?_ rfl))
    | split
    | (dsimp only)

theorem keeps_scrubSue {a : Block} {b : Block} (x1 : ℕ)
    (h : Keeps a b) : Keeps a (scrubSue x1 b) := by
  delta scrubSue
  repeat' first
    | (with_reducible assumption)
    | (intro)
    | (with_reducible first
        | apply keeps_endLane | refine Keeps.foldl ?_ ?_ | refine Keeps.ite ?_ ?_)
    | (fail_if_no_progress (with_reducible refine Keeps.upd ?_))
    | (fail_if_no_progress (with_reducible refine Keeps.updHold ?_ rfl))
    | split
    | (dsimp only)

end Sys2Proof.Machine
end

