-- ==== Sys2Proof/Laws/KeepsBerths.lean ====
section
/-!
SUPPORT. What the operations keep (Keeps), one lemma an operation: sessions, loading, berths, the life cycle, recovery and resets.
-/

set_option linter.unusedTactic false
set_option linter.unreachableTactic false

namespace Sys2Proof.Machine

/-! ### Sessions -/

theorem keeps_modSession {a : Block} {b : Block} (x1 : ℕ) (x2 : Session → Session)
    (h : Keeps a b) : Keeps a (modSession x1 x2 b) := by
  delta modSession
  repeat' first
    | (with_reducible assumption)
    | (intro)
    | (with_reducible first
        | refine Keeps.foldl ?_ ?_ | refine Keeps.ite ?_ ?_)
    | (fail_if_no_progress (with_reducible refine Keeps.upd ?_))
    | (fail_if_no_progress (with_reducible refine Keeps.updHold ?_ rfl))
    | split
    | (dsimp only)

theorem keeps_modMgmt {a : Block} {b : Block} (x1 : Mgmt → Mgmt)
    (h : Keeps a b) : Keeps a (modMgmt x1 b) := by
  delta modMgmt
  repeat' first
    | (with_reducible assumption)
    | (intro)
    | (with_reducible first
        | refine Keeps.foldl ?_ ?_ | refine Keeps.ite ?_ ?_)
    | (fail_if_no_progress (with_reducible refine Keeps.upd ?_))
    | (fail_if_no_progress (with_reducible refine Keeps.updHold ?_ rfl))
    | split
    | (dsimp only)

theorem keeps_i3cCall {a : Block} {b : Block} (x1 : Transport)
    (h : Keeps a b) : Keeps a (i3cCall x1 b) := by
  delta i3cCall
  repeat' first
    | (with_reducible assumption)
    | (intro)
    | (with_reducible first
        | apply keeps_emit | refine Keeps.foldl ?_ ?_ | refine Keeps.ite ?_ ?_)
    | (fail_if_no_progress (with_reducible refine Keeps.upd ?_))
    | (fail_if_no_progress (with_reducible refine Keeps.updHold ?_ rfl))
    | split
    | (dsimp only)

theorem keeps_endSession {a : Block} {b : Block} (x1 : ℕ)
    (h : Keeps a b) : Keeps a (endSession x1 b) := by
  delta endSession
  repeat' first
    | (with_reducible assumption)
    | (intro)
    | (with_reducible first
        | apply keeps_modMgmt | apply keeps_raise | apply keeps_stageIdle | refine Keeps.foldl ?_ ?_ | refine Keeps.ite ?_ ?_)
    | (fail_if_no_progress (with_reducible refine Keeps.upd ?_))
    | (fail_if_no_progress (with_reducible refine Keeps.updHold ?_ rfl))
    | split
    | (dsimp only)

theorem keeps_releaseSlot {a : Block} {b : Block} (x1 : ℕ)
    (h : Keeps a b) : Keeps a (releaseSlot x1 b) := by
  delta releaseSlot
  repeat' first
    | (with_reducible assumption)
    | (intro)
    | (with_reducible first
        | apply keeps_endSession | apply keeps_raise | refine Keeps.foldl ?_ ?_ | refine Keeps.ite ?_ ?_)
    | (fail_if_no_progress (with_reducible refine Keeps.upd ?_))
    | (fail_if_no_progress (with_reducible refine Keeps.updHold ?_ rfl))
    | split
    | (dsimp only)

theorem keeps_bindSlotTo {a : Block} {b : Block} (x1 : ℕ) (x2 : ℕ)
    (h : Keeps a b) : Keeps a (bindSlotTo x1 x2 b) := by
  delta bindSlotTo
  repeat' first
    | (with_reducible assumption)
    | (intro)
    | (with_reducible first
        | apply keeps_raise | refine Keeps.foldl ?_ ?_ | refine Keeps.ite ?_ ?_)
    | (fail_if_no_progress (with_reducible refine Keeps.upd ?_))
    | (fail_if_no_progress (with_reducible refine Keeps.updHold ?_ rfl))
    | split
    | (dsimp only)

theorem keeps_bindLowest {a : Block} {b : Block} (x1 : ℕ)
    (h : Keeps a b) : Keeps a (bindLowest x1 b) := by
  delta bindLowest
  repeat' first
    | (with_reducible assumption)
    | (intro)
    | (with_reducible first
        | apply keeps_bindSlotTo | refine Keeps.foldl ?_ ?_ | refine Keeps.ite ?_ ?_)
    | (fail_if_no_progress (with_reducible refine Keeps.upd ?_))
    | (fail_if_no_progress (with_reducible refine Keeps.updHold ?_ rfl))
    | split
    | (dsimp only)

theorem keeps_unbind {a : Block} {b : Block} (x1 : ℕ)
    (h : Keeps a b) : Keeps a (unbind x1 b) := by
  delta unbind
  repeat' first
    | (with_reducible assumption)
    | (intro)
    | (with_reducible first
        | apply keeps_releaseSlot | refine Keeps.foldl ?_ ?_ | refine Keeps.ite ?_ ?_)
    | (fail_if_no_progress (with_reducible refine Keeps.upd ?_))
    | (fail_if_no_progress (with_reducible refine Keeps.updHold ?_ rfl))
    | split
    | (dsimp only)

theorem keeps_tdiFault {a : Block} {b : Block} (x1 : ℕ)
    (h : Keeps a b) : Keeps a (tdiFault x1 b) := by
  delta tdiFault
  repeat' first
    | (with_reducible assumption)
    | (intro)
    | (with_reducible first
        | apply keeps_modMgmt | refine Keeps.foldl ?_ ?_ | refine Keeps.ite ?_ ?_)
    | (fail_if_no_progress (with_reducible refine Keeps.upd ?_))
    | (fail_if_no_progress (with_reducible refine Keeps.updHold ?_ rfl))
    | split
    | (dsimp only)

/-! ### Loading -/

theorem keeps_createOne_eq {a : Block} {b : Block} {w : ℕ} {r : RgnEnt} {v} {c : Block} (e : createOne w r b = some (v, c)) (h : Keeps a b) :
    Keeps a c := by
  simp only [createOne] at e
  split at e
  · split at e <;> simp at e
    exact e.2 ▸ h
  · split at e <;> (simp at e; obtain ⟨i, e, -⟩ := e)
    · exact keeps_createHbm_eq e h
    · exact keeps_createRegion_eq e h

theorem keeps_createRegions_eq {a : Block} {w : ℕ} {rs : List RgnEnt} : ∀ {b : Block} {v} {c : Block}, createRegions w rs b = some (v, c) →
    Keeps a b → Keeps a c := by
  induction rs with
  | nil => intro b v c e h; simp [createRegions] at e; exact e.2 ▸ h
  | cons r rs ih =>
    intro b v c e h
    rw [createRegions] at e
    split at e
    · simp at e
    · rename_i d q
      simp at e
      obtain ⟨l, e, -⟩ := e
      exact ih e (keeps_createOne_eq q h)

theorem keeps_putShadow {a : Block} {b : Block} (x1 : ℕ) (x2 : ℕ) (x3 : Bool) (x4 : List ℕ)
    (h : Keeps a b) : Keeps a (putShadow x1 x2 x3 x4 b) := by
  delta putShadow
  repeat' first
    | (with_reducible assumption)
    | (intro)
    | (with_reducible first
        | apply keeps_setReg | refine Keeps.foldl ?_ ?_ | refine Keeps.ite ?_ ?_)
    | (fail_if_no_progress (with_reducible refine Keeps.upd ?_))
    | (fail_if_no_progress (with_reducible refine Keeps.updHold ?_ rfl))
    | split
    | (dsimp only)

theorem keeps_armMap {a : Block} {b : Block} (x1 : ℕ) (x3 : SlotMap)
    (h : Keeps a b) : Keeps a (armMap x1 b x3) := by
  delta armMap
  repeat' first
    | (with_reducible assumption)
    | (intro)
    | (with_reducible first
        | apply keeps_putShadow | apply keeps_setReg | refine Keeps.foldl ?_ ?_ | refine Keeps.ite ?_ ?_)
    | (fail_if_no_progress (with_reducible refine Keeps.upd ?_))
    | (fail_if_no_progress (with_reducible refine Keeps.updHold ?_ rfl))
    | split
    | (dsimp only)

theorem keeps_installXing {a : Block} {b : Block} (x1 : ℕ) (x3 : XingEnt)
    (h : Keeps a b) : Keeps a (installXing x1 b x3) := by
  delta installXing
  repeat' first
    | (with_reducible assumption)
    | (intro)
    | (with_reducible first
        | apply keeps_setReg | apply keeps_setXkid | apply keeps_setXswitch | refine Keeps.foldl ?_ ?_ | refine Keeps.ite ?_ ?_)
    | (fail_if_no_progress (with_reducible refine Keeps.upd ?_))
    | (fail_if_no_progress (with_reducible refine Keeps.updHold ?_ rfl))
    | split
    | (dsimp only)

theorem keeps_installGkm {a : Block} {b : Block} (x1 : ℕ) (x3 : ℕ × ℕ × ℕ)
    (h : Keeps a b) : Keeps a (installGkm x1 b x3) := by
  delta installGkm
  repeat' first
    | (with_reducible assumption)
    | (intro)
    | (with_reducible first
        | apply keeps_setGkm | refine Keeps.foldl ?_ ?_ | refine Keeps.ite ?_ ?_)
    | (fail_if_no_progress (with_reducible refine Keeps.upd ?_))
    | (fail_if_no_progress (with_reducible refine Keeps.updHold ?_ rfl))
    | split
    | (dsimp only)

theorem keeps_newObjs_eq {a : Block} {w : ℕ} {rs : List ObjKind} : ∀ {b : Block} {v} {c : Block}, newObjs w rs b = some (v, c) →
    Keeps a b → Keeps a c := by
  induction rs with
  | nil => intro b v c e h; simp [newObjs] at e; exact e.2 ▸ h
  | cons r rs ih =>
    intro b v c e h
    rw [newObjs] at e
    split at e
    · simp at e
    · rename_i d q
      simp at e
      obtain ⟨l, e, -⟩ := e
      exact ih e (keeps_newObj_eq q h)

theorem keeps_newFences_eq {a : Block} {w : ℕ} {rs : List FenceEnt} : ∀ {b : Block} {v} {c : Block}, newFences w rs b = some (v, c) →
    Keeps a b → Keeps a c := by
  induction rs with
  | nil => intro b v c e h; simp [newFences] at e; exact e.2 ▸ h
  | cons r rs ih =>
    intro b v c e h
    rw [newFences] at e
    split at e
    · simp at e
    · rename_i d q
      simp at e
      obtain ⟨l, e, -⟩ := e
      exact ih e (keeps_newFence_eq q h)

theorem keeps_createHandles_eq {a : Block} {b : Block} {w : ℕ} {t : Tide} {v} {c : Block} (e : createHandles w t b = some (v, c))
    (h : Keeps a b) : Keeps a c := by
  simp only [createHandles, Option.bind_eq_bind, Option.bind_eq_some_iff] at e
  obtain ⟨⟨ro, b1⟩, e1, ⟨xo, b2⟩, e2, ⟨bo, b3⟩, e3, ⟨fs, b4⟩, e4, e⟩ := e
  have h3 := keeps_newObjs_eq e3 (keeps_newObjs_eq e2 (keeps_newObjs_eq e1 h))
  have h4 := keeps_newFences_eq e4 (keeps_modBerth _ _ h3)
  split at e
  · simp at e
    obtain ⟨-, rfl⟩ := e
    exact keeps_blockWrite _ _ _ _ _ (keeps_modBerth _ _ h4)
  · simp at e

theorem keeps_installCtx {a : Block} {b : Block} (x1 : ℕ) (x3 : CtxEnt)
    (h : Keeps a b) : Keeps a (installCtx x1 b x3) := by
  delta installCtx
  repeat' first
    | (with_reducible assumption)
    | (intro)
    | (with_reducible first
        | apply keeps_modCtx | refine Keeps.foldl ?_ ?_ | refine Keeps.ite ?_ ?_)
    | (fail_if_no_progress (with_reducible refine Keeps.upd ?_))
    | (fail_if_no_progress (with_reducible refine Keeps.updHold ?_ rfl))
    | split
    | (dsimp only)

theorem keeps_installBar {a : Block} {b : Block} (x1 : ℕ) (x2 : Tide) (x4 : BarEnt × ℕ)
    (h : Keeps a b) : Keeps a (installBar x1 x2 b x4) := by
  delta installBar
  repeat' first
    | (with_reducible assumption)
    | (intro)
    | (with_reducible first
        | apply keeps_modBar | refine Keeps.foldl ?_ ?_ | refine Keeps.ite ?_ ?_)
    | (fail_if_no_progress (with_reducible refine Keeps.upd ?_))
    | (fail_if_no_progress (with_reducible refine Keeps.updHold ?_ rfl))
    | split
    | (dsimp only)

theorem keeps_installProgram {a : Block} {b : Block} (x1 : ℕ) (x2 : Tide) (x3 : SueBerth)
    (h : Keeps a b) : Keeps a (installProgram x1 x2 x3 b) := by
  delta installProgram
  repeat' first
    | (with_reducible assumption)
    | (intro)
    | (with_reducible first
        | apply keeps_modObj | apply keeps_modSue | refine Keeps.foldl ?_ ?_ | refine Keeps.ite ?_ ?_)
    | (fail_if_no_progress (with_reducible refine Keeps.upd ?_))
    | (fail_if_no_progress (with_reducible refine Keeps.updHold ?_ rfl))
    | split
    | (dsimp only)

theorem except_bind {ε α β : Type} {m : Except ε α} {f : α → Except ε β} {y : β} (e : (m >>= f) = .ok y) : ∃ x, m = .ok x ∧ f x = .ok y := by
  cases m with
  | error => simp [bind, Except.bind] at e
  | ok x => exact ⟨x, rfl, e⟩

theorem orElse_ok {α : Type} {n : ℕ} {c : Byte} {m : Option α} {x : α} (e : orElse n c m = .ok x) : m = some x := by
  cases m <;> simp_all [orElse]

theorem keeps_loadFirst_eq {a : Block} {b : Block} {w : ℕ} {bs : Bytes} {v u} {c : Block} (e : loadFirst w bs b = .ok (v, u, c))
    (h : Keeps a b) : Keeps a c := by
  simp only [loadFirst] at e
  obtain ⟨_, -, e⟩ := except_bind e
  obtain ⟨_, -, e⟩ := except_bind e
  obtain ⟨_, -, e⟩ := except_bind e
  obtain ⟨_, -, e⟩ := except_bind e
  obtain ⟨⟨_, b1⟩, e1, e⟩ := except_bind e
  have h1 := keeps_createRegions_eq (orElse_ok e1) h
  obtain ⟨_, -, e⟩ := except_bind e
  obtain ⟨_, -, e⟩ := except_bind e
  obtain ⟨_, -, e⟩ := except_bind e
  obtain ⟨_, -, e⟩ := except_bind e
  simp [pure, Except.pure] at e
  obtain ⟨-, -, rfl⟩ := e
  refine Keeps.foldl (fun _ _ h => keeps_armMap _ _ h) (Keeps.foldl (fun _ _ h => keeps_installGkm _ _ h) (Keeps.foldl (fun _ _ h => keeps_installXing _ _ h) h1))

theorem keeps_loadObjects_eq {a : Block} {b : Block} {w : ℕ} {k : Container} {t : Tide} {v} {c : Block}
    (e : loadObjects w k t b = .ok (v, c)) (h : Keeps a b) : Keeps a c := by
  simp only [loadObjects] at e
  obtain ⟨_, -, e⟩ := except_bind e
  obtain ⟨_, -, e⟩ := except_bind e
  obtain ⟨_, -, e⟩ := except_bind e
  obtain ⟨⟨_, b1⟩, e1, e⟩ := except_bind e
  have h1 := keeps_createHandles_eq (orElse_ok e1) h
  simp [pure, Except.pure] at e
  obtain ⟨-, rfl⟩ := e
  exact Keeps.foldl (fun _ _ h => keeps_installCtx _ _ h) h1

theorem keeps_loadRest_eq {a : Block} {b : Block} {w : ℕ} {k : Container} {t : Tide} {v} {c : Block}
    (e : loadRest w k t b = .ok (v, c)) (h : Keeps a b) : Keeps a c := by
  simp only [loadRest] at e
  obtain ⟨_, -, e⟩ := except_bind e
  obtain ⟨_, -, e⟩ := except_bind e
  obtain ⟨_, -, e⟩ := except_bind e
  have h1 := fun t l => Keeps.foldl (a := a) (f := fun b x => installBar w t b x) (l := l) (fun _ _ h => keeps_installBar _ _ _ h) h
  split at e
  · obtain ⟨_, -, e⟩ := except_bind e
    obtain ⟨_, -, e⟩ := except_bind e
    split at e
    · obtain ⟨_, -, e⟩ := except_bind e
      simp [pure, Except.pure] at e
      obtain ⟨-, rfl⟩ := e
      exact keeps_installProgram _ _ _ (h1 _ _)
    · simp [pure, Except.pure] at e
      obtain ⟨-, rfl⟩ := e
      exact h1 _ _
  · obtain ⟨_, -, e⟩ := except_bind e
    obtain ⟨_, -, e⟩ := except_bind e
    split at e
    · obtain ⟨_, -, e⟩ := except_bind e
      simp [pure, Except.pure] at e
      obtain ⟨-, rfl⟩ := e
      exact keeps_installProgram _ _ _ (h1 _ _)
    · simp [pure, Except.pure] at e
      obtain ⟨-, rfl⟩ := e
      exact h1 _ _

theorem keeps_loadTable_eq {a : Block} {b : Block} {w : ℕ} {bs : Bytes} {c : Block} (e : loadTable w bs b = .ok c)
    (h : Keeps a b) : Keeps a c := by
  simp only [loadTable] at e
  obtain ⟨⟨_, _, b1⟩, e1, e⟩ := except_bind e
  obtain ⟨⟨_, b2⟩, e2, e⟩ := except_bind e
  obtain ⟨⟨_, b3⟩, e3, e⟩ := except_bind e
  simp [pure, Except.pure] at e
  subst e
  exact keeps_modBerth _ _ (keeps_loadRest_eq e3 (keeps_loadObjects_eq e2 (keeps_loadFirst_eq e1 h)))

theorem keeps_nextSwitch {a : Block} {b : Block} (x1 : ℕ) (x2 : ℕ) (x3 : Bool)
    (h : Keeps a b) : Keeps a (nextSwitch x1 x2 x3 b) := by
  delta nextSwitch
  repeat' first
    | (with_reducible assumption)
    | (intro)
    | (with_reducible first
        | apply keeps_modBerth | apply keeps_setXkid | apply keeps_setXswitch | refine Keeps.foldl ?_ ?_ | refine Keeps.ite ?_ ?_)
    | (fail_if_no_progress (with_reducible refine Keeps.upd ?_))
    | (fail_if_no_progress (with_reducible refine Keeps.updHold ?_ rfl))
    | split
    | (dsimp only)

theorem keeps_nextSwitches {a : Block} {b : Block} (x1 : ℕ) (x2 : Bool)
    (h : Keeps a b) : Keeps a (nextSwitches x1 x2 b) := by
  delta nextSwitches
  repeat' first
    | (with_reducible assumption)
    | (intro)
    | (with_reducible first
        | apply keeps_nextSwitch | refine Keeps.foldl ?_ ?_ | refine Keeps.ite ?_ ?_)
    | (fail_if_no_progress (with_reducible refine Keeps.upd ?_))
    | (fail_if_no_progress (with_reducible refine Keeps.updHold ?_ rfl))
    | split
    | (dsimp only)

theorem keeps_rekeyAction {a : Block} {b : Block} (x1 : ℕ) (x2 : Tide) (x4 : Rekey)
    (h : Keeps a b) : Keeps a (rekeyAction x1 x2 b x4) := by
  delta rekeyAction
  repeat' first
    | (with_reducible assumption)
    | (intro)
    | (with_reducible first
        | apply keeps_modRgn | apply keeps_setReg | apply keeps_startRoll | refine Keeps.foldl ?_ ?_ | refine Keeps.ite ?_ ?_)
    | (fail_if_no_progress (with_reducible refine Keeps.upd ?_))
    | (fail_if_no_progress (with_reducible refine Keeps.updHold ?_ rfl))
    | split
    | (dsimp only)

theorem keeps_rekeyDue {a : Block} {b : Block} (x1 : ℕ)
    (h : Keeps a b) : Keeps a (rekeyDue x1 b) := by
  delta rekeyDue
  repeat' first
    | (with_reducible assumption)
    | (intro)
    | (with_reducible first
        | apply keeps_modBerth | apply keeps_rekeyAction | refine Keeps.foldl ?_ ?_ | refine Keeps.ite ?_ ?_)
    | (fail_if_no_progress (with_reducible refine Keeps.upd ?_))
    | (fail_if_no_progress (with_reducible refine Keeps.updHold ?_ rfl))
    | split
    | (dsimp only)

theorem keeps_firmwareSlot {a : Block} {b : Block} (x1 : ℕ) (x2 : Bool)
    (h : Keeps a b) : Keeps a (firmwareSlot x1 x2 b) := by
  delta firmwareSlot
  repeat' first
    | (with_reducible assumption)
    | (intro)
    | (with_reducible first
        | apply keeps_nextSwitches | apply keeps_rekeyDue | refine Keeps.foldl ?_ ?_ | refine Keeps.ite ?_ ?_)
    | (fail_if_no_progress (with_reducible refine Keeps.upd ?_))
    | (fail_if_no_progress (with_reducible refine Keeps.updHold ?_ rfl))
    | split
    | (dsimp only)

theorem keeps_slotActions {a : Block} {b : Block} (x1 : ℕ) (x2 : ℕ)
    (h : Keeps a b) : Keeps a (slotActions x1 x2 b) := by
  delta slotActions
  repeat' first
    | (with_reducible assumption)
    | (intro)
    | (with_reducible first
        | apply keeps_firmwareSlot | apply keeps_slotKeys | refine Keeps.foldl ?_ ?_ | refine Keeps.ite ?_ ?_)
    | (fail_if_no_progress (with_reducible refine Keeps.upd ?_))
    | (fail_if_no_progress (with_reducible refine Keeps.updHold ?_ rfl))
    | split
    | (dsimp only)

theorem keeps_tideSlot {a : Block} {b : Block} (x1 : ℕ)
    (h : Keeps a b) : Keeps a (tideSlot x1 b) := by
  delta tideSlot
  repeat' first
    | (with_reducible assumption)
    | (intro)
    | (with_reducible first
        | apply keeps_modBerth | apply keeps_slotActions | refine Keeps.foldl ?_ ?_ | refine Keeps.ite ?_ ?_)
    | (fail_if_no_progress (with_reducible refine Keeps.upd ?_))
    | (fail_if_no_progress (with_reducible refine Keeps.updHold ?_ rfl))
    | split
    | (dsimp only)

theorem keeps_enterConfid {a : Block} {b : Block} (x1 : ℕ)
    (h : Keeps a b) : Keeps a (enterConfid x1 b) := by
  delta enterConfid
  repeat' first
    | (with_reducible assumption)
    | (intro)
    | (with_reducible first
        | apply keeps_modBerth | apply keeps_setReg | refine Keeps.foldl ?_ ?_ | refine Keeps.ite ?_ ?_)
    | (fail_if_no_progress (with_reducible refine Keeps.upd ?_))
    | (fail_if_no_progress (with_reducible refine Keeps.updHold ?_ rfl))
    | split
    | (dsimp only)

theorem keeps_enterLoaded {a : Block} {b : Block} (x1 : ℕ) (x2 : Bytes)
    (h : Keeps a b) : Keeps a (enterLoaded x1 x2 b) := by
  delta enterLoaded
  repeat' first
    | (with_reducible assumption)
    | (intro)
    | (with_reducible first
        | apply keeps_bindLowest | apply keeps_enterConfid | apply keeps_later | apply keeps_modBerth | apply keeps_setBerthState
        | apply keeps_setReg | apply keeps_slotActions | refine Keeps.foldl ?_ ?_ | refine Keeps.ite ?_ ?_)
    | (fail_if_no_progress (with_reducible refine Keeps.upd ?_))
    | (fail_if_no_progress (with_reducible refine Keeps.updHold ?_ rfl))
    | split
    | (dsimp only)

/-! ### Berths -/

theorem keeps_modSched {a : Block} {b : Block} (x1 : Sched → Sched)
    (h : Keeps a b) : Keeps a (modSched x1 b) := by
  delta modSched
  repeat' first
    | (with_reducible assumption)
    | (intro)
    | (with_reducible first
        | refine Keeps.foldl ?_ ?_ | refine Keeps.ite ?_ ?_)
    | (fail_if_no_progress (with_reducible refine Keeps.upd ?_))
    | (fail_if_no_progress (with_reducible refine Keeps.updHold ?_ rfl))
    | split
    | (dsimp only)

theorem keeps_schedEnd {a : Block} {b : Block} (x1 : Byte)
    (h : Keeps a b) : Keeps a (schedEnd x1 b) := by
  delta schedEnd
  repeat' first
    | (with_reducible assumption)
    | (intro)
    | (with_reducible first
        | apply keeps_modSched | apply keeps_raise | refine Keeps.foldl ?_ ?_ | refine Keeps.ite ?_ ?_)
    | (fail_if_no_progress (with_reducible refine Keeps.upd ?_))
    | (fail_if_no_progress (with_reducible refine Keeps.updHold ?_ rfl))
    | split
    | (dsimp only)

theorem keeps_claimCtxs {a : Block} {b : Block} (x1 : ℕ) (x2 : Shares)
    (h : Keeps a b) : Keeps a (claimCtxs x1 x2 b) := by
  delta claimCtxs
  repeat' first
    | (with_reducible assumption)
    | (intro)
    | (with_reducible first
        | refine Keeps.foldl ?_ ?_ | refine Keeps.ite ?_ ?_)
    | (fail_if_no_progress (with_reducible refine Keeps.upd ?_))
    | (fail_if_no_progress (with_reducible refine Keeps.updHold ?_ rfl))
    | split
    | (dsimp only)

theorem keeps_setShares {a : Block} {b : Block} (x1 : ℕ) (x2 : Shares)
    (h : Keeps a b) : Keeps a (setShares x1 x2 b) := by
  delta setShares
  repeat' first
    | (with_reducible assumption)
    | (intro)
    | (with_reducible first
        | apply keeps_claimCtxs | apply keeps_modBerth | refine Keeps.foldl ?_ ?_ | refine Keeps.ite ?_ ?_)
    | (fail_if_no_progress (with_reducible refine Keeps.upd ?_))
    | (fail_if_no_progress (with_reducible refine Keeps.updHold ?_ rfl))
    | split
    | (dsimp only)

theorem keeps_createCmd {a : Block} {b : Block} (x1 : ℕ)
    (h : Keeps a b) : Keeps a (createCmd x1 b) := by
  delta createCmd
  repeat' first
    | (with_reducible assumption)
    | (intro)
    | (with_reducible first
        | apply keeps_berthLifecycle | apply keeps_modBerth | apply keeps_schedEnd | apply keeps_seedBerth | apply keeps_setBerthState
        | apply keeps_setShares | refine Keeps.foldl ?_ ?_ | refine Keeps.ite ?_ ?_)
    | (fail_if_no_progress (with_reducible refine Keeps.upd ?_))
    | (fail_if_no_progress (with_reducible refine Keeps.updHold ?_ rfl))
    | split
    | (dsimp only)

theorem keeps_mixKeyLoaded {a : Block} {b : Block} (x1 : ℕ)
    (h : Keeps a b) : Keeps a (mixKeyLoaded x1 b) := by
  delta mixKeyLoaded
  repeat' first
    | (with_reducible assumption)
    | (intro)
    | (with_reducible first
        | apply keeps_mixLoaded | apply keeps_schedEnd | refine keeps_mixLoaded_eq (by with_reducible assumption) ?_
        | refine Keeps.foldl ?_ ?_ | refine Keeps.ite ?_ ?_)
    | (fail_if_no_progress (with_reducible refine Keeps.upd ?_))
    | (fail_if_no_progress (with_reducible refine Keeps.updHold ?_ rfl))
    | split
    | (dsimp only)

theorem keeps_setLoadRes {a : Block} {b : Block} (x1 : ℕ) (x2 : Byte) (x3 : ℕ)
    (h : Keeps a b) : Keeps a (setLoadRes x1 x2 x3 b) := by
  delta setLoadRes
  repeat' first
    | (with_reducible assumption)
    | (intro)
    | (with_reducible first
        | apply keeps_modBerth | refine Keeps.foldl ?_ ?_ | refine Keeps.ite ?_ ?_)
    | (fail_if_no_progress (with_reducible refine Keeps.upd ?_))
    | (fail_if_no_progress (with_reducible refine Keeps.updHold ?_ rfl))
    | split
    | (dsimp only)

theorem keeps_loadEnds {a : Block} {b : Block} (x1 : ℕ) (x2 : Byte) (x3 : ℕ)
    (h : Keeps a b) : Keeps a (loadEnds x1 x2 x3 b) := by
  delta loadEnds
  repeat' first
    | (with_reducible assumption)
    | (intro)
    | (with_reducible first
        | apply keeps_schedEnd | apply keeps_setLoadRes | refine Keeps.foldl ?_ ?_ | refine Keeps.ite ?_ ?_)
    | (fail_if_no_progress (with_reducible refine Keeps.upd ?_))
    | (fail_if_no_progress (with_reducible refine Keeps.updHold ?_ rfl))
    | split
    | (dsimp only)

theorem keeps_loadCmd {a : Block} {b : Block} (x1 : ℕ)
    (h : Keeps a b) : Keeps a (loadCmd x1 b) := by
  delta loadCmd
  repeat' first
    | (with_reducible assumption)
    | (intro)
    | (with_reducible first
        | apply keeps_berthLifecycle | apply keeps_emit | apply keeps_loadEnds | apply keeps_modSched | apply keeps_schedEnd
        | refine Keeps.foldl ?_ ?_ | refine Keeps.ite ?_ ?_)
    | (fail_if_no_progress (with_reducible refine Keeps.upd ?_))
    | (fail_if_no_progress (with_reducible refine Keeps.updHold ?_ rfl))
    | split
    | (dsimp only)

theorem keeps_loadComplete {a : Block} {b : Block} (x1 : BitVec 12) (x2 : Bytes) (x3 : Bool)
    (h : Keeps a b) : Keeps a (loadComplete x1 x2 x3 b) := by
  delta loadComplete
  repeat' first
    | (with_reducible assumption)
    | (intro)
    | (with_reducible first
        | apply keeps_eccEvent | apply keeps_enterLoaded | apply keeps_loadEnds | apply keeps_schedEnd | apply keeps_staleHif
        | refine keeps_loadTable_eq (by with_reducible assumption) ?_ | refine Keeps.foldl ?_ ?_ | refine Keeps.ite ?_ ?_)
    | (fail_if_no_progress (with_reducible refine Keeps.upd ?_))
    | (fail_if_no_progress (with_reducible refine Keeps.updHold ?_ rfl))
    | split
    | (dsimp only)

theorem keeps_shrinkSlots {a : Block} {b : Block} (x1 : ℕ) (x2 : ℕ)
    (h : Keeps a b) : Keeps a (shrinkSlots x1 x2 b) := by
  induction x2 generalizing b with
  | zero => rw [shrinkSlots]; with_reducible assumption
  | succ n ih =>
    first | rw [shrinkSlots] | (rw [shrinkSlots.eq_def]; dsimp -zeta only)
    repeat' first
      | (with_reducible assumption)
      | (with_reducible apply ih)
      | (intro)
      | (with_reducible first
          | apply keeps_swapOut | refine Keeps.foldl ?_ ?_ | refine Keeps.ite ?_ ?_)
      | (fail_if_no_progress (with_reducible refine Keeps.upd ?_))
      | (fail_if_no_progress (with_reducible refine Keeps.updHold ?_ rfl))
      | split
      | (dsimp only)

theorem keeps_resizeStep {a : Block} {b : Block}
    (h : Keeps a b) : Keeps a (resizeStep b) := by
  delta resizeStep
  repeat' first
    | (with_reducible assumption)
    | (intro)
    | (with_reducible first
        | apply keeps_schedEnd | apply keeps_shrinkSlots | refine Keeps.foldl ?_ ?_ | refine Keeps.ite ?_ ?_)
    | (fail_if_no_progress (with_reducible refine Keeps.upd ?_))
    | (fail_if_no_progress (with_reducible refine Keeps.updHold ?_ rfl))
    | split
    | (dsimp only)

theorem keeps_enterCtxs {a : Block} {b : Block} (x1 : ℕ)
    (h : Keeps a b) : Keeps a (enterCtxs x1 b) := by
  delta enterCtxs
  repeat' first
    | (with_reducible assumption)
    | (intro)
    | (with_reducible first
        | apply keeps_installCtx | refine Keeps.foldl ?_ ?_ | refine Keeps.ite ?_ ?_)
    | (fail_if_no_progress (with_reducible refine Keeps.upd ?_))
    | (fail_if_no_progress (with_reducible refine Keeps.updHold ?_ rfl))
    | split
    | (dsimp only)

theorem keeps_resizeCmd {a : Block} {b : Block} (x1 : ℕ)
    (h : Keeps a b) : Keeps a (resizeCmd x1 b) := by
  delta resizeCmd
  repeat' first
    | (with_reducible assumption)
    | (intro)
    | (with_reducible first
        | apply keeps_enterCtxs | apply keeps_later | apply keeps_resizeStep | apply keeps_schedEnd | apply keeps_setShares
        | refine Keeps.foldl ?_ ?_ | refine Keeps.ite ?_ ?_)
    | (fail_if_no_progress (with_reducible refine Keeps.upd ?_))
    | (fail_if_no_progress (with_reducible refine Keeps.updHold ?_ rfl))
    | split
    | (dsimp only)

theorem keeps_reschedule {a : Block} {b : Block} (x1 : ℕ)
    (h : Keeps a b) : Keeps a (reschedule x1 b) := by
  delta reschedule
  repeat' first
    | (with_reducible assumption)
    | (intro)
    | (with_reducible first
        | apply keeps_resizeStep | apply keeps_schedule | refine Keeps.foldl ?_ ?_ | refine Keeps.ite ?_ ?_)
    | (fail_if_no_progress (with_reducible refine Keeps.upd ?_))
    | (fail_if_no_progress (with_reducible refine Keeps.updHold ?_ rfl))
    | split
    | (dsimp only)

theorem keeps_enterSealing {a : Block} {b : Block} (x1 : ℕ) (x2 : Bool)
    (h : Keeps a b) : Keeps a (enterSealing x1 x2 b) := by
  delta enterSealing
  repeat' first
    | (with_reducible assumption)
    | (intro)
    | (with_reducible first
        | apply keeps_later | apply keeps_modBerth | apply keeps_progSealing | apply keeps_record | apply keeps_sessLeaves
        | apply keeps_setBerthState | apply keeps_stopUnstarted | apply keeps_tdiFault | refine Keeps.foldl ?_ ?_ | refine Keeps.ite ?_ ?_)
    | (fail_if_no_progress (with_reducible refine Keeps.upd ?_))
    | (fail_if_no_progress (with_reducible refine Keeps.updHold ?_ rfl))
    | split
    | (dsimp only)

theorem keeps_sealExpiry {a : Block} {b : Block} (x1 : ℕ)
    (h : Keeps a b) : Keeps a (sealExpiry x1 b) := by
  delta sealExpiry
  repeat' first
    | (with_reducible assumption)
    | (intro)
    | (with_reducible first
        | apply keeps_modBerth | refine Keeps.foldl ?_ ?_ | refine Keeps.ite ?_ ?_)
    | (fail_if_no_progress (with_reducible refine Keeps.upd ?_))
    | (fail_if_no_progress (with_reducible refine Keeps.updHold ?_ rfl))
    | split
    | (dsimp only)

theorem keeps_offerScrub {a : Block} {b : Block} (x1 : ℕ)
    (h : Keeps a b) : Keeps a (offerScrub x1 b) := by
  delta offerScrub
  repeat' first
    | (with_reducible assumption)
    | (intro)
    | (with_reducible first
        | apply keeps_modAtt | refine Keeps.foldl ?_ ?_ | refine Keeps.ite ?_ ?_)
    | (fail_if_no_progress (with_reducible refine Keeps.upd ?_))
    | (fail_if_no_progress (with_reducible refine Keeps.updHold ?_ rfl))
    | split
    | (dsimp only)

theorem keeps_offerScrubs {a : Block} {b : Block}
    (h : Keeps a b) : Keeps a (offerScrubs b) := by
  delta offerScrubs
  repeat' first
    | (with_reducible assumption)
    | (intro)
    | (with_reducible first
        | apply keeps_offerScrub | refine Keeps.foldl ?_ ?_ | refine Keeps.ite ?_ ?_)
    | (fail_if_no_progress (with_reducible refine Keeps.upd ?_))
    | (fail_if_no_progress (with_reducible refine Keeps.updHold ?_ rfl))
    | split
    | (dsimp only)

theorem keeps_scrubAckLevel {a : Block} {b : Block} (x1 : ℕ) (x2 : Bool)
    (h : Keeps a b) : Keeps a (scrubAckLevel x1 x2 b) := by
  delta scrubAckLevel
  repeat' first
    | (with_reducible assumption)
    | (intro)
    | (with_reducible first
        | apply keeps_modAtt | refine Keeps.foldl ?_ ?_ | refine Keeps.ite ?_ ?_)
    | (fail_if_no_progress (with_reducible refine Keeps.upd ?_))
    | (fail_if_no_progress (with_reducible refine Keeps.updHold ?_ rfl))
    | split
    | (dsimp only)

theorem keeps_scrubAck {a : Block} {b : Block} (x1 : ℕ) (x2 : Bool)
    (h : Keeps a b) : Keeps a (scrubAck x1 x2 b) := by
  delta scrubAck
  repeat' first
    | (with_reducible assumption)
    | (intro)
    | (with_reducible first
        | apply keeps_modAtt | apply keeps_modBerth | apply keeps_offerScrub | apply keeps_scrubAckLevel | refine Keeps.foldl ?_ ?_
        | refine Keeps.ite ?_ ?_)
    | (fail_if_no_progress (with_reducible refine Keeps.upd ?_))
    | (fail_if_no_progress (with_reducible refine Keeps.updHold ?_ rfl))
    | split
    | (dsimp only)

theorem keeps_enterScrubbing {a : Block} {b : Block} (x1 : ℕ)
    (h : Keeps a b) : Keeps a (enterScrubbing x1 b) := by
  delta enterScrubbing
  repeat' first
    | (with_reducible assumption)
    | (intro)
    | (with_reducible first
        | apply keeps_drainRgn | apply keeps_later | apply keeps_modBerth | apply keeps_modSched | apply keeps_offerScrubs
        | apply keeps_retireBerth | apply keeps_scrubBars | apply keeps_scrubXing | apply keeps_setBerthState | apply keeps_stageScrubbed
        | apply keeps_stopUnstarted | apply keeps_tdiFault | apply keeps_unbind | refine Keeps.foldl ?_ ?_ | refine Keeps.ite ?_ ?_)
    | (fail_if_no_progress (with_reducible refine Keeps.upd ?_))
    | (fail_if_no_progress (with_reducible refine Keeps.updHold ?_ rfl))
    | split
    | (dsimp only)

theorem keeps_clearInternal {a : Block} {b : Block} (x1 : ℕ)
    (h : Keeps a b) : Keeps a (clearInternal x1 b) := by
  delta clearInternal
  repeat' first
    | (with_reducible assumption)
    | (intro)
    | (with_reducible first
        | apply keeps_modBerth | apply keeps_scrubLnkc | apply keeps_scrubObjects | apply keeps_scrubSue | apply keeps_scrubWires
        | refine Keeps.foldl ?_ ?_ | refine Keeps.ite ?_ ?_)
    | (fail_if_no_progress (with_reducible refine Keeps.upd ?_))
    | (fail_if_no_progress (with_reducible refine Keeps.updHold ?_ rfl))
    | split
    | (dsimp only)

theorem keeps_clearTraces {a : Block} {b : Block} (x1 : ℕ)
    (h : Keeps a b) : Keeps a (clearTraces x1 b) := by
  delta clearTraces
  repeat' first
    | (with_reducible assumption)
    | (intro)
    | (with_reducible first
        | apply keeps_modCore | apply keeps_setReg | refine Keeps.foldl ?_ ?_ | refine Keeps.ite ?_ ?_)
    | (fail_if_no_progress (with_reducible refine Keeps.upd ?_))
    | (fail_if_no_progress (with_reducible refine Keeps.updHold ?_ rfl))
    | split
    | (dsimp only)

theorem keeps_startClears {a : Block} {b : Block} (x1 : ℕ)
    (h : Keeps a b) : Keeps a (startClears x1 b) := by
  delta startClears
  repeat' first
    | (with_reducible assumption)
    | (intro)
    | (with_reducible first
        | apply keeps_clearInternal | apply keeps_clearSrgns | apply keeps_clearTraces | apply keeps_clearWays | apply keeps_modBerth
        | apply keeps_modMems | apply keeps_queueScrub | apply keeps_scrubSess | refine Keeps.foldl ?_ ?_ | refine Keeps.ite ?_ ?_)
    | (fail_if_no_progress (with_reducible refine Keeps.upd ?_))
    | (fail_if_no_progress (with_reducible refine Keeps.updHold ?_ rfl))
    | split
    | (dsimp only)

theorem keeps_berthQuiesced {a : Block} {b : Block} (x1 : ℕ)
    (h : Keeps a b) : Keeps a (berthQuiesced x1 b) := by
  delta berthQuiesced
  repeat' first
    | (with_reducible assumption)
    | (intro)
    | (with_reducible first
        | apply keeps_startClears | refine Keeps.foldl ?_ ?_ | refine Keeps.ite ?_ ?_)
    | (fail_if_no_progress (with_reducible refine Keeps.upd ?_))
    | (fail_if_no_progress (with_reducible refine Keeps.updHold ?_ rfl))
    | split
    | (dsimp only)

theorem keeps_setFinished {a : Block} {b : Block} (x1 : List ℕ)
    (h : Keeps a b) : Keeps a (setFinished x1 b) := by
  delta setFinished
  repeat' first
    | (with_reducible assumption)
    | (intro)
    | (with_reducible first
        | apply keeps_bankSetDone | apply keeps_modBerth | refine keeps_bankSetDone_eq (by with_reducible assumption) ?_
        | refine Keeps.foldl ?_ ?_ | refine Keeps.ite ?_ ?_)
    | (fail_if_no_progress (with_reducible refine Keeps.upd ?_))
    | (fail_if_no_progress (with_reducible refine Keeps.updHold ?_ rfl))
    | split
    | (dsimp only)

theorem keeps_forgetTags {a : Block} {b : Block} (x1 : ℕ)
    (h : Keeps a b) : Keeps a (forgetTags x1 b) := by
  delta forgetTags
  repeat' first
    | (with_reducible assumption)
    | (intro)
    | (with_reducible first
        | apply keeps_modAtt | refine Keeps.foldl ?_ ?_ | refine Keeps.ite ?_ ?_)
    | (fail_if_no_progress (with_reducible refine Keeps.upd ?_))
    | (fail_if_no_progress (with_reducible refine Keeps.updHold ?_ rfl))
    | split
    | (dsimp only)

theorem keeps_scrubComplete {a : Block} {b : Block} (x1 : ℕ)
    (h : Keeps a b) : Keeps a (scrubComplete x1 b) := by
  delta scrubComplete
  repeat' first
    | (with_reducible assumption)
    | (intro)
    | (with_reducible first
        | apply keeps_forgetTags | apply keeps_freeRange | apply keeps_modBerth | apply keeps_modPage | apply keeps_setBerthState
        | refine Keeps.foldl ?_ ?_ | refine Keeps.ite ?_ ?_)
    | (fail_if_no_progress (with_reducible refine Keeps.upd ?_))
    | (fail_if_no_progress (with_reducible refine Keeps.updHold ?_ rfl))
    | split
    | (dsimp only)

theorem keeps_berthCheck {a : Block} {b : Block} (x1 : ℕ)
    (h : Keeps a b) : Keeps a (berthCheck x1 b) := by
  delta berthCheck
  repeat' first
    | (with_reducible assumption)
    | (intro)
    | (with_reducible first
        | apply keeps_enterSealing | apply keeps_later | apply keeps_progJoin | apply keeps_setBerthState | apply keeps_startProve
        | refine Keeps.foldl ?_ ?_ | refine Keeps.ite ?_ ?_)
    | (fail_if_no_progress (with_reducible refine Keeps.upd ?_))
    | (fail_if_no_progress (with_reducible refine Keeps.updHold ?_ rfl))
    | split
    | (dsimp only)

theorem keeps_berthReleased {a : Block} {b : Block} (x1 : ℕ)
    (h : Keeps a b) : Keeps a (berthReleased x1 b) := by
  delta berthReleased
  repeat' first
    | (with_reducible assumption)
    | (intro)
    | (with_reducible first
        | apply keeps_later | apply keeps_sessLeaves | apply keeps_setBerthState | refine Keeps.foldl ?_ ?_ | refine Keeps.ite ?_ ?_)
    | (fail_if_no_progress (with_reducible refine Keeps.upd ?_))
    | (fail_if_no_progress (with_reducible refine Keeps.updHold ?_ rfl))
    | split
    | (dsimp only)

theorem keeps_reclaimCmd {a : Block} {b : Block} (x1 : ℕ)
    (h : Keeps a b) : Keeps a (reclaimCmd x1 b) := by
  delta reclaimCmd
  repeat' first
    | (with_reducible assumption)
    | (intro)
    | (with_reducible first
        | apply keeps_berthLifecycle | apply keeps_enterScrubbing | apply keeps_enterSealing | apply keeps_schedEnd
        | refine Keeps.foldl ?_ ?_ | refine Keeps.ite ?_ ?_)
    | (fail_if_no_progress (with_reducible refine Keeps.upd ?_))
    | (fail_if_no_progress (with_reducible refine Keeps.updHold ?_ rfl))
    | split
    | (dsimp only)

theorem keeps_schedCmd {a : Block} {b : Block} (x1 : Master) (x2 : Word)
    (h : Keeps a b) : Keeps a (schedCmd x1 x2 b) := by
  delta schedCmd
  repeat' first
    | (with_reducible assumption)
    | (intro)
    | (with_reducible first
        | apply keeps_createCmd | apply keeps_loadCmd | apply keeps_modSched | apply keeps_reclaimCmd | apply keeps_recordErr
        | apply keeps_resizeCmd | apply keeps_schedEnd | refine Keeps.foldl ?_ ?_ | refine Keeps.ite ?_ ?_)
    | (fail_if_no_progress (with_reducible refine Keeps.upd ?_))
    | (fail_if_no_progress (with_reducible refine Keeps.updHold ?_ rfl))
    | split
    | (dsimp only)

theorem keeps_schedRow {a : Block} {b : Block} (x1 : ℕ) (x2 : Master) (x3 : ℕ)
    (h : Keeps a b) : Keeps a (schedRow x1 x2 x3 b) := by
  delta schedRow
  repeat' first
    | (with_reducible assumption)
    | (intro)
    | (with_reducible first
        | apply keeps_schedCmd | refine Keeps.foldl ?_ ?_ | refine Keeps.ite ?_ ?_)
    | (fail_if_no_progress (with_reducible refine Keeps.upd ?_))
    | (fail_if_no_progress (with_reducible refine Keeps.updHold ?_ rfl))
    | split
    | (dsimp only)

/-! ### LifeCycle -/

theorem keeps_deriveBranch {a : Block} {b : Block} (x1 : ℕ)
    (h : Keeps a b) : Keeps a (deriveBranch x1 b) := by
  delta deriveBranch
  repeat' first
    | (with_reducible assumption)
    | (intro)
    | (with_reducible first
        | apply keeps_makeLive | apply keeps_modKey | refine Keeps.foldl ?_ ?_ | refine Keeps.ite ?_ ?_)
    | (fail_if_no_progress (with_reducible refine Keeps.upd ?_))
    | (fail_if_no_progress (with_reducible refine Keeps.updHold ?_ rfl))
    | split
    | (dsimp only)

theorem keeps_startRead {a : Block} {b : Block}
    (h : Keeps a b) : Keeps a (startRead b) := by
  delta startRead
  repeat' first
    | (with_reducible assumption)
    | (intro)
    | (with_reducible first
        | apply keeps_deriveBranch | refine Keeps.foldl ?_ ?_ | refine Keeps.ite ?_ ?_)
    | (fail_if_no_progress (with_reducible refine Keeps.upd ?_))
    | (fail_if_no_progress (with_reducible refine Keeps.updHold ?_ rfl))
    | split
    | (dsimp only)

theorem keeps_otpStart {a : Block} {b : Block}
    (h : Keeps a b) : Keeps a (otpStart b).1 := by
  delta otpStart
  repeat' first
    | (with_reducible assumption)
    | (intro)
    | (with_reducible first
        | apply keeps_emit | refine Keeps.foldl ?_ ?_ | refine Keeps.ite ?_ ?_)
    | (fail_if_no_progress (with_reducible refine Keeps.upd ?_))
    | (fail_if_no_progress (with_reducible refine Keeps.updHold ?_ rfl))
    | split
    | (dsimp only)

theorem keeps_otpStart_eq {a : Block} {b : Block}  {v} {c : Block} (e : otpStart b = (c, v))
    (h : Keeps a b) : Keeps a c := by
  have := keeps_otpStart  h; rw [e] at this; exact this

theorem keeps_pushRun {a : Block} {b : Block} (x1 : OtpJob) (x2 : List (ℕ × BitVec 39))
    (h : Keeps a b) : Keeps a (pushRun x1 x2 b) := by
  delta pushRun
  repeat' first
    | (with_reducible assumption)
    | (intro)
    | (with_reducible first
        | refine Keeps.foldl ?_ ?_ | refine Keeps.ite ?_ ?_)
    | (fail_if_no_progress (with_reducible refine Keeps.upd ?_))
    | (fail_if_no_progress (with_reducible refine Keeps.updHold ?_ rfl))
    | split
    | (dsimp only)

theorem keeps_drawSecret {a : Block} {b : Block} (x1 : ℕ)
    (h : Keeps a b) : Keeps a (drawSecret x1 b).2 := by
  induction x1 generalizing b with
  | zero => rw [drawSecret]; with_reducible assumption
  | succ n ih =>
    first | rw [drawSecret] | (rw [drawSecret.eq_def]; dsimp -zeta only)
    repeat' first
      | (with_reducible assumption)
      | (with_reducible apply ih)
      | (intro)
      | (extract_lets +onlyGivenNames x; first
          | (refine Keeps.named (a := a) x ?_ ?_; (on_goal 1 => (revert x; show Keeps _ _)); (on_goal -1 => (intro hx; clear_value x)))
          | (refine Keeps.namedSnd (a := a) x ?_ ?_; (on_goal 1 => (revert x; show Keeps _ _)); (on_goal -1 => (intro hx; clear_value x)))
          | (refine Keeps.namedThird (a := a) x ?_ ?_; (on_goal 1 => (revert x; show Keeps _ _)); (on_goal -1 => (intro hx; clear_value x)))
          | (refine Keeps.namedFst (a := a) x ?_ ?_; (on_goal 1 => (revert x; show Keeps _ _)); (on_goal -1 => (intro hx; clear_value x)))
          | clear_value x)
      | (with_reducible first
          | apply keeps_draw | refine keeps_draw_eq (by with_reducible assumption) ?_ | refine Keeps.foldl ?_ ?_
          | refine Keeps.foldlSnd ?_ ?_ | refine Keeps.ite ?_ ?_)
      | (fail_if_no_progress (with_reducible refine Keeps.upd ?_))
      | (fail_if_no_progress (with_reducible refine Keeps.updHold ?_ rfl))
      | split
      | (dsimp only)

theorem keeps_drawSecret_eq {a : Block} {b : Block} {x1 : ℕ} {v} {c : Block} (e : drawSecret x1 b = (v, c))
    (h : Keeps a b) : Keeps a c := by
  have := keeps_drawSecret x1 h; rw [e] at this; exact this

theorem keeps_abandonMove {a : Block} {b : Block} (x1 : Byte)
    (h : Keeps a b) : Keeps a (abandonMove x1 b) := by
  delta abandonMove
  repeat' first
    | (with_reducible assumption)
    | (intro)
    | (with_reducible first
        | apply keeps_pushRun | apply keeps_raise | refine Keeps.foldl ?_ ?_ | refine Keeps.ite ?_ ?_)
    | (fail_if_no_progress (with_reducible refine Keeps.upd ?_))
    | (fail_if_no_progress (with_reducible refine Keeps.updHold ?_ rfl))
    | split
    | (dsimp only)

theorem keeps_stepFails {a : Block} {b : Block} (x1 : Byte)
    (h : Keeps a b) : Keeps a (stepFails x1 b) := by
  delta stepFails
  repeat' first
    | (with_reducible assumption)
    | (intro)
    | (with_reducible first
        | apply keeps_abandonMove | refine Keeps.foldl ?_ ?_ | refine Keeps.ite ?_ ?_)
    | (fail_if_no_progress (with_reducible refine Keeps.upd ?_))
    | (fail_if_no_progress (with_reducible refine Keeps.updHold ?_ rfl))
    | split
    | (dsimp only)

theorem keeps_stepRun {a : Block} {b : Block} (x1 : List (ℕ × BitVec 39))
    (h : Keeps a b) : Keeps a (stepRun x1 b) := by
  delta stepRun
  repeat' first
    | (with_reducible assumption)
    | (intro)
    | (with_reducible first
        | apply keeps_pushRun | apply keeps_stepFails | refine Keeps.foldl ?_ ?_ | refine Keeps.ite ?_ ?_)
    | (fail_if_no_progress (with_reducible refine Keeps.upd ?_))
    | (fail_if_no_progress (with_reducible refine Keeps.updHold ?_ rfl))
    | split
    | (dsimp only)

theorem keeps_writeSecret {a : Block} {b : Block} (x1 : Move)
    (h : Keeps a b) : Keeps a (writeSecret x1 b) := by
  delta writeSecret
  repeat' first
    | (with_reducible assumption)
    | (intro)
    | (with_reducible first
        | apply keeps_stepFails | apply keeps_stepRun | refine Keeps.foldl ?_ ?_ | refine Keeps.ite ?_ ?_)
    | (fail_if_no_progress (with_reducible refine Keeps.upd ?_))
    | (fail_if_no_progress (with_reducible refine Keeps.updHold ?_ rfl))
    | split
    | (dsimp only)

theorem keeps_startStep {a : Block} {b : Block}
    (h : Keeps a b) : Keeps a (startStep b) := by
  delta startStep
  repeat' first
    | (with_reducible assumption)
    | (intro)
    | (with_reducible first
        | apply keeps_drawSecret | apply keeps_pushRun | apply keeps_stepFails | apply keeps_stepRun | apply keeps_writeSecret
        | refine keeps_drawSecret_eq (by with_reducible assumption) ?_ | refine Keeps.foldl ?_ ?_ | refine Keeps.ite ?_ ?_)
    | (fail_if_no_progress (with_reducible refine Keeps.upd ?_))
    | (fail_if_no_progress (with_reducible refine Keeps.updHold ?_ rfl))
    | split
    | (dsimp only)

theorem keeps_lcsJobDone {a : Block} {b : Block} (x1 : OtpJob)
    (h : Keeps a b) : Keeps a (lcsJobDone x1 b) := by
  delta lcsJobDone
  repeat' first
    | (with_reducible assumption)
    | (intro)
    | (with_reducible first
        | apply keeps_pushRun | apply keeps_startStep | apply keeps_writeSecret | refine Keeps.foldl ?_ ?_ | refine Keeps.ite ?_ ?_)
    | (fail_if_no_progress (with_reducible refine Keeps.upd ?_))
    | (fail_if_no_progress (with_reducible refine Keeps.updHold ?_ rfl))
    | split
    | (dsimp only)

theorem keeps_otpAdvance {a : Block} {b : Block} (x1 : ℕ) (f2 : OtpJob → Block → Block)
    (hf2 : ∀ y0 b, Keeps a b → Keeps a (f2 y0 b)) (h : Keeps a b) : Keeps a (otpAdvance x1 f2 b) := by
  induction x1 generalizing b with
  | zero => rw [otpAdvance]; with_reducible assumption
  | succ n ih =>
    first | rw [otpAdvance] | (rw [otpAdvance.eq_def]; dsimp -zeta only)
    repeat' first
      | (with_reducible assumption)
      | (with_reducible apply ih)
      | (intro)
      | (with_reducible first
          | apply hf2 | apply keeps_lcsJobDone | apply keeps_otpStart | refine keeps_otpStart_eq (by with_reducible assumption) ?_
          | refine Keeps.foldl ?_ ?_ | refine Keeps.ite ?_ ?_)
      | (fail_if_no_progress (with_reducible refine Keeps.upd ?_))
      | (fail_if_no_progress (with_reducible refine Keeps.updHold ?_ rfl))
      | split
      | (dsimp only)

theorem keeps_otpDone {a : Block} {b : Block} (x1 : BitVec 39) (f2 : OtpJob → Block → Block)
    (hf2 : ∀ y0 b, Keeps a b → Keeps a (f2 y0 b)) (h : Keeps a b) : Keeps a (otpDone x1 f2 b) := by
  delta otpDone
  repeat' first
    | (with_reducible assumption)
    | (intro)
    | (with_reducible first
        | apply hf2 | apply keeps_abandonMove | refine Keeps.foldl ?_ ?_ | refine Keeps.ite ?_ ?_)
    | (fail_if_no_progress (with_reducible refine Keeps.upd ?_))
    | (fail_if_no_progress (with_reducible refine Keeps.updHold ?_ rfl))
    | (with_reducible refine Keeps.updOtp ?_)
    | split
    | (dsimp only)

theorem keeps_lcsRequest {a : Block} {b : Block} (x1 : Master) (x2 : Word)
    (h : Keeps a b) : Keeps a (lcsRequest x1 x2 b) := by
  delta lcsRequest
  repeat' first
    | (with_reducible assumption)
    | (intro)
    | (with_reducible first
        | apply keeps_pushRun | apply keeps_raise | refine Keeps.foldl ?_ ?_ | refine Keeps.ite ?_ ?_)
    | (fail_if_no_progress (with_reducible refine Keeps.upd ?_))
    | (fail_if_no_progress (with_reducible refine Keeps.updHold ?_ rfl))
    | split
    | (dsimp only)

theorem keeps_lcsNonce {a : Block} {b : Block}
    (h : Keeps a b) : Keeps a (lcsNonce b).2 := by
  delta lcsNonce
  repeat' first
    | (with_reducible assumption)
    | (intro)
    | (with_reducible first
        | apply keeps_draw | refine keeps_draw_eq (by with_reducible assumption) ?_ | refine Keeps.foldl ?_ ?_ | refine Keeps.ite ?_ ?_)
    | (fail_if_no_progress (with_reducible refine Keeps.upd ?_))
    | (fail_if_no_progress (with_reducible refine Keeps.updHold ?_ rfl))
    | split
    | (dsimp only)

theorem keeps_lcsNonce_eq {a : Block} {b : Block}  {v} {c : Block} (e : lcsNonce b = (v, c))
    (h : Keeps a b) : Keeps a c := by
  have := keeps_lcsNonce  h; rw [e] at this; exact this

theorem keeps_lcsData {a : Block} {b : Block} (x1 : ℕ) (x2 : Word)
    (h : Keeps a b) : Keeps a (lcsData x1 x2 b) := by
  delta lcsData
  repeat' first
    | (with_reducible assumption)
    | (intro)
    | (with_reducible first
        | apply keeps_recordErr | refine Keeps.foldl ?_ ?_ | refine Keeps.ite ?_ ?_)
    | (fail_if_no_progress (with_reducible refine Keeps.upd ?_))
    | (fail_if_no_progress (with_reducible refine Keeps.updHold ?_ rfl))
    | split
    | (dsimp only)

theorem keeps_lcsToken {a : Block} {b : Block} (x1 : ℕ) (x2 : Word)
    (h : Keeps a b) : Keeps a (lcsToken x1 x2 b) := by
  delta lcsToken
  repeat' first
    | (with_reducible assumption)
    | (intro)
    | (with_reducible first
        | refine Keeps.foldl ?_ ?_ | refine Keeps.ite ?_ ?_)
    | (fail_if_no_progress (with_reducible refine Keeps.upd ?_))
    | (fail_if_no_progress (with_reducible refine Keeps.updHold ?_ rfl))
    | split
    | (dsimp only)

theorem keeps_lcsClear {a : Block} {b : Block}
    (h : Keeps a b) : Keeps a (lcsClear b) := by
  delta lcsClear
  repeat' first
    | (with_reducible assumption)
    | (intro)
    | (extract_lets +onlyGivenNames x; first
        | (refine Keeps.named (a := a) x ?_ ?_; (on_goal 1 => (revert x; show Keeps _ _)); (on_goal -1 => (intro hx; clear_value x)))
        | (refine Keeps.namedSnd (a := a) x ?_ ?_; (on_goal 1 => (revert x; show Keeps _ _)); (on_goal -1 => (intro hx; clear_value x)))
        | (refine Keeps.namedThird (a := a) x ?_ ?_; (on_goal 1 => (revert x; show Keeps _ _)); (on_goal -1 => (intro hx; clear_value x)))
        | (refine Keeps.namedFst (a := a) x ?_ ?_; (on_goal 1 => (revert x; show Keeps _ _)); (on_goal -1 => (intro hx; clear_value x)))
        | clear_value x)
    | (with_reducible first
        | apply keeps_modCore | refine Keeps.foldl ?_ ?_ | refine Keeps.foldlSnd ?_ ?_ | refine Keeps.ite ?_ ?_)
    | (fail_if_no_progress (with_reducible refine Keeps.upd ?_))
    | (fail_if_no_progress (with_reducible refine Keeps.updHold ?_ rfl))
    | (fail_if_no_progress (with_reducible refine Keeps.updClear ?_ rfl))
    | split
    | (dsimp only)

theorem keeps_lcsClearDone {a : Block} {b : Block}
    (h : Keeps a b) : Keeps a (lcsClearDone b) := by
  delta lcsClearDone
  repeat' first
    | (with_reducible assumption)
    | (intro)
    | (with_reducible first
        | apply keeps_lcsClear | apply keeps_startStep | refine Keeps.foldl ?_ ?_ | refine Keeps.ite ?_ ?_)
    | (fail_if_no_progress (with_reducible refine Keeps.upd ?_))
    | (fail_if_no_progress (with_reducible refine Keeps.updHold ?_ rfl))
    | split
    | (dsimp only)

/-! ### Units -/

theorem keeps_setUnit {a : Block} {b : Block} (x1 : ℕ) (x2 : UnitState) (x3 : Byte)
    (h : Keeps a b) : Keeps a (setUnit x1 x2 x3 b) := by
  delta setUnit
  repeat' first
    | (with_reducible assumption)
    | (intro)
    | (with_reducible first
        | apply keeps_modPage | refine Keeps.foldl ?_ ?_ | refine Keeps.ite ?_ ?_)
    | (fail_if_no_progress (with_reducible refine Keeps.upd ?_))
    | (fail_if_no_progress (with_reducible refine Keeps.updHold ?_ rfl))
    | split
    | (dsimp only)

theorem keeps_dropSets {a : Block} {b : Block}
    (h : Keeps a b) : Keeps a (dropSets b) := by
  delta dropSets
  repeat' first
    | (with_reducible assumption)
    | (intro)
    | (with_reducible first
        | apply keeps_endRange | refine keeps_modHold (fun _ => rfl) ?_ | apply keeps_setBank | refine Keeps.foldl ?_ ?_
        | refine Keeps.ite ?_ ?_)
    | (fail_if_no_progress (with_reducible refine Keeps.upd ?_))
    | (fail_if_no_progress (with_reducible refine Keeps.updHold ?_ rfl))
    | split
    | (dsimp only)

theorem keeps_abandon {a : Block} {b : Block} (x1 : ℕ)
    (h : Keeps a b) : Keeps a (abandon x1 b) := by
  delta abandon
  repeat' first
    | (with_reducible assumption)
    | (intro)
    | (with_reducible first
        | apply keeps_dropSets | apply keeps_endLane | apply keeps_gseComplete | apply keeps_later | apply keeps_modGse
        | apply keeps_modMema | apply keeps_raise | apply keeps_modMems | apply keeps_portDown | apply keeps_stageIdle | refine Keeps.foldl ?_ ?_ | refine Keeps.ite ?_ ?_)
    | (fail_if_no_progress (with_reducible refine Keeps.upd ?_))
    | (fail_if_no_progress (with_reducible refine Keeps.updHold ?_ rfl))
    | split
    | (dsimp only)

theorem keeps_clearUnit {a : Block} {b : Block} (x1 : ℕ)
    (h : Keeps a b) : Keeps a (clearUnit x1 b) := by
  delta clearUnit
  repeat' first
    | (with_reducible assumption)
    | (intro)
    | (with_reducible first
        | apply keeps_gseComplete | apply keeps_modGse | apply keeps_modMema | apply keeps_modSync | refine Keeps.foldl ?_ ?_
        | refine Keeps.ite ?_ ?_)
    | (fail_if_no_progress (with_reducible refine Keeps.upd ?_))
    | (fail_if_no_progress (with_reducible refine Keeps.updHold ?_ rfl))
    | split
    | (dsimp only)

theorem keeps_shutdownGen {a : Block} {b : Block} (x1 : ℕ)
    (h : Keeps a b) : Keeps a (shutdownGen x1 b) := by
  delta shutdownGen
  repeat' first
    | (with_reducible assumption)
    | (intro)
    | (with_reducible first
        | apply keeps_modPage | apply keeps_modPort | refine Keeps.foldl ?_ ?_ | refine Keeps.ite ?_ ?_)
    | (fail_if_no_progress (with_reducible refine Keeps.upd ?_))
    | (fail_if_no_progress (with_reducible refine Keeps.updHold ?_ rfl))
    | split
    | (dsimp only)

theorem keeps_enableUnit {a : Block} {b : Block} (x1 : ℕ)
    (h : Keeps a b) : Keeps a (enableUnit x1 b) := by
  delta enableUnit
  repeat' first
    | (with_reducible assumption)
    | (intro)
    | (with_reducible first
        | apply keeps_modPage | apply keeps_portsTurn | apply keeps_setUnit | refine Keeps.foldl ?_ ?_ | refine Keeps.ite ?_ ?_)
    | (fail_if_no_progress (with_reducible refine Keeps.upd ?_))
    | (fail_if_no_progress (with_reducible refine Keeps.updHold ?_ rfl))
    | split
    | (dsimp only)

theorem keeps_drainUnit {a : Block} {b : Block} (x1 : ℕ)
    (h : Keeps a b) : Keeps a (drainUnit x1 b) := by
  delta drainUnit
  repeat' first
    | (with_reducible assumption)
    | (intro)
    | (with_reducible first
        | apply keeps_modLnd | apply keeps_modPage | apply keeps_setUnit | refine Keeps.foldl ?_ ?_ | refine Keeps.ite ?_ ?_)
    | (fail_if_no_progress (with_reducible refine Keeps.upd ?_))
    | (fail_if_no_progress (with_reducible refine Keeps.updHold ?_ rfl))
    | split
    | (dsimp only)

theorem keeps_squashUnit {a : Block} {b : Block} (x1 : ℕ)
    (h : Keeps a b) : Keeps a (squashUnit x1 b) := by
  delta squashUnit
  repeat' first
    | (with_reducible assumption)
    | (intro)
    | (with_reducible first
        | apply keeps_abandon | apply keeps_setUnit | refine Keeps.foldl ?_ ?_ | refine Keeps.ite ?_ ?_)
    | (fail_if_no_progress (with_reducible refine Keeps.upd ?_))
    | (fail_if_no_progress (with_reducible refine Keeps.updHold ?_ rfl))
    | split
    | (dsimp only)

theorem keeps_pageCtrlWrite {a : Block} {b : Block} (x1 : ℕ) (x2 : Word)
    (h : Keeps a b) : Keeps a (pageCtrlWrite x1 x2 b) := by
  delta pageCtrlWrite
  repeat' first
    | (with_reducible assumption)
    | (intro)
    | (with_reducible first
        | apply keeps_drainUnit | apply keeps_enableUnit | apply keeps_modPage | apply keeps_squashUnit | refine Keeps.foldl ?_ ?_
        | refine Keeps.ite ?_ ?_)
    | (fail_if_no_progress (with_reducible refine Keeps.upd ?_))
    | (fail_if_no_progress (with_reducible refine Keeps.updHold ?_ rfl))
    | split
    | (dsimp only)

theorem keeps_drainComplete {a : Block} {b : Block} (x1 : ℕ)
    (h : Keeps a b) : Keeps a (drainComplete x1 b) := by
  delta drainComplete
  repeat' first
    | (with_reducible assumption)
    | (intro)
    | (with_reducible first
        | apply keeps_landingDrained | apply keeps_modPage | refine Keeps.foldl ?_ ?_ | refine Keeps.ite ?_ ?_)
    | (fail_if_no_progress (with_reducible refine Keeps.upd ?_))
    | (fail_if_no_progress (with_reducible refine Keeps.updHold ?_ rfl))
    | split
    | (dsimp only)

theorem keeps_drainExpired {a : Block} {b : Block} (x1 : ℕ)
    (h : Keeps a b) : Keeps a (drainExpired x1 b) := by
  delta drainExpired
  repeat' first
    | (with_reducible assumption)
    | (intro)
    | (with_reducible first
        | apply keeps_squashUnit | refine Keeps.foldl ?_ ?_ | refine Keeps.ite ?_ ?_)
    | (fail_if_no_progress (with_reducible refine Keeps.upd ?_))
    | (fail_if_no_progress (with_reducible refine Keeps.updHold ?_ rfl))
    | split
    | (dsimp only)

theorem keeps_refuseWaiting {a : Block} {b : Block} (x1 : ℕ)
    (h : Keeps a b) : Keeps a (refuseWaiting x1 b) := by
  delta refuseWaiting
  repeat' first
    | (with_reducible assumption)
    | (intro)
    | (with_reducible first
        | apply keeps_later | apply keeps_modCtx | refine Keeps.foldl ?_ ?_ | refine Keeps.ite ?_ ?_)
    | (fail_if_no_progress (with_reducible refine Keeps.upd ?_))
    | (fail_if_no_progress (with_reducible refine Keeps.updHold ?_ rfl))
    | split
    | (dsimp only)

theorem keeps_scrubUnitDone {a : Block} {b : Block} (x1 : ℕ)
    (h : Keeps a b) : Keeps a (scrubUnitDone x1 b) := by
  delta scrubUnitDone
  repeat' first
    | (with_reducible assumption)
    | (intro)
    | (with_reducible first
        | apply keeps_clearUnit | apply keeps_modPage | apply keeps_portsTurn | apply keeps_refuseWaiting | apply keeps_setUnit | apply keeps_shutdownGen
        | refine Keeps.foldl ?_ ?_ | refine Keeps.ite ?_ ?_)
    | (fail_if_no_progress (with_reducible refine Keeps.upd ?_))
    | (fail_if_no_progress (with_reducible refine Keeps.updHold ?_ rfl))
    | split
    | (dsimp only)

/-! ### Recovery -/

theorem keeps_catchUp {a : Block} {b : Block}
    (h : Keeps a b) : Keeps a (catchUp b) := by
  delta catchUp
  repeat' first
    | (with_reducible assumption)
    | (intro)
    | (with_reducible first
        | apply keeps_firmwareSlot | refine Keeps.foldl ?_ ?_ | refine Keeps.ite ?_ ?_)
    | (fail_if_no_progress (with_reducible refine Keeps.upd ?_))
    | (fail_if_no_progress (with_reducible refine Keeps.updHold ?_ rfl))
    | split
    | (dsimp only)

theorem keeps_stopServing {a : Block} {b : Block} (x1 : ℕ)
    (h : Keeps a b) : Keeps a (stopServing x1 b) := by
  delta stopServing
  repeat' first
    | (with_reducible assumption)
    | (intro)
    | (with_reducible first
        | apply keeps_loadEnds | refine Keeps.foldl ?_ ?_ | refine Keeps.ite ?_ ?_)
    | (fail_if_no_progress (with_reducible refine Keeps.upd ?_))
    | (fail_if_no_progress (with_reducible refine Keeps.updHold ?_ rfl))
    | split
    | (dsimp only)

theorem keeps_coreFaults {a : Block} {b : Block} (x1 : ℕ) (x2 : ℕ) (x3 : Word) (x4 : Option ℕ)
    (h : Keeps a b) : Keeps a (coreFaults x1 x2 x3 x4 b) := by
  delta coreFaults
  repeat' first
    | (with_reducible assumption)
    | (intro)
    | (with_reducible first
        | apply keeps_catchUp | apply keeps_later | apply keeps_loseAll | apply keeps_modCore | apply keeps_raise | apply keeps_record
        | apply keeps_stopServing | refine Keeps.foldl ?_ ?_ | refine Keeps.ite ?_ ?_)
    | (fail_if_no_progress (with_reducible refine Keeps.upd ?_))
    | (fail_if_no_progress (with_reducible refine Keeps.updHold ?_ rfl))
    | split
    | (dsimp only)

theorem keeps_coreRestarted {a : Block} {b : Block} (x1 : ℕ) (x2 : Bool)
    (h : Keeps a b) : Keeps a (coreRestarted x1 x2 b) := by
  delta coreRestarted
  repeat' first
    | (with_reducible assumption)
    | (intro)
    | (with_reducible first
        | apply keeps_catchUp | apply keeps_modCore | apply keeps_raise | refine Keeps.foldl ?_ ?_ | refine Keeps.ite ?_ ?_)
    | (fail_if_no_progress (with_reducible refine Keeps.upd ?_))
    | (fail_if_no_progress (with_reducible refine Keeps.updHold ?_ rfl))
    | split
    | (dsimp only)

theorem keeps_kickCore {a : Block} {b : Block} (x1 : ℕ) (x2 : Word)
    (h : Keeps a b) : Keeps a (kickCore x1 x2 b) := by
  delta kickCore
  repeat' first
    | (with_reducible assumption)
    | (intro)
    | (with_reducible first
        | apply keeps_modCore | refine Keeps.foldl ?_ ?_ | refine Keeps.ite ?_ ?_)
    | (fail_if_no_progress (with_reducible refine Keeps.upd ?_))
    | (fail_if_no_progress (with_reducible refine Keeps.updHold ?_ rfl))
    | split
    | (dsimp only)

theorem keeps_hang {a : Block} {b : Block} (x1 : ℕ) (x2 : ℕ) (x3 : Rec)
    (h : Keeps a b) : Keeps a (hang x1 x2 x3 b) := by
  delta hang
  repeat' first
    | (with_reducible assumption)
    | (intro)
    | (with_reducible first
        | apply keeps_record | apply keeps_count | refine Keeps.foldl ?_ ?_ | refine Keeps.ite ?_ ?_)
    | (fail_if_no_progress (with_reducible refine Keeps.upd ?_))
    | (fail_if_no_progress (with_reducible refine Keeps.updHold ?_ rfl))
    | split
    | (dsimp only)

theorem keeps_watchPort {a : Block} {b : Block} (x1 : ℕ) (x2 : ℕ)
    (h : Keeps a b) : Keeps a (watchPort x1 x2 b) := by
  delta watchPort
  repeat' first
    | (with_reducible assumption)
    | (intro)
    | (with_reducible first
        | apply keeps_hang | apply keeps_portReset | apply keeps_portReturn | apply keeps_record | refine Keeps.foldl ?_ ?_
        | refine Keeps.ite ?_ ?_)
    | (fail_if_no_progress (with_reducible refine Keeps.upd ?_))
    | (fail_if_no_progress (with_reducible refine Keeps.updHold ?_ rfl))
    | split
    | (dsimp only)

theorem keeps_abandonOp {a : Block} {b : Block} (x1 : OpRef)
    (h : Keeps a b) : Keeps a (abandonOp x1 b) := by
  delta abandonOp
  repeat' first
    | (with_reducible assumption)
    | (intro)
    | (with_reducible first
        | apply keeps_faultCopy | apply keeps_later | refine Keeps.foldl ?_ ?_ | refine Keeps.ite ?_ ?_)
    | (fail_if_no_progress (with_reducible refine Keeps.upd ?_))
    | (fail_if_no_progress (with_reducible refine Keeps.updHold ?_ rfl))
    | split
    | (dsimp only)

theorem keeps_watchInternal {a : Block} {b : Block} (x1 : ℕ) (x2 : ℕ)
    (h : Keeps a b) : Keeps a (watchInternal x1 x2 b) := by
  delta watchInternal
  repeat' first
    | (with_reducible assumption)
    | (intro)
    | (with_reducible first
        | apply keeps_abandonOp | apply keeps_hang | apply keeps_modMems | apply keeps_pumpWrites | refine Keeps.foldl ?_ ?_
        | refine Keeps.ite ?_ ?_)
    | (fail_if_no_progress (with_reducible refine Keeps.upd ?_))
    | (fail_if_no_progress (with_reducible refine Keeps.updHold ?_ rfl))
    | split
    | (dsimp only)

theorem keeps_watchLoad {a : Block} {b : Block}
    (h : Keeps a b) : Keeps a (watchLoad b) := by
  delta watchLoad
  repeat' first
    | (with_reducible assumption)
    | (intro)
    | (with_reducible first
        | apply keeps_hang | apply keeps_loadEnds | refine Keeps.foldl ?_ ?_ | refine Keeps.ite ?_ ?_)
    | (fail_if_no_progress (with_reducible refine Keeps.upd ?_))
    | (fail_if_no_progress (with_reducible refine Keeps.updHold ?_ rfl))
    | split
    | (dsimp only)

theorem keeps_windowFails {a : Block} {b : Block} (x1 : ℕ)
    (h : Keeps a b) : Keeps a (windowFails x1 b) := by
  delta windowFails
  repeat' first
    | (with_reducible assumption)
    | (intro)
    | (with_reducible first
        | apply keeps_gseFail | apply keeps_recDone | refine Keeps.foldl ?_ ?_ | refine Keeps.ite ?_ ?_)
    | (fail_if_no_progress (with_reducible refine Keeps.upd ?_))
    | (fail_if_no_progress (with_reducible refine Keeps.updHold ?_ rfl))
    | split
    | (dsimp only)

theorem keeps_watchSector {a : Block} {b : Block} (x1 : ℕ)
    (h : Keeps a b) : Keeps a (watchSector x1 b) := by
  delta watchSector
  repeat' first
    | (with_reducible assumption)
    | (intro)
    | (with_reducible first
        | apply keeps_hang | apply keeps_windowFails | refine Keeps.foldl ?_ ?_ | refine Keeps.ite ?_ ?_)
    | (fail_if_no_progress (with_reducible refine Keeps.upd ?_))
    | (fail_if_no_progress (with_reducible refine Keeps.updHold ?_ rfl))
    | split
    | (dsimp only)

theorem keeps_watchScan {a : Block} {b : Block} (x1 : ℕ)
    (h : Keeps a b) : Keeps a (watchScan x1 b) := by
  delta watchScan
  repeat' first
    | (with_reducible assumption)
    | (intro)
    | (with_reducible first
        | apply keeps_hang | refine Keeps.foldl ?_ ?_ | refine Keeps.ite ?_ ?_)
    | (fail_if_no_progress (with_reducible refine Keeps.upd ?_))
    | (fail_if_no_progress (with_reducible refine Keeps.updHold ?_ rfl))
    | split
    | (dsimp only)

theorem keeps_watchAttach {a : Block} {b : Block} (x1 : ℕ)
    (h : Keeps a b) : Keeps a (watchAttach x1 b) := by
  delta watchAttach
  repeat' first
    | (with_reducible assumption)
    | (intro)
    | (with_reducible first
        | apply keeps_hang | apply keeps_resetAttach | refine Keeps.foldl ?_ ?_ | refine Keeps.ite ?_ ?_)
    | (fail_if_no_progress (with_reducible refine Keeps.upd ?_))
    | (fail_if_no_progress (with_reducible refine Keeps.updHold ?_ rfl))
    | split
    | (dsimp only)

theorem keeps_watchHold {a : Block} {b : Block} (x1 : ℕ)
    (h : Keeps a b) : Keeps a (watchHold x1 b) := by
  delta watchHold
  repeat' first
    | (with_reducible assumption)
    | (intro)
    | (with_reducible first
        | apply keeps_hang | apply keeps_later | refine keeps_modHold (fun _ => rfl) ?_ | apply keeps_poisonLine
        | refine Keeps.foldl ?_ ?_ | refine Keeps.ite ?_ ?_)
    | (fail_if_no_progress (with_reducible refine Keeps.upd ?_))
    | (fail_if_no_progress (with_reducible refine Keeps.updHold ?_ rfl))
    | split
    | (dsimp only)

theorem keeps_watchXingDue {a : Block} {b : Block} (x1 : ℕ) (x2 : ℕ)
    (h : Keeps a b) : Keeps a (watchXingDue x1 x2 b) := by
  delta watchXingDue
  repeat' first
    | (with_reducible assumption)
    | (intro)
    | (with_reducible first
        | apply keeps_failXing | apply keeps_hang | refine Keeps.foldl ?_ ?_ | refine Keeps.ite ?_ ?_)
    | (fail_if_no_progress (with_reducible refine Keeps.upd ?_))
    | (fail_if_no_progress (with_reducible refine Keeps.updHold ?_ rfl))
    | split
    | (dsimp only)

theorem keeps_watchBarrier {a : Block} {b : Block} (x1 : ℕ)
    (h : Keeps a b) : Keeps a (watchBarrier x1 b) := by
  delta watchBarrier
  repeat' first
    | (with_reducible assumption)
    | (intro)
    | (with_reducible first
        | apply keeps_failBar | apply keeps_hang | refine Keeps.foldl ?_ ?_ | refine Keeps.ite ?_ ?_)
    | (fail_if_no_progress (with_reducible refine Keeps.upd ?_))
    | (fail_if_no_progress (with_reducible refine Keeps.updHold ?_ rfl))
    | split
    | (dsimp only)

theorem keeps_abandonBerth {a : Block} {b : Block} (x1 : ℕ)
    (h : Keeps a b) : Keeps a (abandonBerth x1 b) := by
  delta abandonBerth
  repeat' first
    | (with_reducible assumption)
    | (intro)
    | (with_reducible first
        | apply keeps_dropSession | apply keeps_modAtt | apply keeps_modKey | apply keeps_modMema | apply keeps_modMems
        | apply keeps_modRgn | refine Keeps.foldl ?_ ?_ | refine Keeps.ite ?_ ?_)
    | (fail_if_no_progress (with_reducible refine Keeps.upd ?_))
    | (fail_if_no_progress (with_reducible refine Keeps.updHold ?_ rfl))
    | split
    | (dsimp only)

theorem keeps_watchQuiesce {a : Block} {b : Block} (x1 : ℕ)
    (h : Keeps a b) : Keeps a (watchQuiesce x1 b) := by
  delta watchQuiesce
  repeat' first
    | (with_reducible assumption)
    | (intro)
    | (with_reducible first
        | apply keeps_abandonBerth | apply keeps_hang | apply keeps_startClears | refine Keeps.foldl ?_ ?_ | refine Keeps.ite ?_ ?_)
    | (fail_if_no_progress (with_reducible refine Keeps.upd ?_))
    | (fail_if_no_progress (with_reducible refine Keeps.updHold ?_ rfl))
    | split
    | (dsimp only)

theorem keeps_noticeAnyway {a : Block} {b : Block}
    (h : Keeps a b) : Keeps a (noticeAnyway b) := by
  delta noticeAnyway
  repeat' first
    | (with_reducible assumption)
    | (intro)
    | (with_reducible first
        | refine Keeps.foldl ?_ ?_ | refine Keeps.ite ?_ ?_)
    | (fail_if_no_progress (with_reducible refine Keeps.upd ?_))
    | (fail_if_no_progress (with_reducible refine Keeps.updHold ?_ rfl))
    | split
    | (dsimp only)

theorem keeps_watchCeScrub {a : Block} {b : Block} (x1 : ℕ)
    (h : Keeps a b) : Keeps a (watchCeScrub x1 b) := by
  delta watchCeScrub
  repeat' first
    | (with_reducible assumption)
    | (intro)
    | (with_reducible first
        | apply keeps_hang | apply keeps_modBerth | apply keeps_noticeAnyway | refine Keeps.foldl ?_ ?_ | refine Keeps.ite ?_ ?_)
    | (fail_if_no_progress (with_reducible refine Keeps.upd ?_))
    | (fail_if_no_progress (with_reducible refine Keeps.updHold ?_ rfl))
    | split
    | (dsimp only)

theorem keeps_watchDrain {a : Block} {b : Block} (x1 : ℕ)
    (h : Keeps a b) : Keeps a (watchDrain x1 b) := by
  delta watchDrain
  repeat' first
    | (with_reducible assumption)
    | (intro)
    | (with_reducible first
        | apply keeps_drainExpired | apply keeps_hang | refine Keeps.foldl ?_ ?_ | refine Keeps.ite ?_ ?_)
    | (fail_if_no_progress (with_reducible refine Keeps.upd ?_))
    | (fail_if_no_progress (with_reducible refine Keeps.updHold ?_ rfl))
    | split
    | (dsimp only)

theorem keeps_watchCore {a : Block} {b : Block} (x1 : ℕ) (x2 : Word)
    (h : Keeps a b) : Keeps a (watchCore x1 x2 b) := by
  delta watchCore
  repeat' first
    | (with_reducible assumption)
    | (intro)
    | (with_reducible first
        | apply keeps_coreFaults | apply keeps_hang | refine Keeps.foldl ?_ ?_ | refine Keeps.ite ?_ ?_)
    | (fail_if_no_progress (with_reducible refine Keeps.upd ?_))
    | (fail_if_no_progress (with_reducible refine Keeps.updHold ?_ rfl))
    | split
    | (dsimp only)

theorem keeps_onWatch {a : Block} {b : Block} (x1 : ℕ) (f2 : Block → Block)
    (hf2 : ∀ b, Keeps a b → Keeps a (f2 b)) (h : Keeps a b) : Keeps a (onWatch x1 f2 b) := by
  delta onWatch
  repeat' first
    | (with_reducible assumption)
    | (intro)
    | (with_reducible first
        | apply hf2 | refine Keeps.foldl ?_ ?_ | refine Keeps.ite ?_ ?_)
    | (fail_if_no_progress (with_reducible refine Keeps.upd ?_))
    | (fail_if_no_progress (with_reducible refine Keeps.updHold ?_ rfl))
    | split
    | (dsimp only)

theorem keeps_recPop {a : Block} {b : Block} (x1 : Master)
    (h : Keeps a b) : Keeps a (recPop x1 b).2 := by
  delta recPop
  repeat' first
    | (with_reducible assumption)
    | (intro)
    | (with_reducible first
        | apply keeps_setLatch | refine Keeps.foldl ?_ ?_ | refine Keeps.ite ?_ ?_)
    | (fail_if_no_progress (with_reducible refine Keeps.upd ?_))
    | (fail_if_no_progress (with_reducible refine Keeps.updHold ?_ rfl))
    | split
    | (dsimp only)

theorem keeps_recPop_eq {a : Block} {b : Block} {x1 : Master} {v} {c : Block} (e : recPop x1 b = (v, c))
    (h : Keeps a b) : Keeps a c := by
  have := keeps_recPop x1 h; rw [e] at this; exact this

theorem keeps_sendNotice {a : Block} {b : Block}
    (h : Keeps a b) : Keeps a (sendNotice b) := by
  delta sendNotice
  repeat' first
    | (with_reducible assumption)
    | (intro)
    | (with_reducible first
        | apply keeps_emit | apply keeps_i3cCall | refine Keeps.foldl ?_ ?_ | refine Keeps.ite ?_ ?_)
    | (fail_if_no_progress (with_reducible refine Keeps.upd ?_))
    | (fail_if_no_progress (with_reducible refine Keeps.updHold ?_ rfl))
    | split
    | (dsimp only)

/-! ### Ecc -/

theorem keeps_modEcc {a : Block} {b : Block} (x1 : Ecc → Ecc)
    (h : Keeps a b) : Keeps a (modEcc x1 b) := by
  delta modEcc
  repeat' first
    | (with_reducible assumption)
    | (intro)
    | (with_reducible first
        | refine Keeps.foldl ?_ ?_ | refine Keeps.ite ?_ ?_)
    | (fail_if_no_progress (with_reducible refine Keeps.upd ?_))
    | (fail_if_no_progress (with_reducible refine Keeps.updHold ?_ rfl))
    | split
    | (dsimp only)

theorem keeps_loseKeyOps {a : Block} {b : Block} (x1 : ℕ)
    (h : Keeps a b) : Keeps a (loseKeyOps x1 b) := by
  delta loseKeyOps
  repeat' first
    | (with_reducible assumption)
    | (intro)
    | (with_reducible first
        | apply keeps_endSectors | apply keeps_keyOpEnds | apply keeps_schedEnd | refine Keeps.foldl ?_ ?_ | refine Keeps.ite ?_ ?_)
    | (fail_if_no_progress (with_reducible refine Keeps.upd ?_))
    | (fail_if_no_progress (with_reducible refine Keeps.updHold ?_ rfl))
    | split
    | (dsimp only)

theorem keeps_orphanKeys {a : Block} {b : Block} (x1 : ℕ) (x2 : Bool)
    (h : Keeps a b) : Keeps a (orphanKeys x1 x2 b) := by
  delta orphanKeys
  repeat' first
    | (with_reducible assumption)
    | (intro)
    | (with_reducible first
        | apply keeps_later | apply keeps_leaveEngine | apply keeps_modKey | refine Keeps.foldl ?_ ?_ | refine Keeps.ite ?_ ?_)
    | (fail_if_no_progress (with_reducible refine Keeps.upd ?_))
    | (fail_if_no_progress (with_reducible refine Keeps.updHold ?_ rfl))
    | split
    | (dsimp only)

theorem keeps_loseKey {a : Block} {b : Block} (x1 : ℕ)
    (h : Keeps a b) : Keeps a (loseKey x1 b) := by
  delta loseKey
  repeat' first
    | (with_reducible assumption)
    | (intro)
    | (with_reducible first
        | apply keeps_fillEngine | apply keeps_later | apply keeps_leaveEngine | apply keeps_loseAll | apply keeps_loseKeyOps
        | apply keeps_modKey | apply keeps_orphanKeys | apply keeps_raise | refine Keeps.foldl ?_ ?_ | refine Keeps.ite ?_ ?_)
    | (fail_if_no_progress (with_reducible refine Keeps.upd ?_))
    | (fail_if_no_progress (with_reducible refine Keeps.updHold ?_ rfl))
    | split
    | (dsimp only)

theorem keeps_loseCached {a : Block} {b : Block} (x1 : ℕ) (x2 : ℕ) (x3 : ℕ)
    (h : Keeps a b) : Keeps a (loseCached x1 x2 x3 b) := by
  delta loseCached
  repeat' first
    | (with_reducible assumption)
    | (intro)
    | (with_reducible first
        | apply keeps_dropLine | apply keeps_later | apply keeps_loseRegion | refine Keeps.foldl ?_ ?_ | refine Keeps.ite ?_ ?_)
    | (fail_if_no_progress (with_reducible refine Keeps.upd ?_))
    | (fail_if_no_progress (with_reducible refine Keeps.updHold ?_ rfl))
    | split
    | (dsimp only)

theorem keeps_dropTrace {a : Block} {b : Block} (x1 : ℕ) (x2 : ℕ)
    (h : Keeps a b) : Keeps a (dropTrace x1 x2 b) := by
  delta dropTrace
  repeat' first
    | (with_reducible assumption)
    | (intro)
    | (with_reducible first
        | refine Keeps.foldl ?_ ?_ | refine Keeps.ite ?_ ?_)
    | (fail_if_no_progress (with_reducible refine Keeps.upd ?_))
    | (fail_if_no_progress (with_reducible refine Keeps.updHold ?_ rfl))
    | split
    | (dsimp only)

theorem keeps_spoilSite {a : Block} {b : Block} (x1 : EccSite) (x2 : ℕ)
    (h : Keeps a b) : Keeps a (spoilSite x1 x2 b) := by
  delta spoilSite
  repeat' first
    | (with_reducible assumption)
    | (intro)
    | (with_reducible first
        | apply keeps_coreFaults | apply keeps_draw | apply keeps_dropTrace | apply keeps_failBar | apply keeps_failXing
        | apply keeps_faultCmd | apply keeps_gseFail | apply keeps_later | apply keeps_loseCached | apply keeps_loseCtx
        | apply keeps_loseKey | apply keeps_loseRegion | apply keeps_modSess | apply keeps_poisonLine
        | refine keeps_draw_eq (by with_reducible assumption) ?_ | refine Keeps.foldl ?_ ?_ | refine Keeps.ite ?_ ?_)
    | (fail_if_no_progress (with_reducible refine Keeps.upd ?_))
    | (fail_if_no_progress (with_reducible refine Keeps.updHold ?_ rfl))
    | split
    | (dsimp only)

theorem keeps_patrol {a : Block} {b : Block} (x1 : EccSite) (x2 : ℕ) (x3 : Byte) (x4 : BitVec 5)
    (h : Keeps a b) : Keeps a (patrol x1 x2 x3 x4 b) := by
  delta patrol
  repeat' first
    | (with_reducible assumption)
    | (intro)
    | (with_reducible first
        | apply keeps_addUpset | apply keeps_eccEvent | apply keeps_senseLines | apply keeps_spoilSite
        | refine keeps_senseLines_eq (by with_reducible assumption) ?_ | refine Keeps.foldl ?_ ?_ | refine Keeps.ite ?_ ?_)
    | (fail_if_no_progress (with_reducible refine Keeps.upd ?_))
    | (fail_if_no_progress (with_reducible refine Keeps.updHold ?_ rfl))
    | split
    | (dsimp only)

theorem keeps_eccPop {a : Block} {b : Block} (x1 : Master)
    (h : Keeps a b) : Keeps a (eccPop x1 b).2 := by
  delta eccPop
  repeat' first
    | (with_reducible assumption)
    | (intro)
    | (with_reducible first
        | apply keeps_modEcc | apply keeps_setLatch | refine Keeps.foldl ?_ ?_ | refine Keeps.ite ?_ ?_)
    | (fail_if_no_progress (with_reducible refine Keeps.upd ?_))
    | (fail_if_no_progress (with_reducible refine Keeps.updHold ?_ rfl))
    | split
    | (dsimp only)

theorem keeps_eccPop_eq {a : Block} {b : Block} {x1 : Master} {v} {c : Block} (e : eccPop x1 b = (v, c))
    (h : Keeps a b) : Keeps a c := by
  have := keeps_eccPop x1 h; rw [e] at this; exact this

theorem keeps_rescheduleAll {a : Block} {b : Block}
    (h : Keeps a b) : Keeps a (rescheduleAll b) := by
  delta rescheduleAll
  repeat' first
    | (with_reducible assumption)
    | (intro)
    | (with_reducible first
        | apply keeps_later | refine Keeps.foldl ?_ ?_ | refine Keeps.ite ?_ ?_)
    | (fail_if_no_progress (with_reducible refine Keeps.upd ?_))
    | (fail_if_no_progress (with_reducible refine Keeps.updHold ?_ rfl))
    | split
    | (dsimp only)

theorem keeps_dmaRelease {a : Block} {b : Block} (x1 : Word)
    (h : Keeps a b) : Keeps a (dmaRelease x1 b) := by
  delta dmaRelease
  repeat' first
    | (with_reducible assumption)
    | (intro)
    | (with_reducible first
        | apply keeps_modEcc | apply keeps_rescheduleAll | refine Keeps.foldl ?_ ?_ | refine Keeps.ite ?_ ?_)
    | (fail_if_no_progress (with_reducible refine Keeps.upd ?_))
    | (fail_if_no_progress (with_reducible refine Keeps.updHold ?_ rfl))
    | split
    | (dsimp only)

theorem keeps_retireDone' {a : Block} {b : Block} (x1 : Byte)
    (h : Keeps a b) : Keeps a (retireDone' x1 b) := by
  delta retireDone'
  repeat' first
    | (with_reducible assumption)
    | (intro)
    | (with_reducible first
        | apply keeps_modEcc | apply keeps_raise | refine Keeps.foldl ?_ ?_ | refine Keeps.ite ?_ ?_)
    | (fail_if_no_progress (with_reducible refine Keeps.upd ?_))
    | (fail_if_no_progress (with_reducible refine Keeps.updHold ?_ rfl))
    | split
    | (dsimp only)

theorem keeps_retireCmd' {a : Block} {b : Block} (x1 : Word)
    (h : Keeps a b) : Keeps a (retireCmd' x1 b) := by
  delta retireCmd'
  repeat' first
    | (with_reducible assumption)
    | (intro)
    | (with_reducible first
        | apply keeps_modEcc | apply keeps_retireDone' | apply keeps_setBank | refine Keeps.foldl ?_ ?_ | refine Keeps.ite ?_ ?_)
    | (fail_if_no_progress (with_reducible refine Keeps.upd ?_))
    | (fail_if_no_progress (with_reducible refine Keeps.updHold ?_ rfl))
    | split
    | (dsimp only)

theorem keeps_injCtrl {a : Block} {b : Block} (x1 : Word)
    (h : Keeps a b) : Keeps a (injCtrl x1 b) := by
  delta injCtrl
  repeat' first
    | (with_reducible assumption)
    | (intro)
    | (with_reducible first
        | apply keeps_modEcc | apply keeps_raise | apply keeps_setReg | refine Keeps.foldl ?_ ?_ | refine Keeps.ite ?_ ?_)
    | (fail_if_no_progress (with_reducible refine Keeps.upd ?_))
    | (fail_if_no_progress (with_reducible refine Keeps.updHold ?_ rfl))
    | split
    | (dsimp only)

theorem keeps_injComplete {a : Block} {b : Block}
    (h : Keeps a b) : Keeps a (injComplete b) := by
  delta injComplete
  repeat' first
    | (with_reducible assumption)
    | (intro)
    | (with_reducible first
        | apply keeps_draw | apply keeps_eccLog | apply keeps_emptyLine | apply keeps_modEcc | apply keeps_raise
        | refine keeps_draw_eq (by with_reducible assumption) ?_ | refine Keeps.foldl ?_ ?_ | refine Keeps.ite ?_ ?_)
    | (fail_if_no_progress (with_reducible refine Keeps.upd ?_))
    | (fail_if_no_progress (with_reducible refine Keeps.updHold ?_ rfl))
    | split
    | (dsimp only)

/-! ### Resets -/

theorem keeps_inputLevels {a : Block} {b : Block} (h : Keeps a b) : Keeps a (inputLevels b) :=
  h.trans ⟨fun _ => rfl, fun _ => BitVec.or_self⟩

theorem keeps_tornWord {a : Block} {b : Block}
    (h : Keeps a b) : Keeps a (tornWord b) := by
  delta tornWord
  repeat' first
    | (with_reducible assumption)
    | (intro)
    | (extract_lets +onlyGivenNames x; first
        | (refine Keeps.named (a := a) x ?_ ?_; (on_goal 1 => (revert x; show Keeps _ _)); (on_goal -1 => (intro hx; clear_value x)))
        | (refine Keeps.namedSnd (a := a) x ?_ ?_; (on_goal 1 => (revert x; show Keeps _ _)); (on_goal -1 => (intro hx; clear_value x)))
        | (refine Keeps.namedThird (a := a) x ?_ ?_; (on_goal 1 => (revert x; show Keeps _ _)); (on_goal -1 => (intro hx; clear_value x)))
        | (refine Keeps.namedFst (a := a) x ?_ ?_; (on_goal 1 => (revert x; show Keeps _ _)); (on_goal -1 => (intro hx; clear_value x)))
        | clear_value x)
    | (with_reducible first
        | apply keeps_draw | refine keeps_draw_eq (by with_reducible assumption) ?_ | refine Keeps.foldl ?_ ?_
        | refine Keeps.foldlSnd ?_ ?_ | refine Keeps.ite ?_ ?_)
    | (fail_if_no_progress (with_reducible refine Keeps.upd ?_))
    | (fail_if_no_progress (with_reducible refine Keeps.updHold ?_ rfl))
    | (with_reducible refine Keeps.updOtp ?_)
    | split
    | (dsimp only)

theorem keeps_powerOn {a : Block} {b : Block}
    (h : Keeps a b) : Keeps a (powerOn b) := by
  delta powerOn
  repeat' first
    | (with_reducible assumption)
    | (intro)
    | (with_reducible first
        | apply keeps_inputLevels | apply keeps_tornWord | refine Keeps.foldl ?_ ?_ | refine Keeps.ite ?_ ?_)
    | (fail_if_no_progress (with_reducible refine Keeps.upd ?_))
    | (fail_if_no_progress (with_reducible refine Keeps.updHold ?_ rfl))
    | split
    | (dsimp only)

theorem keeps_warmPages {a : Block} {b : Block} (x1 : Block)
    (h : Keeps a b) : Keeps a (warmPages x1 b) := by
  delta warmPages
  repeat' first
    | (with_reducible assumption)
    | (intro)
    | (with_reducible first
        | apply keeps_modAtt | apply keeps_modCore | apply keeps_modPort | refine Keeps.foldl ?_ ?_ | refine Keeps.ite ?_ ?_)
    | (fail_if_no_progress (with_reducible refine Keeps.upd ?_))
    | (fail_if_no_progress (with_reducible refine Keeps.updHold ?_ rfl))
    | split
    | (dsimp only)

theorem keeps_warmKeep {a : Block} {b : Block}
    (h : Keeps a b) : Keeps a (warmKeep b) := by
  delta warmKeep
  repeat' first
    | (with_reducible assumption)
    | (intro)
    | (with_reducible first
        | apply keeps_inputLevels | apply keeps_warmPages | refine Keeps.foldl ?_ ?_ | refine Keeps.ite ?_ ?_)
    | (fail_if_no_progress (with_reducible refine Keeps.upd ?_))
    | (fail_if_no_progress (with_reducible refine Keeps.updHold ?_ rfl))
    | split
    | (dsimp only)

theorem keeps_warmRecord {a : Block} {b : Block}
    (h : Keeps a b) : Keeps a (warmRecord b) := by
  delta warmRecord
  repeat' first
    | (with_reducible assumption)
    | (intro)
    | (with_reducible first
        | apply keeps_record | refine Keeps.foldl ?_ ?_ | refine Keeps.ite ?_ ?_)
    | (fail_if_no_progress (with_reducible refine Keeps.upd ?_))
    | (fail_if_no_progress (with_reducible refine Keeps.updHold ?_ rfl))
    | split
    | (dsimp only)

theorem keeps_portLevel {a : Block} {b : Block} (x1 : Port) (x2 : Bool)
    (h : Keeps a b) : Keeps a (portLevel x1 x2 b) := by
  delta portLevel
  repeat' first
    | (with_reducible assumption)
    | (intro)
    | (with_reducible first
        | apply keeps_modAtt | apply keeps_modLnd | apply keeps_modPort | refine Keeps.foldl ?_ ?_ | refine Keeps.ite ?_ ?_)
    | (fail_if_no_progress (with_reducible refine Keeps.upd ?_))
    | (fail_if_no_progress (with_reducible refine Keeps.updHold ?_ rfl))
    | split
    | (dsimp only)

theorem keeps_warmNow {a : Block} {b : Block}
    (h : Keeps a b) : Keeps a (warmNow b) := by
  delta warmNow
  repeat' first
    | (with_reducible assumption)
    | (intro)
    | (with_reducible first
        | apply keeps_portLevel | apply keeps_tornWord | apply keeps_warmKeep | apply keeps_warmRecord | refine Keeps.foldl ?_ ?_
        | refine Keeps.ite ?_ ?_)
    | (fail_if_no_progress (with_reducible refine Keeps.upd ?_))
    | (fail_if_no_progress (with_reducible refine Keeps.updHold ?_ rfl))
    | split
    | (dsimp only)

theorem keeps_warmReset {a : Block} {b : Block}
    (h : Keeps a b) : Keeps a (warmReset b) := by
  delta warmReset
  repeat' first
    | (with_reducible assumption)
    | (intro)
    | (with_reducible first
        | apply keeps_warmNow | refine Keeps.foldl ?_ ?_ | refine Keeps.ite ?_ ?_)
    | (fail_if_no_progress (with_reducible refine Keeps.upd ?_))
    | (fail_if_no_progress (with_reducible refine Keeps.updHold ?_ rfl))
    | split
    | (dsimp only)

theorem keeps_resumeMove {a : Block} {b : Block} (f1 : OtpFollow)
    (hf1 : ∀ y0 b, Keeps a b → Keeps a (f1 y0 b)) (h : Keeps a b) : Keeps a (resumeMove f1 b) := by
  delta resumeMove
  repeat' first
    | (with_reducible assumption)
    | (intro)
    | (with_reducible first
        | apply hf1 | apply keeps_otpAdvance | apply keeps_startStep | refine Keeps.foldl ?_ ?_ | refine Keeps.ite ?_ ?_)
    | (fail_if_no_progress (with_reducible refine Keeps.upd ?_))
    | (fail_if_no_progress (with_reducible refine Keeps.updHold ?_ rfl))
    | split
    | (dsimp only)

theorem keeps_start {a : Block} {b : Block}
    (h : Keeps a b) : Keeps a (start b) := by
  delta start
  repeat' first
    | (with_reducible assumption)
    | (intro)
    | (with_reducible first
        | apply keeps_startRead | refine Keeps.foldl ?_ ?_ | refine Keeps.ite ?_ ?_)
    | (fail_if_no_progress (with_reducible refine Keeps.upd ?_))
    | (fail_if_no_progress (with_reducible refine Keeps.updHold ?_ rfl))
    | split
    | (dsimp only)

theorem keeps_release {a : Block} {b : Block}
    (h : Keeps a b) : Keeps a (release b) := by
  delta release
  repeat' first
    | (with_reducible assumption)
    | (intro)
    | (with_reducible first
        | apply keeps_start | refine Keeps.foldl ?_ ?_ | refine Keeps.ite ?_ ?_)
    | (fail_if_no_progress (with_reducible refine Keeps.upd ?_))
    | (fail_if_no_progress (with_reducible refine Keeps.updHold ?_ rfl))
    | split
    | (dsimp only)

theorem keeps_enableUnits {a : Block} {b : Block}
    (h : Keeps a b) : Keeps a (enableUnits b) := by
  delta enableUnits
  repeat' first
    | (with_reducible assumption)
    | (intro)
    | (with_reducible first
        | apply keeps_modCore | apply keeps_modPage | refine Keeps.foldl ?_ ?_ | refine Keeps.ite ?_ ?_)
    | (fail_if_no_progress (with_reducible refine Keeps.upd ?_))
    | (fail_if_no_progress (with_reducible refine Keeps.updHold ?_ rfl))
    | split
    | (dsimp only)

theorem keeps_testEntry {a : Block} {b : Block} (x1 : Bool)
    (h : Keeps a b) : Keeps a (testEntry x1 b) := by
  delta testEntry
  repeat' first
    | (with_reducible assumption)
    | (intro)
    | (with_reducible first
        | apply keeps_recordErr | refine Keeps.foldl ?_ ?_ | refine Keeps.ite ?_ ?_)
    | (fail_if_no_progress (with_reducible refine Keeps.upd ?_))
    | (fail_if_no_progress (with_reducible refine Keeps.updHold ?_ rfl))
    | split
    | (dsimp only)

theorem keeps_startDone {a : Block} {b : Block} (f1 : OtpFollow)
    (hf1 : ∀ y0 b, Keeps a b → Keeps a (f1 y0 b)) (h : Keeps a b) : Keeps a (startDone f1 b) := by
  delta startDone
  repeat' first
    | (with_reducible assumption)
    | (intro)
    | (with_reducible first
        | apply hf1 | apply keeps_enableUnits | apply keeps_resumeMove | apply keeps_testEntry | refine Keeps.foldl ?_ ?_
        | refine Keeps.ite ?_ ?_)
    | (fail_if_no_progress (with_reducible refine Keeps.upd ?_))
    | (fail_if_no_progress (with_reducible refine Keeps.updHold ?_ rfl))
    | split
    | (dsimp only)

theorem keeps_selfRestart {a : Block} {b : Block}
    (h : Keeps a b) : Keeps a (selfRestart b) := by
  delta selfRestart
  repeat' first
    | (with_reducible assumption)
    | (intro)
    | (with_reducible first
        | apply keeps_start | apply keeps_warmKeep | refine Keeps.foldl ?_ ?_ | refine Keeps.ite ?_ ?_)
    | (fail_if_no_progress (with_reducible refine Keeps.upd ?_))
    | (fail_if_no_progress (with_reducible refine Keeps.updHold ?_ rfl))
    | split
    | (dsimp only)

theorem keeps_settleMove {a : Block} {b : Block}
    (h : Keeps a b) : Keeps a (settleMove b) := by
  delta settleMove
  repeat' first
    | (with_reducible assumption)
    | (intro)
    | (with_reducible first
        | apply keeps_raise | apply keeps_selfRestart | refine Keeps.foldl ?_ ?_ | refine Keeps.ite ?_ ?_)
    | (fail_if_no_progress (with_reducible refine Keeps.upd ?_))
    | (fail_if_no_progress (with_reducible refine Keeps.updHold ?_ rfl))
    | split
    | (dsimp only)

theorem keeps_afterWord {a : Block} {b : Block} (f1 : OtpFollow)
    (hf1 : ∀ y0 b, Keeps a b → Keeps a (f1 y0 b)) (h : Keeps a b) : Keeps a (afterWord f1 b) := by
  delta afterWord
  repeat' first
    | (with_reducible assumption)
    | (intro)
    | (with_reducible first
        | apply hf1 | apply keeps_otpAdvance | apply keeps_settleMove | apply keeps_start | apply keeps_warmNow | refine Keeps.foldl ?_ ?_
        | refine Keeps.ite ?_ ?_)
    | (fail_if_no_progress (with_reducible refine Keeps.upd ?_))
    | (fail_if_no_progress (with_reducible refine Keeps.updHold ?_ rfl))
    | split
    | (dsimp only)

theorem keeps_otpEnds {a : Block} {b : Block} (x1 : BitVec 39) (f2 : OtpFollow) (f3 : OtpFollow)
    (hf2 : ∀ y0 b, Keeps a b → Keeps a (f2 y0 b)) (hf3 : ∀ y0 b, Keeps a b → Keeps a (f3 y0 b)) (h : Keeps a b) : Keeps a (otpEnds x1 f2 f3 b) := by
  delta otpEnds
  repeat' first
    | (with_reducible assumption)
    | (intro)
    | (with_reducible first
        | apply hf2 | apply hf3 | apply keeps_afterWord | apply keeps_otpDone | refine Keeps.foldl ?_ ?_ | refine Keeps.ite ?_ ?_)
    | (fail_if_no_progress (with_reducible refine Keeps.upd ?_))
    | (fail_if_no_progress (with_reducible refine Keeps.updHold ?_ rfl))
    | split
    | (dsimp only)

theorem keeps_clearEnds {a : Block} {b : Block} (f1 : OtpFollow)
    (hf1 : ∀ y0 b, Keeps a b → Keeps a (f1 y0 b)) (h : Keeps a b) : Keeps a (clearEnds f1 b) := by
  delta clearEnds
  repeat' first
    | (with_reducible assumption)
    | (intro)
    | (with_reducible first
        | apply hf1 | apply keeps_lcsClearDone | apply keeps_otpAdvance | apply keeps_settleMove | refine Keeps.foldl ?_ ?_
        | refine Keeps.ite ?_ ?_)
    | (fail_if_no_progress (with_reducible refine Keeps.upd ?_))
    | (fail_if_no_progress (with_reducible refine Keeps.updHold ?_ rfl))
    | split
    | (dsimp only)

theorem keeps_testInput {a : Block} {b : Block} (x1 : TestPin) (x2 : Bool)
    (h : Keeps a b) : Keeps a (testInput x1 x2 b) := by
  delta testInput
  repeat' first
    | (with_reducible assumption)
    | (intro)
    | (with_reducible first
        | apply keeps_testEntry | refine Keeps.foldl ?_ ?_ | refine Keeps.ite ?_ ?_)
    | (fail_if_no_progress (with_reducible refine Keeps.upd ?_))
    | (fail_if_no_progress (with_reducible refine Keeps.updHold ?_ rfl))
    | split
    | (dsimp only)

theorem keeps_enginePortDown {a : Block} {b : Block} (x1 : ℕ)
    (h : Keeps a b) : Keeps a (enginePortDown x1 b) := by
  delta enginePortDown
  repeat' first
    | (with_reducible assumption)
    | (intro)
    | (with_reducible first
        | apply keeps_portReset | apply keeps_record | refine Keeps.foldl ?_ ?_ | refine Keeps.ite ?_ ?_)
    | (fail_if_no_progress (with_reducible refine Keeps.upd ?_))
    | (fail_if_no_progress (with_reducible refine Keeps.updHold ?_ rfl))
    | split
    | (dsimp only)

theorem keeps_hifDown {a : Block} {b : Block}
    (h : Keeps a b) : Keeps a (hifDown b) := by
  delta hifDown
  repeat' first
    | (with_reducible assumption)
    | (intro)
    | (with_reducible first
        | apply keeps_enginePortDown | apply keeps_loadEnds | apply keeps_modMgmt | apply keeps_record | apply keeps_tdiFault
        | apply keeps_windowFails | refine Keeps.foldl ?_ ?_ | refine Keeps.ite ?_ ?_)
    | (fail_if_no_progress (with_reducible refine Keeps.upd ?_))
    | (fail_if_no_progress (with_reducible refine Keeps.updHold ?_ rfl))
    | split
    | (dsimp only)

theorem keeps_hifReturn {a : Block} {b : Block}
    (h : Keeps a b) : Keeps a (hifReturn b) := by
  delta hifReturn
  repeat' first
    | (with_reducible assumption)
    | (intro)
    | (with_reducible first
        | apply keeps_portReturn | refine Keeps.foldl ?_ ?_ | refine Keeps.ite ?_ ?_)
    | (fail_if_no_progress (with_reducible refine Keeps.upd ?_))
    | (fail_if_no_progress (with_reducible refine Keeps.updHold ?_ rfl))
    | split
    | (dsimp only)

theorem keeps_portInput {a : Block} {b : Block} (x1 : Port)
    (h : Keeps a b) : Keeps a (portInput x1 b) := by
  delta portInput
  repeat' first
    | (with_reducible assumption)
    | (intro)
    | (with_reducible first
        | apply keeps_enginePortDown | apply keeps_hifDown | apply keeps_modLnd | apply keeps_resetAttach | apply keeps_resetLanding
        | refine Keeps.foldl ?_ ?_ | refine Keeps.ite ?_ ?_)
    | (fail_if_no_progress (with_reducible refine Keeps.upd ?_))
    | (fail_if_no_progress (with_reducible refine Keeps.updHold ?_ rfl))
    | split
    | (dsimp only)

theorem keeps_portBack {a : Block} {b : Block} (x1 : Port)
    (h : Keeps a b) : Keeps a (portBack x1 b) := by
  delta portBack
  repeat' first
    | (with_reducible assumption)
    | (intro)
    | (with_reducible first
        | apply keeps_hifReturn | apply keeps_modAtt | apply keeps_modLnd | apply keeps_portReturn | apply keeps_raise
        | refine Keeps.foldl ?_ ?_ | refine Keeps.ite ?_ ?_)
    | (fail_if_no_progress (with_reducible refine Keeps.upd ?_))
    | (fail_if_no_progress (with_reducible refine Keeps.updHold ?_ rfl))
    | split
    | (dsimp only)

theorem keeps_portDownInput {a : Block} {b : Block} (x1 : Port)
    (h : Keeps a b) : Keeps a (portDownInput x1 b) := by
  delta portDownInput
  repeat' first
    | (with_reducible assumption)
    | (intro)
    | (with_reducible first
        | apply keeps_portInput | refine Keeps.foldl ?_ ?_ | refine Keeps.ite ?_ ?_)
    | (fail_if_no_progress (with_reducible refine Keeps.upd ?_))
    | (fail_if_no_progress (with_reducible refine Keeps.updHold ?_ rfl))
    | split
    | (dsimp only)

theorem keeps_portUpInput {a : Block} {b : Block} (x1 : Port)
    (h : Keeps a b) : Keeps a (portUpInput x1 b) := by
  delta portUpInput
  repeat' first
    | (with_reducible assumption)
    | (intro)
    | (with_reducible first
        | apply keeps_portBack | refine Keeps.foldl ?_ ?_ | refine Keeps.ite ?_ ?_)
    | (fail_if_no_progress (with_reducible refine Keeps.upd ?_))
    | (fail_if_no_progress (with_reducible refine Keeps.updHold ?_ rfl))
    | split
    | (dsimp only)

theorem keeps_phyLow {a : Block} {b : Block} (x1 : ℕ)
    (h : Keeps a b) : Keeps a (phyLow x1 b) := by
  delta phyLow
  repeat' first
    | (with_reducible assumption)
    | (intro)
    | (with_reducible first
        | apply keeps_modLnd | refine Keeps.foldl ?_ ?_ | refine Keeps.ite ?_ ?_)
    | (fail_if_no_progress (with_reducible refine Keeps.upd ?_))
    | (fail_if_no_progress (with_reducible refine Keeps.updHold ?_ rfl))
    | split
    | (dsimp only)

theorem keeps_phyFalls {a : Block} {b : Block} (x1 : ℕ)
    (h : Keeps a b) : Keeps a (phyFalls x1 b) := by
  delta phyFalls
  repeat' first
    | (with_reducible assumption)
    | (intro)
    | (with_reducible first
        | apply keeps_phyLow | apply keeps_resetLanding | refine Keeps.foldl ?_ ?_ | refine Keeps.ite ?_ ?_)
    | (fail_if_no_progress (with_reducible refine Keeps.upd ?_))
    | (fail_if_no_progress (with_reducible refine Keeps.updHold ?_ rfl))
    | split
    | (dsimp only)

theorem keeps_modSlip {a : Block} {b : Block} (x1 : Slip → Slip)
    (h : Keeps a b) : Keeps a (modSlip x1 b) := by
  delta modSlip
  repeat' first
    | (with_reducible assumption)
    | (intro)
    | (with_reducible first
        | refine Keeps.foldl ?_ ?_ | refine Keeps.ite ?_ ?_)
    | (fail_if_no_progress (with_reducible refine Keeps.upd ?_))
    | (fail_if_no_progress (with_reducible refine Keeps.updHold ?_ rfl))
    | split
    | (dsimp only)

theorem keeps_slipFalls {a : Block} {b : Block}
    (h : Keeps a b) : Keeps a (slipFalls b) := by
  delta slipFalls
  repeat' first
    | (with_reducible assumption)
    | (intro)
    | (with_reducible first
        | refine Keeps.foldl ?_ ?_ | refine Keeps.ite ?_ ?_)
    | (fail_if_no_progress (with_reducible refine Keeps.upd ?_))
    | (fail_if_no_progress (with_reducible refine Keeps.updHold ?_ rfl))
    | split
    | (dsimp only)

theorem keeps_slipPulse {a : Block} {b : Block}
    (h : Keeps a b) : Keeps a (slipPulse b) := by
  delta slipPulse
  repeat' first
    | (with_reducible assumption)
    | (intro)
    | (with_reducible first
        | apply keeps_modSlip | apply keeps_raise | refine Keeps.foldl ?_ ?_ | refine Keeps.ite ?_ ?_)
    | (fail_if_no_progress (with_reducible refine Keeps.upd ?_))
    | (fail_if_no_progress (with_reducible refine Keeps.updHold ?_ rfl))
    | split
    | (dsimp only)

theorem keeps_progHalts {a : Block} {b : Block} (x1 : ℕ)
    (h : Keeps a b) : Keeps a (progHalts x1 b) := by
  delta progHalts
  repeat' first
    | (with_reducible assumption)
    | (intro)
    | (with_reducible first
        | apply keeps_modSue | apply keeps_raiseSue | apply keeps_record | refine Keeps.foldl ?_ ?_ | refine Keeps.ite ?_ ?_)
    | (fail_if_no_progress (with_reducible refine Keeps.upd ?_))
    | (fail_if_no_progress (with_reducible refine Keeps.updHold ?_ rfl))
    | split
    | (dsimp only)

theorem keeps_lastWords {a : Block} {b : Block}
    (h : Keeps a b) : Keeps a (lastWords b) := by
  delta lastWords
  repeat' first
    | (with_reducible assumption)
    | (intro)
    | (with_reducible first
        | apply keeps_queueCtl | apply keeps_sendNow | refine Keeps.foldl ?_ ?_ | refine Keeps.ite ?_ ?_)
    | (fail_if_no_progress (with_reducible refine Keeps.upd ?_))
    | (fail_if_no_progress (with_reducible refine Keeps.updHold ?_ rfl))
    | split
    | (dsimp only)

theorem keeps_stopAdmission {a : Block} {b : Block}
    (h : Keeps a b) : Keeps a (stopAdmission b) := by
  delta stopAdmission
  repeat' first
    | (with_reducible assumption)
    | (intro)
    | (with_reducible first
        | apply keeps_enterSealing | apply keeps_lastWords | apply keeps_modCore | apply keeps_progHalts | apply keeps_stageIdle
        | refine Keeps.foldl ?_ ?_ | refine Keeps.ite ?_ ?_)
    | (fail_if_no_progress (with_reducible refine Keeps.upd ?_))
    | (fail_if_no_progress (with_reducible refine Keeps.updHold ?_ rfl))
    | split
    | (dsimp only)

theorem keeps_slipAccept {a : Block} {b : Block}
    (h : Keeps a b) : Keeps a (slipAccept b) := by
  delta slipAccept
  repeat' first
    | (with_reducible assumption)
    | (intro)
    | (with_reducible first
        | apply keeps_modSlip | apply keeps_raise | apply keeps_stopAdmission | refine Keeps.foldl ?_ ?_ | refine Keeps.ite ?_ ?_)
    | (fail_if_no_progress (with_reducible refine Keeps.upd ?_))
    | (fail_if_no_progress (with_reducible refine Keeps.updHold ?_ rfl))
    | split
    | (dsimp only)

theorem keeps_sealingEnds {a : Block} {b : Block}
    (h : Keeps a b) : Keeps a (sealingEnds b) := by
  delta sealingEnds
  repeat' first
    | (with_reducible assumption)
    | (intro)
    | (with_reducible first
        | apply keeps_modSlip | apply keeps_portBack | apply keeps_portInput | apply keeps_warmNow | refine Keeps.foldl ?_ ?_
        | refine Keeps.ite ?_ ?_)
    | (fail_if_no_progress (with_reducible refine Keeps.upd ?_))
    | (fail_if_no_progress (with_reducible refine Keeps.updHold ?_ rfl))
    | split
    | (dsimp only)

theorem keeps_slipStopped {a : Block} {b : Block}
    (h : Keeps a b) : Keeps a (slipStopped b) := by
  delta slipStopped
  repeat' first
    | (with_reducible assumption)
    | (intro)
    | (with_reducible first
        | apply keeps_modSlip | apply keeps_sealingEnds | refine Keeps.foldl ?_ ?_ | refine Keeps.ite ?_ ?_)
    | (fail_if_no_progress (with_reducible refine Keeps.upd ?_))
    | (fail_if_no_progress (with_reducible refine Keeps.updHold ?_ rfl))
    | split
    | (dsimp only)

theorem keeps_slipNext {a : Block} {b : Block} (x1 : Bool)
    (h : Keeps a b) : Keeps a (slipNext x1 b) := by
  delta slipNext
  repeat' first
    | (with_reducible assumption)
    | (intro)
    | (with_reducible first
        | apply keeps_modSlip | apply keeps_sealingEnds | refine Keeps.foldl ?_ ?_ | refine Keeps.ite ?_ ?_)
    | (fail_if_no_progress (with_reducible refine Keeps.upd ?_))
    | (fail_if_no_progress (with_reducible refine Keeps.updHold ?_ rfl))
    | split
    | (dsimp only)

theorem keeps_ckptDone {a : Block} {b : Block} (x1 : ℕ)
    (h : Keeps a b) : Keeps a (ckptDone x1 b) := by
  delta ckptDone
  repeat' first
    | (with_reducible assumption)
    | (intro)
    | (with_reducible first
        | apply keeps_enterScrubbing | apply keeps_slipNext | refine Keeps.foldl ?_ ?_ | refine Keeps.ite ?_ ?_)
    | (fail_if_no_progress (with_reducible refine Keeps.upd ?_))
    | (fail_if_no_progress (with_reducible refine Keeps.updHold ?_ rfl))
    | split
    | (dsimp only)

theorem keeps_slipAbandon {a : Block} {b : Block} (x1 : ℕ)
    (h : Keeps a b) : Keeps a (slipAbandon x1 b) := by
  delta slipAbandon
  repeat' first
    | (with_reducible assumption)
    | (intro)
    | (with_reducible first
        | apply keeps_dropSession | apply keeps_endSess | apply keeps_modGse | apply keeps_slipNext | refine Keeps.foldl ?_ ?_
        | refine Keeps.ite ?_ ?_)
    | (fail_if_no_progress (with_reducible refine Keeps.upd ?_))
    | (fail_if_no_progress (with_reducible refine Keeps.updHold ?_ rfl))
    | split
    | (dsimp only)

theorem keeps_slipWatch {a : Block} {b : Block} (x1 : PortWait)
    (h : Keeps a b) : Keeps a (slipWatch x1 b) := by
  delta slipWatch
  repeat' first
    | (with_reducible assumption)
    | (intro)
    | (with_reducible first
        | apply keeps_hang | apply keeps_slipAbandon | refine Keeps.foldl ?_ ?_ | refine Keeps.ite ?_ ?_)
    | (fail_if_no_progress (with_reducible refine Keeps.upd ?_))
    | (fail_if_no_progress (with_reducible refine Keeps.updHold ?_ rfl))
    | split
    | (dsimp only)

theorem keeps_portWatch {a : Block} {b : Block} (x1 : PortWait)
    (h : Keeps a b) : Keeps a (portWatch x1 b) := by
  delta portWatch
  repeat' first
    | (with_reducible assumption)
    | (intro)
    | (with_reducible first
        | apply keeps_slipWatch | apply keeps_watchInternal | apply keeps_watchLoad | apply keeps_watchPort | apply keeps_watchScan
        | apply keeps_watchSector | refine Keeps.foldl ?_ ?_ | refine Keeps.ite ?_ ?_)
    | (fail_if_no_progress (with_reducible refine Keeps.upd ?_))
    | (fail_if_no_progress (with_reducible refine Keeps.updHold ?_ rfl))
    | split
    | (dsimp only)

theorem keeps_slipDrained {a : Block} {b : Block}
    (h : Keeps a b) : Keeps a (slipDrained b) := by
  delta slipDrained
  repeat' first
    | (with_reducible assumption)
    | (intro)
    | (with_reducible first
        | apply keeps_modSlip | refine Keeps.foldl ?_ ?_ | refine Keeps.ite ?_ ?_)
    | (fail_if_no_progress (with_reducible refine Keeps.upd ?_))
    | (fail_if_no_progress (with_reducible refine Keeps.updHold ?_ rfl))
    | split
    | (dsimp only)

theorem keeps_slipCleared {a : Block} {b : Block}
    (h : Keeps a b) : Keeps a (slipCleared b) := by
  delta slipCleared
  repeat' first
    | (with_reducible assumption)
    | (intro)
    | (with_reducible first
        | apply keeps_abandonBerth | apply keeps_lcsClear | apply keeps_modBerth | refine keeps_modHold (fun _ => rfl) ?_
        | apply keeps_modSlip | apply keeps_scrubComplete | apply keeps_startClears | refine Keeps.foldl ?_ ?_ | refine Keeps.ite ?_ ?_)
    | (fail_if_no_progress (with_reducible refine Keeps.upd ?_))
    | (fail_if_no_progress (with_reducible refine Keeps.updHold ?_ rfl))
    | split
    | (dsimp only)

end Sys2Proof.Machine
end

