-- ==== Sys2Proof/Laws/KeepsManagement.lean ====
section
/-!
SUPPORT. What the operations keep (Keeps), one lemma an operation: debug, management, registers and the settling of work.
-/

set_option linter.unusedTactic false
set_option linter.unreachableTactic false

namespace Sys2Proof.Machine

/-! ### Debug -/

theorem keeps_coreStops {a : Block} {b : Block} (x1 : ℕ)
    (h : Keeps a b) : Keeps a (coreStops x1 b) := by
  delta coreStops
  repeat' first
    | (with_reducible assumption)
    | (intro)
    | (with_reducible first
        | apply keeps_modCore | refine Keeps.foldl ?_ ?_ | refine Keeps.ite ?_ ?_)
    | (fail_if_no_progress (with_reducible refine Keeps.upd ?_))
    | (fail_if_no_progress (with_reducible refine Keeps.updHold ?_ rfl))
    | split
    | (dsimp only)

theorem keeps_haltCore {a : Block} {b : Block} (x1 : ℕ) (x2 : Bool)
    (h : Keeps a b) : Keeps a (haltCore x1 x2 b) := by
  delta haltCore
  repeat' first
    | (with_reducible assumption)
    | (intro)
    | (with_reducible first
        | apply keeps_coreStops | apply keeps_modDbg | apply keeps_raise | refine Keeps.foldl ?_ ?_ | refine Keeps.ite ?_ ?_)
    | (fail_if_no_progress (with_reducible refine Keeps.upd ?_))
    | (fail_if_no_progress (with_reducible refine Keeps.updHold ?_ rfl))
    | split
    | (dsimp only)

theorem keeps_resumeCore {a : Block} {b : Block} (x1 : ℕ)
    (h : Keeps a b) : Keeps a (resumeCore x1 b) := by
  delta resumeCore
  repeat' first
    | (with_reducible assumption)
    | (intro)
    | (with_reducible first
        | apply keeps_catchUp | apply keeps_modCore | apply keeps_modDbg | apply keeps_rescheduleAll | refine Keeps.foldl ?_ ?_
        | refine Keeps.ite ?_ ?_)
    | (fail_if_no_progress (with_reducible refine Keeps.upd ?_))
    | (fail_if_no_progress (with_reducible refine Keeps.updHold ?_ rfl))
    | split
    | (dsimp only)

theorem keeps_dbgRun {a : Block} {b : Block} (x1 : ℕ) (x2 : Bool)
    (h : Keeps a b) : Keeps a (dbgRun x1 x2 b).2 := by
  delta dbgRun
  repeat' first
    | (with_reducible assumption)
    | (intro)
    | (with_reducible first
        | apply keeps_haltCore | apply keeps_modDbg | apply keeps_resumeCore | refine Keeps.foldl ?_ ?_ | refine Keeps.ite ?_ ?_)
    | (fail_if_no_progress (with_reducible refine Keeps.upd ?_))
    | (fail_if_no_progress (with_reducible refine Keeps.updHold ?_ rfl))
    | split
    | (dsimp only)

theorem keeps_dbgRun_eq {a : Block} {b : Block} {x1 : ℕ} {x2 : Bool} {v} {c : Block} (e : dbgRun x1 x2 b = (v, c))
    (h : Keeps a b) : Keeps a c := by
  have := keeps_dbgRun x1 x2 h; rw [e] at this; exact this

theorem keeps_dbgCmd {a : Block} {b : Block} (x1 : Word)
    (h : Keeps a b) : Keeps a (dbgCmd x1 b) := by
  delta dbgCmd
  repeat' first
    | (with_reducible assumption)
    | (intro)
    | (with_reducible first
        | apply keeps_dbgRun | apply keeps_modDbg | apply keeps_onGo | refine keeps_dbgRun_eq (by with_reducible assumption) ?_
        | refine Keeps.foldl ?_ ?_ | refine Keeps.ite ?_ ?_)
    | (fail_if_no_progress (with_reducible refine Keeps.upd ?_))
    | (fail_if_no_progress (with_reducible refine Keeps.updHold ?_ rfl))
    | split
    | (dsimp only)

theorem keeps_breakpointHit {a : Block} {b : Block} (x1 : ℕ) (x2 : Word)
    (h : Keeps a b) : Keeps a (breakpointHit x1 x2 b) := by
  delta breakpointHit
  repeat' first
    | (with_reducible assumption)
    | (intro)
    | (with_reducible first
        | apply keeps_haltCore | apply keeps_modCore | refine Keeps.foldl ?_ ?_ | refine Keeps.ite ?_ ?_)
    | (fail_if_no_progress (with_reducible refine Keeps.upd ?_))
    | (fail_if_no_progress (with_reducible refine Keeps.updHold ?_ rfl))
    | split
    | (dsimp only)

theorem keeps_bpWrite {a : Block} {b : Block} (x1 : ℕ) (x2 : Word)
    (h : Keeps a b) : Keeps a (bpWrite x1 x2 b) := by
  delta bpWrite
  repeat' first
    | (with_reducible assumption)
    | (intro)
    | (with_reducible first
        | apply keeps_modCore | apply keeps_recordErr | refine Keeps.foldl ?_ ?_ | refine Keeps.ite ?_ ?_)
    | (fail_if_no_progress (with_reducible refine Keeps.upd ?_))
    | (fail_if_no_progress (with_reducible refine Keeps.updHold ?_ rfl))
    | split
    | (dsimp only)

theorem keeps_openWrite {a : Block} {b : Block} (x1 : Word)
    (h : Keeps a b) : Keeps a (openWrite x1 b) := by
  delta openWrite
  repeat' first
    | (with_reducible assumption)
    | (intro)
    | (with_reducible first
        | apply keeps_recordErr | apply keeps_setReg | refine Keeps.foldl ?_ ?_ | refine Keeps.ite ?_ ?_)
    | (fail_if_no_progress (with_reducible refine Keeps.upd ?_))
    | (fail_if_no_progress (with_reducible refine Keeps.updHold ?_ rfl))
    | split
    | (dsimp only)

theorem keeps_memData {a : Block} {b : Block}
    (h : Keeps a b) : Keeps a (memData b).2 := by
  delta memData
  repeat' first
    | (with_reducible assumption)
    | (intro)
    | (with_reducible first
        | apply keeps_modCore | apply keeps_setReg | refine Keeps.foldl ?_ ?_ | refine Keeps.ite ?_ ?_)
    | (fail_if_no_progress (with_reducible refine Keeps.upd ?_))
    | (fail_if_no_progress (with_reducible refine Keeps.updHold ?_ rfl))
    | split
    | (dsimp only)

theorem keeps_memData_eq {a : Block} {b : Block}  {v} {c : Block} (e : memData b = (v, c))
    (h : Keeps a b) : Keeps a c := by
  have := keeps_memData  h; rw [e] at this; exact this

theorem keeps_maEnd {a : Block} {b : Block} (x1 : Byte) (x2 : Bytes)
    (h : Keeps a b) : Keeps a (maEnd x1 x2 b) := by
  delta maEnd
  repeat' first
    | (with_reducible assumption)
    | (intro)
    | (with_reducible first
        | apply keeps_modDbg | refine Keeps.foldl ?_ ?_ | refine Keeps.ite ?_ ?_)
    | (fail_if_no_progress (with_reducible refine Keeps.upd ?_))
    | (fail_if_no_progress (with_reducible refine Keeps.updHold ?_ rfl))
    | split
    | (dsimp only)

theorem keeps_maRefused {a : Block} {b : Block} (x1 : ℕ) (x2 : Byte) (x3 : ℕ)
    (h : Keeps a b) : Keeps a (maRefused x1 x2 x3 b) := by
  delta maRefused
  repeat' first
    | (with_reducible assumption)
    | (intro)
    | (with_reducible first
        | apply keeps_maEnd | apply keeps_recordErr | refine Keeps.foldl ?_ ?_ | refine Keeps.ite ?_ ?_)
    | (fail_if_no_progress (with_reducible refine Keeps.upd ?_))
    | (fail_if_no_progress (with_reducible refine Keeps.updHold ?_ rfl))
    | split
    | (dsimp only)

theorem keeps_maGo {a : Block} {b : Block} (x1 : Word)
    (h : Keeps a b) : Keeps a (maGo x1 b) := by
  delta maGo
  repeat' first
    | (with_reducible assumption)
    | (intro)
    | (with_reducible first
        | apply keeps_access | apply keeps_internalRead | apply keeps_maEnd | apply keeps_maRefused | apply keeps_modDbg
        | apply keeps_recordErr | refine Keeps.foldl ?_ ?_ | refine Keeps.ite ?_ ?_)
    | (fail_if_no_progress (with_reducible refine Keeps.upd ?_))
    | (fail_if_no_progress (with_reducible refine Keeps.updHold ?_ rfl))
    | split
    | (dsimp only)

theorem keeps_periodWrite {a : Block} {b : Block} (x1 : Option ℕ) (x2 : Word)
    (h : Keeps a b) : Keeps a (periodWrite x1 x2 b) := by
  delta periodWrite
  repeat' first
    | (with_reducible assumption)
    | (intro)
    | (with_reducible first
        | apply keeps_modDbg | apply keeps_setReg | refine Keeps.foldl ?_ ?_ | refine Keeps.ite ?_ ?_)
    | (fail_if_no_progress (with_reducible refine Keeps.upd ?_))
    | (fail_if_no_progress (with_reducible refine Keeps.updHold ?_ rfl))
    | split
    | (dsimp only)

theorem keeps_modTrc {a : Block} {b : Block} (x1 : Trc → Trc)
    (h : Keeps a b) : Keeps a (modTrc x1 b) := by
  delta modTrc
  repeat' first
    | (with_reducible assumption)
    | (intro)
    | (with_reducible first
        | refine Keeps.foldl ?_ ?_ | refine Keeps.ite ?_ ?_)
    | (fail_if_no_progress (with_reducible refine Keeps.upd ?_))
    | (fail_if_no_progress (with_reducible refine Keeps.updHold ?_ rfl))
    | split
    | (dsimp only)

theorem keeps_zeroBuffer {a : Block} {b : Block} (x1 : ℕ)
    (h : Keeps a b) : Keeps a (zeroBuffer x1 b) := by
  delta zeroBuffer
  repeat' first
    | (with_reducible assumption)
    | (intro)
    | (with_reducible first
        | apply keeps_modTrc | refine Keeps.foldl ?_ ?_ | refine Keeps.ite ?_ ?_)
    | (fail_if_no_progress (with_reducible refine Keeps.upd ?_))
    | (fail_if_no_progress (with_reducible refine Keeps.updHold ?_ rfl))
    | split
    | (dsimp only)

theorem keeps_bufRun {a : Block} {b : Block} (x1 : ℕ) (x2 : ℕ) (x3 : ℕ)
    (h : Keeps a b) : Keeps a (bufRun x1 x2 x3 b).2 := by
  delta bufRun
  repeat' first
    | (with_reducible assumption)
    | (intro)
    | (with_reducible first
        | apply keeps_modTrc | apply keeps_zeroBuffer | refine Keeps.foldl ?_ ?_ | refine Keeps.ite ?_ ?_)
    | (fail_if_no_progress (with_reducible refine Keeps.upd ?_))
    | (fail_if_no_progress (with_reducible refine Keeps.updHold ?_ rfl))
    | split
    | (dsimp only)

theorem keeps_bufRun_eq {a : Block} {b : Block} {x1 : ℕ} {x2 : ℕ} {x3 : ℕ} {v} {c : Block} (e : bufRun x1 x2 x3 b = (v, c))
    (h : Keeps a b) : Keeps a c := by
  have := keeps_bufRun x1 x2 x3 h; rw [e] at this; exact this

theorem keeps_bufCmd {a : Block} {b : Block} (x1 : Word)
    (h : Keeps a b) : Keeps a (bufCmd x1 b) := by
  delta bufCmd
  repeat' first
    | (with_reducible assumption)
    | (intro)
    | (with_reducible first
        | apply keeps_bufRun | apply keeps_modTrc | apply keeps_onGo | refine keeps_bufRun_eq (by with_reducible assumption) ?_
        | refine Keeps.foldl ?_ ?_ | refine Keeps.ite ?_ ?_)
    | (fail_if_no_progress (with_reducible refine Keeps.upd ?_))
    | (fail_if_no_progress (with_reducible refine Keeps.updHold ?_ rfl))
    | split
    | (dsimp only)

theorem keeps_trcCtrl {a : Block} {b : Block} (x1 : Master) (x2 : ℕ) (x3 : Word)
    (h : Keeps a b) : Keeps a (trcCtrl x1 x2 x3 b) := by
  delta trcCtrl
  repeat' first
    | (with_reducible assumption)
    | (intro)
    | (with_reducible first
        | apply keeps_recordErr | apply keeps_setReg | refine Keeps.foldl ?_ ?_ | refine Keeps.ite ?_ ?_)
    | (fail_if_no_progress (with_reducible refine Keeps.upd ?_))
    | (fail_if_no_progress (with_reducible refine Keeps.updHold ?_ rfl))
    | split
    | (dsimp only)

theorem keeps_trcLog2 {a : Block} {b : Block} (x1 : Master) (x2 : ℕ) (x3 : Word)
    (h : Keeps a b) : Keeps a (trcLog2 x1 x2 x3 b) := by
  delta trcLog2
  repeat' first
    | (with_reducible assumption)
    | (intro)
    | (with_reducible first
        | apply keeps_recordErr | apply keeps_setReg | refine Keeps.foldl ?_ ?_ | refine Keeps.ite ?_ ?_)
    | (fail_if_no_progress (with_reducible refine Keeps.upd ?_))
    | (fail_if_no_progress (with_reducible refine Keeps.updHold ?_ rfl))
    | split
    | (dsimp only)

theorem keeps_ringWrite {a : Block} {b : Block} (x1 : ℕ) (x2 : RgnEnt) (x3 : ℕ) (x4 : ℕ) (x5 : ℕ) (x6 : List (ℕ × Bytes))
    (h : Keeps a b) : Keeps a (ringWrite x1 x2 x3 x4 x5 x6 b) := by
  induction x6 generalizing x5 b with
  | nil => rw [ringWrite]; with_reducible assumption
  | cons y ys ih =>
    first | rw [ringWrite] | (rw [ringWrite.eq_def]; dsimp -zeta only)
    repeat' first
      | (with_reducible assumption)
      | (with_reducible apply ih)
      | (intro)
      | (with_reducible first
          | apply keeps_blockWrite | refine Keeps.foldl ?_ ?_ | refine Keeps.ite ?_ ?_)
      | (fail_if_no_progress (with_reducible refine Keeps.upd ?_))
      | (fail_if_no_progress (with_reducible refine Keeps.updHold ?_ rfl))
      | split
      | (dsimp only)

theorem keeps_traceDrain {a : Block} {b : Block} (x1 : ℕ)
    (h : Keeps a b) : Keeps a (traceDrain x1 b) := by
  delta traceDrain
  repeat' first
    | (with_reducible assumption)
    | (intro)
    | (with_reducible first
        | apply keeps_modTrc | apply keeps_raise | apply keeps_recordErr | apply keeps_ringWrite | refine Keeps.foldl ?_ ?_
        | refine Keeps.ite ?_ ?_)
    | (fail_if_no_progress (with_reducible refine Keeps.upd ?_))
    | (fail_if_no_progress (with_reducible refine Keeps.updHold ?_ rfl))
    | split
    | (dsimp only)

/-! ### Mgmt -/

theorem keeps_sign {a : Block} {b : Block}
    (h : Keeps a b) : Keeps a (sign b).2 := by
  delta sign
  repeat' first
    | (with_reducible assumption)
    | (intro)
    | (with_reducible first
        | refine Keeps.foldl ?_ ?_ | refine Keeps.ite ?_ ?_)
    | (fail_if_no_progress (with_reducible refine Keeps.upd ?_))
    | (fail_if_no_progress (with_reducible refine Keeps.updHold ?_ rfl))
    | split
    | (dsimp only)

theorem keeps_sign_eq {a : Block} {b : Block}  {v} {c : Block} (e : sign b = (v, c))
    (h : Keeps a b) : Keeps a c := by
  have := keeps_sign  h; rw [e] at this; exact this

theorem keeps_chainOf {a : Block} {b : Block} (x1 : ℕ)
    (h : Keeps a b) : Keeps a (chainOf x1 b).2 := by
  delta chainOf
  repeat' first
    | (with_reducible assumption)
    | (intro)
    | (with_reducible first
        | apply keeps_sign | refine keeps_sign_eq (by with_reducible assumption) ?_ | refine Keeps.foldl ?_ ?_ | refine Keeps.ite ?_ ?_)
    | (fail_if_no_progress (with_reducible refine Keeps.upd ?_))
    | (fail_if_no_progress (with_reducible refine Keeps.updHold ?_ rfl))
    | split
    | (dsimp only)

theorem keeps_chainOf_eq {a : Block} {b : Block} {x1 : ℕ} {v} {c : Block} (e : chainOf x1 b = (v, c))
    (h : Keeps a b) : Keeps a c := by
  have := keeps_chainOf x1 h; rw [e] at this; exact this

theorem keeps_answer {a : Block} {b : Block} (x1 : Transport) (x2 : SpdmMsg)
    (h : Keeps a b) : Keeps a (answer x1 x2 b) := by
  delta answer
  repeat' first
    | (with_reducible assumption)
    | (intro)
    | (with_reducible first
        | apply keeps_emit | apply keeps_i3cCall | refine Keeps.foldl ?_ ?_ | refine Keeps.ite ?_ ?_)
    | (fail_if_no_progress (with_reducible refine Keeps.upd ?_))
    | (fail_if_no_progress (with_reducible refine Keeps.updHold ?_ rfl))
    | split
    | (dsimp only)

theorem keeps_spdm {a : Block} {b : Block} (x1 : Transport) (f2 : Block → Block)
    (hf2 : ∀ b, Keeps a b → Keeps a (f2 b)) (h : Keeps a b) : Keeps a (spdm x1 f2 b) := by
  delta spdm
  repeat' first
    | (with_reducible assumption)
    | (intro)
    | (with_reducible first
        | apply hf2 | apply keeps_answer | refine Keeps.foldl ?_ ?_ | refine Keeps.ite ?_ ?_)
    | (fail_if_no_progress (with_reducible refine Keeps.upd ?_))
    | (fail_if_no_progress (with_reducible refine Keeps.updHold ?_ rfl))
    | split
    | (dsimp only)

theorem keeps_getVersion {a : Block} {b : Block} (x1 : Transport)
    (h : Keeps a b) : Keeps a (getVersion x1 b) := by
  delta getVersion
  repeat' first
    | (with_reducible assumption)
    | (intro)
    | (with_reducible first
        | apply keeps_answer | apply keeps_spdm | refine Keeps.foldl ?_ ?_ | refine Keeps.ite ?_ ?_)
    | (fail_if_no_progress (with_reducible refine Keeps.upd ?_))
    | (fail_if_no_progress (with_reducible refine Keeps.updHold ?_ rfl))
    | split
    | (dsimp only)

theorem keeps_getCapabilities {a : Block} {b : Block} (x1 : Transport)
    (h : Keeps a b) : Keeps a (getCapabilities x1 b) := by
  delta getCapabilities
  repeat' first
    | (with_reducible assumption)
    | (intro)
    | (with_reducible first
        | apply keeps_answer | apply keeps_spdm | refine Keeps.foldl ?_ ?_ | refine Keeps.ite ?_ ?_)
    | (fail_if_no_progress (with_reducible refine Keeps.upd ?_))
    | (fail_if_no_progress (with_reducible refine Keeps.updHold ?_ rfl))
    | split
    | (dsimp only)

theorem keeps_negotiate {a : Block} {b : Block} (x1 : Transport) (x2 : List SpdmAlg)
    (h : Keeps a b) : Keeps a (negotiate x1 x2 b) := by
  delta negotiate
  repeat' first
    | (with_reducible assumption)
    | (intro)
    | (with_reducible first
        | apply keeps_answer | apply keeps_spdm | refine Keeps.foldl ?_ ?_ | refine Keeps.ite ?_ ?_)
    | (fail_if_no_progress (with_reducible refine Keeps.upd ?_))
    | (fail_if_no_progress (with_reducible refine Keeps.updHold ?_ rfl))
    | split
    | (dsimp only)

theorem keeps_getDigests {a : Block} {b : Block} (x1 : Transport)
    (h : Keeps a b) : Keeps a (getDigests x1 b) := by
  delta getDigests
  repeat' first
    | (with_reducible assumption)
    | (intro)
    | (with_reducible first
        | apply keeps_answer | apply keeps_spdm | refine Keeps.foldl ?_ ?_ | refine Keeps.ite ?_ ?_)
    | (fail_if_no_progress (with_reducible refine Keeps.upd ?_))
    | (fail_if_no_progress (with_reducible refine Keeps.updHold ?_ rfl))
    | split
    | (dsimp only)

theorem keeps_getCertificate {a : Block} {b : Block} (x1 : Transport) (x2 : ℕ)
    (h : Keeps a b) : Keeps a (getCertificate x1 x2 b) := by
  delta getCertificate
  repeat' first
    | (with_reducible assumption)
    | (intro)
    | (with_reducible first
        | apply keeps_answer | apply keeps_chainOf | apply keeps_spdm | refine keeps_chainOf_eq (by with_reducible assumption) ?_
        | refine Keeps.foldl ?_ ?_ | refine Keeps.ite ?_ ?_)
    | (fail_if_no_progress (with_reducible refine Keeps.upd ?_))
    | (fail_if_no_progress (with_reducible refine Keeps.updHold ?_ rfl))
    | split
    | (dsimp only)

theorem keeps_challenge {a : Block} {b : Block} (x1 : Transport) (x2 : ℕ)
    (h : Keeps a b) : Keeps a (challenge x1 x2 b) := by
  delta challenge
  repeat' first
    | (with_reducible assumption)
    | (intro)
    | (with_reducible first
        | apply keeps_answer | apply keeps_draw | apply keeps_sign | apply keeps_spdm
        | refine keeps_draw_eq (by with_reducible assumption) ?_ | refine keeps_sign_eq (by with_reducible assumption) ?_
        | refine Keeps.foldl ?_ ?_ | refine Keeps.ite ?_ ?_)
    | (fail_if_no_progress (with_reducible refine Keeps.upd ?_))
    | (fail_if_no_progress (with_reducible refine Keeps.updHold ?_ rfl))
    | split
    | (dsimp only)

theorem keeps_inSession {a : Block} {b : Block} (x1 : MgmtSrc) (f2 : ℕ → Session → Block → Block)
    (hf2 : ∀ y0 y1 b, Keeps a b → Keeps a (f2 y0 y1 b)) (h : Keeps a b) : Keeps a (inSession x1 f2 b) := by
  delta inSession
  repeat' first
    | (with_reducible assumption)
    | (intro)
    | (with_reducible first
        | apply hf2 | apply keeps_answer | apply keeps_recordErr | apply keeps_spdm | refine Keeps.foldl ?_ ?_ | refine Keeps.ite ?_ ?_)
    | (fail_if_no_progress (with_reducible refine Keeps.upd ?_))
    | (fail_if_no_progress (with_reducible refine Keeps.updHold ?_ rfl))
    | split
    | (dsimp only)

theorem keeps_getMeasurements {a : Block} {b : Block} (x1 : MgmtSrc) (x2 : ℕ) (h : Keeps a b) : Keeps a (getMeasurements x1 x2 b) := by
  rw [getMeasurements]
  obtain ⟨_ | i, t⟩ := x1
  · exact keeps_spdm _ _ (fun _ h => keeps_answer _ _ h) h
  · exact keeps_inSession _ _ (fun _ _ _ h => keeps_answer _ _ h) h

theorem keeps_keyExchange {a : Block} {b : Block} (x1 : Transport) (x2 : Byte) (x3 : ℕ) (x4 : BitVec 16) (x5 : Bytes)
    (h : Keeps a b) : Keeps a (keyExchange x1 x2 x3 x4 x5 b) := by
  delta keyExchange
  repeat' first
    | (with_reducible assumption)
    | (intro)
    | (with_reducible first
        | apply keeps_answer | apply keeps_draw | apply keeps_raise | apply keeps_sign | apply keeps_spdm
        | refine keeps_draw_eq (by with_reducible assumption) ?_ | refine keeps_sign_eq (by with_reducible assumption) ?_
        | refine Keeps.foldl ?_ ?_ | refine Keeps.ite ?_ ?_)
    | (fail_if_no_progress (with_reducible refine Keeps.upd ?_))
    | (fail_if_no_progress (with_reducible refine Keeps.updHold ?_ rfl))
    | split
    | (dsimp only)

theorem keeps_finish {a : Block} {b : Block} (x1 : MgmtSrc) (x2 : Bytes) (x3 : Bool)
    (h : Keeps a b) : Keeps a (finish x1 x2 x3 b) := by
  delta finish
  repeat' first
    | (with_reducible assumption)
    | (intro)
    | (with_reducible first
        | apply keeps_answer | apply keeps_endSession | apply keeps_inSession | apply keeps_modSession | refine Keeps.foldl ?_ ?_
        | refine Keeps.ite ?_ ?_)
    | (fail_if_no_progress (with_reducible refine Keeps.upd ?_))
    | (fail_if_no_progress (with_reducible refine Keeps.updHold ?_ rfl))
    | split
    | (dsimp only)

theorem keeps_secured {a : Block} {b : Block} (x1 : MgmtSrc) (f2 : ℕ → Session → Block → Block)
    (hf2 : ∀ y0 y1 b, Keeps a b → Keeps a (f2 y0 y1 b)) (h : Keeps a b) : Keeps a (secured x1 f2 b) := by
  delta secured
  repeat' first
    | (with_reducible assumption)
    | (intro)
    | (with_reducible first
        | apply hf2 | apply keeps_answer | apply keeps_inSession | refine Keeps.foldl ?_ ?_ | refine Keeps.ite ?_ ?_)
    | (fail_if_no_progress (with_reducible refine Keeps.upd ?_))
    | (fail_if_no_progress (with_reducible refine Keeps.updHold ?_ rfl))
    | split
    | (dsimp only)

theorem keeps_keyUpdate {a : Block} {b : Block} (x1 : MgmtSrc)
    (h : Keeps a b) : Keeps a (keyUpdate x1 b) := by
  delta keyUpdate
  repeat' first
    | (with_reducible assumption)
    | (intro)
    | (with_reducible first
        | apply keeps_answer | apply keeps_modSession | apply keeps_secured | refine Keeps.foldl ?_ ?_ | refine Keeps.ite ?_ ?_)
    | (fail_if_no_progress (with_reducible refine Keeps.upd ?_))
    | (fail_if_no_progress (with_reducible refine Keeps.updHold ?_ rfl))
    | split
    | (dsimp only)

theorem keeps_heartbeat {a : Block} {b : Block} (x1 : MgmtSrc)
    (h : Keeps a b) : Keeps a (heartbeat x1 b) := by
  delta heartbeat
  repeat' first
    | (with_reducible assumption)
    | (intro)
    | (with_reducible first
        | apply keeps_answer | apply keeps_secured | refine Keeps.foldl ?_ ?_ | refine Keeps.ite ?_ ?_)
    | (fail_if_no_progress (with_reducible refine Keeps.upd ?_))
    | (fail_if_no_progress (with_reducible refine Keeps.updHold ?_ rfl))
    | split
    | (dsimp only)

theorem keeps_spdmEnd {a : Block} {b : Block} (x1 : MgmtSrc)
    (h : Keeps a b) : Keeps a (spdmEnd x1 b) := by
  delta spdmEnd
  repeat' first
    | (with_reducible assumption)
    | (intro)
    | (with_reducible first
        | apply keeps_answer | apply keeps_endSession | apply keeps_secured | refine Keeps.foldl ?_ ?_ | refine Keeps.ite ?_ ?_)
    | (fail_if_no_progress (with_reducible refine Keeps.upd ?_))
    | (fail_if_no_progress (with_reducible refine Keeps.updHold ?_ rfl))
    | split
    | (dsimp only)

theorem keeps_hostResumes {a : Block} {b : Block} (x1 : Block)
    (h : Keeps a b) : Keeps a (hostResumes x1 b) := by
  delta hostResumes
  repeat' first
    | (with_reducible assumption)
    | (intro)
    | (with_reducible first
        | apply keeps_raise | apply keeps_resumePort | refine Keeps.foldl ?_ ?_ | refine Keeps.ite ?_ ?_)
    | (fail_if_no_progress (with_reducible refine Keeps.upd ?_))
    | (fail_if_no_progress (with_reducible refine Keeps.updHold ?_ rfl))
    | split
    | (dsimp only)

theorem keeps_ideKm {a : Block} {b : Block} (x1 : MgmtSrc) (x2 : ℕ) (x3 : ℕ) (x4 : Option (BitVec 256))
    (h : Keeps a b) : Keeps a (ideKm x1 x2 x3 x4 b) := by
  delta ideKm
  repeat' first
    | (with_reducible assumption)
    | (intro)
    | (with_reducible first
        | apply keeps_answer | apply keeps_emit | apply keeps_hostResumes | apply keeps_modMgmt | apply keeps_secured
        | refine Keeps.foldl ?_ ?_ | refine Keeps.ite ?_ ?_)
    | (fail_if_no_progress (with_reducible refine Keeps.upd ?_))
    | (fail_if_no_progress (with_reducible refine Keeps.updHold ?_ rfl))
    | split
    | (dsimp only)

theorem keeps_setTdi {a : Block} {b : Block} (x1 : ℕ) (x2 : TdiState)
    (h : Keeps a b) : Keeps a (setTdi x1 x2 b) := by
  delta setTdi
  repeat' first
    | (with_reducible assumption)
    | (intro)
    | (with_reducible first
        | apply keeps_modMgmt | refine Keeps.foldl ?_ ?_ | refine Keeps.ite ?_ ?_)
    | (fail_if_no_progress (with_reducible refine Keeps.upd ?_))
    | (fail_if_no_progress (with_reducible refine Keeps.updHold ?_ rfl))
    | split
    | (dsimp only)

theorem keeps_lockInterface {a : Block} {b : Block} (x1 : ℕ) (x2 : TdiLock)
    (h : Keeps a b) : Keeps a (lockInterface x1 x2 b) := by
  delta lockInterface
  repeat' first
    | (with_reducible assumption)
    | (intro)
    | (with_reducible first
        | apply keeps_draw | apply keeps_emit | apply keeps_modMgmt | apply keeps_setTdi
        | refine keeps_draw_eq (by with_reducible assumption) ?_ | refine Keeps.foldl ?_ ?_ | refine Keeps.ite ?_ ?_)
    | (fail_if_no_progress (with_reducible refine Keeps.upd ?_))
    | (fail_if_no_progress (with_reducible refine Keeps.updHold ?_ rfl))
    | split
    | (dsimp only)

theorem keeps_interfaceReport {a : Block} {b : Block} (x1 : ℕ) (x2 : TdiQuery)
    (h : Keeps a b) : Keeps a (interfaceReport x1 x2 b) := by
  delta interfaceReport
  repeat' first
    | (with_reducible assumption)
    | (intro)
    | (with_reducible first
        | apply keeps_emit | refine Keeps.foldl ?_ ?_ | refine Keeps.ite ?_ ?_)
    | (fail_if_no_progress (with_reducible refine Keeps.upd ?_))
    | (fail_if_no_progress (with_reducible refine Keeps.updHold ?_ rfl))
    | split
    | (dsimp only)

theorem keeps_takeI3c {a : Block} {b : Block} (x1 : ℕ)
    (h : Keeps a b) : Keeps a (takeI3c x1 b) := by
  delta takeI3c
  repeat' first
    | (with_reducible assumption)
    | (intro)
    | (with_reducible first
        | apply keeps_emit | apply keeps_modMgmt | refine Keeps.foldl ?_ ?_ | refine Keeps.ite ?_ ?_)
    | (fail_if_no_progress (with_reducible refine Keeps.upd ?_))
    | (fail_if_no_progress (with_reducible refine Keeps.updHold ?_ rfl))
    | split
    | (dsimp only)

theorem keeps_denkanReply {a : Block} {b : Block} (x1 : MgmtSrc) (x2 : ℕ) (x3 : BitVec 16) (x4 : Byte) (x5 : Bytes)
    (h : Keeps a b) : Keeps a (denkanReply x1 x2 x3 x4 x5 b) := by
  delta denkanReply
  repeat' first
    | (with_reducible assumption)
    | (intro)
    | (with_reducible first
        | apply keeps_emit | apply keeps_i3cCall | refine Keeps.foldl ?_ ?_ | refine Keeps.ite ?_ ?_)
    | (fail_if_no_progress (with_reducible refine Keeps.upd ?_))
    | (fail_if_no_progress (with_reducible refine Keeps.updHold ?_ rfl))
    | split
    | (dsimp only)

theorem keeps_replyNow {a : Block} {b : Block} (x1 : Byte) (x2 : Bytes)
    (h : Keeps a b) : Keeps a (replyNow x1 x2 b).2 := by
  delta replyNow
  repeat' first
    | (with_reducible assumption)
    | (intro)
    | (with_reducible first
        | refine Keeps.foldl ?_ ?_ | refine Keeps.ite ?_ ?_)
    | (fail_if_no_progress (with_reducible refine Keeps.upd ?_))
    | (fail_if_no_progress (with_reducible refine Keeps.updHold ?_ rfl))
    | split
    | (dsimp only)

theorem keeps_replyNow_eq {a : Block} {b : Block} {x1 : Byte} {x2 : Bytes} {v} {c : Block} (e : replyNow x1 x2 b = (v, c))
    (h : Keeps a b) : Keeps a c := by
  have := keeps_replyNow x1 x2 h; rw [e] at this; exact this

theorem keeps_denkanRun {a : Block} {b : Block} (x1 : MgmtSrc) (x2 : DenkanHdr) (x3 : ℕ) (f : Block → Denkan)
    (hf : ∀ b, Keeps a b → Keeps a (f b).2) (h : Keeps a b) : Keeps a (denkanRun x1 x2 x3 f b) := by
  have := hf _ h
  rw [denkanRun]
  split
  · exact keeps_denkanReply _ _ _ _ _ h
  · split
    · exact keeps_denkanReply _ _ _ _ _ h
    · split
      all_goals
        rename_i e
        rw [e] at this
      · exact keeps_denkanReply _ _ _ _ _ this
      · exact this

theorem keeps_denkan {a : Block} {b : Block} (x1 : MgmtSrc) (x2 : DenkanHdr) (x3 : ℕ) (f4 : Option (Fin 16) → Block → Denkan)
    (hf4 : ∀ y0 b, Keeps a b → Keeps a (f4 y0 b).2) (h : Keeps a b) : Keeps a (denkan x1 x2 x3 f4 b) := by
  delta denkan
  repeat' first
    | (with_reducible assumption)
    | (intro)
    | (with_reducible first
        | apply hf4 | apply keeps_denkanReply | apply keeps_denkanRun | apply keeps_secured | refine Keeps.foldl ?_ ?_
        | refine Keeps.ite ?_ ?_)
    | (fail_if_no_progress (with_reducible refine Keeps.upd ?_))
    | (fail_if_no_progress (with_reducible refine Keeps.updHold ?_ rfl))
    | split
    | (dsimp only)

theorem keeps_needSession {a : Block} {b : Block} (x1 : Byte) (f2 : ℕ → Block → Denkan) (x3 : Option (Fin 16))
    (hf2 : ∀ y0 b, Keeps a b → Keeps a (f2 y0 b).2) (h : Keeps a b) : Keeps a (needSession x1 f2 x3 b).2 := by
  delta needSession
  repeat' first
    | (with_reducible assumption)
    | (intro)
    | (with_reducible first
        | apply hf2 | apply keeps_replyNow | refine keeps_replyNow_eq (by with_reducible assumption) ?_ | refine Keeps.foldl ?_ ?_
        | refine Keeps.ite ?_ ?_)
    | (fail_if_no_progress (with_reducible refine Keeps.upd ?_))
    | (fail_if_no_progress (with_reducible refine Keeps.updHold ?_ rfl))
    | split
    | (dsimp only)

theorem keeps_needSession_eq {a : Block} {b : Block} {x1 : Byte} {f2 : ℕ → Block → Denkan} {x3 : Option (Fin 16)} {v} {c : Block} (e : needSession x1 f2 x3 b = (v, c))
    (hf2 : ∀ y0 b, Keeps a b → Keeps a (f2 y0 b).2) (h : Keeps a b) : Keeps a c := by
  have := keeps_needSession x1 f2 x3 hf2 h; rw [e] at this; exact this

theorem keeps_realmAuth {a : Block} {b : Block} (x1 : MgmtSrc) (x2 : DenkanHdr) (x3 : Bytes) (x4 : Bytes)
    (h : Keeps a b) : Keeps a (realmAuth x1 x2 x3 x4 b) := by
  delta realmAuth
  repeat' first
    | (with_reducible assumption)
    | (intro)
    | (with_reducible first
        | apply keeps_denkan | apply keeps_modSession | apply keeps_needSession | apply keeps_replyNow
        | refine keeps_needSession_eq (by with_reducible assumption) ?_ ?_ | refine keeps_replyNow_eq (by with_reducible assumption) ?_
        | refine Keeps.foldl ?_ ?_ | refine Keeps.ite ?_ ?_)
    | (fail_if_no_progress (with_reducible refine Keeps.upd ?_))
    | (fail_if_no_progress (with_reducible refine Keeps.updHold ?_ rfl))
    | split
    | (dsimp only)

theorem keeps_startRun {a : Block} {b : Block} (f1 : OtpFollow) (x2 : OtpJob) (x3 : List (ℕ × BitVec 39))
    (hf1 : ∀ y0 b, Keeps a b → Keeps a (f1 y0 b)) (h : Keeps a b) : Keeps a (startRun f1 x2 x3 b) := by
  delta startRun
  repeat' first
    | (with_reducible assumption)
    | (intro)
    | (with_reducible first
        | apply hf1 | apply keeps_otpAdvance | apply keeps_pushRun | refine Keeps.foldl ?_ ?_ | refine Keeps.ite ?_ ?_)
    | (fail_if_no_progress (with_reducible refine Keeps.upd ?_))
    | (fail_if_no_progress (with_reducible refine Keeps.updHold ?_ rfl))
    | split
    | (dsimp only)

theorem keeps_enroll {a : Block} {b : Block} (f1 : OtpFollow) (x2 : MgmtSrc) (x3 : DenkanHdr) (x4 : Bytes) (x5 : Word)
    (hf1 : ∀ y0 b, Keeps a b → Keeps a (f1 y0 b)) (h : Keeps a b) : Keeps a (enroll f1 x2 x3 x4 x5 b) := by
  delta enroll
  repeat' first
    | (with_reducible assumption)
    | (intro)
    | (with_reducible first
        | apply hf1 | apply keeps_denkan | apply keeps_needSession | apply keeps_replyNow | apply keeps_startRun
        | refine keeps_needSession_eq (by with_reducible assumption) ?_ ?_ | refine keeps_replyNow_eq (by with_reducible assumption) ?_
        | refine Keeps.foldl ?_ ?_ | refine Keeps.ite ?_ ?_)
    | (fail_if_no_progress (with_reducible refine Keeps.upd ?_))
    | (fail_if_no_progress (with_reducible refine Keeps.updHold ?_ rfl))
    | split
    | (dsimp only)

theorem keeps_revoke {a : Block} {b : Block} (f1 : OtpFollow) (x2 : MgmtSrc) (x3 : DenkanHdr) (x4 : ℕ)
    (hf1 : ∀ y0 b, Keeps a b → Keeps a (f1 y0 b)) (h : Keeps a b) : Keeps a (revoke f1 x2 x3 x4 b) := by
  delta revoke
  repeat' first
    | (with_reducible assumption)
    | (intro)
    | (with_reducible first
        | apply hf1 | apply keeps_denkan | apply keeps_endSession | apply keeps_needSession | apply keeps_replyNow | apply keeps_startRun
        | refine keeps_needSession_eq (by with_reducible assumption) ?_ ?_ | refine keeps_replyNow_eq (by with_reducible assumption) ?_
        | refine Keeps.foldl ?_ ?_ | refine Keeps.ite ?_ ?_)
    | (fail_if_no_progress (with_reducible refine Keeps.upd ?_))
    | (fail_if_no_progress (with_reducible refine Keeps.updHold ?_ rfl))
    | split
    | (dsimp only)

theorem keeps_endRevoked {a : Block} {b : Block} (x1 : MgmtSrc)
    (h : Keeps a b) : Keeps a (endRevoked x1 b) := by
  delta endRevoked
  repeat' first
    | (with_reducible assumption)
    | (intro)
    | (with_reducible first
        | apply keeps_endSession | refine Keeps.foldl ?_ ?_ | refine Keeps.ite ?_ ?_)
    | (fail_if_no_progress (with_reducible refine Keeps.upd ?_))
    | (fail_if_no_progress (with_reducible refine Keeps.updHold ?_ rfl))
    | split
    | (dsimp only)

theorem keeps_slotCmd {a : Block} {b : Block} (x1 : Word)
    (h : Keeps a b) : Keeps a (slotCmd x1 b) := by
  delta slotCmd
  repeat' first
    | (with_reducible assumption)
    | (intro)
    | (with_reducible first
        | apply keeps_bindSlotTo | apply keeps_modMgmt | apply keeps_onGo | apply keeps_releaseSlot | refine Keeps.foldl ?_ ?_
        | refine Keeps.ite ?_ ?_)
    | (fail_if_no_progress (with_reducible refine Keeps.upd ?_))
    | (fail_if_no_progress (with_reducible refine Keeps.updHold ?_ rfl))
    | split
    | (dsimp only)

theorem keeps_patchBegin {a : Block} {b : Block} (x1 : MgmtSrc) (x2 : DenkanHdr) (x3 : ℕ)
    (h : Keeps a b) : Keeps a (patchBegin x1 x2 x3 b) := by
  delta patchBegin
  repeat' first
    | (with_reducible assumption)
    | (intro)
    | (with_reducible first
        | apply keeps_denkan | apply keeps_modMgmt | apply keeps_needSession | apply keeps_replyNow
        | refine keeps_needSession_eq (by with_reducible assumption) ?_ ?_ | refine keeps_replyNow_eq (by with_reducible assumption) ?_
        | refine Keeps.foldl ?_ ?_ | refine Keeps.ite ?_ ?_)
    | (fail_if_no_progress (with_reducible refine Keeps.upd ?_))
    | (fail_if_no_progress (with_reducible refine Keeps.updHold ?_ rfl))
    | split
    | (dsimp only)

theorem keeps_patchData {a : Block} {b : Block} (x1 : MgmtSrc) (x2 : DenkanHdr) (x3 : ℕ) (x4 : Bytes)
    (h : Keeps a b) : Keeps a (patchData x1 x2 x3 x4 b) := by
  delta patchData
  repeat' first
    | (with_reducible assumption)
    | (intro)
    | (with_reducible first
        | apply keeps_denkan | apply keeps_modMgmt | apply keeps_needSession | apply keeps_replyNow
        | refine keeps_needSession_eq (by with_reducible assumption) ?_ ?_ | refine keeps_replyNow_eq (by with_reducible assumption) ?_
        | refine Keeps.foldl ?_ ?_ | refine Keeps.ite ?_ ?_)
    | (fail_if_no_progress (with_reducible refine Keeps.upd ?_))
    | (fail_if_no_progress (with_reducible refine Keeps.updHold ?_ rfl))
    | split
    | (dsimp only)

theorem keeps_askActivate {a : Block} {b : Block} (x1 : Bool) (x2 : Bool)
    (h : Keeps a b) : Keeps a (askActivate x1 x2 b).2 := by
  delta askActivate
  repeat' first
    | (with_reducible assumption)
    | (intro)
    | (with_reducible first
        | apply keeps_modMgmt | apply keeps_replyNow | refine keeps_replyNow_eq (by with_reducible assumption) ?_
        | refine Keeps.foldl ?_ ?_ | refine Keeps.ite ?_ ?_)
    | (fail_if_no_progress (with_reducible refine Keeps.upd ?_))
    | (fail_if_no_progress (with_reducible refine Keeps.updHold ?_ rfl))
    | split
    | (dsimp only)

theorem keeps_askActivate_eq {a : Block} {b : Block} {x1 : Bool} {x2 : Bool} {v} {c : Block} (e : askActivate x1 x2 b = (v, c))
    (h : Keeps a b) : Keeps a c := by
  have := keeps_askActivate x1 x2 h; rw [e] at this; exact this

theorem keeps_patchEnd {a : Block} {b : Block} (x1 : MgmtSrc) (x2 : DenkanHdr) (x3 : Bool) (x4 : Bool)
    (h : Keeps a b) : Keeps a (patchEnd x1 x2 x3 x4 b) := by
  delta patchEnd
  repeat' first
    | (with_reducible assumption)
    | (intro)
    | (with_reducible first
        | apply keeps_askActivate | apply keeps_denkan | apply keeps_modMgmt | apply keeps_needSession | apply keeps_raise
        | apply keeps_replyNow | refine keeps_askActivate_eq (by with_reducible assumption) ?_
        | refine keeps_needSession_eq (by with_reducible assumption) ?_ ?_ | refine keeps_replyNow_eq (by with_reducible assumption) ?_
        | refine Keeps.foldl ?_ ?_ | refine Keeps.ite ?_ ?_)
    | (fail_if_no_progress (with_reducible refine Keeps.upd ?_))
    | (fail_if_no_progress (with_reducible refine Keeps.updHold ?_ rfl))
    | split
    | (dsimp only)

theorem keeps_activationFails {a : Block} {b : Block} (x1 : Byte)
    (h : Keeps a b) : Keeps a (activationFails x1 b) := by
  delta activationFails
  repeat' first
    | (with_reducible assumption)
    | (intro)
    | (with_reducible first
        | apply keeps_modMgmt | apply keeps_raise | refine Keeps.foldl ?_ ?_ | refine Keeps.ite ?_ ?_)
    | (fail_if_no_progress (with_reducible refine Keeps.upd ?_))
    | (fail_if_no_progress (with_reducible refine Keeps.updHold ?_ rfl))
    | split
    | (dsimp only)

theorem keeps_restartPatchLost {a : Block} {b : Block}
    (h : Keeps a b) : Keeps a (restartPatchLost b) := by
  delta restartPatchLost
  repeat' first
    | (with_reducible assumption)
    | (intro)
    | (with_reducible first
        | apply keeps_modCore | apply keeps_stopServing | refine Keeps.foldl ?_ ?_ | refine Keeps.ite ?_ ?_)
    | (fail_if_no_progress (with_reducible refine Keeps.upd ?_))
    | (fail_if_no_progress (with_reducible refine Keeps.updHold ?_ rfl))
    | split
    | (dsimp only)

theorem keeps_activateNew {a : Block} {b : Block}
    (h : Keeps a b) : Keeps a (activateNew b) := by
  delta activateNew
  repeat' first
    | (with_reducible assumption)
    | (intro)
    | (with_reducible first
        | apply keeps_activationFails | apply keeps_modMgmt | apply keeps_raise | apply keeps_selfRestart | refine Keeps.foldl ?_ ?_
        | refine Keeps.ite ?_ ?_)
    | (fail_if_no_progress (with_reducible refine Keeps.upd ?_))
    | (fail_if_no_progress (with_reducible refine Keeps.updHold ?_ rfl))
    | split
    | (dsimp only)

theorem keeps_patchActivate {a : Block} {b : Block} (f1 : OtpFollow)
    (hf1 : ∀ y0 b, Keeps a b → Keeps a (f1 y0 b)) (h : Keeps a b) : Keeps a (patchActivate f1 b) := by
  delta patchActivate
  repeat' first
    | (with_reducible assumption)
    | (intro)
    | (with_reducible first
        | apply hf1 | apply keeps_activateNew | apply keeps_activationFails | apply keeps_modMgmt | apply keeps_raise
        | apply keeps_restartPatchLost | apply keeps_startRun | refine Keeps.foldl ?_ ?_ | refine Keeps.ite ?_ ?_)
    | (fail_if_no_progress (with_reducible refine Keeps.upd ?_))
    | (fail_if_no_progress (with_reducible refine Keeps.updHold ?_ rfl))
    | split
    | (dsimp only)

theorem keeps_otpFollow {a : Block} {b : Block} (x1 : OtpJob)
    (h : Keeps a b) : Keeps a (otpFollow x1 b) := by
  delta otpFollow
  repeat' first
    | (with_reducible assumption)
    | (intro)
    | (with_reducible first
        | apply keeps_activateNew | apply keeps_denkanReply | apply keeps_endRevoked | refine Keeps.foldl ?_ ?_ | refine Keeps.ite ?_ ?_)
    | (fail_if_no_progress (with_reducible refine Keeps.upd ?_))
    | (fail_if_no_progress (with_reducible refine Keeps.updHold ?_ rfl))
    | split
    | (dsimp only)

theorem keeps_otpFails {a : Block} {b : Block} (x1 : OtpJob)
    (h : Keeps a b) : Keeps a (otpFails x1 b) := by
  delta otpFails
  repeat' first
    | (with_reducible assumption)
    | (intro)
    | (with_reducible first
        | apply keeps_activationFails | apply keeps_denkanReply | apply keeps_endRevoked | refine Keeps.foldl ?_ ?_
        | refine Keeps.ite ?_ ?_)
    | (fail_if_no_progress (with_reducible refine Keeps.upd ?_))
    | (fail_if_no_progress (with_reducible refine Keeps.updHold ?_ rfl))
    | split
    | (dsimp only)

theorem keeps_denkanRewrap {a : Block} {b : Block} (x1 : MgmtSrc) (x2 : DenkanHdr) (x3 : Word) (x4 : ℕ) (x5 : ℕ) (x6 : ℕ)
    (h : Keeps a b) : Keeps a (denkanRewrap x1 x2 x3 x4 x5 x6 b) := by
  delta denkanRewrap
  repeat' first
    | (with_reducible assumption)
    | (intro)
    | (with_reducible first
        | apply keeps_denkan | apply keeps_modGse | apply keeps_needSession | apply keeps_replyNow
        | refine keeps_needSession_eq (by with_reducible assumption) ?_ ?_ | refine keeps_replyNow_eq (by with_reducible assumption) ?_
        | refine Keeps.foldl ?_ ?_ | refine Keeps.ite ?_ ?_)
    | (fail_if_no_progress (with_reducible refine Keeps.upd ?_))
    | (fail_if_no_progress (with_reducible refine Keeps.updHold ?_ rfl))
    | split
    | (dsimp only)

theorem keeps_denkanDone {a : Block} {b : Block} (x1 : MgmtSrc) (x2 : BitVec 16) (x3 : Byte)
    (h : Keeps a b) : Keeps a (denkanDone x1 x2 x3 b) := by
  delta denkanDone
  repeat' first
    | (with_reducible assumption)
    | (intro)
    | (with_reducible first
        | apply keeps_denkanReply | refine Keeps.foldl ?_ ?_ | refine Keeps.ite ?_ ?_)
    | (fail_if_no_progress (with_reducible refine Keeps.upd ?_))
    | (fail_if_no_progress (with_reducible refine Keeps.updHold ?_ rfl))
    | split
    | (dsimp only)

/-! ### Registers -/

theorem keeps_headerWrite {a : Block} {b : Block} (x1 : Master) (x2 : ℕ) (x3 : ℕ) (x4 : Word)
    (h : Keeps a b) : Keeps a (headerWrite x1 x2 x3 x4 b) := by
  delta headerWrite
  repeat' first
    | (with_reducible assumption)
    | (intro)
    | (with_reducible first
        | apply keeps_modPage | apply keeps_pageCtrlWrite | apply keeps_recordErr | refine Keeps.foldl ?_ ?_ | refine Keeps.ite ?_ ?_)
    | (fail_if_no_progress (with_reducible refine Keeps.upd ?_))
    | (fail_if_no_progress (with_reducible refine Keeps.updHold ?_ rfl))
    | split
    | (dsimp only)

theorem keeps_tickRead {a : Block} {b : Block} (x1 : Master)
    (h : Keeps a b) : Keeps a (tickRead x1 b).2 := by
  delta tickRead
  repeat' first
    | (with_reducible assumption)
    | (intro)
    | (with_reducible first
        | apply keeps_setLatch | refine Keeps.foldl ?_ ?_ | refine Keeps.ite ?_ ?_)
    | (fail_if_no_progress (with_reducible refine Keeps.upd ?_))
    | (fail_if_no_progress (with_reducible refine Keeps.updHold ?_ rfl))
    | split
    | (dsimp only)

theorem keeps_tickRead_eq {a : Block} {b : Block} {x1 : Master} {v} {c : Block} (e : tickRead x1 b = (v, c))
    (h : Keeps a b) : Keeps a c := by
  have := keeps_tickRead x1 h; rw [e] at this; exact this

theorem keeps_doRead {a : Block} {b : Block} (x1 : Master) (x2 : ℕ) (x3 : ℕ)
    (h : Keeps a b) : Keeps a (doRead x1 x2 x3 b).2 := by
  delta doRead
  repeat' first
    | (with_reducible assumption)
    | (intro)
    | (with_reducible first
        | apply keeps_eccPop | apply keeps_gsePop | apply keeps_lcsNonce | apply keeps_memData | apply keeps_recPop | apply keeps_tickRead
        | apply keeps_touchStage | refine keeps_eccPop_eq (by with_reducible assumption) ?_
        | refine keeps_gsePop_eq (by with_reducible assumption) ?_ | refine keeps_lcsNonce_eq (by with_reducible assumption) ?_
        | refine keeps_memData_eq (by with_reducible assumption) ?_ | refine keeps_recPop_eq (by with_reducible assumption) ?_
        | refine keeps_tickRead_eq (by with_reducible assumption) ?_ | refine Keeps.foldl ?_ ?_ | refine Keeps.ite ?_ ?_)
    | (fail_if_no_progress (with_reducible refine Keeps.upd ?_))
    | (fail_if_no_progress (with_reducible refine Keeps.updHold ?_ rfl))
    | split
    | (dsimp only)

theorem keeps_doRead_eq {a : Block} {b : Block} {x1 : Master} {x2 : ℕ} {x3 : ℕ} {v} {c : Block} (e : doRead x1 x2 x3 b = (v, c))
    (h : Keeps a b) : Keeps a c := by
  have := keeps_doRead x1 x2 x3 h; rw [e] at this; exact this

theorem keeps_lcsGo {a : Block} {b : Block} (x1 : Master) (x2 : Word)
    (h : Keeps a b) : Keeps a (lcsGo x1 x2 b) := by
  delta lcsGo
  repeat' first
    | (with_reducible assumption)
    | (intro)
    | (with_reducible first
        | apply keeps_lcsRequest | apply keeps_onGo | apply keeps_otpAdvance | apply keeps_otpFollow | refine Keeps.foldl ?_ ?_
        | refine Keeps.ite ?_ ?_)
    | (fail_if_no_progress (with_reducible refine Keeps.upd ?_))
    | (fail_if_no_progress (with_reducible refine Keeps.updHold ?_ rfl))
    | split
    | (dsimp only)

theorem keeps_lcsWrite {a : Block} {b : Block} (x1 : Master) (x2 : ℕ) (x3 : Word)
    (h : Keeps a b) : Keeps a (lcsWrite x1 x2 x3 b) := by
  delta lcsWrite
  repeat' first
    | (with_reducible assumption)
    | (intro)
    | (with_reducible first
        | apply keeps_lcsData | apply keeps_lcsGo | apply keeps_lcsToken | refine Keeps.foldl ?_ ?_ | refine Keeps.ite ?_ ?_)
    | (fail_if_no_progress (with_reducible refine Keeps.upd ?_))
    | (fail_if_no_progress (with_reducible refine Keeps.updHold ?_ rfl))
    | split
    | (dsimp only)

theorem keeps_kstgWrite {a : Block} {b : Block} (x1 : Master) (x2 : ℕ) (x3 : Word)
    (h : Keeps a b) : Keeps a (kstgWrite x1 x2 x3 b) := by
  delta kstgWrite
  repeat' first
    | (with_reducible assumption)
    | (intro)
    | (with_reducible first
        | apply keeps_kstgBlobWrite | apply keeps_kstgCmd | apply keeps_kstgKeyWrite | apply keeps_kstgSetup | refine Keeps.foldl ?_ ?_
        | refine Keeps.ite ?_ ?_)
    | (fail_if_no_progress (with_reducible refine Keeps.upd ?_))
    | (fail_if_no_progress (with_reducible refine Keeps.updHold ?_ rfl))
    | split
    | (dsimp only)

theorem keeps_gseWrite {a : Block} {b : Block} (x1 : ℕ) (x2 : Word)
    (h : Keeps a b) : Keeps a (gseWrite x1 x2 b) := by
  delta gseWrite
  repeat' first
    | (with_reducible assumption)
    | (intro)
    | (with_reducible first
        | apply keeps_gseSubmit | apply keeps_modGse | refine Keeps.foldl ?_ ?_ | refine Keeps.ite ?_ ?_)
    | (fail_if_no_progress (with_reducible refine Keeps.upd ?_))
    | (fail_if_no_progress (with_reducible refine Keeps.updHold ?_ rfl))
    | split
    | (dsimp only)

theorem keeps_lnkcWrite {a : Block} {b : Block} (x1 : ℕ) (x2 : Word)
    (h : Keeps a b) : Keeps a (lnkcWrite x1 x2 b) := by
  delta lnkcWrite
  repeat' first
    | (with_reducible assumption)
    | (intro)
    | (with_reducible first
        | apply keeps_setGkm | apply keeps_setReg | apply keeps_startProves | refine Keeps.foldl ?_ ?_ | refine Keeps.ite ?_ ?_)
    | (fail_if_no_progress (with_reducible refine Keeps.upd ?_))
    | (fail_if_no_progress (with_reducible refine Keeps.updHold ?_ rfl))
    | split
    | (dsimp only)

theorem keeps_lndWrite {a : Block} {b : Block} (x1 : Master) (x2 : ℕ) (x3 : ℕ) (x4 : Word)
    (h : Keeps a b) : Keeps a (lndWrite x1 x2 x3 x4 b) := by
  delta lndWrite
  repeat' first
    | (with_reducible assumption)
    | (intro)
    | (with_reducible first
        | apply keeps_setReg | apply keeps_xingWrite | refine Keeps.foldl ?_ ?_ | refine Keeps.ite ?_ ?_)
    | (fail_if_no_progress (with_reducible refine Keeps.upd ?_))
    | (fail_if_no_progress (with_reducible refine Keeps.updHold ?_ rfl))
    | split
    | (dsimp only)

theorem keeps_dbgEnable {a : Block} {b : Block} (x1 : ℕ) (x2 : Word)
    (h : Keeps a b) : Keeps a (dbgEnable x1 x2 b) := by
  delta dbgEnable
  repeat' first
    | (with_reducible assumption)
    | (intro)
    | (with_reducible first
        | apply keeps_setReg | refine Keeps.foldl ?_ ?_ | refine Keeps.ite ?_ ?_)
    | (fail_if_no_progress (with_reducible refine Keeps.upd ?_))
    | (fail_if_no_progress (with_reducible refine Keeps.updHold ?_ rfl))
    | split
    | (dsimp only)

theorem keeps_memsWrite {a : Block} {b : Block} (x1 : ℕ) (x2 : Word)
    (h : Keeps a b) : Keeps a (memsWrite x1 x2 b) := by
  delta memsWrite
  repeat' first
    | (with_reducible assumption)
    | (intro)
    | (with_reducible first
        | apply keeps_dbgEnable | apply keeps_setReg | apply keeps_srgnWrite | refine Keeps.foldl ?_ ?_ | refine Keeps.ite ?_ ?_)
    | (fail_if_no_progress (with_reducible refine Keeps.upd ?_))
    | (fail_if_no_progress (with_reducible refine Keeps.updHold ?_ rfl))
    | split
    | (dsimp only)

theorem keeps_ifOn {a : Block} {b : Block} (x1 : Master) (x2 : ℕ) (f3 : Block → Block)
    (hf3 : ∀ b, Keeps a b → Keeps a (f3 b)) (h : Keeps a b) : Keeps a (ifOn x1 x2 f3 b) := by
  delta ifOn
  repeat' first
    | (with_reducible assumption)
    | (intro)
    | (with_reducible first
        | apply hf3 | apply keeps_recordErr | refine Keeps.foldl ?_ ?_ | refine Keeps.ite ?_ ?_)
    | (fail_if_no_progress (with_reducible refine Keeps.upd ?_))
    | (fail_if_no_progress (with_reducible refine Keeps.updHold ?_ rfl))
    | split
    | (dsimp only)

theorem keeps_memaWrite {a : Block} {b : Block} (x1 : Master) (x2 : ℕ) (x3 : Word)
    (h : Keeps a b) : Keeps a (memaWrite x1 x2 x3 b) := by
  delta memaWrite
  repeat' first
    | (with_reducible assumption)
    | (intro)
    | (with_reducible first
        | apply keeps_dbgEnable | apply keeps_ifOn | apply keeps_onGo | apply keeps_rgnWrite | apply keeps_setReg | apply keeps_startRoll
        | apply keeps_wayCmd | refine Keeps.foldl ?_ ?_ | refine Keeps.ite ?_ ?_)
    | (fail_if_no_progress (with_reducible refine Keeps.upd ?_))
    | (fail_if_no_progress (with_reducible refine Keeps.updHold ?_ rfl))
    | split
    | (dsimp only)

theorem keeps_syncWrite {a : Block} {b : Block} (x1 : Master) (x2 : ℕ) (x3 : Word)
    (h : Keeps a b) : Keeps a (syncWrite x1 x2 x3 b) := by
  delta syncWrite
  repeat' first
    | (with_reducible assumption)
    | (intro)
    | (with_reducible first
        | apply keeps_armCmd | apply keeps_ifOn | apply keeps_onGo | apply keeps_recordErr | apply keeps_setLatch | apply keeps_setReg
        | apply keeps_wireWrite | refine Keeps.foldl ?_ ?_ | refine Keeps.ite ?_ ?_)
    | (fail_if_no_progress (with_reducible refine Keeps.upd ?_))
    | (fail_if_no_progress (with_reducible refine Keeps.updHold ?_ rfl))
    | split
    | (dsimp only)

theorem keeps_sueWrite {a : Block} {b : Block} (x1 : Master) (x2 : ℕ) (x3 : Word)
    (h : Keeps a b) : Keeps a (sueWrite x1 x2 x3 b) := by
  delta sueWrite
  repeat' first
    | (with_reducible assumption)
    | (intro)
    | (with_reducible first
        | apply keeps_ifOn | apply keeps_laneCmd | apply keeps_modSue | apply keeps_onGo | apply keeps_setLatch | apply keeps_setReg
        | refine Keeps.foldl ?_ ?_ | refine Keeps.ite ?_ ?_)
    | (fail_if_no_progress (with_reducible refine Keeps.upd ?_))
    | (fail_if_no_progress (with_reducible refine Keeps.updHold ?_ rfl))
    | split
    | (dsimp only)

theorem keeps_suesWrite {a : Block} {b : Block} (x1 : Master) (x2 : ℕ) (x3 : Word)
    (h : Keeps a b) : Keeps a (suesWrite x1 x2 x3 b) := by
  delta suesWrite
  repeat' first
    | (with_reducible assumption)
    | (intro)
    | (with_reducible first
        | apply keeps_engWrite | apply keeps_setLatch | refine Keeps.foldl ?_ ?_ | refine Keeps.ite ?_ ?_)
    | (fail_if_no_progress (with_reducible refine Keeps.upd ?_))
    | (fail_if_no_progress (with_reducible refine Keeps.updHold ?_ rfl))
    | split
    | (dsimp only)

theorem keeps_eccWrite {a : Block} {b : Block} (x1 : ℕ) (x2 : Word)
    (h : Keeps a b) : Keeps a (eccWrite x1 x2 b) := by
  delta eccWrite
  repeat' first
    | (with_reducible assumption)
    | (intro)
    | (with_reducible first
        | apply keeps_dmaRelease | apply keeps_injCtrl | apply keeps_onGo | apply keeps_retireCmd' | apply keeps_setReg
        | refine Keeps.foldl ?_ ?_ | refine Keeps.ite ?_ ?_)
    | (fail_if_no_progress (with_reducible refine Keeps.upd ?_))
    | (fail_if_no_progress (with_reducible refine Keeps.updHold ?_ rfl))
    | split
    | (dsimp only)

theorem keeps_recvWrite {a : Block} {b : Block} (x1 : Master) (x2 : ℕ) (x3 : Word)
    (h : Keeps a b) : Keeps a (recvWrite x1 x2 x3 b) := by
  delta recvWrite
  repeat' first
    | (with_reducible assumption)
    | (intro)
    | (with_reducible first
        | apply keeps_kickCore | apply keeps_recordErr | apply keeps_setReg | refine Keeps.foldl ?_ ?_ | refine Keeps.ite ?_ ?_)
    | (fail_if_no_progress (with_reducible refine Keeps.upd ?_))
    | (fail_if_no_progress (with_reducible refine Keeps.updHold ?_ rfl))
    | split
    | (dsimp only)

theorem keeps_slipWrite {a : Block} {b : Block} (x1 : Master) (x2 : ℕ) (x3 : Word)
    (h : Keeps a b) : Keeps a (slipWrite x1 x2 x3 b) := by
  delta slipWrite
  repeat' first
    | (with_reducible assumption)
    | (intro)
    | (with_reducible first
        | apply keeps_recordErr | apply keeps_setReg | refine Keeps.foldl ?_ ?_ | refine Keeps.ite ?_ ?_)
    | (fail_if_no_progress (with_reducible refine Keeps.upd ?_))
    | (fail_if_no_progress (with_reducible refine Keeps.updHold ?_ rfl))
    | split
    | (dsimp only)

theorem keeps_mgmtWrite {a : Block} {b : Block} (x1 : ℕ) (x2 : Word)
    (h : Keeps a b) : Keeps a (mgmtWrite x1 x2 b) := by
  delta mgmtWrite
  repeat' first
    | (with_reducible assumption)
    | (intro)
    | (with_reducible first
        | apply keeps_setReg | apply keeps_slotCmd | refine Keeps.foldl ?_ ?_ | refine Keeps.ite ?_ ?_)
    | (fail_if_no_progress (with_reducible refine Keeps.upd ?_))
    | (fail_if_no_progress (with_reducible refine Keeps.updHold ?_ rfl))
    | split
    | (dsimp only)

theorem keeps_dbgWrite {a : Block} {b : Block} (x1 : ℕ) (x2 : Word)
    (h : Keeps a b) : Keeps a (dbgWrite x1 x2 b) := by
  delta dbgWrite
  repeat' first
    | (with_reducible assumption)
    | (intro)
    | (with_reducible first
        | apply keeps_bpWrite | apply keeps_dbgCmd | apply keeps_maGo | apply keeps_openWrite | apply keeps_periodWrite
        | apply keeps_setReg | refine Keeps.foldl ?_ ?_ | refine Keeps.ite ?_ ?_)
    | (fail_if_no_progress (with_reducible refine Keeps.upd ?_))
    | (fail_if_no_progress (with_reducible refine Keeps.updHold ?_ rfl))
    | split
    | (dsimp only)

theorem keeps_trcWrite {a : Block} {b : Block} (x1 : Master) (x2 : ℕ) (x3 : Word)
    (h : Keeps a b) : Keeps a (trcWrite x1 x2 x3 b) := by
  delta trcWrite
  repeat' first
    | (with_reducible assumption)
    | (intro)
    | (with_reducible first
        | apply keeps_bufCmd | apply keeps_periodWrite | apply keeps_setReg | apply keeps_trcCtrl | apply keeps_trcLog2
        | refine Keeps.foldl ?_ ?_ | refine Keeps.ite ?_ ?_)
    | (fail_if_no_progress (with_reducible refine Keeps.upd ?_))
    | (fail_if_no_progress (with_reducible refine Keeps.updHold ?_ rfl))
    | split
    | (dsimp only)

theorem keeps_unitWrite {a : Block} {b : Block} (x1 : Master) (x2 : ℕ) (x3 : ℕ) (x4 : Word)
    (h : Keeps a b) : Keeps a (unitWrite x1 x2 x3 x4 b) := by
  delta unitWrite
  repeat' first
    | (with_reducible assumption)
    | (intro)
    | (with_reducible first
        | apply keeps_dbgWrite | apply keeps_eccWrite | apply keeps_gseWrite | apply keeps_holdRangeCmd | apply keeps_ifOn
        | apply keeps_keyRangeCmd | apply keeps_kstgWrite | apply keeps_lcsWrite | apply keeps_lndWrite | apply keeps_lnkcWrite
        | apply keeps_memaWrite | apply keeps_memsWrite | apply keeps_mgmtWrite | apply keeps_onGo | apply keeps_recvWrite
        | apply keeps_schedCmd | apply keeps_setLatch | apply keeps_setReg | apply keeps_slipWrite | apply keeps_sueWrite
        | apply keeps_suesWrite | apply keeps_syncWrite | apply keeps_trcWrite | refine Keeps.foldl ?_ ?_ | refine Keeps.ite ?_ ?_)
    | (fail_if_no_progress (with_reducible refine Keeps.upd ?_))
    | (fail_if_no_progress (with_reducible refine Keeps.updHold ?_ rfl))
    | split
    | (dsimp only)

theorem keeps_doWrite {a : Block} {b : Block} (x1 : Master) (x2 : ℕ) (x3 : ℕ) (x4 : Word)
    (h : Keeps a b) : Keeps a (doWrite x1 x2 x3 x4 b) := by
  delta doWrite
  repeat' first
    | (with_reducible assumption)
    | (intro)
    | (with_reducible first
        | apply keeps_headerWrite | apply keeps_unitWrite | refine Keeps.foldl ?_ ?_ | refine Keeps.ite ?_ ?_)
    | (fail_if_no_progress (with_reducible refine Keeps.upd ?_))
    | (fail_if_no_progress (with_reducible refine Keeps.updHold ?_ rfl))
    | split
    | (dsimp only)

theorem keeps_readWord {a : Block} {b : Block} (x1 : Master) (x2 : ℕ)
    (h : Keeps a b) : Keeps a (readWord x1 x2 b).2 := by
  delta readWord
  repeat' first
    | (with_reducible assumption)
    | (intro)
    | (with_reducible first
        | apply keeps_doRead | apply keeps_emit | apply keeps_fresh | apply keeps_recordErr
        | refine keeps_doRead_eq (by with_reducible assumption) ?_ | refine Keeps.foldl ?_ ?_ | refine Keeps.ite ?_ ?_)
    | (fail_if_no_progress (with_reducible refine Keeps.upd ?_))
    | (fail_if_no_progress (with_reducible refine Keeps.updHold ?_ rfl))
    | split
    | (dsimp only)

theorem keeps_readWord_eq {a : Block} {b : Block} {x1 : Master} {x2 : ℕ} {v} {c : Block} (e : readWord x1 x2 b = (v, c))
    (h : Keeps a b) : Keeps a c := by
  have := keeps_readWord x1 x2 h; rw [e] at this; exact this

theorem keeps_writeWord {a : Block} {b : Block} (x1 : Master) (x2 : ℕ) (x3 : Word)
    (h : Keeps a b) : Keeps a (writeWord x1 x2 x3 b) := by
  delta writeWord
  repeat' first
    | (with_reducible assumption)
    | (intro)
    | (with_reducible first
        | apply keeps_doWrite | apply keeps_emit | apply keeps_fresh | apply keeps_recordErr | refine Keeps.foldl ?_ ?_
        | refine Keeps.ite ?_ ?_)
    | (fail_if_no_progress (with_reducible refine Keeps.upd ?_))
    | (fail_if_no_progress (with_reducible refine Keeps.updHold ?_ rfl))
    | split
    | (dsimp only)

theorem keeps_badAccess {a : Block} {b : Block} (x1 : Master) (x2 : ℕ) (x3 : Bool)
    (h : Keeps a b) : Keeps a (badAccess x1 x2 x3 b) := by
  delta badAccess
  repeat' first
    | (with_reducible assumption)
    | (intro)
    | (with_reducible first
        | apply keeps_emit | apply keeps_fresh | apply keeps_recordErr | refine Keeps.foldl ?_ ?_ | refine Keeps.ite ?_ ?_)
    | (fail_if_no_progress (with_reducible refine Keeps.upd ?_))
    | (fail_if_no_progress (with_reducible refine Keeps.updHold ?_ rfl))
    | split
    | (dsimp only)

theorem keeps_writeAccess {a : Block} {b : Block} (x1 : Master) (x2 : ℕ) (x3 : ℕ) (x4 : ℕ)
    (h : Keeps a b) : Keeps a (writeAccess x1 x2 x3 x4 b) := by
  delta writeAccess
  repeat' first
    | (with_reducible assumption)
    | (intro)
    | (with_reducible first
        | apply keeps_badAccess | apply keeps_writeWord | refine Keeps.foldl ?_ ?_ | refine Keeps.ite ?_ ?_)
    | (fail_if_no_progress (with_reducible refine Keeps.upd ?_))
    | (fail_if_no_progress (with_reducible refine Keeps.updHold ?_ rfl))
    | split
    | (dsimp only)

theorem keeps_readAccess {a : Block} {b : Block} (x1 : Master) (x2 : ℕ) (x3 : ℕ)
    (h : Keeps a b) : Keeps a (readAccess x1 x2 x3 b).2 := by
  delta readAccess
  repeat' first
    | (with_reducible assumption)
    | (intro)
    | (with_reducible first
        | apply keeps_badAccess | apply keeps_readWord | refine keeps_readWord_eq (by with_reducible assumption) ?_
        | refine Keeps.foldl ?_ ?_ | refine Keeps.ite ?_ ?_)
    | (fail_if_no_progress (with_reducible refine Keeps.upd ?_))
    | (fail_if_no_progress (with_reducible refine Keeps.updHold ?_ rfl))
    | split
    | (dsimp only)

theorem keeps_readAccess_eq {a : Block} {b : Block} {x1 : Master} {x2 : ℕ} {x3 : ℕ} {v} {c : Block} (e : readAccess x1 x2 x3 b = (v, c))
    (h : Keeps a b) : Keeps a c := by
  have := keeps_readAccess x1 x2 x3 h; rw [e] at this; exact this

theorem keeps_readWords {a : Block} {b : Block} (x1 : Master) (x2 : ℕ) (x3 : ℕ)
    (h : Keeps a b) : Keeps a (readWords x1 x2 x3 b).2.2 := by
  induction x2 generalizing x3 b with
  | zero => rw [readWords]; with_reducible assumption
  | succ n ih =>
    first | rw [readWords] | (rw [readWords.eq_def]; dsimp -zeta only)
    repeat' first
      | (with_reducible assumption)
      | (with_reducible apply ih)
      | (intro)
      | (with_reducible first
          | apply keeps_readWord | refine keeps_readWord_eq (by with_reducible assumption) ?_ | refine Keeps.foldl ?_ ?_
          | refine Keeps.ite ?_ ?_)
      | (fail_if_no_progress (with_reducible refine Keeps.upd ?_))
      | (fail_if_no_progress (with_reducible refine Keeps.updHold ?_ rfl))
      | split
      | (dsimp only)

theorem keeps_readWords_eq {a : Block} {b : Block} {x1 : Master} {x2 : ℕ} {x3 : ℕ} {v w} {c : Block} (e : readWords x1 x2 x3 b = (v, w, c))
    (h : Keeps a b) : Keeps a c := by
  have := keeps_readWords x1 x2 x3 h; rw [e] at this; exact this

theorem keeps_regReads {a : Block} {b : Block} (x1 : MgmtSrc) (x2 : DenkanHdr) (x3 : ℕ) (x4 : ℕ)
    (h : Keeps a b) : Keeps a (regReads x1 x2 x3 x4 b) := by
  delta regReads
  repeat' first
    | (with_reducible assumption)
    | (intro)
    | (with_reducible first
        | apply keeps_denkan | apply keeps_readWords | apply keeps_replyNow | refine keeps_readWords_eq (by with_reducible assumption) ?_
        | refine keeps_replyNow_eq (by with_reducible assumption) ?_ | refine Keeps.foldl ?_ ?_ | refine Keeps.ite ?_ ?_)
    | (fail_if_no_progress (with_reducible refine Keeps.upd ?_))
    | (fail_if_no_progress (with_reducible refine Keeps.updHold ?_ rfl))
    | split
    | (dsimp only)

theorem keeps_writeWords {a : Block} {b : Block} (x1 : Master) (x2 : List Word) (x3 : ℕ)
    (h : Keeps a b) : Keeps a (writeWords x1 x2 x3 b).2 := by
  induction x2 generalizing x3 b with
  | nil => rw [writeWords]; with_reducible assumption
  | cons y ys ih =>
    first | rw [writeWords] | (rw [writeWords.eq_def]; dsimp -zeta only)
    repeat' first
      | (with_reducible assumption)
      | (with_reducible apply ih)
      | (intro)
      | (with_reducible first
          | apply keeps_writeWord | refine Keeps.foldl ?_ ?_ | refine Keeps.ite ?_ ?_)
      | (fail_if_no_progress (with_reducible refine Keeps.upd ?_))
      | (fail_if_no_progress (with_reducible refine Keeps.updHold ?_ rfl))
      | split
      | (dsimp only)

theorem keeps_writeWords_eq {a : Block} {b : Block} {x1 : Master} {x2 : List Word} {x3 : ℕ} {v} {c : Block} (e : writeWords x1 x2 x3 b = (v, c))
    (h : Keeps a b) : Keeps a c := by
  have := keeps_writeWords x1 x2 x3 h; rw [e] at this; exact this

theorem keeps_regWrites {a : Block} {b : Block} (x1 : MgmtSrc) (x2 : DenkanHdr) (x3 : ℕ) (x4 : List Word)
    (h : Keeps a b) : Keeps a (regWrites x1 x2 x3 x4 b) := by
  delta regWrites
  repeat' first
    | (with_reducible assumption)
    | (intro)
    | (with_reducible first
        | apply keeps_denkan | apply keeps_replyNow | apply keeps_writeWords | refine keeps_replyNow_eq (by with_reducible assumption) ?_
        | refine keeps_writeWords_eq (by with_reducible assumption) ?_ | refine Keeps.foldl ?_ ?_ | refine Keeps.ite ?_ ?_)
    | (fail_if_no_progress (with_reducible refine Keeps.upd ?_))
    | (fail_if_no_progress (with_reducible refine Keeps.updHold ?_ rfl))
    | split
    | (dsimp only)

theorem keeps_readRow {a : Block} {b : Block} (x1 : Master) (x2 : ℕ) (x3 : ℕ) (x4 : ℕ)
    (h : Keeps a b) : Keeps a (readRow x1 x2 x3 x4 b) := by
  delta readRow
  repeat' first
    | (with_reducible assumption)
    | (intro)
    | (with_reducible first
        | apply keeps_emit | apply keeps_readAccess | refine keeps_readAccess_eq (by with_reducible assumption) ?_
        | refine Keeps.foldl ?_ ?_ | refine Keeps.ite ?_ ?_)
    | (fail_if_no_progress (with_reducible refine Keeps.upd ?_))
    | (fail_if_no_progress (with_reducible refine Keeps.updHold ?_ rfl))
    | split
    | (dsimp only)

theorem keeps_withEvent {a : Block} {b : Block} (x1 : Master) (x2 : ℕ) (x3 : ℕ) (f5 : Bool → Block → Block)
    (hf5 : ∀ y0 b, Keeps a b → Keeps a (f5 y0 b)) (h : Keeps a b) : Keeps a (withEvent x1 x2 x3 b f5) := by
  delta withEvent
  repeat' first
    | (with_reducible assumption)
    | (intro)
    | (with_reducible first
        | apply hf5 | apply keeps_emit | apply keeps_fresh | apply keeps_recordErr | refine Keeps.foldl ?_ ?_ | refine Keeps.ite ?_ ?_)
    | (fail_if_no_progress (with_reducible refine Keeps.upd ?_))
    | (fail_if_no_progress (with_reducible refine Keeps.updHold ?_ rfl))
    | split
    | (dsimp only)

theorem keeps_errClear {a : Block} {b : Block} (x1 : Master) (x2 : ℕ) (x3 : Option ErrEvent)
    (h : Keeps a b) : Keeps a (errClear x1 x2 x3 b) := by
  delta errClear
  repeat' first
    | (with_reducible assumption)
    | (intro)
    | (with_reducible first
        | apply keeps_guarded | apply keeps_modPage | apply keeps_withEvent | refine Keeps.foldl ?_ ?_ | refine Keeps.ite ?_ ?_)
    | (fail_if_no_progress (with_reducible refine Keeps.upd ?_))
    | (fail_if_no_progress (with_reducible refine Keeps.updHold ?_ rfl))
    | split
    | (dsimp only)

theorem keeps_irqClear {a : Block} {b : Block} (x1 : Master) (x2 : ℕ) (x3 : Word) (x4 : Word)
    (h : Keeps a b) : Keeps a (irqClear x1 x2 x3 x4 b) := by
  delta irqClear
  repeat' first
    | (with_reducible assumption)
    | (intro)
    | (with_reducible first
        | apply keeps_modPage | apply keeps_withEvent | refine Keeps.foldl ?_ ?_ | refine Keeps.ite ?_ ?_)
    | (fail_if_no_progress (with_reducible refine Keeps.upd ?_))
    | (fail_if_no_progress (with_reducible refine Keeps.updHold ?_ rfl))
    | split
    | (dsimp only)

/-! ### Settle -/

theorem keeps_fenceChanged {a : Block} {b : Block} (x1 : ℕ)
    (h : Keeps a b) : Keeps a (fenceChanged x1 b) := by
  delta fenceChanged
  repeat' first
    | (with_reducible assumption)
    | (intro)
    | (with_reducible first
        | apply keeps_barFence | apply keeps_later | apply keeps_wakeScans | apply keeps_watchFence | refine Keeps.foldl ?_ ?_
        | refine Keeps.ite ?_ ?_)
    | (fail_if_no_progress (with_reducible refine Keeps.upd ?_))
    | (fail_if_no_progress (with_reducible refine Keeps.updHold ?_ rfl))
    | split
    | (dsimp only)

theorem keeps_opEnds {a : Block} {b : Block} (x1 : OpRef) (x2 : Byte)
    (h : Keeps a b) : Keeps a (opEnds x1 x2 b) := by
  delta opEnds
  repeat' first
    | (with_reducible assumption)
    | (intro)
    | (with_reducible first
        | apply keeps_loseCtx | apply keeps_maEnd | apply keeps_operandLost | apply keeps_progLost | apply keeps_recDone
        | apply keeps_secFails | apply keeps_secWritten | refine Keeps.foldl ?_ ?_ | refine Keeps.ite ?_ ?_)
    | (fail_if_no_progress (with_reducible refine Keeps.upd ?_))
    | (fail_if_no_progress (with_reducible refine Keeps.updHold ?_ rfl))
    | split
    | (dsimp only)

theorem keeps_opDone {a : Block} {b : Block} (x1 : OpRef) (x2 : Byte)
    (h : Keeps a b) : Keeps a (opDone x1 x2 b) := by
  delta opDone
  repeat' first
    | (with_reducible assumption)
    | (intro)
    | (with_reducible first
        | apply keeps_cmdDone | apply keeps_opEnds | apply keeps_progDone | refine Keeps.foldl ?_ ?_ | refine Keeps.ite ?_ ?_)
    | (fail_if_no_progress (with_reducible refine Keeps.upd ?_))
    | (fail_if_no_progress (with_reducible refine Keeps.updHold ?_ rfl))
    | split
    | (dsimp only)

theorem keeps_opLost {a : Block} {b : Block} (x1 : OpRef) (x2 : Byte)
    (h : Keeps a b) : Keeps a (opLost x1 x2 b) := by
  delta opLost
  repeat' first
    | (with_reducible assumption)
    | (intro)
    | (with_reducible first
        | apply keeps_cmdLost | apply keeps_opEnds | apply keeps_progLost | refine Keeps.foldl ?_ ?_ | refine Keeps.ite ?_ ?_)
    | (fail_if_no_progress (with_reducible refine Keeps.upd ?_))
    | (fail_if_no_progress (with_reducible refine Keeps.updHold ?_ rfl))
    | split
    | (dsimp only)

theorem keeps_opHurt {a : Block} {b : Block} (x1 : OpRef) (x2 : Byte)
    (h : Keeps a b) : Keeps a (opHurt x1 x2 b) := by
  delta opHurt
  repeat' first
    | (with_reducible assumption)
    | (intro)
    | (with_reducible first
        | apply keeps_cmdHurt | apply keeps_opLost | refine Keeps.foldl ?_ ?_ | refine Keeps.ite ?_ ?_)
    | (fail_if_no_progress (with_reducible refine Keeps.upd ?_))
    | (fail_if_no_progress (with_reducible refine Keeps.updHold ?_ rfl))
    | split
    | (dsimp only)

theorem keeps_opLine {a : Block} {b : Block} (x1 : OpRef) (x2 : Bytes)
    (h : Keeps a b) : Keeps a (opLine x1 x2 b) := by
  delta opLine
  repeat' first
    | (with_reducible assumption)
    | (intro)
    | (with_reducible first
        | apply keeps_copyLine | apply keeps_maEnd | apply keeps_recLine | apply keeps_secLine | apply keeps_tensorLine
        | refine Keeps.foldl ?_ ?_ | refine Keeps.ite ?_ ?_)
    | (fail_if_no_progress (with_reducible refine Keeps.upd ?_))
    | (fail_if_no_progress (with_reducible refine Keeps.updHold ?_ rfl))
    | split
    | (dsimp only)

theorem keeps_keyBecameLive {a : Block} {b : Block} (x1 : ℕ)
    (h : Keeps a b) : Keeps a (keyBecameLive x1 b) := by
  delta keyBecameLive
  repeat' first
    | (with_reducible assumption)
    | (intro)
    | (with_reducible first
        | apply keeps_berthCheck | apply keeps_startProve | refine Keeps.foldl ?_ ?_ | refine Keeps.ite ?_ ?_)
    | (fail_if_no_progress (with_reducible refine Keeps.upd ?_))
    | (fail_if_no_progress (with_reducible refine Keeps.updHold ?_ rfl))
    | split
    | (dsimp only)

theorem keeps_keyBecameFree {a : Block} {b : Block}
    (h : Keeps a b) : Keeps a (keyBecameFree b) := by
  delta keyBecameFree
  repeat' first
    | (with_reducible assumption)
    | (intro)
    | (with_reducible first
        | apply keeps_nextSwitches | refine Keeps.foldl ?_ ?_ | refine Keeps.ite ?_ ?_)
    | (fail_if_no_progress (with_reducible refine Keeps.upd ?_))
    | (fail_if_no_progress (with_reducible refine Keeps.updHold ?_ rfl))
    | split
    | (dsimp only)

theorem keeps_settleOne {a : Block} {b : Block} (x1 : Work)
    (h : Keeps a b) : Keeps a (settleOne x1 b) := by
  delta settleOne
  repeat' first
    | (with_reducible assumption)
    | (intro)
    | (with_reducible first
        | apply keeps_barEdgeFailed | apply keeps_berthCheck | apply keeps_berthReleased | apply keeps_ckptDone | apply keeps_claimRestore
        | apply keeps_denkanDone | apply keeps_engineA | apply keeps_enterSealing | apply keeps_evalBar | apply keeps_excludeFence
        | apply keeps_fenceChanged | apply keeps_keyBecameFree | apply keeps_keyBecameLive | apply keeps_loseCtx | apply keeps_opDone
        | apply keeps_opHurt | apply keeps_opLine | apply keeps_opLost | apply keeps_progFail | apply keeps_progFence
        | apply keeps_progReleased | apply keeps_reschedule | apply keeps_restoreEnds | apply keeps_takeMsg | apply keeps_watchFence
        | refine Keeps.foldl ?_ ?_ | refine Keeps.ite ?_ ?_)
    | (fail_if_no_progress (with_reducible refine Keeps.upd ?_))
    | (fail_if_no_progress (with_reducible refine Keeps.updHold ?_ rfl))
    | split
    | (dsimp only)

theorem keeps_settle {a : Block} {b : Block} (x1 : ℕ)
    (h : Keeps a b) : Keeps a (settle x1 b) := by
  induction x1 generalizing b with
  | zero => rw [settle]; with_reducible assumption
  | succ n ih =>
    first | rw [settle] | (rw [settle.eq_def]; dsimp -zeta only)
    repeat' first
      | (with_reducible assumption)
      | (with_reducible apply ih)
      | (intro)
      | (with_reducible first
          | apply keeps_settleOne | refine Keeps.foldl ?_ ?_ | refine Keeps.ite ?_ ?_)
      | (fail_if_no_progress (with_reducible refine Keeps.upd ?_))
      | (fail_if_no_progress (with_reducible refine Keeps.updHold ?_ rfl))
      | split
      | (dsimp only)

theorem keeps_atLevel {a : Block} {b : Block} (f1 : Block → Block) (f2 : Block → Block)
    (hf1 : ∀ b, Keeps a b → Keeps a (f1 b)) (hf2 : ∀ b, Keeps a b → Keeps a (f2 b)) (h : Keeps a b) : Keeps a (atLevel f1 f2 b) := by
  delta atLevel
  repeat' first
    | (with_reducible assumption)
    | (intro)
    | (with_reducible first
        | apply hf1 | apply hf2 | refine Keeps.foldl ?_ ?_ | refine Keeps.ite ?_ ?_)
    | (fail_if_no_progress (with_reducible refine Keeps.upd ?_))
    | (fail_if_no_progress (with_reducible refine Keeps.updHold ?_ rfl))
    | split
    | (dsimp only)

theorem keeps_thawed {a : Block} {b : Block} (f1 : Block → Block)
    (hf1 : ∀ b, Keeps a b → Keeps a (f1 b)) (h : Keeps a b) : Keeps a (thawed f1 b) := by
  delta thawed
  repeat' first
    | (with_reducible assumption)
    | (intro)
    | (with_reducible first
        | apply hf1 | refine Keeps.foldl ?_ ?_ | refine Keeps.ite ?_ ?_)
    | (fail_if_no_progress (with_reducible refine Keeps.upd ?_))
    | (fail_if_no_progress (with_reducible refine Keeps.updHold ?_ rfl))
    | split
    | (dsimp only)

theorem keeps_running {a : Block} {b : Block} (f1 : Block → Block)
    (hf1 : ∀ b, Keeps a b → Keeps a (f1 b)) (h : Keeps a b) : Keeps a (running f1 b) := by
  delta running
  repeat' first
    | (with_reducible assumption)
    | (intro)
    | (with_reducible first
        | apply hf1 | refine Keeps.foldl ?_ ?_ | refine Keeps.ite ?_ ?_)
    | (fail_if_no_progress (with_reducible refine Keeps.upd ?_))
    | (fail_if_no_progress (with_reducible refine Keeps.updHold ?_ rfl))
    | split
    | (dsimp only)

theorem keeps_powered {a : Block} {b : Block} (f1 : Block → Block)
    (hf1 : ∀ b, Keeps a b → Keeps a (f1 b)) (h : Keeps a b) : Keeps a (powered f1 b) := by
  delta powered
  repeat' first
    | (with_reducible assumption)
    | (intro)
    | (with_reducible first
        | apply hf1 | apply keeps_running | refine Keeps.foldl ?_ ?_ | refine Keeps.ite ?_ ?_)
    | (fail_if_no_progress (with_reducible refine Keeps.upd ?_))
    | (fail_if_no_progress (with_reducible refine Keeps.updHold ?_ rfl))
    | split
    | (dsimp only)

theorem keeps_regCmd {a : Block} {b : Block} (x1 : Master) (x2 : ℕ) (x3 : ℕ) (x4 : Word)
    (h : Keeps a b) : Keeps a (regCmd x1 x2 x3 x4 b) := by
  delta regCmd
  repeat' first
    | (with_reducible assumption)
    | (intro)
    | (with_reducible first
        | apply keeps_doWrite | apply keeps_guarded | apply keeps_thawed | refine Keeps.foldl ?_ ?_ | refine Keeps.ite ?_ ?_)
    | (fail_if_no_progress (with_reducible refine Keeps.upd ?_))
    | (fail_if_no_progress (with_reducible refine Keeps.updHold ?_ rfl))
    | split
    | (dsimp only)

theorem keeps_regPop {a : Block} {b : Block} (x1 : Master) (x2 : ℕ) (x3 : ℕ) (x4 : ℕ)
    (h : Keeps a b) : Keeps a (regPop x1 x2 x3 x4 b) := by
  delta regPop
  repeat' first
    | (with_reducible assumption)
    | (intro)
    | (with_reducible first
        | apply keeps_readRow | apply keeps_thawed | refine Keeps.foldl ?_ ?_ | refine Keeps.ite ?_ ?_)
    | (fail_if_no_progress (with_reducible refine Keeps.upd ?_))
    | (fail_if_no_progress (with_reducible refine Keeps.updHold ?_ rfl))
    | split
    | (dsimp only)

theorem keeps_ctrlCmd {a : Block} {b : Block} (x1 : Master) (x2 : ℕ) (x3 : Word)
    (h : Keeps a b) : Keeps a (ctrlCmd x1 x2 x3 b) := by
  delta ctrlCmd
  repeat' first
    | (with_reducible assumption)
    | (intro)
    | (with_reducible first
        | apply keeps_doWrite | apply keeps_guarded | apply keeps_thawed | refine Keeps.foldl ?_ ?_ | refine Keeps.ite ?_ ?_)
    | (fail_if_no_progress (with_reducible refine Keeps.upd ?_))
    | (fail_if_no_progress (with_reducible refine Keeps.updHold ?_ rfl))
    | split
    | (dsimp only)

/-! ### CmdMemory -/

theorem keeps_resumeRead {a : Block} {b : Block} (x1 : ℕ)
    (h : Keeps a b) : Keeps a (resumeRead x1 b) := by
  delta resumeRead
  repeat' first
    | (with_reducible assumption)
    | (intro)
    | (with_reducible first
        | apply keeps_cmdResume | refine keeps_modHold (fun _ => rfl) ?_ | apply keeps_operandGo | apply keeps_progResume
        | refine Keeps.foldl ?_ ?_ | refine Keeps.ite ?_ ?_)
    | (fail_if_no_progress (with_reducible refine Keeps.upd ?_))
    | (fail_if_no_progress (with_reducible refine Keeps.updHold ?_ rfl))
    | split
    | (dsimp only)

theorem keeps_resumeRecycle {a : Block} {b : Block} (x1 : ℕ)
    (h : Keeps a b) : Keeps a (resumeRecycle x1 b) := by
  delta resumeRecycle
  repeat' first
    | (with_reducible assumption)
    | (intro)
    | (with_reducible first
        | apply keeps_deferredSignal | apply keeps_emptyLine | refine keeps_modHold (fun _ => rfl) ?_ | apply keeps_progDone
        | refine Keeps.foldl ?_ ?_ | refine Keeps.ite ?_ ?_)
    | (fail_if_no_progress (with_reducible refine Keeps.upd ?_))
    | (fail_if_no_progress (with_reducible refine Keeps.updHold ?_ rfl))
    | split
    | (dsimp only)

theorem keeps_bankSetEnds {a : Block} {b : Block} (x1 : List ℕ)
    (h : Keeps a b) : Keeps a (bankSetEnds x1 b) := by
  delta bankSetEnds
  repeat' first
    | (with_reducible assumption)
    | (intro)
    | (with_reducible first
        | apply keeps_setFinished | refine Keeps.foldl ?_ ?_ | refine Keeps.ite ?_ ?_)
    | (fail_if_no_progress (with_reducible refine Keeps.upd ?_))
    | (fail_if_no_progress (with_reducible refine Keeps.updHold ?_ rfl))
    | split
    | (dsimp only)

/-! ### A command -/

theorem keeps_act {f : Block → Block} (hf : ∀ b, Keeps b (f b)) {s t : State} (e : act f s = .next t) : Keeps s.blk t.blk := by
  cases e
  exact keeps_settle _ (hf _)

end Sys2Proof.Machine
end

