-- ==== Sys2Proof/Laws/Settle.lean ====
section
/-!
SUPPORT. The frame that every meaning shares, said once: what `act` answers, when the guards let a command act, and that a block
with no work is settled.
-/

namespace Sys2Proof.Machine

/-- A block with no work waiting is settled, whatever the fuel. -/
theorem settle_idle (n : Nat) {b : Block} (h : b.work = []) : settle n b = b := by
  cases n with
  | zero => rfl
  | succ n => simp only [settle, h]

/-- A command that leaves no work answers its own effect. -/
theorem act_idle {f : Block → Block} {s : State} {b : Block} (e : f s.blk = b) (h : b.work = []) : act f s = .next (after s b) := by
  simp only [act, e, settle_idle _ h, after]

theorem running_awake {b : Block} (h : awake b) (f : Block → Block) : running f b = f b := by
  simp [running, h.1, h.2.1]

theorem thawed_awake {b : Block} (h : awake b) (f : Block → Block) : thawed f b = f b := by
  simp [thawed, h.2.1]

theorem powered_awake {b : Block} (h : awake b) (hs : b.slip.st = .idle) (f : Block → Block) : powered f b = f b := by
  simp [powered, running_awake h, hs]

/-- An access that reaches its register is the register's own write. -/
theorem guarded_pass {b : Block} {m : Master} {p o q r : Nat} {al : Option Bool} {wr : Bool} {h : Block → Block}
    (e : gate (fresh b) m (offsetFor m p o) wr = .pass q r al) : guarded m p o wr h b = h (fresh b) := by
  simp only [guarded]
  rw [e]

theorem regCmd_writable {b : Block} {m : Master} {p o : Nat} (h : writable b m p o) (v : Word) :
    regCmd m p o v b = doWrite m p o v (fresh b) := by
  obtain ⟨ha, al, e⟩ := h
  rw [regCmd, thawed_awake ha, guarded_pass e]

theorem offsetFor_aligned (m : Master) (p : Nat) {o : Nat} (h : o % 4 = 0) : offsetFor m p o % 4 = 0 := by
  cases m <;> simp only [offsetFor] <;> omega

theorem gate_arrives {b : Block} {m : Master} {off p r : Nat} {al : Option Bool} {wr : Bool} (e : gate b m off wr = .pass p r al) :
    arrives b m = true := by
  simp only [gate] at e
  split at e
  · cases e
  · split at e
    · split at e <;> cases e
    · rename_i h; simpa using h

theorem regPop_readable {b : Block} {m : Master} {p o : Nat} (h : readable b m p o) (ho : o % 4 = 0) :
    regPop m p o 4 b = emit (.readData (doRead m p o (fresh b)).1) (doRead m p o (fresh b)).2 := by
  obtain ⟨ha, e⟩ := h
  have hv : arrives b m = true := gate_arrives e
  simp only [regPop, thawed_awake ha, readRow, readAccess, offsetFor_aligned m p ho, readWord, e, hv]
  rfl

theorem writeWord_pass {b : Block} {m : Master} {off p r : Nat} (e : gate (fresh b) m off true = .pass p r none) (v : Word) :
    writeWord m off v b = doWrite m p r v (fresh b) := by
  simp only [writeWord, e]

theorem writeWord_alias {b : Block} {m : Master} {off p r : Nat} {set : Bool}
    (e : gate (fresh b) m off true = .pass p r (some set)) (v : Word) :
    writeWord m off v b = doWrite m p r (aliasValue set (w32 (((regRow ((kindOf p).getD 0) r).map RegRow.rw).getD 0))
      (regValue (fresh b) m p r) v) (fresh b) := by
  simp only [writeWord, e]

theorem writeWord_refuse {b : Block} {m : Master} {off k : Nat} {c : Byte} (e : gate (fresh b) m off true = .refuse k c) (v : Word) :
    writeWord m off v b = recordErr k c (errBerthOf m) (fresh b) := by
  simp only [writeWord, e]

@[simp] theorem fresh_fresh (b : Block) : fresh (fresh b) = fresh b := rfl

/-- Every command answers a next state with the queue as it is. -/
theorem act_next (f : Block → Block) (s : State) : ∃ b, act f s = .next (after s b) := ⟨_, rfl⟩

end Sys2Proof.Machine
end

