-- ==== Sys2Proof/WellFormed.lean ====
section
/-!
DEFINITION. Well-formed commands: what a port can deliver at all. A line is 64 bytes, a word of a control or header 32, an
operand transfer 256, a tail no longer than its unit. A command that is not well formed stands for nothing a port can carry.
-/

namespace Sys2Proof

/-- A 64-byte line. -/
def isLine (bs : Bytes) : Bool := bs.length = 64

/-- A command as a port can deliver it. -/
def wellFormed : Instr → Bool
  | .registerWrite _ off size _ => off < 0x100000 && 0 < size
  | .setAliasWrite _ off _ => off < 0x100000
  | .clrAliasWrite _ off _ => off < 0x100000
  | .glbTickLoRead _ off size => off < 0x1000 && 0 < size
  | .lcsNonceRead _ off size => off < 0x1000 && 0 < size
  | .gseCplPop _ off size => off < 0x1000 && 0 < size
  | .eccLogPop _ off size => off < 0x1000 && 0 < size
  | .recvRecPop _ off size => off < 0x1000 && 0 < size
  | .dbgMemDataRead _ off size => off < 0x1000 && 0 < size
  | .pageErrClear _ page _ => page < 256
  | .pageIrqClrWrite _ page _ _ => page < 256
  | .hbmFabricRequest _ _ _ _ _ wdata => wdata.all isLine
  | .hbmMcResponse _ _ _ rdata _ _ => isLine rdata
  | .operandTransfer _ _ _ _ wdata _ => wdata.all fun d => d.length = 256
  | .cxlDrsResponse _ _ _ line _ _ => isLine line
  | .unsealOpen _ record => record.length = 192 || record.isEmpty
  | .rewrap _ _ record => record.length = 192 || record.isEmpty
  | .gseSectorDone _ _ _ data _ => data.length = 4096 || data.isEmpty
  | .markerReceive _ words => words.length = 8 && words.all fun w => w.length = 32
  | .frameReceive _ _ raw _ => 96 ≤ raw.length && raw.length ≤ 4160 && raw.length % 32 = 0
  | .dataFrame _ _ raw => 96 ≤ raw.length && raw.length ≤ 4160 && raw.length % 32 = 0
  | .gradFrame _ _ raw => 96 ≤ raw.length && raw.length ≤ 4160 && raw.length % 32 = 0
  | .syncFrame _ _ raw => raw.length = 128
  | .hello _ _ raw => raw.length = 128
  | .prove _ _ raw => raw.length = 128
  | .ack _ _ raw => raw.length = 32
  | .nak _ _ raw => raw.length = 32
  | .toll _ _ raw => raw.length = 32
  | .fail _ _ raw => raw.length = 32
  | .idle _ _ raw => raw.length = 32
  | .queueScan _ _ _ desc _ cmds => isLine desc && cmds.all fun c => isLine c.raw
  | .arrive _ _ msg => isLine msg
  | .release _ _ msg => isLine msg
  | .abort _ _ msg => isLine msg
  | .keyExchange _ _ _ _ point => point.length = 96
  | .realmAuth _ _ point sig => point.length = 96 && sig.length = 96
  | .regRead _ _ off count => off < 0x100000 && 0 < count && count ≤ 16
  | .regWrite _ _ off _ => off < 0x100000
  | .enroll _ _ digest _ => digest.length = 48
  | _ => true

end Sys2Proof
end

