-- ==== Sys2Proof/Tests/Slice0.lean ====
section
/-!
SUPPORT. The model's own tests: an ill-formed term for each check of wellFormed, and for every statement with hypotheses a
concrete state and operands that meet them, clause by clause. Expected values come from the spec's own rules, never from a run.
-/

open Sys2Proof Sys2Proof.Machine

/-! ### Helpers: a block that runs, with every unit ON -/

/-- Every page that has an enable is ON. -/
def Tests.pagesOn : Table Page := ((List.range 128).filter hasEnable).map fun p => (p, { unit := .on })

/-- A running block in DEPLOYED with every unit ON and every reset level at its run value. -/
def Tests.blk0 : Block := { phase := .running, porN := true, pages := Tests.pagesOn, lcs := { st := .deployed } }

/-- The IDE keys of the physical function and of berth 0's function. -/
def Tests.ide : Mgmt := { ide := [(0, some 0), (2, some 0)], ideSet := [(0, some 0), (1, some 0)] }

/-- The state of a block with nothing waiting. -/
def Tests.st (b : Block) : State := { blk := b, pending := [] }

/-- blk0 with berth 0 as given. -/
def Tests.withBerth (w : Berth) : Block := { Tests.blk0 with berths := [(0, w)] }

/-- The block is awake, as a Bool. -/
def Tests.runs (b : Block) : Bool := b.phase = .running && !frozen b && b.work.isEmpty

/-- The block is awake and an access reaches the register, as a Bool. -/
def Tests.may (b : Block) (m : Master) (p o : Nat) (wr : Bool) : Bool :=
  Tests.runs b && gate (fresh b) m (offsetFor m p o) wr = .pass p o none

theorem Tests.awake_of {b : Block} (h : Tests.runs b = true) : awake b := by
  simp only [Tests.runs, Bool.and_eq_true, decide_eq_true_eq, List.isEmpty_iff, Bool.not_eq_true'] at h
  exact ⟨h.1.1, h.1.2, h.2⟩

theorem Tests.writable_of {b : Block} {m : Master} {p o : Nat} (h : Tests.may b m p o true = true) : writable b m p o := by
  simp only [Tests.may, Bool.and_eq_true, decide_eq_true_eq] at h
  exact ⟨Tests.awake_of h.1, none, h.2⟩

theorem Tests.readable_of {b : Block} {m : Master} {p o : Nat} (h : Tests.may b m p o false = true) : readable b m p o := by
  simp only [Tests.may, Bool.and_eq_true, decide_eq_true_eq] at h
  exact ⟨Tests.awake_of h.1, h.2⟩

/-! ### Ill-formed commands -/

theorem test_wf_register_write : wellFormed (.registerWrite .sealed 0x100000 4 0) = false := by decide
theorem test_wf_register_write_size : wellFormed (.registerWrite .sealed 0x40 0 0) = false := by decide
theorem test_wf_tick_read : wellFormed (.glbTickLoRead .sealed 0x1000 4) = false := by decide
theorem test_wf_nonce_read : wellFormed (.lcsNonceRead .sealed 0x60 0) = false := by decide
theorem test_wf_cpl_pop : wellFormed (.gseCplPop .sealed 0x10C8 4) = false := by decide
theorem test_wf_log_pop : wellFormed (.eccLogPop .sealed 0x54 0) = false := by decide
theorem test_wf_rec_pop : wellFormed (.recvRecPop .sealed 0x1044 4) = false := by decide
theorem test_wf_mem_data : wellFormed (.dbgMemDataRead .sealed 0x80 0) = false := by decide
theorem test_wf_set_alias : wellFormed (.setAliasWrite .sealed 0x100000 0) = false := by decide
theorem test_wf_clr_alias : wellFormed (.clrAliasWrite .sealed 0x100000 0) = false := by decide
theorem test_wf_page_err : wellFormed (.pageErrClear .sealed 256 none) = false := by decide
theorem test_wf_page_irq : wellFormed (.pageIrqClrWrite .sealed 256 0 0) = false := by decide
theorem test_wf_fabric_line : wellFormed (.hbmFabricRequest 0 0 0 0 0 (some [0])) = false := by decide
theorem test_wf_mc_line : wellFormed (.hbmMcResponse 0 0 0 [0] false []) = false := by decide
theorem test_wf_operand : wellFormed (.operandTransfer 0 0 0 0 (some [0]) []) = false := by decide
theorem test_wf_drs_line : wellFormed (.cxlDrsResponse 0 0 0 [0] false []) = false := by decide
theorem test_wf_unseal_record : wellFormed (.unsealOpen 0 [0]) = false := by decide
theorem test_wf_rewrap_record :
    wellFormed (.rewrap { op := .rewrap, berth := 0, masked := false, tag := 0, kidA := 0, kidB := 0, first := 0, count := 0,
                          buffer := 0, record := 0, bufOff := 0, recOff := 0, clean := true } 0 [0]) = false := by decide
theorem test_wf_sector : wellFormed (.gseSectorDone 0 0 0 [0] none) = false := by decide
theorem test_wf_marker : wellFormed (.markerReceive 0 [[0]]) = false := by decide
theorem test_wf_frame : wellFormed (.frameReceive 0 0 (List.replicate 95 0) []) = false := by decide
theorem test_wf_data : wellFormed (.dataFrame 0 0 (List.replicate 97 0)) = false := by decide
theorem test_wf_grad : wellFormed (.gradFrame 0 0 [0]) = false := by decide
theorem test_wf_sync : wellFormed (.syncFrame 0 0 (List.replicate 96 0)) = false := by decide
theorem test_wf_hello : wellFormed (.hello 0 0 (List.replicate 96 0)) = false := by decide
theorem test_wf_prove : wellFormed (.prove 0 0 (List.replicate 96 0)) = false := by decide
theorem test_wf_ack : wellFormed (.ack 0 0 [0]) = false := by decide
theorem test_wf_nak : wellFormed (.nak 0 0 [0]) = false := by decide
theorem test_wf_toll : wellFormed (.toll 0 0 [0]) = false := by decide
theorem test_wf_fail : wellFormed (.fail 0 0 [0]) = false := by decide
theorem test_wf_idle : wellFormed (.idle 0 0 [0]) = false := by decide
theorem test_wf_queue_scan : wellFormed (.queueScan 0 .window 0 [0] false []) = false := by decide
theorem test_wf_arrive : wellFormed (.arrive 0 0 [0]) = false := by decide
theorem test_wf_release : wellFormed (.release 0 0 [0]) = false := by decide
theorem test_wf_abort : wellFormed (.abort 0 0 [0]) = false := by decide
theorem test_wf_key_exchange : wellFormed (.keyExchange .doe 0 0 0 [0]) = false := by decide
theorem test_wf_realm_auth : wellFormed (.realmAuth ⟨none, .doe⟩ ⟨2, 0, 8⟩ [0] [0]) = false := by decide
theorem test_wf_reg_read : wellFormed (.regRead ⟨none, .doe⟩ ⟨2, 0, 8⟩ 0 17) = false := by decide
theorem test_wf_reg_write : wellFormed (.regWrite ⟨none, .doe⟩ ⟨2, 0, 8⟩ 0x100000 [0]) = false := by decide
theorem test_wf_enroll : wellFormed (.enroll ⟨none, .doe⟩ ⟨2, 0, 8⟩ [0] 0) = false := by decide

/-! ### Witnesses: queue, registers, unit enables -/

theorem witness_StepRunsFrontCommand :
    ({ blk := Tests.blk0, pending := [.resetRelease] } : State).pending = .resetRelease :: [] := rfl

theorem witness_EmptyQueueTicks : (Tests.st Tests.blk0).pending = [] := rfl

theorem witness_AliasWritesSetAndClear : awake Tests.blk0 ∧ 0x1401C % 4 = 0 ∧
    gate (fresh Tests.blk0) .sealed 0x1401C true = .pass 0x14 0x01C none ∧
    gate (fresh Tests.blk0) .sealed (0x1401C + 0x800) true = .pass 0x14 0x01C (some true) ∧
    gate (fresh Tests.blk0) .sealed (0x1401C + 0xC00) true = .pass 0x14 0x01C (some false) :=
  ⟨Tests.awake_of (by decide), by decide⟩

theorem witness_RefusedWriteRecordsError : awake Tests.blk0 ∧ 0x14044 % 4 = 0 ∧
    gate (fresh Tests.blk0) .unsecured 0x14044 true = .refuse 0x14 cDenied ∧
    ¬((2 : Nat) = 4 ∧ 0x14044 % 4 = 0) ∧ ¬((2 : Nat) = 8 ∧ 0x14044 % 8 = 0) ∧ ¬((4 : Nat) = 4 ∧ 0x14046 % 4 = 0) ∧
    ¬((8 : Nat) = 8 ∧ 0x14044 % 8 = 0) ∧ gate Tests.blk0 .sealed (0x14046 / 4 * 4) true = .pass 0x14 0x044 none ∧
    gate (fresh Tests.blk0) .operator 0x14044 true = .unsupported :=
  ⟨Tests.awake_of (by decide), by decide⟩

theorem witness_HeaderClearsKeepNewEvents : present Tests.blk0.build 0x14 = true ∧ writable Tests.blk0 .sealed 0x14 0x014 ∧
    writable Tests.blk0 .sealed 0x14 0x020 ∧ readable Tests.blk0 .sealed 0x00 0x050 :=
  ⟨by decide, Tests.writable_of (by decide), Tests.writable_of (by decide), Tests.readable_of (by decide)⟩

/-- blk0 with the unit of page 0x14 in the state given. -/
def Tests.unitIs (u : UnitState) : Block := { Tests.blk0 with pages := tset {} Tests.pagesOn 0x14 { unit := u } }

theorem witness_UnitEnableDrainSquash :
    present Tests.blk0.build 0x14 = true ∧ hasEnable 0x14 = true ∧ inView .sealed 0x14 = false ∧ (0x14 : Nat) ≠ 0x19 ∧
    writable (Tests.unitIs .off) .sealed 0x14 0x00C ∧ (pageAt (Tests.unitIs .off) 0x14).unit = .off ∧
    writable Tests.blk0 .sealed 0x14 0x00C ∧ (pageAt Tests.blk0 0x14).unit = .on ∧ shutdownHeld Tests.blk0 0x14 = false ∧
    awake (Tests.unitIs .draining) ∧ (0x14 < 0x40 ∨ 0x80 ≤ 0x14) ∧ (pageAt (Tests.unitIs .draining) 0x14).unit = .draining ∧
    unitWork (Tests.unitIs .draining) 0x14 = false ∧
    awake (Tests.unitIs .scrubbing) ∧ (pageAt (Tests.unitIs .scrubbing) 0x14).unit = .scrubbing :=
  ⟨by decide, by decide, by decide, by decide, Tests.writable_of (by decide), by decide, Tests.writable_of (by decide), by decide,
   by decide, Tests.awake_of (by decide), by decide, by decide, by decide, Tests.awake_of (by decide), by decide⟩

/-- blk0 with berth 0's restore session as given. -/
def Tests.sessOf (x : SessState) : Block := { Tests.blk0 with gse := { sess := [(0, { st := x })] } }

theorem witness_SealingSessionHolds : writable (Tests.sessOf .unsealSt) .sealed 0x04 0x00C ∧ (pageAt (Tests.sessOf .unsealSt) 0x04).unit = .on ∧
    inView .sealed 0x04 = false ∧ (∃ e ∈ (Tests.sessOf .unsealSt).gse.sess, e.2.st = .sealSt ∨ e.2.st = .unsealSt) ∧
    writable (Tests.sessOf .failed) .sealed 0x04 0x00C ∧ (pageAt (Tests.sessOf .failed) 0x04).unit = .on ∧
    (∀ e ∈ (Tests.sessOf .failed).gse.sess, e.2.st ≠ .sealSt ∧ e.2.st ≠ .unsealSt) :=
  ⟨Tests.writable_of (by decide), by decide, by decide, ⟨_, .head _, .inr rfl⟩, Tests.writable_of (by decide), by decide, by decide⟩

/-! ### Witnesses: resets, ports, the Slipway, the life cycle -/

/-- blk0 programming word 5 of OTP in step 1 of a move to ANALYSIS. -/
def Tests.burning : Block :=
  { Tests.blk0 with otpRuns := [{ words := [(5, 1)], busy := true, job := .lcsStep }],
                    lcs := { st := .deployed, move := some { target := .analysis, source := .deployed, record := none, resumed := false, clearing := false } } }

theorem witness_WarmReset : Tests.blk0.porN = true ∧ Tests.blk0.slip.st = .idle ∧ wordBusy Tests.blk0 = false ∧
    Tests.burning.porN = true ∧ Tests.burning.slip.st = .idle ∧ wordBusy Tests.burning = true ∧ Tests.burning.work = [] := by decide

theorem witness_ResetReleaseStartsRom : State.reset.blk.phase = .inReset ∧ State.reset.blk.slip.st = .idle ∧
    State.reset.blk.slip.warm = false := by decide

theorem witness_StartComplete : ({ Tests.blk0 with phase := .starting } : Block).phase = .starting := rfl

/-- blk0 with Landing 0 up in FORD, engine A's port 0 and attached engine 0 in reset and the HOST interface low. -/
def Tests.portsDown : Block :=
  { Tests.blk0 with pins := { Tests.blk0.pins with hifUp := false }, sched := { atts := [(0, { inRst := true })] },
                    mema := { ports := [(0, { inRst := true })] } }

theorem witness_PortsResetAndReturn : awake Tests.blk0 ∧ Tests.blk0.slip.st = .idle ∧ Tests.blk0.slip.resets = [] ∧
    (63 : Nat) < Tests.blk0.build.landings ∧ (lndAt Tests.blk0 63).inRst = false ∧ (2 : Nat) < Tests.blk0.build.memaPorts ∧
    Tests.blk0.build.hostPort ≠ some 2 ∧ (portAt Tests.blk0 2).inRst = false ∧
    (15 : Nat) < Tests.blk0.build.attach ∧ (attAt Tests.blk0 15).inRst = false ∧ Tests.blk0.pins.hifUp = true ∧
    (lndAt { Tests.blk0 with lnds := [(63, { phyUp := true })] } 63).phyUp = true ∧ awake Tests.portsDown ∧ Tests.portsDown.slip.resets = [] ∧
    (portAt Tests.portsDown 0).inRst = true ∧ (attAt Tests.portsDown 0).inRst = true ∧ Tests.portsDown.pins.hifUp = false ∧
    Tests.portsDown.build.hostPort ≠ some 0 :=
  ⟨Tests.awake_of (by decide), by decide, by decide, by decide, by decide, by decide, by decide, by decide, by decide, by decide, by decide,
   by decide, Tests.awake_of (by decide), by decide⟩

theorem witness_TestInputs : Tests.blk0.phase = .running ∧ Tests.blk0.work = [] ∧ testState Tests.blk0 = false ∧
    testState { Tests.blk0 with lcs := { st := .analysis } } = true := by decide

/-- A Tide with one context, its owner wrap key KID 0x45, its MIX key 0x40 and its checkpoint pair at 0x46. -/
def Tests.tide0 : Tide := { owners := [⟨0, 1, []⟩], labels := [⟨0x40, 3, 0, 0, 0, []⟩, ⟨0x44, 6, 0, 0, 0, []⟩, ⟨0x45, 7, 0, 0, 0, []⟩, ⟨0x46, 8, 0, 0, 0, []⟩] }

/-- blk0 with berth 0 eligible for the Slipway, which is at st. -/
def Tests.slipAt (x : SlipState) : Block :=
  { Tests.blk0 with slip := { st := x, en := 1, budget := 100 },
                    berths := [(0, { st := .running, tide := some Tests.tide0 })] }

theorem witness_SlipwayRows : awake Tests.blk0 ∧
    ({ Tests.blk0 with pins := { slipPf := false } } : Block).pins.slipPf = false ∧ Tests.blk0.slip.st = .idle ∧ Tests.blk0.porN = true ∧
    awake (Tests.slipAt .stopping) ∧ (Tests.slipAt .stopping).slip.st = .stopping ∧ (Tests.slipAt .stopping).lcs.move = none ∧
    (slipPlan (Tests.slipAt .stopping) (Tests.slipAt .stopping).slip.en (Tests.slipAt .stopping).slip.budget).1 = [0] ∧
    slipPlan { Tests.blk0 with slip := { st := .stopping } } 0 0 = ([], []) ∧
    (Tests.slipAt .draining).slip.st = .draining ∧ (Tests.slipAt .draining).mema.writes = [] ∧
    (Tests.slipAt .clearing).slip.st = .clearing ∧ wordBusy (Tests.slipAt .clearing) = false ∧
    (∀ e ∈ (Tests.slipAt .clearing).berths, e.2.st ≠ .scrubSt) :=
  ⟨Tests.awake_of (by decide), by decide, by decide, by decide, Tests.awake_of (by decide), by decide⟩

/-- blk0 in the state given. -/
def Tests.inState (x : LcState) : Block := { Tests.blk0 with lcs := { st := x } }

theorem witness_LifeCycleRequests : readable Tests.blk0 .sealed 0x01 0x060 ∧
    writable (Tests.inState .blank) .sealed 0x01 (0x0A0 + 4 * 7) ∧ (Tests.inState .blank).lcs.st = .blank ∧
    writable (Tests.inState .blank) .sealed 0x01 0x070 ∧ (0x80000007 : Word).getLsbD 31 = true ∧
    lcsCheck (Tests.inState .blank) .sealed (fld (0x80000007 : Word) 2 0) = cLifecycle :=
  ⟨Tests.readable_of (by decide), Tests.writable_of (by decide), by decide, Tests.writable_of (by decide), by decide⟩

/-- blk0 BLANK with a test root in LCS_DATA: the request to move to MANUFACTURED is accepted. -/
def Tests.toMade : Block := { Tests.blk0 with lcs := { st := .blank, data := [(0, 1)] } }

theorem witness_lcsMoveAccepted : writable Tests.toMade .sealed 0x01 0x070 ∧ (0x80000001 : Word).getLsbD 31 = true ∧
    lcsCheck Tests.toMade .sealed (fld (0x80000001 : Word) 2 0) = cPending :=
  ⟨Tests.writable_of (by decide), by decide, by decide⟩

/-- A move to ANALYSIS that clears. -/
def Tests.clearMove : Move := { target := .analysis, source := .deployed, record := none, resumed := false, clearing := true }

theorem witness_OtpWordAndClear : frozen Tests.burning = false ∧
    Tests.burning.otpRuns = { words := [(5, 1)], busy := true, job := .lcsStep } :: [] ∧
    (5 : Nat) ≠ 6 ∧ Tests.blk0.phase = .running ∧ Tests.blk0.slip.st = .idle ∧
    ({ Tests.blk0 with lcs := { move := some Tests.clearMove } } : Block).lcs.move = some Tests.clearMove ∧
    Tests.clearMove.clearing = true := by decide

/-! ### Witnesses: keys and the key stage -/

/-- blk0 with a KEY_RANGE_CMD for 16 KIDs of berth 1 running, its answer c; the KIDs that it takes are FREE. -/
def Tests.rangeBlk (c : Byte) : Block :=
  { Tests.blk0 with keys := { cmd := some { base := 0x40, count := 16, berth := 1, code := c }, ranges := [(1, (0x48, 16))],
                              cache := [(0x4F, { st := .live }), (0x50, {})] } }

theorem witness_keyRangeCommand : writable Tests.blk0 .sealed 0x02 0x054 ∧ (0x80000840 : Word).getLsbD 31 = true ∧
    Tests.blk0.keys.cmd = none ∧ awake (Tests.rangeBlk cDenied) ∧
    (Tests.rangeBlk cDenied).keys.cmd = some { base := 0x40, count := 16, berth := 1, code := cDenied } ∧ cDenied ≠ cOk ∧
    awake (Tests.rangeBlk cOk) ∧ (Tests.rangeBlk cOk).keys.cmd = some { base := 0x40, count := 16, berth := 1, code := cOk } ∧
    (∀ e ∈ (Tests.rangeBlk cOk).keys.cache, e.2.st ≠ .free → inKeyRange (Tests.rangeBlk cOk) 1 e.1 = true → 0x40 ≤ e.1 ∧ e.1 < 0x40 + 16) :=
  ⟨Tests.writable_of (by decide), by decide, by decide, Tests.awake_of (by decide), by decide, by decide, Tests.awake_of (by decide),
   by decide, by decide⟩

/-- blk0 with a derivation at KID 0x41 under the root in the engine, a retiring KID 0x42, and a job in berth 31 at its first slot. -/
def Tests.keyed : Block :=
  { Tests.blk0 with keys := { cache := [(0x41, { st := .derivation }), (0x42, { st := .retiring })], root := some 1, engine := [(0x41, 1)] },
                    berths := [(31, { st := .running, tide := some Tests.tide0 })] }

theorem witness_keySchedule : awake Tests.keyed ∧ Tests.keyed.keys.engine.find? (fun r => r.1 = 0x41) = some (0x41, 1) ∧
    (keyAt Tests.keyed 0x42).st = .retiring ∧
    keyInUse Tests.keyed 0x42 = false ∧ Tests.keyed.slip.st = .idle ∧ tideOf Tests.keyed 31 = some Tests.tide0 ∧
    (berthAt Tests.keyed 31).st = .running ∧
    (berthAt Tests.keyed 31).loadTick + (berthAt Tests.keyed 31).slot * Tests.tide0.ticks ≤ now Tests.keyed :=
  ⟨Tests.awake_of (by decide), by decide⟩

/-- blk0 with the stage held by the sealed firmware in state st, the target a form-1 record of KID 7 under wrap KID 6. -/
def Tests.staged (st : Nat) (k : Kstg) : Block :=
  { Tests.blk0 with kstg := { k with st := st, holder := 31 },
                    regs := [(0x3048, 0x08000007), (0x304C, kcv (stagedKey k)), (0x3050, 6)],
                    keys := { cache := [(6, { st := .live, key := bytesKey ((List.range 32).map (BitVec.ofNat 8)) })] } }

theorem witness_StageClaimAbortRelease : writable Tests.blk0 .sealed 0x03 0x040 ∧ holderOf .sealed = some 31 ∧ Tests.blk0.kstg.st = 0 ∧
    isHolder Tests.blk0 .sealed = false ∧ writable (Tests.staged 1 {}) .sealed 0x03 0x040 ∧
    isHolder (Tests.staged 1 {}) .sealed = true ∧ stageRuns (Tests.staged 1 {}) = false :=
  ⟨Tests.writable_of (by decide), by decide, by decide, by decide, Tests.writable_of (by decide), by decide, by decide⟩

theorem witness_StageUnwrap : writable (Tests.staged 1 { blobSet := 0x3FF }) .sealed 0x03 0x040 ∧
    isHolder (Tests.staged 1 { blobSet := 0x3FF }) .sealed = true ∧ stageRuns (Tests.staged 1 { blobSet := 0x3FF }) = false ∧
    (Tests.staged 1 { blobSet := 0x3FF }).kstg.st = 1 ∧ kstgForm (Tests.staged 1 { blobSet := 0x3FF }) = true ∧
    (Tests.staged 1 { blobSet := 0x3FF }).kstg.blobSet = 0x3FF ∧ wrapAdmitted (Tests.staged 1 { blobSet := 0x3FF }) = true :=
  ⟨Tests.writable_of (by decide), by decide, rfl, rfl, by decide, rfl, by decide⟩

/-- A Tide whose owner 0 has an import at KID 0x47, and its session 0 on slot 1, with the record loaded into a stage in state st. -/
def Tests.ownerStage (st : Nat) : Block :=
  { Tests.blk0 with kstg := { st := st, holder := 0 }, regs := [(0x3048, 0x00009047), (0x304C, kcv (stagedKey {}))],
                    berths := [(0, { st := .loaded, tide := some { owners := [⟨0, 1, []⟩], labels := [⟨0x47, 9, 0, 0, 0, []⟩] } })],
                    certs := [(1, some 0)], sess := [(0, { up := true, fin := true, slot := 1, digest := some [] })] }

theorem witness_StageVerifyCommit : writable (Tests.staged 2 {}) .sealed 0x03 0x040 ∧ (Tests.staged 2 {}).kstg.st = 2 ∧
    isHolder (Tests.staged 2 {}) .sealed = true ∧ stageRuns (Tests.staged 2 {}) = false ∧
    writable (Tests.staged 3 {}) .sealed 0x03 0x040 ∧ isHolder (Tests.staged 3 {}) .sealed = true ∧
    stageRuns (Tests.staged 3 {}) = false ∧ (Tests.staged 3 {}).kstg.st = 3 ∧ firmwareRecord (Tests.staged 3 {}) = true ∧
    importState (Tests.staged 3 {}) = cOk ∧ importBerth (Tests.staged 3 {}) = cOk ∧ importTarget (Tests.staged 3 {}) = cOk ∧
    writable (Tests.ownerStage 3) (.session 0) 0x03 0x040 ∧ isHolder (Tests.ownerStage 3) (.session 0) = true ∧
    stageRuns (Tests.ownerStage 3) = false ∧ firmwareRecord (Tests.ownerStage 3) = false ∧
    importState (Tests.ownerStage 3) = cOk ∧ importBerth (Tests.ownerStage 3) = cOk ∧ importTarget (Tests.ownerStage 3) = cOk :=
  ⟨Tests.writable_of (by decide), rfl, by decide, rfl, Tests.writable_of (by decide), by decide, rfl, rfl, by decide, by decide, by decide, by decide,
   Tests.writable_of (by decide), by decide⟩

/-- The wrapped key of RFC 3394, 4.6, as the stage's blob words. -/
def Tests.blob : Table Word :=
  [(0, 0x04F4C928), (1, 0xF410B8C4), (2, 0x5CB3CCCB), (3, 0x26F887FB), (4, 0xE286573F), (5, 0x26D30ED8), (6, 0xE7F0C7CB), (7, 0x3BF4991A),
   (8, 0x9B8B98FB), (9, 0x21DD027A)]

/-- The key of RFC 3394, 4.6. -/
def Tests.wrapped : Bytes := [0x00, 0x11, 0x22, 0x33, 0x44, 0x55, 0x66, 0x77, 0x88, 0x99, 0xAA, 0xBB, 0xCC, 0xDD, 0xEE, 0xFF] ++
  (List.range 16).map (BitVec.ofNat 8)

/-- The stage with that blob, the unwrap under way. -/
def Tests.unwrapping : Block := Tests.staged 1 { blob := Tests.blob, run := some .unwrap }

theorem witness_unwrap_starts : awake Tests.unwrapping ∧ Tests.unwrapping.kstg.run = some .unwrap ∧ Tests.unwrapping.kstg.rest = none ∧
    startedKey Tests.unwrapping (kstgWrapKid Tests.unwrapping) = some (bytesKey ((List.range 32).map (BitVec.ofNat 8))) :=
  ⟨Tests.awake_of (by decide), by decide⟩

/-- RFC 3394, 4.6: the 256 bits of key data wrapped with its 256-bit key. -/
theorem witness_unwrap_good : kwUnwrap (keyBytes (bytesKey ((List.range 32).map (BitVec.ofNat 8)))) (blobBytes Tests.unwrapping.kstg) =
    some Tests.wrapped := by decide +kernel

/-- A blob of zeros does not unwrap. -/
theorem witness_unwrap_bad : kwUnwrap (keyBytes 0) (List.replicate 40 0) = none := by decide +kernel

theorem witness_stageEngineEnds : awake (Tests.staged 2 { run := some .verify }) ∧
    (Tests.staged 2 { run := some .verify }).kstg.run = some .verify ∧ (Tests.staged 2 { run := some .verify }).kstg.rest = none ∧ importState (Tests.staged 2 { run := some .verify }) = cOk ∧
    importBerth (Tests.staged 2 { run := some .verify }) = cOk ∧ importHolder (Tests.staged 2 { run := some .verify }) = cOk ∧
    importTarget (Tests.staged 2 { run := some .verify }) = cOk ∧ importKcv (Tests.staged 2 { run := some .verify }) = cOk ∧
    awake { Tests.staged 1 {} with tick := 20000000 } ∧ ({ Tests.staged 1 {} with tick := 20000000 } : Block).kstg.st ≠ 0 ∧
    ({ Tests.staged 1 {} with tick := 20000000 } : Block).kstg.tick + msTicks { Tests.staged 1 {} with tick := 20000000 } 100 ≤
      now { Tests.staged 1 {} with tick := 20000000 } :=
  ⟨Tests.awake_of (by decide), rfl, rfl, by decide, by decide, by decide, by decide, if_pos rfl, Tests.awake_of (by decide), by decide, by decide⟩

theorem witness_stageWrites : isHolder (Tests.staged 3 {}) .sealed = true ∧ stageRuns (Tests.staged 3 {}) = false ∧
    writable (Tests.staged 3 {}) .sealed 0x03 (0x060 + 4 * 7) ∧ writable (Tests.staged 3 {}) .sealed 0x03 (0x080 + 4 * 9) ∧
    writable (Tests.staged 3 {}) .sealed 0x03 (stageRegAddr .kcv - 0x03000) :=
  ⟨by decide, rfl, Tests.writable_of (by decide), Tests.writable_of (by decide), Tests.writable_of (by decide)⟩

/-! ### Witnesses: the sealing engine -/

/-- tide0 with an exported window of 1 MiB as object 0, a RAW region of 1 MiB as object 1, and a checkpoint map of 4 sectors in the latter. -/
def Tests.tideG : Tide :=
  { Tests.tide0 with regions := [⟨2, 0, 20, 0, 0, 0, 0⟩, ⟨1, 0, 20, 1, 0, 1, 0⟩], expRgn := [0], restore := true, extents := [⟨1, 4, 0⟩] }

/-- A GSE command of berth 0 with its buffer and record in that region, for `n` sectors. -/
def Tests.gseD (op : GseOp) (n : Nat) : GseDesc :=
  { op := op, berth := 0, masked := false, tag := 0, kidA := 0x44, kidB := 0x45, first := 0, count := n, buffer := 0x10000,
    record := 0x10000, bufOff := 0, recOff := 0, clean := true }

/-- blk0 with berth 0 in state w, its session x and the sealing engine's queues g; the two set wrap keys and the checkpoint pair are LIVE. -/
def Tests.gseBlk (w : Berth) (x : Sess) (g : Gse) : Block :=
  { Tests.blk0 with berths := [(0, { w with tide := some Tests.tideG })], gse := { g with sess := [(0, x)] },
                    objs := [(0, { st := .live, kind := .window 20 0 }), (1, { st := .live, kind := .engA 0 })],
                    keys := { ranges := [(0, (0x40, 16))],
                              cache := [(0x44, { st := .live, purpose := 6 }), (0x45, { st := .live, purpose := 6 }),
                                        (0x46, { st := .live, purpose := 8 }), (0x47, { st := .live, purpose := 8 })] } }

theorem witness_GseQueues : writable Tests.blk0 .sealed 0x04 0x0C0 ∧ (1 : Word).getLsbD 0 = true ∧ Tests.blk0.gse.drbgFail = false ∧
    Tests.blk0.gse.opq.length < 8 ∧ Tests.blk0.slip.st = .idle ∧
    readable { Tests.blk0 with gse := { cplq := [⟨cOk, 4, 0, 7⟩] } } .sealed 0x04 0x0C8 ∧
    ({ Tests.blk0 with gse := { cplq := [⟨cOk, 4, 0, 7⟩] } } : Block).gse.cplq = ⟨cOk, 4, 0, 7⟩ :: [] ∧
    awake { Tests.blk0 with gse := { drbgUses := 2 ^ 20 } } ∧ ({ Tests.blk0 with gse := { drbgUses := 2 ^ 20 } } : Block).gse.drbgFail = false ∧
    2 ^ 20 ≤ ({ Tests.blk0 with gse := { drbgUses := 2 ^ 20 } } : Block).gse.drbgUses ∧
    ({ Tests.blk0 with gse := { drbgUses := 2 ^ 20 } } : Block).gse.drbgTries + 1 < 16 :=
  ⟨Tests.writable_of (by decide), by decide, by decide, by decide, by decide, Tests.readable_of (by decide), rfl,
   Tests.awake_of (by decide), by decide⟩

/-- Berth 0 sealing, with its session at x. -/
def Tests.sealing (x : Sess) : Block := Tests.gseBlk { st := .sealSt } x {}

theorem witness_sealCommands : awake (Tests.sealing {}) ∧ gseMayStart (Tests.sealing {}) = true ∧
    gseBusy (Tests.sealing {}) 0 = false ∧ (Tests.gseD .sealOpen 0).clean = true ∧ (berthAt (Tests.sealing {}) 0).st = .sealSt ∧
    sealReady (Tests.sealing {}) 0 = true ∧ maskedCode (Tests.sealing {}) (Tests.gseD .sealOpen 0) = cOk ∧
    (wrapKey (Tests.sealing {}) 0).isSome = true ∧ (sessAt (Tests.sealing {}) 0).st = .none ∧
    (ckptKid (Tests.sealing {}) 0).isSome = true ∧ (rawTarget (Tests.sealing {}) 0 0x10000 0 192).1 = cOk :=
  ⟨Tests.awake_of (by decide), by decide⟩

theorem witness_sealSectors : awake (Tests.sealing { st := .sealSt, total := 4 }) ∧
    gseMayStart (Tests.sealing { st := .sealSt, total := 4 }) = true ∧ gseBusy (Tests.sealing { st := .sealSt, total := 4 }) 0 = false ∧
    (berthAt (Tests.sealing { st := .sealSt, total := 4 }) 0).st = .sealSt ∧ sealReady (Tests.sealing { st := .sealSt, total := 4 }) 0 = true ∧
    maskedCode (Tests.sealing { st := .sealSt, total := 4 }) (Tests.gseD .sealRun 4) = cOk ∧
    (berthAt (Tests.sealing { st := .sealSt, total := 4 }) 0).sealOver = false ∧
    sectorCheck (fwRead 0 (Tests.sealing { st := .sealSt, total := 4 })) (Tests.gseD .sealRun 4) .sealSt true = cOk ∧
    (sessAt (Tests.sealing { st := .sealSt, total := 4 }) 0).st = .sealSt ∧
    ckptServes (Tests.sealing { st := .sealSt, total := 4 }) 0 = true ∧
    (rawTarget (Tests.sealing { st := .sealSt, total := 4 }) 0 0x10000 0 192).1 = cOk :=
  ⟨Tests.awake_of (by decide), by decide⟩



/-- Berth 0 in state w, its session x, with the command in the operator's queue. -/
def Tests.queued (w : BerthState) (x : Sess) (op : GseOp) (n : Nat) : Block :=
  Tests.gseBlk { st := w } x { opq := [{ d := Tests.gseD op n, fw := false }] }

theorem witness_unsealOpen : awake (Tests.queued .joined {} .unsealOpen 0) ∧ gseMayStart (Tests.queued .joined {} .unsealOpen 0) = true ∧
    (Tests.queued .joined {} .unsealOpen 0).slip.st = .idle ∧ (Tests.queued .joined {} .unsealOpen 0).gse.cplq.length < 8 ∧
    ((Tests.queued .joined {} .unsealOpen 0).gse.opq.find? fun c => c.d.clean && c.d.op = .unsealOpen &&
      gseFirst (Tests.queued .joined {} .unsealOpen 0) c) = some { d := Tests.gseD .unsealOpen 0, fw := false } ∧
    (Tests.queued .joined {} .unsealOpen 0).gse.keyOps = [] ∧
    (sessAt (Tests.queued .joined {} .unsealOpen 0) 0).st = .none ∧ (berthAt (Tests.queued .joined {} .unsealOpen 0) 0).st = .joined ∧
    (tideOf (Tests.queued .joined {} .unsealOpen 0) 0).any Tide.restore = true ∧
    (ckptKid (Tests.queued .joined {} .unsealOpen 0) 0).isSome = true ∧
    (rawTarget (Tests.queued .joined {} .unsealOpen 0) 0 0x10000 0 192).1 = cOk :=
  ⟨Tests.awake_of (by decide), by decide⟩

/-- A restore session of 4 sectors with `n` of them done. -/
def Tests.unsealing (n : Nat) : Sess := { st := .unsealSt, total := 4, next := n }

theorem witness_unsealSectors :
    ((Tests.queued .joined (Tests.unsealing 0) .unsealRun 4).gse.opq.find? fun c => c.d.clean && c.d.op = .unsealRun &&
      gseFirst (Tests.queued .joined (Tests.unsealing 0) .unsealRun 4) c) = some { d := Tests.gseD .unsealRun 4, fw := false } ∧
    sectorCheck (modGse (fun g => { g with opq := [] }) (Tests.queued .joined (Tests.unsealing 0) .unsealRun 4))
      (Tests.gseD .unsealRun 4) .unsealSt true = cOk ∧
    ckptServes (Tests.queued .joined (Tests.unsealing 0) .unsealRun 4) 0 = true := by decide

theorem witness_unsealClose :
    ((Tests.queued .joined (Tests.unsealing 4) .unsealClose 0).gse.opq.find? fun c => c.d.clean && c.d.op = .unsealClose &&
      gseFirst (Tests.queued .joined (Tests.unsealing 4) .unsealClose 0) c) = some { d := Tests.gseD .unsealClose 0, fw := false } ∧
    maskedCode (Tests.queued .joined (Tests.unsealing 4) .unsealClose 0) (Tests.gseD .unsealClose 0) = cOk ∧
    (sessAt (Tests.queued .joined (Tests.unsealing 4) .unsealClose 0) 0).st = .unsealSt ∧
    (sessAt (Tests.queued .joined (Tests.unsealing 4) .unsealClose 0) 0).total ≤
      (sessAt (Tests.queued .joined (Tests.unsealing 4) .unsealClose 0) 0).next ∧
    (rawTarget (Tests.queued .joined (Tests.unsealing 4) .unsealClose 0) 0 0x10000 0 192).1 = cOk := by decide

/-- A rewrap waiting in the firmware's queue. -/
def Tests.rewrapBlk : Block := Tests.gseBlk {} {} { fwq := [{ d := Tests.gseD .rewrap 0, fw := true }] }

theorem witness_rewrap : awake Tests.rewrapBlk ∧ (Tests.gseD .rewrap 0).op = .rewrap ∧ gseMayStart Tests.rewrapBlk = true ∧
    Tests.rewrapBlk.slip.st = .idle ∧ recReader Tests.rewrapBlk 0 = none ∧
    Tests.rewrapBlk.gse.fwq = [{ d := Tests.gseD .rewrap 0, fw := true }] ∧
    (Tests.gseD .rewrap 0).recOff % 64 = 0 ∧ (keyAt Tests.rewrapBlk 0x44).purpose = 6 ∧ (keyAt Tests.rewrapBlk 0x45).purpose = 6 ∧
    (cipherKey Tests.rewrapBlk 0 0x44).isSome = true ∧ (cipherKey Tests.rewrapBlk 0 0x45).isSome = true ∧
    (rawTarget Tests.rewrapBlk 0 0x10000 0 192).1 = cOk :=
  ⟨Tests.awake_of (by decide), by decide⟩

/-- Sector 3 of a SEAL of 4 in its core, every line of it read. -/
def Tests.sec3 : GseSec := { id := 9, berth := 0, sector := 3, lines := (List.range 64).map fun l => (l, []) }

/-- A SEAL of 4 sectors in work, a started key operation as given, and the stage as given. -/
def Tests.gseRun : Block :=
  Tests.gseBlk { st := .sealSt } { st := .sealSt, total := 4 } { run := [{ d := Tests.gseD .sealRun 4, fw := true, took := 4 }], secs := [Tests.sec3] }
def Tests.gseKeyOp (op : GseOp) (k : Kstg) : Block :=
  { Tests.gseBlk { st := .sealSt } {} { keyOps := [{ d := Tests.gseD op 0, fw := true }] } with tick := 20000000, kstg := k }

theorem witness_gseSectorDone : awake Tests.gseRun ∧
    (Tests.gseRun.gse.secs.find? fun x => x.berth = 0 && x.sector = 3 && !x.out) = some Tests.sec3 ∧ Tests.sec3.berth = 0 ∧
    Tests.sec3.sector = 3 ∧ runOf Tests.gseRun 0 = some { d := Tests.gseD .sealRun 4, fw := true, took := 4 } ∧
    (secSource Tests.gseRun { d := Tests.gseD .sealRun 4, fw := true, took := 4 } 3).any (fun p => isWindow Tests.gseRun p.1) = false ∧
    (∀ l, l < 64 → Tests.sec3.lines.any (fun e => e.1 = l) = true) ∧ ckptKid Tests.gseRun 0 = some 0x46 ∧
    heldKey Tests.gseRun 0 0x46 = some 0 ∧ heldKey Tests.gseRun 0 (0x46 + 1) = some 0 ∧
    secDest Tests.gseRun { d := Tests.gseD .sealRun 4, fw := true, took := 4 } 3 = some (0, 3 * 4096) :=
  ⟨Tests.awake_of (by decide), by decide +kernel⟩

theorem witness_gseKeyOps : (∀ op ∈ [.sealOpen, .sealClose, .unsealClose, .rewrap], awake (Tests.gseKeyOp op {}) ∧
    (keyCores (Tests.gseKeyOp op {})).find? (fun c => c.d.berth.val = 0 && c.left = 0 && gseServes (Tests.gseKeyOp op {}) c) =
      some { d := Tests.gseD op 0, fw := true }) ∧
    (keyCores (Tests.gseKeyOp .unsealOpen { st := 3, rest := some 0 })).find?
      (fun c => c.d.berth.val = 0 && c.left = 0 && gseServes (Tests.gseKeyOp .unsealOpen { st := 3, rest := some 0 }) c) =
      some { d := Tests.gseD .unsealOpen 0, fw := true } ∧
    (Tests.gseKeyOp .unsealOpen { st := 3, rest := some 0 }).kstg.rest = some 0 ∧ (Tests.gseKeyOp .unsealOpen { st := 3, rest := some 0 }).kstg.st = 3 ∧
    ((Tests.gseKeyOp .unsealOpen { st := 1 }).gse.keyOps.find? fun c => c.d.op = .unsealOpen && !c.reading &&
      c.since + msTicks (Tests.gseKeyOp .unsealOpen { st := 1 }) 100 ≤ now (Tests.gseKeyOp .unsealOpen { st := 1 })) =
        some { d := Tests.gseD .unsealOpen 0, fw := true } ∧
    (Tests.gseKeyOp .unsealOpen { st := 1 }).kstg.st ≠ 0 ∧ (Tests.gseKeyOp .unsealOpen { st := 1 }).kstg.rest ≠ some 0 ∧
    gseServes (Tests.gseKeyOp .unsealOpen { st := 1 }) { d := Tests.gseD .unsealOpen 0, fw := true } = true :=
  ⟨fun op h => ⟨Tests.awake_of (by revert op; decide), by revert op; decide⟩, by decide⟩

/-! ### Witnesses: Landings -/

/-- A Landing whose link is up, in the state given. -/
def Tests.lnd (st : LndState) : Landing := { st := st, phyUp := true, aligned := true, peerOk := true }

/-- blk0 with Landing 0 as given. -/
def Tests.lndBlk (l : Landing) : Block := { Tests.blk0 with lnds := [(0, l)] }

/-- A good marker of round 5. -/
def Tests.markers : List Bytes := (List.range 8).map (markerWord 0 (Tests.lndBlk (Tests.lnd .opened)) 5)

theorem witness_RoundsAndMarkers : awake (Tests.lndBlk { Tests.lnd .opened with goodMark := 5 }) ∧
    (lndAt (Tests.lndBlk { Tests.lnd .opened with goodMark := 5 }) 0).st ≠ .down ∧
    (lndAt (Tests.lndBlk { Tests.lnd .opened with goodMark := 5 }) 0).inRst = false ∧
    62 ≤ (lndAt (Tests.lndBlk { Tests.lnd .opened with goodMark := 5 }) 0).txSlot ∧
    (Tests.lndBlk { Tests.lnd .opened with goodMark := 5 }).slip.st = .idle ∧ markersGood Tests.markers = true ∧
    (lndAt (Tests.lndBlk { Tests.lnd .opened with goodMark := 5 }) 0).goodMark = roundOfMarker Tests.markers ∧
    roundOfMarker Tests.markers ≠ 0 ∧ roundOfMarker Tests.markers < 2 ^ 64 ∧ markersGood (List.replicate 8 (List.replicate 32 0)) = false ∧
    (lndAt (Tests.lndBlk { Tests.lnd .opened with goodMark := 5 }) 0).aligned = true ∧
    (lndAt (Tests.lndBlk { Tests.lnd .opened with goodMark := 5 }) 0).badMark = 0 ∧
    (lndAt (Tests.lndBlk { Tests.lnd .opened with badMark := 1 }) 0).aligned = true ∧
    1 ≤ (lndAt (Tests.lndBlk { Tests.lnd .opened with badMark := 1 }) 0).badMark := ⟨Tests.awake_of (by decide), by decide +kernel⟩

/-- A frame of the TYPE given, all fields good, with an empty tag. -/
def Tests.raw (t : Nat) : Bytes := frameBytes { type := t } (List.replicate 64 0) (List.replicate 16 0) false

/-- raw 1 with its last byte 0: its CRC fails. -/
def Tests.rawBad : Bytes := (Tests.raw 1).take 127 ++ [0]

theorem witness_FramesReachTheChecks : awake (Tests.lndBlk { Tests.lnd .opened with txSlot := 61 }) ∧
    (Tests.lndBlk { Tests.lnd .opened with txSlot := 61 }).slip.st = .idle ∧
    (lndAt (Tests.lndBlk { Tests.lnd .opened with txSlot := 61 }) 0).st ≠ .down ∧
    (lndAt (Tests.lndBlk { Tests.lnd .opened with txSlot := 61 }) 0).inRst = false ∧
    (lndAt (Tests.lndBlk { Tests.lnd .opened with txSlot := 61 }) 0).txSlot = 61 ∧
    awake (Tests.lndBlk (Tests.lnd .ford)) ∧ (Tests.lndBlk (Tests.lnd .ford)).slip.st = .idle ∧
    listens (Tests.lndBlk (Tests.lnd .ford)) 0 = true ∧ (lndAt (Tests.lndBlk (Tests.lnd .ford)) 0).rxSlot ≤ 61 ∧
    (lndAt (reachSlot 0 61 (Tests.lndBlk (Tests.lnd .ford))) 0).dropSlot ≠ some 61 ∧
    (∀ t ∈ [1, 2, 3, 8, 9], fieldLE (Tests.raw t) 0 1 ≠ 0 ∧ (Tests.raw t).length = 32 * ((hdrOf (Tests.raw t)).lenw + 3) ∧
      (lndAt (reachSlot 0 61 (Tests.lndBlk (Tests.lnd .ford))) 0).rxUsed + ((hdrOf (Tests.raw t)).lenw + 3) ≤ 130 ∧
      crcGood (Tests.raw t) = true ∧ (hdrOf (Tests.raw t)).type = t) ∧
    fieldLE Tests.rawBad 0 1 ≠ 0 ∧ Tests.rawBad.length = 32 * ((hdrOf Tests.rawBad).lenw + 3) ∧
    (lndAt (reachSlot 0 61 (Tests.lndBlk (Tests.lnd .ford))) 0).rxUsed + ((hdrOf Tests.rawBad).lenw + 3) ≤ 130 ∧
    crcGood Tests.rawBad = false ∧ rxOwn (lndAt (reachSlot 0 61 (Tests.lndBlk (Tests.lnd .ford))) 0) 61 = none :=
  ⟨Tests.awake_of (by decide), by decide, by decide, by decide, by decide, Tests.awake_of (by decide), by decide +kernel⟩

/-- lndBlk with crossing 0 OPEN. -/
def Tests.openBlk : Block := { Tests.lndBlk (Tests.lnd .opened) with xings := [(0, { st := .opened })] }

theorem witness_GoodFramesReachTheirCrossing : headerGood (Tests.raw 1) = true ∧ (hdrOf (Tests.raw 1)).type ≠ 8 ∧
    (hdrOf (Tests.raw 1)).echo = (lndGen Tests.openBlk 0).toNat ∧ (lndAt Tests.openBlk 0).peerOk = true ∧
    (hdrOf (Tests.raw 1)).gen = (lndAt Tests.openBlk 0).peerGen.toNat ∧
    slotTakes Tests.openBlk 0 61 (hdrOf (Tests.raw 1)) = true ∧ (hdrOf (Tests.raw 1)).type < 8 ∧
    headerGood (Tests.raw 9) = true ∧ (hdrOf (Tests.raw 9)).type ≠ 8 ∧ 8 ≤ (hdrOf (Tests.raw 9)).type ∧
    (hdrOf (Tests.raw 9)).echo = (lndGen Tests.openBlk 0).toNat ∧ (hdrOf (Tests.raw 9)).gen = (lndAt Tests.openBlk 0).peerGen.toNat ∧
    slotTakes Tests.openBlk 0 61 (hdrOf (Tests.raw 9)) = true ∧ 128 ≤ (lndAt Tests.openBlk 0).tokens ∧
    headerGood (Tests.raw 8) = true ∧ (hdrOf (Tests.raw 8)).type = 8 ∧
    slotTakes (Tests.lndBlk (Tests.lnd .ford)) 0 0 (hdrOf (Tests.raw 8)) = true ∧
    128 ≤ (lndAt (Tests.lndBlk (Tests.lnd .ford)) 0).tokens ∧
    headerGood (frameBytes { type := 1, echo := 1 } (List.replicate 64 0) [] false) = true ∧
    (hdrOf (frameBytes { type := 1, echo := 1 } (List.replicate 64 0) [] false)).type ≠ 8 ∧
    (hdrOf (frameBytes { type := 1, echo := 1 } (List.replicate 64 0) [] false)).echo ≠ (lndGen Tests.openBlk 0).toNat := by
  decide +kernel

/-- A control word of the CTYPE given with a good CRC, and one whose CRC is wrong. -/
def Tests.ctl (t : Nat) : Bytes := leBytes 1 t ++ List.replicate 27 0 ++ leBytes 4 (crc32c (leBytes 1 t ++ List.replicate 27 0)).toNat

theorem witness_ControlWordsAct : awake (Tests.lndBlk (Tests.lnd .opened)) ∧ listens (Tests.lndBlk (Tests.lnd .opened)) 0 = true ∧
    (lndAt (Tests.lndBlk (Tests.lnd .opened)) 0).rxSlot < 61 ∧
    ((lndAt (Tests.lndBlk (Tests.lnd .opened)) 0).rxSlot = 0 ∧ (lndAt (Tests.lndBlk (Tests.lnd .opened)) 0).rxCtl < 2 ∧
      (lndAt (Tests.lndBlk (Tests.lnd .opened)) 0).rxUsed = 0) ∧
    (∀ t ∈ [0, 1, 2, 3, 4], crcGood (Tests.ctl t) = true ∧ fieldLE (Tests.ctl t) 0 1 = t ∧
      fieldLE (Tests.ctl t) 1 3 / 4096 = (lndGen (Tests.lndBlk (Tests.lnd .opened)) 0).toNat ∧
      fieldLE (Tests.ctl t) 1 3 % 4096 = (lndAt (Tests.lndBlk (Tests.lnd .opened)) 0).peerGen.toNat) ∧
    crcGood (List.replicate 32 0) = false ∧
    fieldLE (List.replicate 32 (0 : Byte)) 1 3 / 4096 = (lndGen (Tests.lndBlk (Tests.lnd .opened)) 0).toNat :=
  ⟨Tests.awake_of (by decide), by decide +kernel⟩

/-- blk0 late in time, with Landing 0 as given and crossing 0 of it as given. -/
def Tests.xingBlk (l : Landing) (x : Xing) : Block := { Tests.lndBlk l with xings := [(0, x)], tick := 100000000000 }

/-- An unacknowledged frame. -/
def Tests.unacked : Unacked := ⟨0, { type := 1 }, false, false, 1⟩

theorem witness_linkTimers : awake (Tests.xingBlk { Tests.lnd .opened with roundTx := 64 } { st := .opened, unacked := [Tests.unacked] }) ∧
    (xingAt (Tests.xingBlk (Tests.lnd .opened) { st := .opened, unacked := [Tests.unacked] }) 0 0).st = .opened ∧
    (xingAt (Tests.xingBlk (Tests.lnd .opened) { st := .opened, unacked := [Tests.unacked] }) 0 0).unacked ≠ [] ∧
    (xingAt (Tests.xingBlk (Tests.lnd .opened) { st := .opened, unacked := [Tests.unacked] }) 0 0).progress + 64 ≤
      (lndAt (Tests.xingBlk { Tests.lnd .opened with roundTx := 64 } {}) 0).roundTx ∧
    awake (Tests.lndBlk {}) ∧ (lndAt (Tests.lndBlk {}) 0).st = .down ∧ (lndAt (Tests.lndBlk {}) 0).inRst = false ∧
    (pageAt (Tests.lndBlk {}) 0x40).unit = .on ∧
    awake (Tests.xingBlk (Tests.lnd .ford) {}) ∧ (lndAt (Tests.xingBlk (Tests.lnd .ford) {}) 0).linked = false ∧
    (lndAt (Tests.xingBlk (Tests.lnd .ford) {}) 0).fordStall = false ∧
    (lndAt (Tests.xingBlk (Tests.lnd .ford) {}) 0).fordTick +
      msTicks (Tests.xingBlk (Tests.lnd .ford) {}) (fld (reg (Tests.xingBlk (Tests.lnd .ford) {}) 0x8044) 15 0) ≤
        now (Tests.xingBlk (Tests.lnd .ford) {}) ∧
    (xingAt (Tests.xingBlk (Tests.lnd .opened) { st := .proving }) 0 0).st = .proving ∧
    (xingAt (Tests.xingBlk (Tests.lnd .opened) { st := .proving }) 0 0).stalled = false :=
  ⟨Tests.awake_of (by decide), by decide, by decide, by decide, Tests.awake_of (by decide), by decide, by decide, by decide,
   Tests.awake_of (by decide), by decide⟩

/-- Landing 0 draining since round 3. -/
def Tests.drainBlk (x : Xing) : Block :=
  { Tests.xingBlk { Tests.lnd .opened with drainRound := some 3, roundTx := 67 } x with pages := tset {} Tests.pagesOn 0x40 { unit := .draining } }

theorem witness_landingDrains : awake (Tests.drainBlk {}) ∧ (pageAt (Tests.drainBlk {}) 0x40).unit = .draining ∧
    (lndAt (Tests.drainBlk {}) 0).drainRound = some 3 ∧ holdsUnacked (Tests.drainBlk {}) 0 = false ∧
    3 + 64 ≤ (lndAt (Tests.drainBlk {}) 0).roundTx := ⟨Tests.awake_of (by decide), by decide⟩

theorem witness_frameHeaderRoundTrip : (15 : Nat) < 16 ∧ (31 : Nat) < 32 ∧ (255 : Nat) < 256 ∧ (63 : Nat) < 64 ∧
    (0xFFFFFFFF : Nat) < 2 ^ 32 ∧ (0xFFFFFFFFFFFFFFFF : Nat) < 2 ^ 64 ∧ (0xFFF : Nat) < 4096 ∧ (0xFFFFFF : Nat) < 2 ^ 24 := by decide

/-! ### Witnesses: barriers and wires -/

/-- A barrier message of the kind given for barrier 5, epoch 0, from crossing 0. -/
def Tests.msg (kind : Nat) : Bytes := leBytes 1 kind ++ leBytes 1 5 ++ List.replicate 62 0

/-- blk0 with a barrier 5 of berth 0 in its entry 0. -/
def Tests.barBlk (x : Bar) : Block := { Tests.blk0 with sync := { bars := [(0, { x with id := 5 })] } }

theorem witness_barrierMessages : awake (Tests.barBlk { st := .gather, kids := [0] }) ∧
    (Tests.barBlk { st := .gather, kids := [0] }).slip.st = .idle ∧
    (∀ k ∈ [1, 2, 3], fieldLE (Tests.msg k) 3 5 = 0 ∧ fieldLE (Tests.msg k) 0x20 32 = 0 ∧ fieldLE (Tests.msg k) 0 1 = k) ∧
    barOf (Tests.barBlk { st := .gather, kids := [0] }) (xingBerth (Tests.barBlk { st := .gather, kids := [0] }) 0 0)
      (fieldLE (Tests.msg 1) 1 1) = some 0 ∧
    msgGood (barAt (Tests.barBlk { st := .gather, kids := [0] }) 0) 1 0 (BitVec.ofNat 64 (fieldLE (Tests.msg 1) 8 8)) = true ∧
    barOf (Tests.barBlk { st := .waitRelease, node := true, parent := 0 }) 0 5 = some 0 ∧
    msgGood (barAt (Tests.barBlk { st := .waitRelease, node := true, parent := 0 }) 0) 2 0 (BitVec.ofNat 64 (fieldLE (Tests.msg 2) 8 8)) = true ∧
    msgGood (barAt (Tests.barBlk { st := .waitRelease, node := true, parent := 0 }) 0) 3 0 (BitVec.ofNat 64 (fieldLE (Tests.msg 3) 8 8)) = true ∧
    barOf (Tests.barBlk { st := .waitRelease }) 0 5 = some 0 ∧
    msgGood (barAt (Tests.barBlk { st := .waitRelease }) 0) 1 0 (BitVec.ofNat 64 (fieldLE (Tests.msg 1) 8 8)) = false :=
  ⟨Tests.awake_of (by decide), by decide⟩

/-- blk0 with berth 0 RUNNING, wire 3 its own, and its fence 0 in its arming registers. -/
def Tests.wireBlk (x : Wire) : Block :=
  { Tests.withBerth { st := .running } with mgmt := Tests.ide, sync := { wires := [(3, { x with reg := 0x20 })] }, fences := [(0, { st := .live })],
                                            regs := [(armReg 0 0x070, 0x10000)] }

theorem witness_wires : writable (Tests.wireBlk {}) (.berth 0) 0x15 0x07C ∧ (0x80000003 : Word).getLsbD 31 = true ∧
    (pageAt (Tests.wireBlk {}) 0x15).unit = .on ∧ fld (0x80000003 : Word) 7 6 = 0 ∧ fld (0x80000003 : Word) 30 10 = 0 ∧
    wireOwner (wireAt (Tests.wireBlk {}) (fld (0x80000003 : Word) 5 0)) = some 0 ∧
    fenceCheck (Tests.wireBlk {}) 0 (reg (Tests.wireBlk {}) (armReg 0 0x070)) = (cOk, 0) ∧
    (wireAt (Tests.wireBlk {}) (fld (0x80000003 : Word) 5 0)).armed = false ∧ (0x80000003 : Word).getLsbD 9 = false ∧
    (0x80000203 : Word).getLsbD 9 = true ∧ fld (0x80000203 : Word) 30 10 = 0 ∧
    writable (Tests.wireBlk {}) .sealed 0x15 (0x100 + 4 * 63) ∧ (wireAt (Tests.wireBlk {}) 3).ack = false ∧
    (wireAt (Tests.wireBlk { ack := true }) 3).ack = true :=
  ⟨Tests.writable_of (by decide), by decide, by decide, by decide, by decide, by decide, by decide, by decide, by decide, by decide, by decide,
   Tests.writable_of (by decide), by decide, by decide⟩

/-! ### Witnesses: the Hold and the memory engines -/

theorem witness_holdRangeCommand : writable Tests.blk0 .sealed 0x10 0x044 ∧ (0x801FF400 : Word).getLsbD 31 = true ∧
    (pageAt Tests.blk0 0x10).unit = .on ∧ Tests.blk0.hold.cmd = none ∧ fld (0x80001001 : Word) 21 11 = 2 ∧
    holdRangeCheck Tests.blk0 (fld (0x80001001 : Word) 10 0) (fld (0x80001001 : Word) 21 11) (fld (0x80001001 : Word) 26 22) = cOk ∧
    (movedBanks (holdRange Tests.blk0 (fld (0x80001001 : Word) 26 22)) (1, 2)).1 ++
      (movedBanks (holdRange Tests.blk0 (fld (0x80001001 : Word) 26 22)) (1, 2)).2 = [1, 2] :=
  ⟨Tests.writable_of (by decide), by decide⟩

/-- blk0 with a bank set of bank 1 under way. -/
def Tests.setBlk : Block :=
  { Tests.blk0 with hold := { sets := [⟨[1], .range⟩], cmd := some { base := 1, count := 1, berth := 0 } } }

theorem witness_bankSet : awake Tests.setBlk ∧ Tests.setBlk.ecc.test = none ∧ Tests.setBlk.hold.sets = ⟨[1], .range⟩ :: [] ∧
    Tests.setBlk.hold.cmd = some { base := 1, count := 1, berth := 0 } ∧ lineBank 512 ∈ [1] ∧ lineBank 1023 ∈ [1] ∧ lineBank 511 ∉ [1] ∧
    lineBank 1024 ∉ [1] :=
  ⟨Tests.awake_of (by decide), by decide⟩

/-- A read of line 7, for which its verdict has come or has not. -/
def Tests.wait7 (ready : Bool) : WaitRead := { id := 4, line := 7, op := .cmd 0 0, since := 0, ready := ready }

/-- blk0 with a read of line 7 that waits, a crossing that waits for a pin and a recycle that waits. -/
def Tests.waitBlk (ready : Bool) : Block :=
  { Tests.blk0 with hold := { waits := [Tests.wait7 ready], pinWaits := [(0, 0)], recycles := [⟨5, [9], none, .none⟩] },
                    xings := [(0, { st := .opened, sendq := [{ type := 1, lines := [8] }], pinItem := some { type := 1, lines := [8] } })] }

theorem witness_HoldWaitsResume : awake (Tests.waitBlk true) ∧
    ((Tests.waitBlk true).hold.waits.find? fun r => r.id = 4) = some (Tests.wait7 true) ∧ (Tests.wait7 true).op = .cmd 0 0 ∧
    (Tests.wait7 true).ready = true ∧ awake (Tests.waitBlk false) ∧
    ((Tests.waitBlk false).hold.waits.find? fun r => r.id = 4) = some (Tests.wait7 false) ∧ (Tests.wait7 false).ready = false ∧
    (Tests.waitBlk true).hold.pinWaits = (0, 0) :: [] ∧ (xingAt (Tests.waitBlk true) 0 0).pinItem = some { type := 1, lines := [8] } ∧
    canPin (Tests.waitBlk true) [8] = true ∧ ((Tests.waitBlk true).hold.recycles.find? fun r => r.id = 5) = some ⟨5, [9], none, .none⟩ ∧
    recycleReady (Tests.waitBlk true) [9] = true :=
  ⟨Tests.awake_of (by decide), by decide, by decide, by decide, Tests.awake_of (by decide), by decide⟩

theorem witness_StoredLines : (List.replicate 64 (0 : Byte)).length = 64 := by decide

/-- The fabric read that is outstanding in memsBlk. -/
def Tests.fabReq : SReq := { group := 7, slice := 31, tid := 1023, addr := 0, berth := 0, fabric := true, write := false }

/-- blk0 with a MIX key of berth 0 LIVE and loaded, one region of 2 KiB for it in group 7, and a fabric read outstanding. -/
def Tests.memsBlk : Block :=
  { Tests.blk0 with mems := { regions := [(224, { base := 0, limit := 2, valid := true })], keys := [(0, ⟨0x40, 1, true⟩)],
                              reqs := [Tests.fabReq] },
                    keys := { ranges := [(0, (0x40, 16))], cache := [(0x40, { st := .live, purpose := 3, berth := some 0 })] } }

theorem witness_FabricRequests : awake Tests.memsBlk ∧ Tests.memsBlk.slip.st = .idle ∧
    (usedTids Tests.memsBlk 7 31).contains 1023 = true ∧ (usedTids Tests.memsBlk 7 31).contains 0 = false ∧
    admitted Tests.memsBlk 7 0 0 true = true ∧ patching Tests.memsBlk 7 0 = false ∧ admitted Tests.memsBlk 7 2047 0 true = true ∧
    admitted Tests.memsBlk 7 2048 0 true = false ∧
    (Tests.memsBlk.mems.reqs.find? fun r => r.group = 7 && r.slice = 31 && r.tid = 1023) = some Tests.fabReq ∧ Tests.fabReq.fabric = true :=
  ⟨Tests.awake_of (by decide), by decide⟩

theorem witness_FabricOutside : awake Tests.memsBlk ∧ Tests.memsBlk.slip.st = .idle ∧
    (∀ e < 32, inSrgn (srgnAt Tests.memsBlk (32 * 7 + e)) 2047 = true → srgnBerth (srgnAt Tests.memsBlk (32 * 7 + e)) ≠ 31) :=
  ⟨Tests.awake_of (by decide), by decide⟩

/-- memsBlk with the key not yet loaded, and with it retiring. -/
def Tests.mixBlk (st : KeyState) (loaded : Bool) : Block :=
  { Tests.blk0 with mems := { keys := [(0, ⟨0x40, 1, loaded⟩)] },
                    keys := { ranges := [(0, (0x40, 16))], cache := [(0x40, { st := st, purpose := 3, berth := some 0 })] },
                    regs := [(0x11048, 255), (0x11050, 0)] }

/-- blk0 with region 255 of engine S staged from KiB 0 to KiB 2 and not valid. -/
def Tests.srgnBlk : Block := { Tests.blk0 with mems := { regions := [(255, { base := 0, limit := 2 })] }, regs := [(0x11048, 255)] }

theorem witness_EngineS : awake (Tests.mixBlk .live false) ∧ (keyRange (Tests.mixBlk .live false) 0).2 ≠ 0 ∧
    (keyAt (Tests.mixBlk .live false) (keyRange (Tests.mixBlk .live false) 0).1).st = .live ∧
    (keyAt (Tests.mixBlk .live false) (keyRange (Tests.mixBlk .live false) 0).1).purpose = 3 ∧
    (keyAt (Tests.mixBlk .live false) (keyRange (Tests.mixBlk .live false) 0).1).berth = some 0 ∧
    (skeyAt (Tests.mixBlk .live false) 0).loaded = false ∧ (Tests.mixBlk .live false).sched.cmd = none ∧
    awake (Tests.mixBlk .retiring true) ∧ (skeyAt (Tests.mixBlk .retiring true) 0).loaded = true ∧
    (keyAt (Tests.mixBlk .retiring true) (skeyAt (Tests.mixBlk .retiring true) 0).kid).st = .retiring ∧
    (∀ r ∈ (Tests.mixBlk .retiring true).mems.reqs, r.berth ≠ 0) ∧ (∀ x ∈ (Tests.mixBlk .retiring true).mems.wq, x.berth ≠ 0) :=
  ⟨Tests.awake_of (by decide), by decide, by decide, by decide, by decide, by decide, by decide, Tests.awake_of (by decide), by decide⟩

theorem witness_EngineSRegion : writable Tests.srgnBlk .sealed 0x11 0x054 ∧ srgnSel Tests.srgnBlk / 32 < Tests.srgnBlk.build.groups ∧
    (srgnAt Tests.srgnBlk (srgnSel Tests.srgnBlk)).valid = false ∧ (0x80000000 : Word).getLsbD 31 = true ∧
    srgnOk (modSrgn (srgnSel Tests.srgnBlk) (fun e => { e with cfg := 0x80000000 &&& 0x7FFFFFFF }) (fresh Tests.srgnBlk)) (srgnSel Tests.srgnBlk)
      (srgnAt (modSrgn (srgnSel Tests.srgnBlk) (fun e => { e with cfg := 0x80000000 &&& 0x7FFFFFFF }) (fresh Tests.srgnBlk))
        (srgnSel Tests.srgnBlk)) = true :=
  ⟨Tests.writable_of (by decide), by decide⟩

/-- blk0 with engine A's region 5 as given, its ways and its keys. -/
def Tests.rgnBlk (a : ARegion) : Block :=
  { Tests.blk0 with mema := { regions := [(5, { a with kid0 := 0x410040, kid1 := 0x430042 })], ways := [(0, 3)] }, regs := [(0x12060, 5)],
                    keys := { ranges := [(0, (0x40, 16))], cache := [(0x42, { st := .live }), (0x43, { st := .live })] } }

/-- The configuration of a region of type 0 of 64 KiB on port 0 for berth 0, with bit 31 set. -/
def Tests.rgnCfg : Word := 0x80004000

theorem witness_engineARegions : writable (Tests.rgnBlk {}) .sealed 0x12 0x064 ∧ Tests.rgnCfg.getLsbD 31 = true ∧ rgnSel (Tests.rgnBlk {}) = 5 ∧
    (rgnAt (Tests.rgnBlk {}) 5).st = .free ∧
    (rgnAt (modRgn 5 (fun a => { a with cfg := Tests.rgnCfg &&& 0x7FF0FFFF }) (fresh (Tests.rgnBlk {}))) 5).st = .free ∧
    rgnOk (modRgn 5 (fun a => { a with cfg := Tests.rgnCfg &&& 0x7FF0FFFF }) (fresh (Tests.rgnBlk {}))) 5
      (rgnAt (modRgn 5 (fun a => { a with cfg := Tests.rgnCfg &&& 0x7FF0FFFF }) (fresh (Tests.rgnBlk {}))) 5) = true ∧
    writable (Tests.rgnBlk { st := .live }) .sealed 0x12 0x064 ∧ (0 : Word).getLsbD 31 = false ∧
    (rgnAt (Tests.rgnBlk { st := .live }) (rgnSel (Tests.rgnBlk { st := .live }))).st = .live ∧
    writable (Tests.rgnBlk { st := .live }) .sealed 0x12 0x088 ∧ (0x80000005 : Word).getLsbD 31 = true ∧
    (pageAt (Tests.rgnBlk { st := .live }) 0x12).unit = .on ∧ (rgnAt (Tests.rgnBlk { st := .live }) (fld (0x80000005 : Word) 7 0)).st = .live ∧
    rType (rgnAt (Tests.rgnBlk { st := .live }) (fld (0x80000005 : Word) 7 0)) = 0 ∧
    keysReady (Tests.rgnBlk { st := .live }) (fld (0x80000005 : Word) 7 0)
      (!(rgnAt (Tests.rgnBlk { st := .live }) (fld (0x80000005 : Word) 7 0)).phase) = true :=
  ⟨Tests.writable_of (by decide), by decide, by decide, by decide, by decide, by decide, Tests.writable_of (by decide), by decide, by decide,
   Tests.writable_of (by decide), by decide⟩

/-- A read and a write outstanding on port 3. -/
def Tests.read9 : ARead := { port := 3, tag := 9, addr := 0, fetch := .raw (.gse 0 9 0) }
def Tests.write9 : AWrite := { port := 3, tag := 9, addr := 0, line := [], region := 5 }

/-- blk0 with a roll of region 5 swept to its end, a way command and one read and one write outstanding on port 3. -/
def Tests.workBlk : Block :=
  { Tests.blk0 with mema := { regions := [(5, { st := .rolling, cfg := 0x4000, sweep := 8192 })], cmd := some ⟨3, 0⟩,
                              reads := [Tests.read9], writes := [Tests.write9] } }

/-- blk0 with debug enabled for berth 31 and its HBM buffer as object 2. -/
def Tests.debugBlk : Block :=
  { Tests.blk0 with objs := [(2, { st := .live, berth := 31, kind := .hbm 0 0 64 })],
                    regs := [(0x11058, 0x80000000), (0x1E070, 0x10002), (0x1E074, 65535)] }

theorem witness_engineAWork : awake Tests.workBlk ∧ (rgnAt Tests.workBlk 5).st = .rolling ∧
    2 ^ rLog (rgnAt Tests.workBlk 5) / 8 ≤ (rgnAt Tests.workBlk 5).sweep ∧ activeOp Tests.workBlk 5 = none ∧
    dirtyIn Tests.workBlk (fun c => c.region = 5) = false ∧
    writable Tests.blk0 .sealed 0x12 0x094 ∧ (0x80000003 : Word).getLsbD 31 = true ∧ (pageAt Tests.blk0 0x12).unit = .on ∧
    Tests.blk0.mema.cmd = none ∧ fld (0x80000003 : Word) 15 0 &&& Tests.blk0.ecc.ways = 0 ∧
    wayCheck Tests.blk0 (fld (0x80000003 : Word) 15 0) (fld (0x80000003 : Word) 20 16) = cOk ∧ Tests.workBlk.mema.cmd = some ⟨3, 0⟩ ∧
    dirtyIn Tests.workBlk (fun l => (movingWays Tests.workBlk ⟨3, 0⟩).testBit l.way) = false ∧
    (Tests.workBlk.mema.reads.find? fun x => x.port = 3 && x.tag = 9 && x.sent) = some Tests.read9 ∧ Tests.read9.fetch = .raw (.gse 0 9 0) ∧
    (Tests.workBlk.mema.writes.find? fun x => x.port = 3 && x.tag = 9) = some Tests.write9 :=
  ⟨Tests.awake_of (by decide), by decide, by decide, by decide, by decide, Tests.writable_of (by decide), by decide⟩

theorem witness_debugRead : writable Tests.debugBlk .sealed 0x1E 0x078 ∧ (1 : Word).getLsbD 0 = true ∧ Tests.debugBlk.dbg.maWait = false ∧
    (reg Tests.debugBlk 0x1E070).toNat = 0x10002 ∧ (reg Tests.debugBlk 0x1E074).toNat = 65535 ∧ (objAt Tests.debugBlk (0x10002 % 65536)).st ≠ .free ∧
    maDenied Tests.debugBlk (0x10002 % 65536) 65535 = none ∧ (objAt Tests.debugBlk (0x10002 % 65536)).gen.toNat = 0x10002 / 65536 ∧
    (objAt Tests.debugBlk (0x10002 % 65536)).kind = .hbm 0 0 64 ∧ (objAt Tests.debugBlk (0x10002 % 65536)).berth = 31 :=
  ⟨Tests.writable_of (by decide), by decide⟩

/-! ### Witnesses: contexts, commands and objects -/

/-- A 64-byte command: OPER, flags, UNIT with attachment, and its words at 0x28, 0x2C, 0x30, 0x34, 0x38, 0x3C. -/
def Tests.cmd (oper flags unit a b c d e f : Nat) : Bytes :=
  leBytes 2 oper ++ leBytes 2 0 ++ leBytes 1 flags ++ leBytes 1 unit ++ List.replicate 34 0 ++ leBytes 4 a ++ leBytes 4 b ++ leBytes 4 c ++
    leBytes 4 d ++ leBytes 4 e ++ leBytes 4 f

/-- Berth 0 RUNNING with context 0 as given, a live buffer object 0 of two lines, a crossing object 1 and a fence 0. -/
def Tests.ctxBlk (x : Ctx) : Block :=
  { Tests.withBerth { st := .running, ccount := 16, cmdq := 1, weight := 1 } with
      ctxs := [(0, { x with berth := some 0, queue := some (0, 0) })], fences := [(0, { st := .live })],
      hold := { ranges := [(0, (0, 2))], banks := [(0, .owned 0), (1, .owned 0)] },
      objs := [(0, { st := .live, kind := .buffer 0 1 0 2 }), (1, { st := .live, kind := .crossing 0 0 })] }

/-- ctxBlk with the context's queue in region 0 of its Tide: of kind 0 on HBM, else through engine A's region 0, which is LIVE. -/
def Tests.scanBlk (kind : Nat) (x : Ctx) : Block :=
  { Tests.ctxBlk x with
      berths := [(0, { st := .running, ccount := 16, cmdq := 1, weight := 1, tide := some { regions := [⟨kind, 0, 20, 0, 0, 0, 0⟩] } })],
      mema := { regions := [(0, { st := .live })] } }

theorem witness_QueueScan : awake (Tests.scanBlk 1 { st := .active, rescan := true }) ∧
    (Tests.scanBlk 1 { st := .active, rescan := true }).slip.st = .idle ∧
    (ctxAt (Tests.scanBlk 1 { st := .active, rescan := true }) 0).berth = some 0 ∧
    (ctxAt (Tests.scanBlk 1 { st := .active, rescan := true }) 0).queue = some (0, 0) ∧
    rgnEnt (Tests.scanBlk 1 { st := .active, rescan := true }) 0 0 = some ⟨1, 0, 20, 0, 0, 0, 0⟩ ∧
    (berthAt (Tests.scanBlk 1 { st := .active, rescan := true }) 0).st = .running ∧
    scanDue (Tests.scanBlk 1 { st := .active, rescan := true }) 0 0 .wake = true ∧
    scanDue (Tests.scanBlk 1 { st := .active, scan := 1 }) 0 0 .window = true ∧ scanDue (Tests.scanBlk 1 { room := true }) 0 0 .room = true ∧
    (pageAt (Tests.scanBlk 1 { st := .active, rescan := true }) 0x14).unit = .on ∧
    queueStale (Tests.scanBlk 1 { st := .active, rescan := true }) ⟨1, 0, 20, 0, 0, 0, 0⟩ 1 = true ∧
    queueStale (Tests.scanBlk 1 { st := .active, rescan := true }) ⟨1, 0, 20, 0, 0, 0, 0⟩ 0 = false ∧
    queueAnswers (Tests.scanBlk 1 { st := .active, rescan := true }) ⟨1, 0, 20, 0, 0, 0, 0⟩ 0 = true ∧
    queueRefused (Tests.scanBlk 1 { st := .active }) 0 ⟨1, 0, 20, 0, 0, 0, 0⟩ 0 = false ∧
    queueStale (Tests.scanBlk 0 { st := .active, rescan := true }) ⟨0, 0, 20, 0, 0, 0, 0⟩ 1 = false ∧
    queueAnswers (Tests.scanBlk 0 { st := .active, rescan := true }) ⟨0, 0, 20, 0, 0, 0, 0⟩ 1 = true ∧
    queueRefused (Tests.scanBlk 0 { st := .active }) 0 ⟨0, 0, 20, 0, 0, 0, 0⟩ 0 = true ∧
    (ctxAt (Tests.scanBlk 0 { st := .active, rescan := true }) 0).st = .active ∧
    (cWord (List.replicate 64 0) 8 - (ctxAt (Tests.scanBlk 1 { st := .active, rescan := true }) 0).head).toNat ≤ 2 ^ 0 ∧
    ((ctxAt (Tests.scanBlk 1 { st := .active, rescan := true }) 0).cplTail - cWord (List.replicate 64 0) 0x0C).toNat ≤ 2 ^ 0 ∧
    2 ^ 0 < (cWord (List.replicate 64 2) 8 - (ctxAt (Tests.scanBlk 1 { st := .active, rescan := true }) 0).head).toNat ∧
    (ctxAt (activateCtx 0 0 (List.replicate 64 0) (Tests.scanBlk 1 {})) 0).st = .disabled :=
  ⟨Tests.awake_of (by decide), by decide⟩

/-- A command not yet started, and one whose wait fence is fence 0. -/
def Tests.cmd0 : Cmd := { idx := 0, raw := Tests.cmd 0 0 0 0 0 0 0 0 0 }
def Tests.cmdWait : Cmd := { idx := 0, raw := Tests.cmd 0 1 0 0 0 0 0 0 0 }

/-- ctxBlk with its context ACTIVE in its run slot, of that command. -/
def Tests.slotBlk (m : Cmd) : Block := Tests.ctxBlk { st := .active, resident := true, stop := 1, cmds := [m] }

theorem witness_CommandsStart : awake (Tests.slotBlk Tests.cmd0) ∧ (Tests.slotBlk Tests.cmd0).slip.st = .idle ∧
    (ctxAt (Tests.slotBlk Tests.cmd0) 0).berth = some 0 ∧ oldest (ctxAt (Tests.slotBlk Tests.cmd0) 0) = some Tests.cmd0 ∧
    (ctxAt (Tests.slotBlk Tests.cmd0) 0).st = .active ∧ (ctxAt (Tests.slotBlk Tests.cmd0) 0).resident = true ∧
    now (Tests.slotBlk Tests.cmd0) < (ctxAt (Tests.slotBlk Tests.cmd0) 0).stop ∧ waitFailed (Tests.slotBlk Tests.cmd0) Tests.cmd0 = false ∧
    unitOff (Tests.slotBlk Tests.cmd0) Tests.cmd0.raw = false ∧
    couldStart (Tests.slotBlk Tests.cmd0) (ctxAt (Tests.slotBlk Tests.cmd0) 0) Tests.cmd0 = true ∧
    waitFailed { Tests.slotBlk Tests.cmdWait with fences := [(0, { st := .live, state := .error })] } Tests.cmdWait = true ∧
    unitOff { Tests.slotBlk { idx := 0, raw := Tests.cmd 6 0 0 0 0 0 0 0 0 } with pages := [] } (Tests.cmd 6 0 0 0 0 0 0 0 0) = true ∧
    waitFailed { Tests.slotBlk { idx := 0, raw := Tests.cmd 6 0 0 0 0 0 0 0 0 } with pages := [] }
      { idx := 0, raw := Tests.cmd 6 0 0 0 0 0 0 0 0 } = false ∧
    cmdAt (Tests.ctxBlk { st := .active, cmds := [{ Tests.cmd0 with done := some cOk }] }) 0 0 = some { Tests.cmd0 with done := some cOk } ∧
    fNp Tests.cmd0.raw = false ∧ isFree (Tests.cmd 4 0 0 0x10000 0 0 0 0 0) = true ∧ fNp (Tests.cmd 4 0 0 0x10000 0 0 0 0 0) = false :=
  ⟨Tests.awake_of (by decide), by decide⟩

/-- A started command of the CTRL unit. -/
def Tests.started (raw : Bytes) : Cmd := { idx := 0, raw := raw, started := true }

/-- ctxBlk with that command started in context 0. -/
def Tests.runBlk (raw : Bytes) : Block := Tests.ctxBlk { st := .active, cmds := [Tests.started raw] }

theorem Tests.ctrl_waits {raw : Bytes} {op : Nat} (h : Tests.runs (Tests.runBlk raw) = true) (u : cUnit raw = 0) (o : cOper raw = op) :
    ctrlWaits (Tests.st (Tests.runBlk raw)) 0 0 op 0 (Tests.started raw) :=
  ⟨Tests.awake_of h, rfl, rfl, rfl, rfl, rfl, rfl, u, o⟩

theorem witness_objectCommands : ctrlWaits (Tests.st (Tests.runBlk (Tests.cmd 0 0 0 0 0 0 0 0 0))) 0 0 0 0 (Tests.started (Tests.cmd 0 0 0 0 0 0 0 0 0)) ∧
    ctrlWaits (Tests.st (Tests.runBlk (Tests.cmd 1 0 0 0 0 9 0 0 0))) 0 0 1 0 (Tests.started (Tests.cmd 1 0 0 0 0 9 0 0 0)) ∧
    cWord (Tests.cmd 1 0 0 0 0 9 0 0 0) 0x28 = 0 ∧
    (newFence 0 9 none (Tests.runBlk (Tests.cmd 1 0 0 0 0 9 0 0 0))).isSome = true ∧
    ctrlWaits (Tests.st (Tests.runBlk (Tests.cmd 2 0 0 0x10000 0 0 0 0 0))) 0 0 2 0 (Tests.started (Tests.cmd 2 0 0 0x10000 0 0 0 0 0)) ∧
    (fenceAt (Tests.runBlk (Tests.cmd 2 0 0 0x10000 0 0 0 0 0)) (fieldLE (Tests.cmd 2 0 0 0x10000 0 0 0 0 0) 0x28 2)).state ≠ .error ∧
    ctrlWaits (Tests.st (Tests.runBlk (Tests.cmd 3 0 0 0 0 0x10001 0 1 0))) 0 0 3 0 (Tests.started (Tests.cmd 3 0 0 0 0 0x10001 0 1 0)) ∧
    bufferFits (Tests.runBlk (Tests.cmd 3 0 0 0 0 0x10001 0 1 0)) 0 1 1 0 1 = true ∧
    (newObj 0 (.buffer 1 1 0 1) (Tests.runBlk (Tests.cmd 3 0 0 0 0 0x10001 0 1 0))).isSome = true ∧
    ctrlWaits (Tests.st (Tests.runBlk (Tests.cmd 3 0 0 0 0 0x10002 0 1 0))) 0 0 3 0 (Tests.started (Tests.cmd 3 0 0 0 0 0x10002 0 1 0)) ∧
    bufferFits (Tests.runBlk (Tests.cmd 3 0 0 0 0 0x10002 0 1 0)) 0 2 1 0 1 = false :=
  ⟨Tests.ctrl_waits (by decide) (by decide) (by decide), Tests.ctrl_waits (by decide) (by decide) (by decide), by decide, by decide,
   Tests.ctrl_waits (by decide) (by decide) (by decide), by decide, Tests.ctrl_waits (by decide) (by decide) (by decide), by decide, by decide,
   Tests.ctrl_waits (by decide) (by decide) (by decide), by decide⟩

/-- blk0 with a FREEING fence 5 and a FREEING object 6. -/
def Tests.freeing : Block := { Tests.blk0 with fences := [(5, { st := .freeing })], objs := [(6, { st := .freeing })] }

theorem witness_objFreeActs : referenced (Tests.ctxBlk {}) true 0 = false ∧ referenced (Tests.ctxBlk {}) false 0 = false ∧
    referenced (Tests.ctxBlk { cmds := [{ Tests.cmd0 with refs := [(true, 0)] }] }) true 0 = true ∧
    referenced (Tests.ctxBlk { cmds := [{ Tests.cmd0 with refs := [(false, 0)] }] }) false 0 = true := by decide

theorem witness_freeRecycleCopySend : awake Tests.freeing ∧ referenced Tests.freeing true 5 = false ∧ (fenceAt Tests.freeing 5).st = .freeing ∧
    referenced Tests.freeing false 6 = false ∧ (objAt Tests.freeing 6).st = .freeing ∧ recycleReady Tests.freeing (freedLines Tests.freeing 6) = true ∧
    ctrlWaits (Tests.st (Tests.runBlk (Tests.cmd 5 0 0 0x10000 0 0 2 0 0))) 0 0 5 0 (Tests.started (Tests.cmd 5 0 0 0x10000 0 0 2 0 0)) ∧
    objLines (Tests.runBlk (Tests.cmd 5 0 0 0x10000 0 0 2 0 0)) 0 0 2 = [0, 1] ∧ recycleReady (Tests.runBlk (Tests.cmd 5 0 0 0x10000 0 0 2 0 0)) [0, 1] = true ∧
    ctrlWaits (Tests.st (Tests.runBlk (Tests.cmd 6 0 0 0x10000 0x10000 0 0 1 0))) 0 0 6 0 (Tests.started (Tests.cmd 6 0 0 0x10000 0x10000 0 0 1 0)) ∧
    freeChannel (Tests.runBlk (Tests.cmd 6 0 0 0x10000 0x10000 0 0 1 0)) = some 0 ∧
    ctrlWaits (Tests.st (Tests.runBlk (Tests.cmd 7 0 0 0x10000 0x10001 0 1 0 2))) 0 0 7 0 (Tests.started (Tests.cmd 7 0 0 0x10000 0x10001 0 1 0 2)) ∧
    xingOfObj (Tests.runBlk (Tests.cmd 7 0 0 0x10000 0x10001 0 1 0 2)) 1 = some (0, 0) ∧
    (xingAt (Tests.runBlk (Tests.cmd 7 0 0 0x10000 0x10001 0 1 0 2)) 0 0).st ≠ .failed ∧
    readState (Tests.runBlk (Tests.cmd 7 0 0 0x10000 0x10001 0 1 0 2))
      (objLines (Tests.runBlk (Tests.cmd 7 0 0 0x10000 0x10001 0 1 0 2)) 0 0 2) = .ready :=
  ⟨Tests.awake_of (by decide), by decide, by decide, by decide, by decide, by decide,
   Tests.ctrl_waits (by decide) (by decide) (by decide), by decide, by decide, Tests.ctrl_waits (by decide) (by decide) (by decide), by decide,
   Tests.ctrl_waits (by decide) (by decide) (by decide), by decide⟩

/-- ctxBlk with a started command for attached engine 0, and with one that the engine has, of buffer object 0. -/
def Tests.ceBlk (t : Attach) : Block :=
  { Tests.runBlk (Tests.cmd 0 0 1 0x10000 0 0 0 0 0) with
      sched := { atts := [(0, t)] }, objs := [(0, { st := .live, kind := .buffer 0 1 0 4 })] }

theorem witness_AttachedEngines : awake (Tests.ceBlk {}) ∧ (Tests.ceBlk {}).slip.st = .idle ∧ (0 : Nat) < (Tests.ceBlk {}).build.attach ∧
    (attAt (Tests.ceBlk {}) 0).inRst = false ∧ (Tests.ceBlk {}).dbg.drain = false ∧ (pageAt (Tests.ceBlk {}) 0x14).unit = .on ∧
    ceReady (Tests.ceBlk {}) 0 = [(0, 0, 0, 0)] ∧ ceTurn (Tests.ceBlk {}) 0 [0] = some (0, 1) ∧
    (attAt (Tests.ceBlk { out := [(0, 0, 7)] }) 0).gen = 0 ∧ (attAt (Tests.ceBlk { out := [(0, 0, 7)] }) 0).gone.contains (0, 0) = false ∧
    ((attAt (Tests.ceBlk { out := [(0, 0, 7)] }) 0).out.find? fun o => o.1 = (0 : BitVec 12).toNat) = some ((0 : BitVec 12).toNat, 0, 7) ∧
    (1 : BitVec 12) ≠ (attAt (Tests.ceBlk {}) 0).gen ∧ operandCmd (Tests.ceBlk { out := [(0, 0, 7)] }) 0 0 0 = some (0, 0) ∧
    operandOk (Tests.ceBlk { out := [(0, 0, 7)] }) 0 0 0 false = true ∧
    readState (Tests.ceBlk { out := [(0, 0, 7)] }) (objLines (Tests.ceBlk { out := [(0, 0, 7)] }) 0 0 4) = .ready ∧
    (∀ e ∈ (Tests.ceBlk { out := [(0, 0, 7)] }).hold.upsets, e.1 / 64 ∉ objLines (Tests.ceBlk { out := [(0, 0, 7)] }) 0 0 4) ∧
    (attAt (Tests.ceBlk { scrubReq := true }) 0).scrubAck = false ∧ (attAt (Tests.ceBlk { scrubReq := true }) 0).scrubReq = true :=
  ⟨Tests.awake_of (by decide), by decide⟩

/-! ### Witnesses: berths and run slots -/

/-- blk0 with berth w in state st and the shares of a CREATE staged: contexts 0 to 15, one run slot, weight 1, one command store, slice 1. -/
def Tests.schedBlk (st : BerthState) : Block :=
  { Tests.withBerth { st := st, ccount := 16, tide := some Tests.tide0 } with
      keys := { ranges := [(0, (0x40, 16))], cache := [(4, { st := .live })] }, mgmt := Tests.ide,
      regs := [(0x14054, 0x100000), (0x14058, 0x10101), (0x1405C, 1), (0x1E044, 1)] }

theorem witness_SchedulerCommands : writable (Tests.schedBlk .free) .sealed 0x14 0x044 ∧ (pageAt (Tests.schedBlk .free) 0x14).unit = .on ∧
    (Tests.schedBlk .free).slip.st = .idle ∧ (Tests.schedBlk .free).sched.cmd = none ∧
    createCheck (modSched (fun x => { x with cmd := some { op := 1, berth := 0, since := 0 }, op := 1, berth := 0 }) (fresh (Tests.schedBlk .free))) 0 = cOk ∧
    writable (Tests.schedBlk .created) .sealed 0x14 0x044 ∧ (berthAt (Tests.schedBlk .created) 0).st = .created ∧
    coresDead (Tests.schedBlk .created) = false ∧ hifOpen (Tests.schedBlk .created) = true ∧ openBit (Tests.schedBlk .created) 0 = true ∧
    resizeCheck (modSched (fun x => { x with cmd := some { op := 3, berth := 0, since := 0 }, op := 3, berth := 0 }) (fresh (Tests.schedBlk .created))) 0 = cOk ∧
    writable (Tests.schedBlk .loaded) .sealed 0x14 0x044 ∧ (berthAt (Tests.schedBlk .loaded) 0).st = .loaded ∧
    writable (Tests.schedBlk .running) .sealed 0x14 0x044 ∧ (berthAt (Tests.schedBlk .running) 0).st = .running ∧
    (berthAt (Tests.schedBlk .free) 0).st = .free :=
  ⟨Tests.writable_of (by decide), by decide, by decide, by decide, by decide, Tests.writable_of (by decide), by decide, by decide, by decide, by decide,
   by decide, Tests.writable_of (by decide), by decide, Tests.writable_of (by decide), by decide, by decide⟩

/-- The smallest container of job 0: one owner that is the operator, its two audit keys, one HBM region, one buffer, one context. -/
def Tests.container : Bytes :=
  leBytes 4 0x32444954 ++ leBytes 2 2 ++ leBytes 2 4 ++ leBytes 8 0 ++ leBytes 8 560 ++ leBytes 4 0 ++ leBytes 4 1 ++ List.replicate 32 0 ++
  leBytes 4 1 ++ leBytes 4 256 ++ leBytes 8 128 ++ leBytes 4 2 ++ leBytes 4 16 ++ leBytes 8 384 ++
  leBytes 4 6 ++ leBytes 4 32 ++ leBytes 8 448 ++ leBytes 4 7 ++ leBytes 4 48 ++ leBytes 8 512 ++
  leBytes 4 0x32464E4D ++ leBytes 2 2 ++ leBytes 2 1 ++ leBytes 8 2 ++ List.replicate 48 0 ++
  leBytes 2 0x0400 ++ List.replicate 62 0 ++
  leBytes 4 0x00090041 ++ leBytes 8 0x100000000 ++ List.replicate 52 0 ++
  leBytes 4 0x000A0042 ++ leBytes 8 0x100000000 ++ List.replicate 52 0 ++
  leBytes 4 0 ++ leBytes 4 1 ++ List.replicate 56 0 ++
  leBytes 4 0x32444C48 ++ leBytes 4 1 ++ leBytes 8 1 ++ leBytes 4 0x10000 ++ leBytes 4 0 ++ leBytes 8 1 ++ List.replicate 32 0 ++
  leBytes 4 0x324A424F ++ leBytes 4 0x10002 ++ List.replicate 24 0 ++ leBytes 8 0x100000000 ++ leBytes 8 64

/-- schedBlk in CREATED with a LOAD of it under way, and a Hold range of one bank. -/
def Tests.loadBlk : Block :=
  { Tests.schedBlk .created with
      keys := { ranges := [(0, (0x40, 16))] }, sched := { cmd := some { op := 2, berth := 0, len := 1000 } },
      hold := { ranges := [(0, (0, 1))], banks := [(0, .owned 0)] } }

theorem witness_loadTable : (loadTable 0 Tests.container Tests.loadBlk).isOk = true := by decide +kernel

theorem witness_loadComplete : awake Tests.loadBlk ∧ Tests.loadBlk.sched.cmd = some { op := 2, berth := 0, len := 1000 } ∧
    hifStale 0 Tests.loadBlk = false ∧ hifStale 1 Tests.loadBlk = true ∧
    (berthCore Tests.loadBlk 0).any (fun c => (coreAt Tests.loadBlk c).st = .halted) = false ∧ fieldLE Tests.container 0x10 8 ≤ 1000 ∧
    ∃ t, loadTable 0 Tests.container Tests.loadBlk = .ok t := by
  refine ⟨Tests.awake_of (by decide), rfl, rfl, rfl, ?_, by decide +kernel, ?_⟩
  · have h : ∀ c, (coreAt Tests.loadBlk c).st = .running := fun c => rfl
    simp [berthCore, h]
  · cases h : loadTable 0 Tests.container Tests.loadBlk with
    | ok t => exact ⟨t, rfl⟩
    | error e => have := witness_loadTable; rw [h] at this; exact absurd this (by simp [Except.isOk, Except.toBool])

/-- Berth 31 as given, late in time, with SEAL_MS at 0 and no attached engines. -/
def Tests.lateBerth (w : Berth) : Block :=
  { Tests.blk0 with berths := [(31, w)], tick := 100000000000, build := { Tests.blk0.build with attach := 1 } }

theorem witness_BerthLifeEvents : awake (Tests.lateBerth { st := .sealSt }) ∧ (berthAt (Tests.lateBerth { st := .sealSt }) 31).st = .sealSt ∧
    (berthAt (Tests.lateBerth { st := .sealSt }) 31).sealOver = false ∧
    (berthAt (Tests.lateBerth { st := .sealSt }) 31).sealTick + msTicks (Tests.lateBerth { st := .sealSt })
      (fld (reg (Tests.lateBerth { st := .sealSt }) 0x1406C) 15 0) ≤ now (Tests.lateBerth { st := .sealSt }) ∧
    (berthAt (Tests.lateBerth { st := .scrubSt }) 31).st = .scrubSt ∧ (berthAt (Tests.lateBerth { st := .scrubSt }) 31).scrub.quiesced = false ∧
    quiescable (Tests.lateBerth { st := .scrubSt }) 31 = true ∧
    (berthAt (Tests.lateBerth { st := .scrubSt, scrub := { quiesced := true, hold := true, acked := [0] } }) 31).scrub.hold = true ∧
    (∀ a, a < (Tests.lateBerth { st := .scrubSt, scrub := { quiesced := true, hold := true, acked := [0] } }).build.attach →
      a ∈ (berthAt (Tests.lateBerth { st := .scrubSt, scrub := { quiesced := true, hold := true, acked := [0] } }) 31).scrub.acked) :=
  ⟨Tests.awake_of (by decide), by decide⟩

theorem witness_RunSlots : awake (Tests.ctxBlk { st := .active, resident := true }) ∧
    (ctxAt (Tests.ctxBlk { st := .active, resident := true }) 0).berth = some 0 ∧
    (ctxAt (Tests.ctxBlk { st := .active, resident := true }) 0).resident = true ∧
    (ctxAt (Tests.ctxBlk { st := .active, resident := true }) 0).stop ≤ now (Tests.ctxBlk { st := .active, resident := true }) ∧
    pinned (ctxAt (Tests.ctxBlk { st := .active, resident := true }) 0) = false ∧ waitList (Tests.ctxBlk { st := .active, resident := true }) 0 = [] ∧
    waitList { Tests.ctxBlk {} with ctxs := [(0, { berth := some 0, resident := true }), (1, { berth := some 0, join := some 3 })] } 0 = [1] ∧
    (ctxAt (Tests.ctxBlk { swapping := true }) 0).swapping = true := ⟨Tests.awake_of (by decide), by decide⟩

/-- A non-preemptible command started at tick 0, seen at tick 64 x 200. -/
def Tests.npBlk : Block := { Tests.ctxBlk { st := .active, cmds := [{ idx := 0, raw := Tests.cmd 0 16 1 0 0 0 0 0 0, started := true }] } with tick := 12800 }

theorem witness_npCap : Tests.npBlk.slip.st = .idle ∧
    ((ctxAt Tests.npBlk 0).cmds.find? fun m => m.started && fNp m.raw && m.tick + 64 * Tests.npBlk.build.mgmtMhz ≤ now Tests.npBlk) =
      some { idx := 0, raw := Tests.cmd 0 16 1 0 0 0 0 0 0, started := true } := by decide

/-! ### Witnesses: the update engine -/

/-- Berth 0 LOADED with an owner that may schedule; its schedule engine 0 has a shadow; a lane command is under way or not. -/
def Tests.sueBlk (cmd : Option (Nat × Nat)) : Block :=
  { Tests.withBerth { st := .loaded, tide := some Tests.tide0 } with sue := { cmd := cmd } }

theorem witness_lanesAndSchedule : writable (Tests.sueBlk none) .sealed 0x19 0x044 ∧ suesSel .sealed (latch (Tests.sueBlk none) .sealed 21) = (0, 0) ∧
    engMay (Tests.sueBlk none) .sealed 0 0 = true ∧
    engCheck (modEng 0 0 (fun g => { g with shadow := { g.shadow with shape := 0 } }) (fresh (Tests.sueBlk none))) .sealed 0 0 true = cOk ∧
    engCheck (modEng 0 0 (fun g => { g with shadow := { g.shadow with shape := 0 } }) (fresh (Tests.sueBlk none))) .sealed 0 0 false = cOk ∧
    writable { Tests.withBerth { st := .running } with mgmt := Tests.ide } (.berth 0) 0x19 0x044 ∧
    engMay { Tests.withBerth { st := .running } with mgmt := Tests.ide } (.berth 0) 0 0 = false ∧
    writable (Tests.sueBlk (some (1, 1))) .sealed 0x18 0x044 ∧ (pageAt (Tests.sueBlk none) 0x18).unit = .on ∧ (0x80000003 : Word).getLsbD 31 = true ∧
    (Tests.sueBlk (some (1, 1))).sue.cmd.isSome = true ∧ writable (Tests.sueBlk none) .sealed 0x18 0x044 ∧ (Tests.sueBlk none).sue.cmd = none ∧
    laneCheck (Tests.sueBlk none) 3 0 0x80000003 = cOk ∧ (3 : Nat) ≠ clustersOf (Tests.sueBlk none) 0 ∧
    laneCheck (Tests.sueBlk none) 3 0 0x80200003 ≠ cOk ∧ awake (Tests.sueBlk (some (1, 1))) :=
  ⟨Tests.writable_of (by decide), by decide, by decide, by decide, by decide, Tests.writable_of (by decide), by decide,
   Tests.writable_of (by decide), by decide, by decide, by decide, Tests.writable_of (by decide), by decide, by decide, by decide, by decide,
   Tests.awake_of (by decide)⟩

/-- An operation of a step program: its first 16 bytes, then LINES. -/
def Tests.op (code group decl sources dest : Nat) (lines : Nat) : Bytes :=
  leBytes 1 code ++ leBytes 1 group ++ leBytes 2 decl ++ leBytes 1 sources ++ leBytes 1 dest ++ List.replicate 10 0 ++ leBytes 4 lines ++
    List.replicate 12 0

/-- A dense group of one block, no tensors. -/
def Tests.group (sparse : Bool) : SGroup :=
  { kind := 0, sparse := sparse, nfmt := 0, block := 32, gfmt := 0, sr := false, cdc1 := false, sched := 0, layer := 0, rowWidth := 0,
    params := 32, slots := [], beta1 := 0, beta2 := 0, eps := 0, lambda := 0, mu := 0, eInit := 0, eMin := 0, eMax := 0, grow := 1, seed := 0,
    points := [] }

/-- tide0 with one crossing of the tide and one fence. -/
def Tests.tideS : Tide := { Tests.tide0 with xings := [⟨0, 0, 0, 0, 0, 0, 0⟩], fences := [⟨0, 0xFFFF, 0, 0⟩] }

/-- Berth 0 RUNNING with a program of the operation and an ARRIVE, and the fence in the state given. -/
def Tests.progBlk (p : SueBerth) (f : FenceState) : Block :=
  { Tests.withBerth { st := .running, tide := some Tests.tideS } with
      sue := { berths := [(0, { p with decls := [⟨0, 0, 1, 0⟩], peers := [(0, 7)] })] },
      fences := [(0, { st := .live, state := f })],
      sync := { bars := [(0, { st := .gather })] },
      hold := { ranges := [(0, (0, 2))] },
      objs := [(0, { st := .live, kind := .sueBuffer 0 1 0 2 0 0 })] }

/-- A program that gathers, whose first operation is r. -/
def Tests.gather (r : Bytes) : SueBerth := { st := .gather, ops := [r, Tests.op 5 0 0 0 0 0], groups := [Tests.group false, Tests.group true] }

theorem Tests.op_waits {p : SueBerth} {f : FenceState} {i k : Nat} (h : Tests.runs (Tests.progBlk p f) = true)
    (st : startable (sueAt (Tests.progBlk p f) 0) i = true) (c : oCode (opAt (sueAt (Tests.progBlk p f) 0) i) = k) :
    opWaits (Tests.st (Tests.progBlk p f)) 0 i k := ⟨Tests.awake_of h, st, c, rfl⟩

theorem witness_programCommunicates :
    opWaits (Tests.st (Tests.progBlk (Tests.gather (Tests.op 1 0 0 0 0 0)) .unsignalled)) 0 0 1 ∧
    (fenceAt (Tests.progBlk (Tests.gather (Tests.op 1 0 0 0 0 0)) .unsignalled)
      (opFence (Tests.progBlk (Tests.gather (Tests.op 1 0 0 0 0 0)) .unsignalled) 0 (Tests.op 1 0 0 0 0 0))).state ≠ .error ∧
    opWaits (Tests.st (Tests.progBlk (Tests.gather (Tests.op 1 0 0 0 0 0)) .error)) 0 0 1 ∧
    (fenceAt (Tests.progBlk (Tests.gather (Tests.op 1 0 0 0 0 0)) .error)
      (opFence (Tests.progBlk (Tests.gather (Tests.op 1 0 0 0 0 0)) .error) 0 (Tests.op 1 0 0 0 0 0))).state = .error ∧
    opWaits (Tests.st (Tests.progBlk (Tests.gather (Tests.op 2 0 0 0 0 0)) .unsignalled)) 0 0 2 ∧
    opWaits (Tests.st (Tests.progBlk (Tests.gather (Tests.op 3 0 0 0 0 0)) .unsignalled)) 0 0 3 ∧
    tideOf (Tests.progBlk (Tests.gather (Tests.op 3 0 0 0 0 0)) .unsignalled) 0 = some Tests.tideS ∧
    Tests.tideS.xings[fieldLE (Tests.op 3 0 0 0 0 0) 0x0C 2]? = some ⟨0, 0, 0, 0, 0, 0, 0⟩ ∧
    tget 0 (sueAt (Tests.progBlk (Tests.gather (Tests.op 3 0 0 0 0 0)) .unsignalled) 0).peers 0 ≠ 0 ∧
    (xingAt (Tests.progBlk (Tests.gather (Tests.op 3 0 0 0 0 0)) .unsignalled) 0 0).st ≠ .failed ∧
    opWaits (Tests.st (Tests.progBlk (Tests.gather (Tests.op 7 0 0 0 0 0)) .unsignalled)) 0 0 7 ∧
    recycleReady (Tests.progBlk (Tests.gather (Tests.op 7 0 0 0 0 0)) .unsignalled) [0] = true ∧
    recycleReady { Tests.progBlk (Tests.gather (Tests.op 7 0 0 0 0 0)) .unsignalled with
      hold := { tags := [(0, { pins := 1 })] } } [0] = false :=
  ⟨Tests.op_waits (by decide) (by decide) (by decide), by decide, Tests.op_waits (by decide) (by decide) (by decide), by decide,
   Tests.op_waits (by decide) (by decide) (by decide), Tests.op_waits (by decide) (by decide) (by decide), by decide, by decide, by decide,
   by decide, Tests.op_waits (by decide) (by decide) (by decide), by decide, by decide⟩

/-- A program past its barrier, whose second operation is an APPLY of a group that is skipped or not. -/
def Tests.applying (g : Nat) (skip : BitVec 64) : SueBerth :=
  { st := .apply, ops := [Tests.op 5 0 0 0 0 0, Tests.op 6 g 0 0 0 0], groups := [Tests.group false, Tests.group true], next := 1, fin := [0],
    skip := skip, alphas := [some 0, some 0] }

theorem witness_programReduces :
    opWaits (Tests.st (Tests.progBlk (Tests.gather (Tests.op 4 0 0 1 0 1)) .unsignalled)) 0 0 4 ∧
    (sueAt (Tests.progBlk (Tests.gather (Tests.op 4 0 0 1 0 1)) .unsignalled) 0).groups[oGroup (Tests.op 4 0 0 1 0 1)]? = some (Tests.group false) ∧
    oDest (Tests.op 4 0 0 1 0 1) ≠ 1 ∧ readState (Tests.progBlk (Tests.gather (Tests.op 4 0 0 1 0 1)) .unsignalled) [0] = .ready ∧
    (∀ e ∈ (Tests.progBlk (Tests.gather (Tests.op 4 0 0 1 0 1)) .unsignalled).hold.upsets, e.1 / 64 ∉ [0]) ∧
    opWaits (Tests.st (Tests.progBlk (Tests.gather (Tests.op 4 1 0 1 0 1)) .unsignalled)) 0 0 4 ∧
    (sueAt (Tests.progBlk (Tests.gather (Tests.op 4 1 0 1 0 1)) .unsignalled) 0).groups[oGroup (Tests.op 4 1 0 1 0 1)]? = some (Tests.group true) ∧
    (Tests.group true).sparse = true ∧
    opWaits (Tests.st (Tests.progBlk (Tests.gather (Tests.op 4 0 0 1 1 1)) .unsignalled)) 0 0 4 ∧ oDest (Tests.op 4 0 0 1 1 1) = 1 ∧
    opWaits (Tests.st (Tests.progBlk { st := .gather, ops := [Tests.op 5 0 0 0 0 0] } .unsignalled)) 0 0 5 ∧
    progBar (Tests.progBlk { st := .gather, ops := [Tests.op 5 0 0 0 0 0] } .unsignalled) 0 = some 0 :=
  ⟨Tests.op_waits (by decide) (by decide) (by decide), by decide, by decide, by decide, by decide,
   Tests.op_waits (by decide) (by decide) (by decide), by decide,
   by decide, Tests.op_waits (by decide) (by decide) (by decide), by decide, Tests.op_waits (by decide) (by decide) (by decide), by decide⟩

/-- A dense group whose first tensor lies in region 0 of the Tide, and a block in which engine A's region 0, of that tensor, is LOST. -/
def Tests.lostGroup : SGroup := { Tests.group false with slots := [(0, 0)] }
def Tests.lostBlk : Block :=
  { Tests.progBlk { Tests.applying 0 0 with groups := [Tests.lostGroup] } .unsignalled with
      berths := [(0, { st := .running, tide := some { Tests.tideS with regions := [⟨1, 0, 20, 0, 0, 0, 0⟩] } })],
      mema := { regions := [(0, { st := .lost })] } }

theorem witness_applyLost : opWaits (Tests.st Tests.lostBlk) 0 1 6 ∧ (sueAt Tests.lostBlk 0).groups[0]? = some Tests.lostGroup ∧
    (sueAt Tests.lostBlk 0).alphas.getD 0 none = some 0 ∧ (sueAt Tests.lostBlk 0).skip.getLsbD 0 = false ∧
    Tests.lostGroup.slots.any (slotLost Tests.lostBlk 0) = true :=
  ⟨⟨Tests.awake_of (by decide), by decide, by decide, rfl⟩, by decide⟩

/-- A sparse group of one row, and a program whose APPLY of it has read the row's touch bit, and no other tensor or one more. -/
def Tests.rowGroup : SGroup := { Tests.group true with rowWidth := 32 }
def Tests.touching (more : List SueRead) : SueBerth :=
  { Tests.applying 0 0 with groups := [Tests.rowGroup], reads := { op := 1, slot := 7, line := 0, data := some [1] } :: more }

theorem witness_applyUpdates : (sueAt (Tests.progBlk (Tests.applying 0 0) .unsignalled) 0).groups[0]? = some (Tests.group false) ∧
    (Tests.applying 0 0).alphas.getD 0 none = some 0 ∧
    (Tests.touching []).groups[oGroup (opAt (Tests.touching []) 1)]? = some Tests.rowGroup ∧
    touchedRows (Tests.touching []) 1 Tests.rowGroup ≠ [] ∧ (∀ x ∈ (Tests.touching []).reads, x.op = 1 → x.slot = 7) ∧
    Tests.rowGroup.sparse = true ∧
    (Tests.touching [{ op := 1, slot := 6, line := 0 }]).reads.any (fun x => x.op = 1 && x.slot ≠ 7) = true := by decide

theorem witness_programApplies : opWaits (Tests.st (Tests.progBlk (Tests.applying 0 1) .unsignalled)) 0 1 6 ∧
    (sueAt (Tests.progBlk (Tests.applying 0 1) .unsignalled) 0).groups[0]? = some (Tests.group false) ∧
    (sueAt (Tests.progBlk (Tests.applying 0 1) .unsignalled) 0).alphas.getD 0 none = some 0 ∧ (1 : BitVec 64).getLsbD 0 = true ∧
    opWaits (Tests.st (Tests.progBlk (Tests.applying 0 0) .unsignalled)) 0 1 6 ∧ (0 : BitVec 64).getLsbD 0 = false ∧
    (Tests.group false).slots.any (slotLost (Tests.progBlk (Tests.applying 0 0) .unsignalled) 0) = false ∧ (Tests.group false).sparse = false ∧
    opWaits (Tests.st (Tests.progBlk (Tests.applying 1 0) .unsignalled)) 0 1 6 ∧
    (sueAt (Tests.progBlk (Tests.applying 1 0) .unsignalled) 0).groups[1]? = some (Tests.group true) ∧
    awake (Tests.progBlk { Tests.gather (Tests.op 7 0 0 0 0 0) with next := 1 } .unsignalled) ∧
    inFlight { Tests.gather (Tests.op 7 0 0 0 0 0) with next := 1 } 0 = true ∧
    (Tests.group true).slots.any (slotLost (Tests.progBlk (Tests.applying 1 0) .unsignalled) 0) = false ∧ (Tests.group true).sparse = true ∧
    tget 0 (Tests.gather (Tests.op 7 0 0 0 0 0)).need 0 = 0 ∧ (Tests.gather (Tests.op 7 0 0 0 0 0)).reads = [] ∧ oCode (Tests.op 7 0 0 0 0 0) ≠ 1 ∧ oCode (Tests.op 7 0 0 0 0 0) ≠ 5 ∧
    oCode (Tests.op 1 0 0 0 0 0) = 1 :=
  ⟨Tests.op_waits (by decide) (by decide) (by decide), by decide, by decide, by decide, Tests.op_waits (by decide) (by decide) (by decide), by decide,
   by decide, by decide, Tests.op_waits (by decide) (by decide) (by decide), by decide, Tests.awake_of (by decide), by decide⟩

/-- A started command of the SUE unit, with pending scales p. -/
def Tests.sueCmd (op : Nat) (p : List SScale) : Block :=
  { Tests.ctxBlk { st := .active, cmds := [Tests.started (Tests.cmd op 0 2 3 0 0 0 0 0)] } with sue := { berths := [(0, { pend := p })] } }

theorem witness_layerScales : awake (Tests.sueCmd 1 []) ∧ (Tests.sueCmd 1 []).slip.st = .idle ∧ (ctxAt (Tests.sueCmd 1 []) 0).berth = some 0 ∧
    cmdAt (Tests.sueCmd 1 []) 0 0 = some (Tests.started (Tests.cmd 1 0 2 3 0 0 0 0 0)) ∧ cUnit (Tests.cmd 1 0 2 3 0 0 0 0 0) = 2 ∧
    cOper (Tests.cmd 1 0 2 3 0 0 0 0 0) = 1 ∧ cOper (Tests.cmd 2 0 2 3 0 0 0 0 0) = 2 ∧
    (sueAt (Tests.sueCmd 1 [⟨0, 3, 0, 0⟩]) 0).pend.any (fun y => y.layer = 0 && y.step = 3) = true ∧
    (sueAt (Tests.sueCmd 1 []) 0).pend.any (fun y => y.layer = 0 && y.step = 3) = false ∧ (sueAt (Tests.sueCmd 1 []) 0).pend.length < 64 ∧
    (sueAt (Tests.sueCmd 1 (List.replicate 64 ⟨1, 3, 0, 0⟩)) 0).pend.any (fun y => y.layer = 0 && y.step = 3) = false ∧
    64 ≤ (sueAt (Tests.sueCmd 1 (List.replicate 64 ⟨1, 3, 0, 0⟩)) 0).pend.length := ⟨Tests.awake_of (by decide), by decide⟩

/-! ### Witnesses: management requests with signatures -/

/-- The point G of P-384, the public key of the private key 1. -/
def Tests.point : Bytes := beBytes 96
  0xaa87ca22be8b05378eb1c71ef320ad746e1d3b628ba79b9859f741e082542a385502f25dbf55296c3a545e3872760ab73617de4a96262c6f5d9e98bf9292dc29f8f41dbd289a147ce9da3113b5f0b8c00a60b1ce1d7e819d7a431d7c90ea0e5f

/-- A session on DOE whose handshake is complete. -/
def Tests.sess : Session := { up := true, fin := true }

/-- A key and its signature of R446's string over a session of id 0, a transcript of zeros and slot 0. -/
def Tests.authKey : Bytes := beBytes 96
  0x77c860ded8ff6b02dbb9be5a3e62c7fcdb417af36f8938d100fde07b6a01aa92f637d0fea2dacac9637bfc33f44f5e05c913e1b8b5f5d620e9db09ebb8709cb9f9016ebb5edac26589c1ba868a1dfcc0f17d0e582883a885abffc2838a4243a4
def Tests.authSig : Bytes := beBytes 96
  0xaa87ca22be8b05378eb1c71ef320ad746e1d3b628ba79b9859f741e082542a385502f25dbf55296c3a545e3872760ab7aa87ca22be8b05378eb1c71ef320ad746e1d3b628ba79b9859f741e082542a385502f25dbf55296c3a545e3872760ab7

/-- ECDSA with P-384 and SHA-384, computed apart from the model with the curve's own formulas. -/
theorem witness_realmAuth :
    ecdsaVerify Tests.authKey (authString { Tests.sess with transcript := List.replicate 48 0 }) Tests.authSig = true := by decide +kernel

theorem witness_realmAuth_refused : ecdsaVerify Tests.point (authString Tests.sess) [] = false := by decide +kernel

/-- The smallest patch image: SVN 0, all minors, the key above. -/
def Tests.image : Bytes :=
  [0x50, 0x43, 0x48, 0x32] ++ leBytes 2 2 ++ leBytes 2 0 ++ leBytes 8 256 ++ [0, 255] ++ List.replicate 14 0 ++ beBytes 96
    0xaa87ca22be8b05378eb1c71ef320ad746e1d3b628ba79b9859f741e082542a385502f25dbf55296c3a545e3872760ab73074cae46c585d4c2c5592ddc99301e6d44a8dbda2f54a1df5cf587831c620128b1724f14cd2c1d2ec5a1095b5b2d9d4 ++
  Tests.point ++ List.replicate 32 0

/-- blk0 with that image received, and the build's ROM holding its key's digest. -/
def Tests.patchBlk (st : Deliv) (store : Bytes) (act : Option Bool) : Block :=
  { Tests.blk0 with
      build := { patchKey := sha384 Tests.point }, sess := [(0, Tests.sess)],
      mgmt := { deliv := st, length := 256, stage := Tests.image, store := store, act := act } }

theorem witness_image : imageCheck (Tests.patchBlk .receiving [] none) Tests.image = cOk := by decide +kernel

/-! ### Witnesses: error correction, watches, recovery -/

theorem witness_Patrol : awake Tests.setBlk ∧ patrols Tests.setBlk .hold 32768 = false ∧ awake Tests.blk0 ∧ patrols Tests.blk0 .hold 0 = true ∧
    Tests.blk0.hold.upsets = [] ∧ checkedByte (tget 0 Tests.blk0.hold.mem 0) (1, 0) = some 0 ∧ byteSyndrome (1, 0) ≠ 0 ∧
    checkedByte (tget 0 Tests.blk0.hold.mem 0) (3, 0) = none ∧ EccSite.gseStore 0 ≠ .hold ∧ patrols Tests.blk0 (.gseStore 0) 5 = true ∧
    (checkedByte 0 (1, 0)).isSome = true ∧ checkedByte 0 (3, 0) = none :=
  ⟨Tests.awake_of (by decide), by decide, Tests.awake_of (by decide), by decide⟩

/-- The last word of a line with its bit 0 flipped, and with two bits flipped. -/
theorem witness_pathWords : 4 * 15 + 4 ≤ (List.replicate 64 (0 : Byte)).length ∧ ({ word := 15, flips := 1 } : WordErr).flips ≠ 0 ∧
    corrected col39 (checkBits col39 1) 1 = some 0 ∧ checkBits col39 1 ≠ 0 ∧ corrected col39 (checkBits col39 3) 3 = none := by decide

/-- blk0 with a logged error, and with a test under way with the control word given. -/
def Tests.eccBlk (ctrl : Word) : Block := { Tests.blk0 with ecc := { log := [[1, 2, 3, 4]], test := some ⟨ctrl, 0, 3, 0⟩ } }

theorem Tests.no_page_owner (c p : Nat) : pageBerth Tests.blk0 c p = none := by
  simp only [pageBerth]
  cases Config.pageOwner (64 * c + p) with
  | none => rfl
  | some w => simp [Option.filter, Tests.blk0, berthAt, tget]

theorem witness_EccCommands : readable (Tests.eccBlk 0) .sealed 0x1A 0x044 ∧ (Tests.eccBlk 0).ecc.log = [1, 2, 3, 4] :: [] ∧
    writable Tests.blk0 .sealed 0x1A 0x058 ∧ writable Tests.blk0 .sealed 0x1A 0x05C ∧ (0x800005FF : Word).getLsbD 31 = true ∧
    fld (0x800005FF : Word) 12 11 = 0 ∧ fld (0x800005FF : Word) 10 0 < 1536 ∧ fld (0x800005FF : Word) 10 0 ∉ Tests.blk0.ecc.retired ∧
    bankState Tests.blk0 (fld (0x800005FF : Word) 10 0) = .free ∧
    fld (0x80000808 : Word) 12 11 = 1 ∧ fld (0x80000808 : Word) 10 0 = 8 ∧ 8 ∉ Tests.blk0.ecc.fpages ∧
    fld (0x8000100F : Word) 12 11 = 2 ∧ retireCheck Tests.blk0 2 (fld (0x8000100F : Word) 10 0) = cOk ∧
    retireCheck Tests.blk0 (fld (0x80000600 : Word) 12 11) (fld (0x80000600 : Word) 10 0) ≠ cOk ∧
    writable Tests.blk0 .sealed 0x1A 0x064 ∧ (0x84000000 : Word).getLsbD 26 = true ∧ Tests.blk0.ecc.test = none ∧
    fld (0x80000000 : Word) 10 0 < 1536 ∧ awake (Tests.eccBlk 0x04000000) ∧ (0x04000000 : Word).getLsbD 26 = true ∧
    (injFinds col39 0 3 0).2.1 = 2 ∧ (injFinds col13 0 3 0).2.1 = 2 ∧ (0 : Word).getLsbD 26 = false :=
  ⟨Tests.readable_of (by decide), by decide, Tests.writable_of (by decide), Tests.writable_of (by decide), by decide, by decide, by decide, by decide,
   by decide, by decide, by decide, by decide, by decide, by decide, by decide, Tests.writable_of (by decide), by decide, by decide, by decide,
   Tests.awake_of (by decide), by decide, by decide, by decide, by decide⟩

theorem witness_retire_page : retireCheck Tests.blk0 1 8 = cOk := by
  rw [show retireCheck Tests.blk0 1 8 = (if (pageBerth Tests.blk0 0 8).isSome then cBusy else cOk) from rfl, Tests.no_page_owner]; rfl

/-- A fabric-side read that engine S waits for, and a wait for the verdict of line 7. -/
def Tests.ownReq : SReq := { group := 7, slice := 0, tid := 1023, addr := 0, berth := 0, fabric := false, write := false }

/-- blk0 at tick 10^9 with every watch at 1 us. -/
def Tests.watchBlk : Block :=
  { Tests.ctxBlk { st := .active, cmds := [Tests.started (Tests.cmd 0 0 1 0 0 0 0 0 0)] } with
      tick := 1000000000, regs := (List.range 9).map fun i => (0x1B0C0 + 4 * i, 1),
      mema := { reads := [Tests.read9] }, mems := { reqs := [Tests.ownReq] },
      sched := { cmd := some { op := 2, berth := 0 }, atts := [(0, { out := [(0, 0, 7)] })] },
      hold := { waits := [Tests.wait7 false], tags := [(7, { st := .held })] },
      xings := [(0, { st := .proving, waitTick := 1 })], sync := { bars := [(255, { st := .gather })] },
      pages := tset {} Tests.pagesOn 0x14 { unit := .draining } }

/-- A restore that reads its sectors from the HOST window, at tick 10^9. -/
def Tests.windowBlk : Block :=
  { Tests.gseBlk { st := .joined } {} { run := [{ d := Tests.gseD .unsealRun 4, fw := false }], secs := [{ id := 0, berth := 0, sector := 0 }] } with
      tick := 1000000000, regs := [(0x1B0C0, 1)] }

theorem witness_Watches : awake Tests.watchBlk ∧ Tests.watchBlk.slip.st = .idle ∧ portSince Tests.watchBlk 3 = some 0 ∧
    expired Tests.watchBlk 0 0 = true ∧ (portAt Tests.watchBlk 3).inRst = false ∧
    Tests.watchBlk.mems.reqs.find? (fun r => r.group = 7 && r.tid = 1023 && !r.fabric && expired Tests.watchBlk 0 r.since) = some Tests.ownReq ∧
    Tests.watchBlk.sched.cmd = some { op := 2, berth := 0 } ∧
    (ctxAt Tests.watchBlk 0).berth = some 0 ∧ (ctxAt Tests.watchBlk 0).queue.isSome = true ∧ (berthAt Tests.watchBlk 0).st = .running ∧
    limitOf Tests.watchBlk 0 ≤ now Tests.watchBlk ∧
    (((attAt Tests.watchBlk 0).out.filter fun o => !((cmdAt Tests.watchBlk o.1 o.2.1).any fun m => fNp m.raw)).map fun o => o.2.2).min? = some 7 ∧
    expired Tests.watchBlk 1 7 = true ∧ (attAt Tests.watchBlk 0).inRst = false ∧
    Tests.watchBlk.hold.waits.find? (fun r => r.id = 4) = some (Tests.wait7 false) ∧ expired Tests.watchBlk 2 0 = true ∧
    (Tests.wait7 false).ready = false ∧ (lndAt Tests.watchBlk 0).inRst = false ∧
    (xingAt Tests.watchBlk 0 0).st = .proving ∧ (xingAt Tests.watchBlk 0 0).waitTick = 0 + 1 ∧
    expired Tests.watchBlk 3 0 = true ∧ limitOf Tests.watchBlk 4 ≠ 0 ∧ barWatchDue Tests.watchBlk 255 (limitOf Tests.watchBlk 4) = true ∧
    hasEnable 0x14 = true ∧ (pageAt Tests.watchBlk 0x14).unit = .draining ∧ expired Tests.watchBlk 7 (pageAt Tests.watchBlk 0x14).since = true ∧
    (coreAt Tests.watchBlk 3).st = .running ∧ expired Tests.watchBlk 8 (coreAt Tests.watchBlk 3).kick = true ∧
    awake Tests.windowBlk ∧ Tests.windowBlk.slip.st = .idle ∧ windowSince Tests.windowBlk 0 = some 0 ∧ expired Tests.windowBlk 0 0 = true := by
  refine ⟨Tests.awake_of (by decide), by decide, by decide, by decide, by decide, by decide, by decide, by decide, by decide, by decide, by decide,
   by decide, by decide, by decide, by decide, by decide, by decide, by decide, by decide, by decide, by decide, by decide, by decide, by decide, by decide,
   by decide, by decide, by decide, Tests.awake_of (by decide), by decide⟩

/-- watchBlk with berth 31 scrubbing. -/
def Tests.scrubWatch : Block := { Tests.watchBlk with berths := [(31, { st := .scrubSt })] }

theorem witness_scrubWatches : awake Tests.scrubWatch ∧ (berthAt Tests.scrubWatch 31).st = .scrubSt ∧
    (berthAt Tests.scrubWatch 31).scrub.quiesced = false ∧ (berthAt Tests.scrubWatch 31).scrub.hung = false ∧
    expired Tests.scrubWatch 5 (berthAt Tests.scrubWatch 31).scrub.since = true ∧
    expired Tests.scrubWatch 6 (berthAt Tests.scrubWatch 31).scrub.since = true ∧ 15 < Tests.scrubWatch.build.attach ∧
    15 ∉ (berthAt Tests.scrubWatch 31).scrub.acked := ⟨Tests.awake_of (by decide), by decide⟩

/-- blk0 with a recovery record, its notice, a session for it and core 3 as given. -/
def Tests.recvBlk (c : Core) : Block :=
  { Tests.blk0 with
      recv := { ring := [List.replicate 16 0], notices := [List.replicate 16 0], cores := [(3, c)] },
      sess := [(5, { up := true, fin := true, via := .i3c })], regs := [(0x1B090, 0x80000000)] }

theorem witness_RecoveryEvents : readable (Tests.recvBlk {}) .sealed 0x1B 0x048 ∧ (Tests.recvBlk {}).recv.ring = List.replicate 16 0 :: [] ∧
    writable (Tests.recvBlk {}) .sealed 0x1B (0x120 + 4 * 3) ∧ (1 : Word).getLsbD 0 = true ∧ awake (Tests.recvBlk {}) ∧
    (Tests.recvBlk {}).slip.st = .idle ∧ (Tests.recvBlk {}).sched.cmd = none ∧ (coreAt (Tests.recvBlk {}) 3).st = .running ∧
    (((coreAt (Tests.recvBlk {}) 3).faults.filter fun t => now (Tests.recvBlk {}) < t + msTicks (Tests.recvBlk {}) 10000) ++ [0]).length < 3 ∧
    3 ≤ (((coreAt (Tests.recvBlk { faults := [0, 0] }) 3).faults.filter fun t =>
      now (Tests.recvBlk {}) < t + msTicks (Tests.recvBlk {}) 10000) ++ [0]).length ∧
    (coreAt (Tests.recvBlk { st := .restarting }) 3).st = .restarting ∧ (Tests.recvBlk {}).recv.notices = List.replicate 16 0 :: [] ∧
    noticeSession (Tests.recvBlk {}) = some 5 ∧ (reg (Tests.recvBlk {}) 0x1B090).getLsbD 31 = true :=
  ⟨Tests.readable_of (by decide), by decide, Tests.writable_of (by decide), by decide, Tests.awake_of (by decide), by decide⟩

/-! ### Witnesses: the responder, sessions and Denkan -/

theorem witness_Responder : awake Tests.blk0 ∧ secureState Tests.blk0 = true ∧ resuming Tests.blk0 = false ∧ slotPopulated Tests.blk0 1 = false ∧
    slotPopulated Tests.blk0 0 = true ∧ (sessionAt Tests.blk0 0).up = false ∧ (∀ j, j < 0 → (sessionAt Tests.blk0 j).up = true) ∧
    (∀ i < 16, (sessionAt { Tests.blk0 with sess := (List.range 16).map fun i => (i, { up := true }) } i).up = true) ∧
    (∀ j < 15, (sessionAt { Tests.blk0 with sess := (List.range 15).map fun i => (i, { up := true }) } j).up = true) ∧
    (sessionAt { Tests.blk0 with sess := (List.range 15).map fun i => (i, { up := true }) } 15).up = false :=
  ⟨Tests.awake_of (by decide), by decide⟩

/-- The generator is a point of the curve; nothing is none. -/
theorem witness_keyShare : onCurve Tests.point = true ∧ onCurve [] = false := by decide +kernel

/-- blk0 in the middle of a resumed move. -/
def Tests.resumed : Block := { Tests.blk0 with lcs := { st := .deployed, move := some { Tests.clearMove with clearing := false, resumed := true } } }

theorem witness_responderRefuses : awake (Tests.inState .blank) ∧ secureState (Tests.inState .blank) = false ∧ awake Tests.resumed ∧
    resuming Tests.resumed = true := ⟨Tests.awake_of (by decide), by decide, Tests.awake_of (by decide), by decide⟩

/-- blk0 with session 15 as given and berth 0 in the state given. -/
def Tests.sessBlk (x : Session) (st : BerthState) : Block := { Tests.withBerth { st := st } with sess := [(15, x)] }

theorem witness_Sessions : awake (Tests.sessBlk Tests.sess .free) ∧ secureState (Tests.sessBlk Tests.sess .free) = true ∧
    resuming (Tests.sessBlk Tests.sess .free) = false ∧
    (sessionAt (Tests.sessBlk Tests.sess .free) 15).up = true ∧ (sessionAt (Tests.sessBlk Tests.sess .free) 15).via = .doe ∧
    (sessionAt (Tests.sessBlk Tests.sess .free) 15).via ≠ .i3c ∧ awake (Tests.sessBlk { up := true } .free) ∧
    (sessionAt (Tests.sessBlk { up := true } .free) 15).up = true ∧ (sessionAt (Tests.sessBlk { up := true } .free) 15).via = .doe ∧
    (sessionAt (Tests.sessBlk { up := true } .free) 15).fin = false ∧ (sessionAt (Tests.sessBlk Tests.sess .free) 15).fin = true :=
  ⟨Tests.awake_of (by decide), by decide, by decide, by decide, by decide, by decide, Tests.awake_of (by decide), by decide⟩

/-- Berth 0 in the state given, its TDI as given under nonce 5. -/
def Tests.tdiBlk (st : BerthState) (t : TdiState) : Block :=
  { Tests.withBerth { st := st } with mgmt := { tdis := [(0, t)], nonces := [(0, 5)] } }

theorem witness_Interfaces : awake (Tests.tdiBlk .running .unlocked) ∧ mayLock (Tests.tdiBlk .running .unlocked) 0 = true ∧
    tdiAt (Tests.tdiBlk .running .unlocked) 0 = .unlocked ∧ awake (Tests.tdiBlk .free .unlocked) ∧
    mayLock (Tests.tdiBlk .free .unlocked) 0 = false ∧ awake (Tests.tdiBlk .running .locked) ∧ tdiAt (Tests.tdiBlk .running .locked) 0 ≠ .unlocked ∧
    tdiAt (Tests.tdiBlk .running .locked) 0 = .locked ∧ tget 0 (Tests.tdiBlk .running .locked).mgmt.nonces 0 = 5 ∧
    tget 0 (Tests.tdiBlk .running .locked).mgmt.nonces 0 ≠ 6 ∧ tdiAt (Tests.tdiBlk .running .unlocked) 0 ≠ .locked ∧
    awake (Tests.tdiBlk .running .run) ∧ tdiAt (Tests.tdiBlk .running .run) 0 = .run ∧ tdiAt (Tests.tdiBlk .running .unlocked) 0 ≠ .run :=
  ⟨Tests.awake_of (by decide), by decide, by decide, Tests.awake_of (by decide), by decide, Tests.awake_of (by decide), by decide, by decide, by decide,
   by decide, by decide, Tests.awake_of (by decide), by decide⟩

/-- A Realm digest and its OTP record 0 with every right. -/
def Tests.digest : Bytes := List.replicate 48 7
def Tests.realmOtp : Table (BitVec 39) := recordWords 0 Tests.digest 15 0xFF

/-- blk0 with a Realm's authenticated session 0, a second Realm in record 1, and a delivery in the state given. -/
def Tests.realmBlk (m : Mgmt) : Block :=
  { Tests.withBerth { st := .running } with
      otp := Tests.realmOtp ++ recordWords 1 (List.replicate 48 8) 15 0, sess := [(0, { Tests.sess with digest := some Tests.digest })],
      mgmt := m }

/-- realmBlk with no Realm record BLANK: records 2 to 15 are void. -/
def Tests.fullBlk : Block :=
  { Tests.realmBlk {} with otp := (List.range 14).flatMap (fun k => (List.range 16).map fun a => (0x100 + 16 * (k + 2) + a, 0x7FFFFFFFFF)) ++
      (Tests.realmBlk {}).otp }

theorem witness_Denkan : awake (Tests.realmBlk {}) ∧ secureState (Tests.realmBlk {}) = true ∧ resuming (Tests.realmBlk {}) = false ∧
    (sessionAt (Tests.realmBlk {}) 0).via = .doe ∧ (sessionAt (Tests.realmBlk {}) 0).up = true ∧
    (sessionAt (Tests.realmBlk {}) 0).fin = true ∧ (sessionAt (Tests.realmBlk {}) 0).digest.isSome = true ∧
    Tests.sess.digest = none ∧ mayEnroll (Tests.sessBlk Tests.sess .free) 15 [] 1 = false ∧ mayEnroll (Tests.realmBlk {}) 0 [] 15 = true ∧
    blankRecord (Tests.realmBlk {}) = some 2 ∧ mayEnroll Tests.fullBlk 0 [] 15 = true ∧ blankRecord Tests.fullBlk = none ∧ (sessRights (Tests.sessBlk Tests.sess .free) 15).testBit 3 = false ∧
    (sessRights (Tests.realmBlk {}) 0).testBit 3 = true ∧
    ((liveRecords (Tests.realmBlk {})).filter fun j => j ≠ 15 && (realmRights (Tests.realmBlk {}) j).testBit 3) ≠ [] ∧
    (sessRights (Tests.sessBlk Tests.sess .free) 15).testBit 1 = false ∧ (sessRights (Tests.realmBlk {}) 0).testBit 1 = true ∧
    (Tests.realmBlk {}).mgmt.deliv = .idle ∧ (262144 : Nat) ≤ 262144 ∧ 262144 % 64 = 0 ∧
    (Tests.realmBlk { deliv := .receiving, length := 256 }).mgmt.deliv = .receiving ∧
    (Tests.realmBlk { deliv := .receiving, length := 256 }).mgmt.dsess = 0 ∧
    (Tests.realmBlk { deliv := .receiving, length := 256 }).mgmt.stage.length + 256 ≤
      (Tests.realmBlk { deliv := .receiving, length := 256 }).mgmt.length ∧
    (Tests.realmBlk { deliv := .receiving }).mgmt.stage.length = (Tests.realmBlk { deliv := .receiving }).mgmt.length ∧
    imageCheck (Tests.realmBlk { deliv := .receiving }) [] ≠ cOk := ⟨Tests.awake_of (by decide), by decide +kernel⟩

/-- An image of SVN 1 verified, its activation asked for with the floor. -/
def Tests.svnBlk : Block := { Tests.blk0 with mgmt := { deliv := .verified, act := some true, stage := [0, 0, 0, 0, 0, 0, 1] } }

theorem witness_patchFloor : awake Tests.svnBlk ∧ Tests.svnBlk.mgmt.act = some true ∧ Tests.svnBlk.mgmt.deliv = .verified ∧
    floorRuns Tests.svnBlk = false ∧ sameImage Tests.svnBlk = false ∧ allBerthsFree Tests.svnBlk = true ∧
    patchFloor Tests.svnBlk < imageSvn Tests.svnBlk.mgmt.stage := ⟨Tests.awake_of (by decide), by decide⟩

theorem witness_patchEnd : (Tests.patchBlk .receiving [] none).mgmt.stage.length = (Tests.patchBlk .receiving [] none).mgmt.length ∧
    mayActivate (Tests.patchBlk .receiving [] none) = true ∧
    mayActivate { Tests.patchBlk .receiving [] none with berths := [(0, { st := .running })] } = false ∧
    (Tests.patchBlk .verified [] (some true)).mgmt.act = some true ∧ sameImage (Tests.patchBlk .verified [] (some true)) = false ∧
    floorRuns (Tests.patchBlk .verified [] (some true)) = false ∧ allBerthsFree (Tests.patchBlk .verified [] (some true)) = true ∧
    allBerthsFree { Tests.patchBlk .verified [] (some true) with berths := [(0, { st := .running })] } = false ∧
    imageSvn Tests.image ≤ patchFloor (Tests.patchBlk .verified [] (some true)) ∧
    (Tests.patchBlk .verified [] (some true)).mgmt.deliv = .verified := by decide +kernel

theorem Tests.same_of {b : Block} (h : b.mgmt.store.isEmpty = false) (e : b.mgmt.stage = b.mgmt.store) : sameImage b = true := by
  unfold sameImage
  rw [h, e]
  simp

theorem witness_sameImage : sameImage (Tests.patchBlk .verified Tests.image (some true)) = true := Tests.same_of (by decide +kernel) rfl

/-- blk0 with an owner's session 0 on slot 1, bound to berth 0. -/
def Tests.ownerBlk (flags : Nat) : Block :=
  { Tests.withBerth { st := .running, tide := some { owners := [⟨0, flags, Tests.digest⟩] } } with
      certs := [(1, some 0)], sess := [(0, { Tests.sess with slot := 1, digest := some Tests.digest })] }

theorem witness_denkanRewrap : sessOwner (Tests.ownerBlk 1) 0 = some (0, ⟨0, 1, Tests.digest⟩) ∧ bit 1 0 = true ∧
    (Tests.ownerBlk 1).gse.drbgFail = false ∧ sessOwner (Tests.ownerBlk 0) 0 = some (0, ⟨0, 0, Tests.digest⟩) ∧ bit 0 0 = false ∧
    sessOwner Tests.blk0 0 = none := by decide

theorem witness_denkanRegisters : awake (Tests.realmBlk {}) ∧ 0x1D01C % 4 = 0 ∧ 0x14048 % 4 = 0 ∧
    gate (fresh (Tests.realmBlk {})) (.session 0) 0x1D01C false = .pass 0x1D 0x01C none ∧
    (doRead (.session 0) 0x1D 0x01C (fresh (Tests.realmBlk {}))).2.errSeen = none ∧
    gate (fresh (Tests.sessBlk Tests.sess .free)) (.session 15) 0x14048 false = .refuse 0x14 cDenied ∧ cDenied ≠ cOk ∧
    gate (fresh (Tests.realmBlk {})) (.session 0) 0x1D01C true = .pass 0x1D 0x01C none ∧
    (doWrite (.session 0) 0x1D 0x01C 1 (fresh (Tests.realmBlk {}))).errSeen = none ∧
    gate (fresh (Tests.sessBlk Tests.sess .free)) (.session 15) 0x1401C true = .refuse 0x14 cDenied :=
  ⟨Tests.awake_of (by decide), by decide +kernel⟩

/-! ### Witnesses: slots, debug and trace -/

theorem witness_Slots : writable (Tests.sessBlk {} .loaded) .sealed 0x1D 0x04C ∧ (0x80000001 : Word).getLsbD 31 = true ∧
    fld (0x80000001 : Word) 30 10 = 0 ∧ fld (0x80000001 : Word) 2 0 ≠ 0 ∧ slotBerth (Tests.sessBlk {} .loaded) (fld (0x80000001 : Word) 2 0) = none ∧
    berthSlot (Tests.sessBlk {} .loaded) (fld (0x80000001 : Word) 7 3) = none ∧ (berthAt (Tests.sessBlk {} .loaded) 0).st = .loaded ∧
    writable (Tests.sessBlk {} .free) .sealed 0x1D 0x04C ∧ (berthAt (Tests.sessBlk {} .free) 0).st = .free :=
  ⟨Tests.writable_of (by decide), by decide, by decide, by decide, by decide, by decide, by decide, Tests.writable_of (by decide), by decide⟩

/-- blk0 in the life-cycle state given, core 0 as given and DBG_MEM_ADDR at a. -/
def Tests.dbgBlk (l : LcState) (c : Core) (a : Word) : Block :=
  { Tests.blk0 with lcs := { st := l }, recv := { cores := [(0, c)] }, regs := [(0x1E068, a)] }

theorem witness_Debug : writable Tests.blk0 .sealed 0x1E 0x044 ∧ (∀ w, w < 32 → openWritable Tests.blk0 w = true) ∧
    writable { Tests.blk0 with berths := (List.range 32).map fun w => (w, { st := .loaded }) } .sealed 0x1E 0x044 ∧
    (∀ w, w < 32 → openWritable { Tests.blk0 with berths := (List.range 32).map fun w => (w, { st := .loaded }) } w = false) ∧
    (1 : Word) ≠ reg Tests.blk0 0x1E044 ∧ writable (Tests.dbgBlk .analysis { st := .halted } 0) .sealed 0x1E 0x05C ∧
    haltRefused (Tests.dbgBlk .analysis { st := .halted } 0) = false ∧
    (coreAt (Tests.dbgBlk .analysis { st := .halted } 0) (dbgCore (Tests.dbgBlk .analysis { st := .halted } 0))).st = .halted ∧
    (coreAt (Tests.dbgBlk .analysis {} 0) (dbgCore (Tests.dbgBlk .analysis {} 0))).st = .running ∧
    haltRefused { Tests.withBerth { st := .loaded, confid := true } with lcs := { st := .deployed } } = true ∧
    (tget 0 (coreAt (Tests.dbgBlk .analysis { bps := [(3, 0x101)] } 0) 0).bps 3).getLsbD 0 = true ∧
    (tget 0 (coreAt (Tests.dbgBlk .analysis { bps := [(3, 0x101)] } 0) 0).bps 3).toNat / 4 = (0x100 : Word).toNat / 4 ∧
    readable (Tests.dbgBlk .analysis { st := .halted, sram := [(65535, some 9)] } 0x3FFFC) .sealed 0x1E 0x06C ∧
    secureState (Tests.dbgBlk .analysis { st := .halted, sram := [(65535, some 9)] } 0x3FFFC) = false ∧
    8 ≤ fld (0x3FFFC : Word) 17 2 / 1024 ∧
    tget none (coreAt (Tests.dbgBlk .analysis { st := .halted, sram := [(65535, some 9)] } 0x3FFFC) 0).sram (fld (0x3FFFC : Word) 17 2) = some 9 ∧
    (coreAt (Tests.dbgBlk .analysis { st := .halted, sram := [(65535, some 9)] } 0x3FFFC) 0).zeroed.contains (fld (0x3FFFC : Word) 17 2 / 1024) = false ∧
    (coreAt (Tests.dbgBlk .analysis { st := .halted, zeroed := [63] } 0x3FFFC) 0).zeroed.contains (fld (0x3FFFC : Word) 17 2 / 1024) = true ∧
    readable (Tests.dbgBlk .analysis { st := .halted, zeroed := [63] } 0x3FFFC) .sealed 0x1E 0x06C ∧
    readable (Tests.dbgBlk .deployed {} 0x7FFC) .sealed 0x1E 0x06C ∧ secureState (Tests.dbgBlk .deployed {} 0x7FFC) = true ∧
    fld (0x7FFC : Word) 17 2 / 1024 < 8 :=
  ⟨Tests.writable_of (by decide), by decide, Tests.writable_of (by decide), by decide, by decide, Tests.writable_of (by decide), by decide, by decide,
   by decide, by decide, by decide, by decide, Tests.readable_of (by decide), by decide, by decide, by decide, by decide, by decide,
   Tests.readable_of (by decide), Tests.readable_of (by decide), by decide, by decide⟩

/-- Berth 0 RUNNING with trace records, and its ring of one record in its HBM region. -/
def Tests.trcBlk (o : Option Nat) (h : Word) (tail : Nat) : Block :=
  { Tests.withBerth { st := .running, tide := some { regions := [⟨0, 0, 0, 1, 0, 0, 0⟩] } } with
      trc := { owner := [(63, o)], recs := [(0, [(63, List.replicate 32 0)])], tail := [(0, tail)] },
      objs := [(0, { st := .live, kind := .hbm 0 0 1 })], regs := [(trcKey 0 0x06C, h)] }

theorem witness_Trace : writable Tests.blk0 .sealed 0x1F 0x040 ∧ (0x8000003F : Word).getLsbD 31 = true ∧ (pageAt Tests.blk0 0x1F).unit = .on ∧
    tget none Tests.blk0.trc.owner (fld (0x8000003F : Word) 5 0) = none ∧ writable (Tests.trcBlk (some 1) 0 0) .sealed 0x1F 0x040 ∧
    tget none (Tests.trcBlk (some 1) 0 0).trc.owner (fld (0x8000003F : Word) 5 0) = some 1 ∧ 1 ≠ fld (0x8000003F : Word) 12 8 ∧
    writable { Tests.blk0 with pages := [] } .sealed 0x1F 0x040 ∧ (pageAt { Tests.blk0 with pages := [] } 0x1F).unit ≠ .on ∧
    awake (Tests.trcBlk none 0 0) ∧ (pageAt (Tests.trcBlk none 0 0) 0x1F).unit = .on ∧ berthInJob (Tests.trcBlk none 0 0) 0 = true ∧
    trcRecs (Tests.trcBlk none 0 0) 0 ≠ [] ∧ trcRing (Tests.trcBlk none 0 0) 0 = none ∧
    trcRing (Tests.trcBlk none 0x10000 64) 0 = some (⟨0, 0, 0, 1, 0, 0, 0⟩, 0, 6) ∧
    2 ^ 6 ≤ (BitVec.ofNat 32 (tget 0 (Tests.trcBlk none 0x10000 64).trc.tail 0) - reg (Tests.trcBlk none 0x10000 64) (trcKey 0 0x080)).toNat ∧
    min (2 ^ 6 - (BitVec.ofNat 32 0 - reg (Tests.trcBlk none 0x10000 0) (trcKey 0 0x080)).toNat) (trcRecs (Tests.trcBlk none 0x10000 0) 0).length ≠ 0 :=
  ⟨Tests.writable_of (by decide), by decide, by decide, by decide, Tests.writable_of (by decide), by decide, by decide, Tests.writable_of (by decide),
   by decide, Tests.awake_of (by decide), by decide⟩

/-- blk0 at tick 10 with counter periods of 1. -/
def Tests.countBlk : Block := { Tests.blk0 with tick := 10, regs := [(0x1E0C0, 1), (trcKey 31 0x088, 1)] }

theorem witness_Counters : awake Tests.countBlk ∧ reg Tests.countBlk (trcKey 31 0x088) ≠ 0 ∧
    (tget {} Tests.countBlk.dbg.per 31).origin + (reg Tests.countBlk (trcKey 31 0x088)).toNat ≤ now Tests.countBlk ∧
    reg Tests.countBlk 0x1E0C0 ≠ 0 ∧ Tests.countBlk.dbg.glob.origin + (reg Tests.countBlk 0x1E0C0).toNat ≤ now Tests.countBlk :=
  ⟨Tests.awake_of (by decide), by decide⟩


theorem witness_EveryStep : memSound { blk := Tests.blk0, pending := [.warmReset] } ∧
    ∃ t, step { blk := Tests.blk0, pending := [.warmReset] } = .next t := ⟨rfl, _, rfl⟩

/-! ### Commands and operations against the spec's worked examples -/

/-- The block after a command, where it answers a next state. -/
def Tests.blockAfter (c : Instr) (b : Block) : Option Block :=
  match exec c (Tests.st b) with
  | .next t => some t.blk
  | _ => none

/-- R98: writing 4 to the SET alias of 0x1_001C enables bit 2 of the HOLD page's interrupts and disturbs no other. -/
theorem test_set_alias : (Tests.blockAfter (.setAliasWrite .sealed 0x1001C 4)
    { Tests.blk0 with pages := tset {} Tests.pagesOn 0x10 { unit := .on, irqEn := 2 } }).map (fun b => (pageAt b 0x10).irqEn) = some 6 := by decide +kernel

/-- Chapter 16: byte 17 of line 0x092C8 gives syndrome 0x0E; the log gains word 0 0x000E_05C0 and word 2 0x0110_92C8. -/
theorem test_patrol_log : (Tests.blockAfter (.patrolRead .hold (64 * 0x092C8 + 17) 8 0)
    { Tests.blk0 with hold := { banks := [(73, .owned 5)] } }).map (fun b => b.ecc.log.map fun e => (e.getD 0 0, e.getD 2 0)) =
      some [(0x000E05C0, 0x011092C8)] := by decide +kernel

/-- Chapter 16: syndrome 0x06 in byte 40 of line 0x092C9 poisons the line: words 0x0006_05D0, 0x0000_0049 and 0x0280_92C9. -/
theorem test_patrol_poison : (Tests.blockAfter (.patrolRead .hold (64 * 0x092C9 + 40) 0 6)
    { Tests.blk0 with hold := { banks := [(73, .owned 5)] } }).map (fun b =>
      (b.ecc.log.map (fun e => (e.getD 0 0, e.getD 1 0, e.getD 2 0)), (tagAt b 0x092C9).st)) =
      some ([(0x000605D0, 0x00000049, 0x028092C9)], .poisoned) := by decide +kernel

/-- The block of chapter 15: -469 x 2^-11, 2^-10 at 7 and 3 x 2^-20 at 19, the rest 0. -/
def Tests.narrowBlock : List Nat :=
  [0xBE6A8000] ++ List.replicate 6 0 ++ [0x3A800000] ++ List.replicate 11 0 ++ [0x36400000] ++ List.replicate 12 0

/-- Chapter 15: scale code 0x75, elements 0xF7, 0x38 and 0x02. -/
theorem test_narrow_block : (fun r : Nat × List Nat => (r.1, r.2.getD 0 0, r.2.getD 7 0, r.2.getD 19 0))
    (encodeBlock 1 false none 0 Tests.narrowBlock) = (0x75, 0xF7, 0x38, 0x02) := by decide +kernel

/-- Chapter 15 under NUM.CDC1: scale code 0x74, elements 0xFE, 0x40 and 0x03. -/
theorem test_narrow_cdc1 : (fun r : Nat × List Nat => (r.1, r.2.getD 0 0, r.2.getD 7 0, r.2.getD 19 0))
    (encodeBlock 1 true none 0 Tests.narrowBlock) = (0x74, 0xFE, 0x40, 0x03) := by decide +kernel

/-- Chapter 11: the three signals of the example against VALUE 0xFFFF_FFFF_FFFF_FFF0, then 0x10. -/
theorem test_signals : signalKind { value := 0xFFFFFFFFFFFFFFF0 } 0x10 = .applied ∧ geHalf 0x10 0xFFFFFFFFFFFFFFF8 = true ∧
    signalKind { value := 0x10, state := .signalled } 0xFFFFFFFFFFFFFFFC = .low ∧
    signalKind { value := 0x10, state := .signalled } 0x8000000000000020 = .far := by decide

/-- Chapter 9: BASE 0 and COUNT 228 for berth 5 is DENIED while berth 12 holds banks from 100, and admitted when they are FREE. -/
theorem test_hold_range : holdRangeCheck { Tests.blk0 with hold := { ranges := [(5, (0, 100))], banks := [(100, .owned 12)] } } 0 228 5 = cDenied ∧
    holdRangeCheck { Tests.blk0 with hold := { ranges := [(5, (0, 100))] } } 0 228 5 = cOk := by decide +kernel

/-- The published check value of CRC-32C. -/
theorem test_crc32c : crc32c [0x31, 0x32, 0x33, 0x34, 0x35, 0x36, 0x37, 0x38, 0x39] = 0xE3069283 := by decide +kernel

/-- FIPS 180-4: SHA-384 of the message abc. -/
theorem test_sha384 : beNat (sha384 [0x61, 0x62, 0x63]) =
    0xcb00753f45a35e8bb5a03d699ac65007272c32ab0eded1631a8b605a43ff5bed8086072ba1e7cc2358baeca134c825a7 := by decide +kernel
end

section
/-!
How one register access ends: a command that leaves no work, a write that its gate turns away, and a write that meets an event of
its page in the same handshake (R14, R17, R64, R95, R96, R100).
-/

namespace Sys2Proof.Machine

/-- A command whose meaning acts by f makes the block that f makes, where no work is left. -/
theorem becomes_of_act {c : Instr} {f : Block → Block} {s : State} {b : Block} (hc : exec c s = act f s) (e : f s.blk = b)
    (h : b.work = []) : becomes c s b :=
  hc.trans (act_idle e h)

/-- The same of a meaning that `tst_freeze` would halt, on an awake block. -/
theorem becomes_of_thawed {c : Instr} {f : Block → Block} {s : State} {b : Block} (ha : awake s.blk)
    (hc : exec c s = act (thawed f) s) (e : f s.blk = b) (h : b.work = []) : becomes c s b :=
  becomes_of_act hc ((thawed_awake ha f).trans e) h

theorem writeWord_unsupported {b : Block} {m : Master} {off : Nat} (e : gate (fresh b) m off true = .unsupported) (v : Word) :
    writeWord m off v b = emit .unsupported (fresh b) := by
  simp only [writeWord, e]

theorem badAccess_pass {b : Block} {m : Master} {off p r : Nat} {al : Option Bool} {wr : Bool}
    (e : gate (fresh b) m (off / 4 * 4) wr = .pass p r al) :
    badAccess m off wr b = recordErr (errKey m p) cDenied (errBerthOf m) (fresh b) := by
  simp only [badAccess, e]

theorem writeAccess_word {off : Nat} (h : off % 4 = 0) (m : Master) (val : Nat) :
    writeAccess m off 4 val = writeWord m off (w32 val) := by
  funext b
  simp [writeAccess, h]

theorem writeAccess_bad {off size : Nat} (h4 : ¬(size = 4 ∧ off % 4 = 0)) (h8 : ¬(size = 8 ∧ off % 8 = 0)) (m : Master) (val : Nat) :
    writeAccess m off size val = badAccess m off true := by
  funext b
  simp only [writeAccess, if_neg h4, if_neg h8]

/-- A write that reaches a register of a present page meets the page's event with its own effect taken. -/
theorem withEvent_writable {b : Block} {m : Master} {p r : Nat} (hw : writable b m p r) (hp : present b.build p = true)
    (h : Bool → Block → Block) : withEvent m p r b h = h true (fresh b) := by
  obtain ⟨-, al, e⟩ := hw
  simp only [withEvent, e, fresh_build, hp, if_true]

theorem fresh_work_awake {b : Block} (ha : awake b) : (fresh b).work = [] := ha.2.2

/-- A change of a page brings nothing about in other units. -/
theorem modPage_fresh_work {b : Block} (ha : awake b) (k : Nat) (f : Page → Page) : (modPage k f (fresh b)).work = [] := by
  rw [modPage_work, fresh_work_awake ha]

/-- A recorded error brings nothing about in other units. -/
theorem recordErr_fresh_work {b : Block} (ha : awake b) (k : Nat) (c : Byte) (w : Option Nat) :
    (recordErr k c w (fresh b)).work = [] := by
  rw [recordErr_work, fresh_work_awake ha]

theorem errClear_none {b : Block} {m : Master} {p : Nat} (hw : writable b m p 0x014) :
    errClear m p none b = modPage (errKey m p) clearErr (fresh b) := by
  obtain ⟨-, al, e⟩ := hw
  exact guarded_pass e

/-- The clear acts before the error of the same handshake (R95). -/
theorem errClear_some {b : Block} {m : Master} {p : Nat} (hw : writable b m p 0x014) (hp : present b.build p = true) (e : ErrEvent) :
    errClear m p (some e) b =
      { modPage (errKey m p) (fun x => noteErr (code e.code) (e.berth.map Fin.val) (clearErr x)) (fresh b) with
        errSeen := some (code e.code) } := by
  rw [errClear, withEvent_writable hw hp]
  rfl

/-- The events of the same handshake are set after the clear (R14, R96). -/
theorem irqClear_writable {b : Block} {m : Master} {p : Nat} (hw : writable b m p 0x020) (hp : present b.build p = true) (v ev : Word) :
    irqClear m p v ev b = modPage (errKey m p)
      (fun x => { x with irqRaw := (x.irqRaw &&& ~~~(v &&& 0xFFFFFFFE)) ||| (ev &&& 0xFFFFFFFE) }) (fresh b) :=
  withEvent_writable hw hp _

theorem doRead_tickLo (m : Master) (b : Block) :
    doRead m 0x00 0x050 b = (b.tick.setWidth 32, setLatch m 0 ((b.tick >>> 32).setWidth 32) b) := rfl

/-- A read of GLB_TICK_LO puts the low word on the path and latches the high one for its master (R104). -/
theorem regPop_tickLo {b : Block} {m : Master} (hr : readable b m 0x00 0x050) :
    regPop m 0x00 0x050 4 b =
      emit (.readData (b.tick.setWidth 32)) (setLatch m 0 ((b.tick >>> 32).setWidth 32) (fresh b)) := by
  rw [regPop_readable hr rfl, doRead_tickLo, fresh_tick]

end Sys2Proof.Machine
end

section
/-! The statements of the register window: refused accesses, and the clears that meet new errors and events. -/

open Sys2Proof Sys2Proof.Machine

/-- Settles O5: each of the three ways in which the gate or the size turns a write away leaves the block as the access found it, but for
the record or the reply. -/
theorem refusedWriteRecordsError : Obligations.RefusedWriteRecordsError := by
  intro s m off size val k c ha
  refine ⟨fun h4 hg => ?refuse, fun p r al hn4 hn8 hg => ?size, fun h4 hg => ?unsupported⟩
  case refuse =>
    exact becomes_of_thawed ha rfl (by rw [writeAccess_word h4, writeWord_refuse hg]) (recordErr_fresh_work ha ..)
  case size =>
    exact becomes_of_thawed ha rfl (by rw [writeAccess_bad hn4 hn8, badAccess_pass hg]) (recordErr_fresh_work ha ..)
  case unsupported =>
    exact becomes_of_thawed ha rfl (by rw [writeAccess_word h4, writeWord_unsupported hg]) (fresh_work_awake ha)

/-- Settles O6: a clear that reaches its register is taken in one step of the page with the error or event of its handshake, the clear
first. -/
theorem headerClearsKeepNewEvents : Obligations.HeaderClearsKeepNewEvents := by
  intro s m p v ev e hp
  refine ⟨fun hw => ?clear, fun hw => ?clearWithError, fun hw => ?irqClear, fun hr => ?tickRead⟩
  case clear =>
    exact becomes_of_thawed hw.1 rfl (errClear_none hw) (modPage_fresh_work hw.1 ..)
  case clearWithError =>
    exact becomes_of_thawed hw.1 rfl (errClear_some hw hp e) (by simp only [modPage_fresh_work hw.1])
  case irqClear =>
    exact becomes_of_thawed hw.1 rfl (irqClear_writable hw hp v ev) (modPage_fresh_work hw.1 ..)
  case tickRead =>
    exact becomes_of_act rfl (regPop_tickLo hr) (by rw [emit_work, setLatch_work, fresh_work_awake hr.1])

end

section
/-!
How a command ends that acts while the block runs, and how a change of an input acts: at once, as no sealing holds it back (R52, R56,
R57, R73).
-/

namespace Sys2Proof.Machine

/-- A command's own effect, with what it brings about in other units left to settle. -/
theorem begins_of_act {c : Instr} {f : Block → Block} {s : State} {b : Block} (hc : exec c s = act f s) (e : f s.blk = b) :
    begins c s b :=
  hc.trans (by simp only [act, e, after])

theorem becomes_of_running {c : Instr} {f : Block → Block} {s : State} {b : Block} (ha : awake s.blk)
    (hc : exec c s = act (running f) s) (e : f s.blk = b) (h : b.work = []) : becomes c s b :=
  becomes_of_act hc ((running_awake ha f).trans e) h

/-- An awake block takes more of a changed input than its level. -/
theorem atLevel_awake {b : Block} (h : awake b) (level f : Block → Block) : atLevel level f b = f b := by
  simp [atLevel, h.1, h.2.1]

theorem begins_of_level {c : Instr} {level f : Block → Block} {s : State} {b : Block} (ha : awake s.blk)
    (hc : exec c s = act (atLevel level f) s) (e : f s.blk = b) : begins c s b :=
  begins_of_act hc ((atLevel_awake ha level f).trans e)

theorem becomes_of_level {c : Instr} {level f : Block → Block} {s : State} {b : Block} (ha : awake s.blk)
    (hc : exec c s = act (atLevel level f) s) (e : f s.blk = b) (h : b.work = []) : becomes c s b :=
  becomes_of_act hc ((atLevel_awake ha level f).trans e) h

theorem carriesSealing_idle {b : Block} (h : b.slip.st = .idle) (p : Port) : carriesSealing b p = false := by
  simp [carriesSealing, h]

/-- A port's reset acts at once while nothing is sealed and no reset waits (R57). -/
theorem portDownInput_now {b : Block} (hs : b.slip.st = .idle) (hr : b.slip.resets = []) (p : Port) :
    portDownInput p b = portInput p b := by
  simp [portDownInput, carriesSealing_idle hs, hr]

/-- A port returns at once while no reset waits (R57). -/
theorem portUpInput_now {b : Block} (hr : b.slip.resets = []) (p : Port) : portUpInput p b = portBack p b := by
  simp [portUpInput, hr]

end Sys2Proof.Machine
end

section
/-! What power-on, the release of reset and the test inputs do (R52, R56, R63, R73, R155). -/

namespace Sys2Proof.Machine

/-- The word under way when power is lost is a matter of OTP and of one draw. -/
theorem tornWord_frame (b : Block) : ∃ o d, tornWord b = { b with otp := o, draws := d } := by
  simp only [tornWord]
  split
  · split <;> exact ⟨_, _, rfl⟩
  · exact ⟨_, _, rfl⟩

@[simp] theorem tornWord_build (b : Block) : (tornWord b).build = b.build := by
  obtain ⟨_, _, e⟩ := tornWord_frame b; rw [e]

/-- With no word under way nothing is torn. -/
theorem tornWord_none {b : Block} (h : b.otpRuns = []) : tornWord b = b := by
  simp only [tornWord, h]

/-- The word under way may gain bits and loses none. -/
theorem otpGrows_tornWord (b : Block) : otpGrows b (tornWord b) := (keeps_tornWord (Keeps.refl b)).otp

theorem release_starts {b : Block} (hp : b.phase = .inReset) (hs : b.slip.st = .idle) (hw : b.slip.warm = false) :
    release b = { startRead b with phase := .starting, porN := true } := by
  simp [release, start, hp, hs, hw]

/-- The accepting states are a matter of the life cycle, not of the pins. -/
@[simp] theorem testState_pins (b : Block) (p : Pins) : testState { b with pins := p } = testState b := rfl

/-- On a block that runs, a rise where the state accepts none is an entry attempt (R73). -/
theorem testInput_running {b : Block} (hp : b.phase = .running) (t : TestPin) (level : Bool) :
    testInput t level b =
      if level = true ∧ pinOf t b.pins = false ∧ testState b = false then
        recordErr 0x00 cLifecycle none { b with pins := setPin t level b.pins }
      else { b with pins := setPin t level b.pins } := by
  unfold testInput testEntry
  rw [testState_pins]
  exact if_congr (by simp [hp, and_assoc]) rfl rfl

/-- A test input brings nothing about in other units. -/
theorem testInput_work (t : TestPin) (level : Bool) (b : Block) : (testInput t level b).work = b.work := by
  simp only [testInput, testEntry]
  split
  · rw [recordErr_work]
  · rfl

end Sys2Proof.Machine
end

section
/-! The statements of the resets and of the test inputs. -/

open Sys2Proof Sys2Proof.Machine

/-- Settles O9: a power-on reset builds the block anew from its input levels and OTP, where the torn word may have gained bits. -/
theorem powerOnResetKeepsOnlyOtp : Obligations.PowerOnResetKeepsOnlyOtp := by
  rintro s b rfl
  have hnone : s.blk.otpRuns = [] → (inputLevels (tornWord s.blk)).otp = s.blk.otp := fun h => by rw [tornWord_none h]; rfl
  refine ⟨becomes_of_act rfl rfl rfl, otpGrows_tornWord s.blk, hnone, tornWord_build s.blk, ?_⟩
  and_intros <;> rfl

/-- Settles O11: with no warm reset waiting and nothing sealed, the release starts the ROM. -/
theorem resetReleaseStartsRom : Obligations.ResetReleaseStartsRom :=
  fun _ hp hs hw => begins_of_act rfl (release_starts hp hs hw)

/-- Settles O14: what a test input does on a running block, which leaves nothing to settle. -/
theorem testInputsOnlyInTestStates : Obligations.TestInputsOnlyInTestStates := by
  intro s t level hp hw
  have e := testInput_running hp t level
  exact becomes_of_act rfl e (by rw [← e, testInput_work, hw])

end

section
/-! Engine A's ports over a reset (R58, R264). -/

namespace Sys2Proof.Machine

theorem modPageIf_frame (c : Prop) [Decidable c] (k : Nat) (f : Page → Page) (b : Block) :
    ∃ ps os, (if c then modPage k f b else b) = { b with pages := ps, out := os } := by
  split
  · exact modPage_frame k f b
  · exact ⟨_, _, rfl⟩

/-- A port that its reset input holds, its generation moved on. -/
def APort.held (p : APort) : APort := { p with inRst := true, gen := p.gen + 1 }

theorem APort.held_ne (p : APort) : p.held ≠ {} := fun h => Bool.noConfusion (congrArg APort.inRst h)

/-- A port's reset is a matter of engine A, where each read of the port is to be sent again, of the dead feet and of the engine's page. -/
theorem portReset_frame (k : Nat) (b : Block) : ∃ rs ws v ps os,
    portReset k b = { b with mema := { b.mema with ports := tmod {} b.mema.ports k APort.held, reads := rs, writes := ws },
                             recv := v, pages := ps, out := os } ∧ ∀ x ∈ rs, x.port = k → x.sent = false := by
  unfold portReset
  extract_lets up b1 b2 b3 v b4
  obtain ⟨_, _, e2⟩ := modPageIf_frame (k = 0) 0x12 (fun p => { p with gen := (portAt b1 0).gen }) b1
  obtain ⟨ps, os, e4⟩ := raiseIf_frame (up = true) 0x12 5 b4
  refine ⟨b4.mema.reads, b4.mema.writes, b4.recv, ps, os, ?_, ?reads⟩
  · rw [e4]
    simp only [b4, b3, show b2 = _ from e2]
    rfl
  case reads =>
    intro y hy hk
    obtain ⟨x, -, rfl⟩ := List.mem_map.mp hy
    split at hk <;> simp_all

/-- The same of the reset that a port's input brings, with its record (R420). -/
theorem enginePortDown_frame (k : Nat) (b : Block) : ∃ rs ws v ps os,
    enginePortDown k b = { b with mema := { b.mema with ports := tmod {} b.mema.ports k APort.held, reads := rs, writes := ws },
                                  recv := v, pages := ps, out := os } ∧ ∀ x ∈ rs, x.port = k → x.sent = false := by
  unfold enginePortDown
  generalize ({ kind := 7, code := Config.recordCode 7, inst := k, unit := 0x12, gen := (portAt b k).gen + 1 } : Rec) = r
  obtain ⟨_, _, _, e⟩ := record_frame r b
  obtain ⟨rs, ws, v, ps, os, e', h⟩ := portReset_frame k (record r b)
  exact ⟨rs, ws, v, ps, os, by rw [e', e], h⟩

theorem portAt_enginePortDown_self (k : Nat) (b : Block) : portAt (enginePortDown k b) k = (portAt b k).held := by
  obtain ⟨_, _, _, _, _, e, -⟩ := enginePortDown_frame k b
  rw [e]
  exact tget_tset_self _ _ _ (APort.held_ne _)

theorem portAt_enginePortDown_ne {k j : Nat} (h : j ≠ k) (b : Block) : portAt (enginePortDown k b) j = portAt b j := by
  obtain ⟨_, _, _, _, _, e, -⟩ := enginePortDown_frame k b
  rw [e]
  exact tget_tset_ne _ _ _ h

end Sys2Proof.Machine
end

section
/-! Port resets and their return, row by row (R47, R58, R264, R323). -/

open Sys2Proof Sys2Proof.Machine

/-- While no sealing is under way each port's reset input acts when it asserts (R47, R57). -/
theorem portReset_acts_now : portResets := by
  intro s ha hs hr
  have now {p : Port} {b : Block} (e : portInput p s.blk = b) : begins (.portReset p) s b :=
    begins_of_level ha rfl ((portDownInput_now hs hr p).trans e)
  refine ⟨fun n hn hup => now ?landing, fun k hk hh hup => now ?engineA, fun a hk hup => now ?attach, fun hup => now ?hif,
    fun n hn hup => begins_of_level ha rfl ?phy, fun k hup => becomes_of_level ha rfl ?held ha.2.2⟩
  case landing => exact if_pos ⟨hn, by simp [hup]⟩
  case engineA => exact if_pos ⟨hk, hh, by simp [hup]⟩
  case attach => exact if_pos ⟨hk, by simp [hup]⟩
  case hif => exact if_pos hup
  case phy => exact if_pos ⟨hn, hup⟩
  case held => exact (portDownInput_now hs hr _).trans (if_neg fun h => by simp [hup] at h)

/-- What the reset of an engine A port writes, read off its frame (R58, R264). -/
theorem enginePortDown_moves_generation : enginePortResetMovesGeneration := by
  intro b k
  obtain ⟨rs, _, _, _, _, e, hrs⟩ := enginePortDown_frame k b
  refine ⟨?_, ?_, fun j h => portAt_enginePortDown_ne h b, ?_, ?_, ?_⟩
  · rw [portAt_enginePortDown_self]; rfl
  · rw [portAt_enginePortDown_self]; rfl
  · rw [e]; exact hrs
  · rw [e]
  · rw [e]

/-- While no reset waits each port's release acts when its input deasserts (R57, R264). -/
theorem portResetRelease_acts_now : portResetReleases := by
  intro s ha hr
  have now {p : Port} {b : Block} (e : portBack p s.blk = b) : portUpInput p s.blk = b := (portUpInput_now hr p).trans e
  refine ⟨fun n => becomes_of_level ha rfl (now rfl) ha.2.2, fun a hup => becomes_of_level ha rfl (now (if_pos hup)) ?_,
    fun k hh => begins_of_level ha rfl (now (if_neg hh)), fun hup => begins_of_level ha rfl (now (if_neg ?_))⟩
  · rw [raise_work]; exact ha.2.2
  · simp [hup]

/-- Settles O13: while no sealing is under way each port's input acts at once; the reset of an engine A port is written out by its frame. -/
theorem portsResetAndReturn : Obligations.PortsResetAndReturn :=
  ⟨portReset_acts_now, enginePortDown_moves_generation, portResetRelease_acts_now⟩

end

section
/-!
What a page signals, and a fabric request that no region of its berth admits (R49, R95, R105, R240).
-/

namespace Sys2Proof.Machine

/-- b put nothing on the ports after a but the interrupts of the shared page k. -/
def SignalsOnly (k : Nat) (a b : Block) : Prop := ∃ ms, (∀ o ∈ ms, o = Output.msix none ∨ o = Output.coreIrq k) ∧ b.out = a.out ++ ms

theorem SignalsOnly.refl (k : Nat) (a : Block) : SignalsOnly k a a := ⟨[], by simp, by simp⟩

theorem SignalsOnly.trans {k : Nat} {a b c : Block} (h1 : SignalsOnly k a b) (h2 : SignalsOnly k b c) : SignalsOnly k a c := by
  obtain ⟨ms, h, e⟩ := h1
  obtain ⟨ns, h', e'⟩ := h2
  exact ⟨ms ++ ns, fun o ho => (List.mem_append.mp ho).elim (h o) (h' o), by rw [e', e, List.append_assoc]⟩

theorem SignalsOnly.emit {k : Nat} {o : Output} (h : o = .msix none ∨ o = .coreIrq k) (a : Block) : SignalsOnly k a (emit o a) :=
  ⟨[o], by simpa using h, rfl⟩

/-- What was put on the ports is all that counts. -/
theorem SignalsOnly.of_out {k : Nat} {a b a' b' : Block} (h : SignalsOnly k a b) (ha : a'.out = a.out) (hb : b'.out = b.out) :
    SignalsOnly k a' b' := by
  obtain ⟨ms, hms, e⟩ := h
  exact ⟨ms, hms, by rw [ha, hb, e]⟩

theorem SignalsOnly.ite {k : Nat} {a b : Block} {p : Prop} [Decidable p] (h : SignalsOnly k a b) : SignalsOnly k a (if p then b else a) := by
  split
  · exact h
  · exact .refl k a

/-- A page that no window shows signals the cores and the HIF. -/
theorem signalIrq_signals {k : Nat} (h : windowOf k = none) (b : Block) : SignalsOnly k b (signalIrq k b) := by
  simp only [signalIrq, h]
  exact (SignalsOnly.ite (.emit (.inr rfl) b)).trans (.ite (.emit (.inl rfl) _))

theorem setPage_signals {k : Nat} (h : windowOf k = none) (p : Page) (b : Block) : SignalsOnly k b (setPage k p b) := by
  simp only [setPage]
  split
  · exact (signalIrq_signals h { b with pages := tset {} b.pages k p }).of_out rfl rfl
  · exact .refl k b

theorem modPage_signals {k : Nat} (h : windowOf k = none) (hl : ¬(0x40 ≤ k ∧ k < 0x80)) (f : Page → Page) (b : Block) :
    SignalsOnly k b (modPage k f b) := by
  simp only [modPage, hl, and_false, if_false]
  exact setPage_signals h _ b

theorem raise_signals {k : Nat} (h : windowOf k = none) (hl : ¬(0x40 ≤ k ∧ k < 0x80)) (i : Nat) (b : Block) :
    SignalsOnly k b (raise k i b) :=
  modPage_signals h hl _ b

theorem recordErr_signals {k : Nat} (h : windowOf k = none) (hl : ¬(0x40 ≤ k ∧ k < 0x80)) (c : Byte) (w : Option Nat) (b : Block) :
    SignalsOnly k b (recordErr k c w b) :=
  (modPage_signals h hl _ b).of_out rfl rfl

theorem noteErr_errValid (c : Byte) (w : Option Nat) (p : Page) : (noteErr c w p).errValid = true := by
  unfold noteErr; split <;> simp_all

/-- The first error keeps its CODE (R95). -/
theorem noteErr_errCode (c : Byte) (w : Option Nat) (p : Page) : (noteErr c w p).errCode = if p.errValid then p.errCode else c := by
  unfold noteErr; split <;> rfl

theorem page_ne_of_errValid {p : Page} (h : p.errValid = true) : p ≠ {} := fun e => by rw [e] at h; cases h

theorem pageAt_recordErr_self (k : Nat) (c : Byte) (w : Option Nat) (b : Block) :
    pageAt (recordErr k c w b) k = noteErr c w (pageAt b k) :=
  pageAt_modPage_self k _ b (page_ne_of_errValid (noteErr_errValid c w _))

/-- A page that records an error reads as it did, but for the event raised. -/
theorem pageAt_raise_self {k : Nat} {b : Block} (h : (pageAt b k).errValid = true) (i : Nat) :
    pageAt (raise k i b) k = { pageAt b k with irqRaw := setBitW (pageAt b k).irqRaw i } :=
  pageAt_modPage_self k _ b (page_ne_of_errValid h)

/-- A denied request reads back in the MEMS page: its error beside what the page held, and its event. -/
theorem pageAt_denyMems (w : Nat) (b : Block) : pageAt (denyMems w b) 0x11 =
    { noteErr cDenied (some w) (pageAt b 0x11) with
      irqRaw := setBitW (noteErr cDenied (some w) (pageAt b 0x11)).irqRaw 1 } := by
  have e := pageAt_recordErr_self 0x11 cDenied (some w) (modMems (fun m => { m with deny := inc32 m.deny }) b)
  rw [denyMems, pageAt_raise_self (by rw [e]; exact noteErr_errValid ..), e]
  rfl

/-- A denied request is counted, shown in pages and signalled. -/
theorem denyMems_frame (w : Nat) (b : Block) : ∃ ps os es,
    denyMems w b = { b with mems := { b.mems with deny := inc32 b.mems.deny }, pages := ps, out := os, errSeen := es } := by
  unfold denyMems
  obtain ⟨_, _, e⟩ := modPage_frame 0x11 (noteErr cDenied (some w)) (modMems (fun m => { m with deny := inc32 m.deny }) b)
  obtain ⟨_, _, e'⟩ := raise_frame 0x11 1 (recordErr 0x11 cDenied (some w) (modMems (fun m => { m with deny := inc32 m.deny }) b))
  exact ⟨_, _, _, by rw [e', recordErr, e]; rfl⟩

theorem denyMems_signals (w : Nat) (b : Block) : SignalsOnly 0x11 b (denyMems w b) := by
  obtain ⟨hw, hl⟩ : windowOf 0x11 = none ∧ ¬(0x40 ≤ 0x11 ∧ 0x11 < 0x80) := by decide
  have hcount : SignalsOnly 0x11 b (modMems (fun m => { m with deny := inc32 m.deny }) b) := (SignalsOnly.refl 0x11 b).of_out rfl rfl
  exact hcount.trans ((recordErr_signals hw hl cDenied (some w) _).trans (raise_signals hw hl 1 _))

/-- An address outside every region of the berth is not admitted (R240). -/
theorem admitted_outside {b : Block} {g addr w : Nat}
    (h : ∀ e < 32, inSrgn (srgnAt b (32 * g + e)) addr = true → srgnBerth (srgnAt b (32 * g + e)) ≠ w) (fenced : Bool) :
    admitted b g addr w fenced = false := by
  have hno : ((List.range 32).any fun e => inSrgn (srgnAt b (32 * g + e)) addr && srgnBerth (srgnAt b (32 * g + e)) = w) = false := by
    simpa using h
  simp only [admitted, hno, Bool.and_false]

/-- The zeros and poison that a read of the fabric gets where it is not forwarded; a write gets no answer (R49). -/
def deniedAnswer (g k tid : Nat) (d : Option Bytes) : List Output :=
  if d.isSome then [] else [.fabricRsp g k tid (List.replicate 64 0) true]

/-- A fabric request that is not admitted is denied and answered, not forwarded (R49). -/
theorem fabricRequest_denied {b : Block} {g addr w : Nat} (hs : b.slip.st = .idle) (h : admitted b g addr w true = false)
    (k tid : Nat) (d : Option Bytes) :
    fabricRequest g k addr w tid d b = { denyMems w b with out := (denyMems w b).out ++ deniedAnswer g k tid d } := by
  cases d <;> simp [fabricRequest, hs, h, emit, deniedAnswer]

end Sys2Proof.Machine
end

section
/-! The statement of the fabric request outside its berth. -/

open Sys2Proof Sys2Proof.Machine

/-- Settles O36: no region admits the address, so the request is denied; what a denial changes and signals is said by its own lemmas. -/
theorem fabricAddressOutsideItsBerth : Obligations.FabricAddressOutsideItsBerth := by
  intro s g slice addr w tid d ha hs hout
  have e := fabricRequest_denied hs (admitted_outside hout true) slice tid.toNat d
  obtain ⟨ps, os, es, hframe⟩ := denyMems_frame w s.blk
  obtain ⟨ms, hms, hsent⟩ := denyMems_signals w s.blk
  refine ⟨_, ms, becomes_of_running ha rfl e ?work, hms, ?out, ?valid, ?code, ?_, ?_, ?_, ?_⟩
  case work => rw [hframe]; exact ha.2.2
  case out => rw [hsent]; rfl
  case valid => exact (congrArg Page.errValid (pageAt_denyMems w s.blk)).trans (noteErr_errValid ..)
  case code => exact (congrArg Page.errCode (pageAt_denyMems w s.blk)).trans (noteErr_errCode ..)
  all_goals rw [hframe]

end

section
/-! The SPDM responder outside a session (R68, R143, R153, R449). -/

namespace Sys2Proof.Machine

@[simp] theorem answer_work (t : Transport) (m : SpdmMsg) (b : Block) : (answer t m b).work = b.work := by
  simp only [answer, i3cCall, emit_work]
  split <;> rfl

/-- A chain costs draws and nothing else. -/
theorem chainOf_frame (k : Nat) (b : Block) : ∃ n, (chainOf k b).2 = { b with draws := n } := by
  simp only [chainOf]
  split
  · exact ⟨_, rfl⟩
  · split <;> exact ⟨_, rfl⟩

@[simp] theorem chainOf_work (k : Nat) (b : Block) : (chainOf k b).2.work = b.work := by
  obtain ⟨_, e⟩ := chainOf_frame k b; rw [e]

/-- Where the responder stands and no move is resumed it takes every request (R143, R153). -/
theorem spdm_stands {b : Block} (hs : secureState b = true) (hr : resuming b = false) (t : Transport) (f : Block → Block) :
    spdm t f b = f b := by
  simp [spdm, hs, hr]

/-- A request that the standing responder answers, on an awake block. -/
theorem becomes_of_spdm {c : Instr} {t : Transport} {f : Block → Block} {s : State} {b : Block} (ha : awake s.blk)
    (hs : secureState s.blk = true) (hr : resuming s.blk = false) (hc : exec c s = act (running (spdm t f)) s) (e : f s.blk = b)
    (h : b.work = []) : becomes c s b :=
  becomes_of_running ha hc ((spdm_stands hs hr t f).trans e) h

/-- The lowest free session is the one that KEY_EXCHANGE finds. -/
theorem find_freeSession {b : Block} {i : Nat} (hi : i < 16) (hfree : (sessionAt b i).up = false)
    (hbelow : ∀ j, j < i → (sessionAt b j).up = true) : ((List.range 16).find? fun i => !(sessionAt b i).up) = some i := by
  rw [List.find?_range_eq_some]
  exact ⟨by simp [hfree], by simpa using hi, fun j hj => by simp [hbelow j hj]⟩

theorem find_noSession {b : Block} (h : ∀ i, i < 16 → (sessionAt b i).up = true) :
    ((List.range 16).find? fun i => !(sessionAt b i).up) = none := by
  simpa using h

section
variable {b : Block} (hs : secureState b = true) (hr : resuming b = false) (t : Transport) {k : Nat} (eid : Byte) (q : BitVec 16)
include hs hr

theorem keyExchange_empty (hk : slotPopulated b k = false) (point : Bytes) : keyExchange t eid k q point b = answer t .invalid b := by
  simp [keyExchange, spdm_stands hs hr, hk]

theorem keyExchange_busy (hk : slotPopulated b k = true) (h : ∀ i, i < 16 → (sessionAt b i).up = true) (point : Bytes) :
    keyExchange t eid k q point b = answer t .busy b := by
  simp only [keyExchange, spdm_stands hs hr, hk, find_noSession h, Bool.not_true, Bool.false_eq_true, if_false]

theorem keyExchange_offCurve {i : Nat} (hk : slotPopulated b k = true) (hi : i < 16) (hfree : (sessionAt b i).up = false)
    (hbelow : ∀ j, j < i → (sessionAt b j).up = true) {point : Bytes} (hp : onCurve point = false) :
    keyExchange t eid k q point b = answer t .invalid b := by
  simp only [keyExchange, spdm_stands hs hr, hk, find_freeSession hi hfree hbelow, hp, Bool.not_true, Bool.not_false,
    Bool.false_eq_true, if_false, if_true]

/-- The lowest free session opens on the draws of its identifier and its key share (R68). -/
theorem keyExchange_opens {i d : Nat} {c : Block} {sid : BitVec 32} (hk : slotPopulated b k = true) (hi : i < 16)
    (hfree : (sessionAt b i).up = false) (hbelow : ∀ j, j < i → (sessionAt b j).up = true)
    (hsid : sid = (draw b).1.setWidth 16 ++ q) (hc : c = (draw (draw b).2).2)
    (hd : d = (draw (draw b).2).1.toNat % (p384N - 1) + 1) {point : Bytes} (hp : onCurve point = true) :
    keyExchange t eid k q point b = answer t (.keyExchangeRsp i sid (publicOf d) (sign c).1) (raise 0x1D 1 { (sign c).2 with
      sess := tset {} b.sess i { up := true, sid := sid, via := t, eid := if t = .doe then 0 else eid, slot := k,
                                 secret := sharedSecret d point } }) := by
  subst hsid hc hd
  simp only [keyExchange, spdm_stands hs hr, hk, find_freeSession hi hfree hbelow, hp, Bool.not_true, Bool.false_eq_true, if_false]
  rfl

end

end Sys2Proof.Machine
end

section
/-! The statement of the responder outside a session. -/

open Sys2Proof Sys2Proof.Machine

/-- Settles O52: the standing responder's answer to each request, none of which leaves work to other units. -/
theorem responderAnswers : Obligations.ResponderAnswers := by
  intro s t k n q eid point ha hs hr
  have hw (m : SpdmMsg) : (answer t m s.blk).work = [] := by rw [answer_work, ha.2.2]
  have replies {c : Instr} {f : Block → Block} {m : SpdmMsg} (hc : exec c s = act (running (spdm t f)) s)
      (e : f s.blk = answer t m s.blk) : becomes c s (answer t m s.blk) := becomes_of_spdm ha hs hr hc e (hw m)
  refine ⟨replies rfl rfl, replies rfl rfl, fun offer => replies rfl rfl, replies rfl rfl, ?noChain, ?chain, ?busy, ?exchange⟩
  case noChain =>
    intro hk
    exact ⟨replies rfl (if_neg (by simp [hk])), replies rfl (if_neg (by simp [hk])),
      becomes_of_running ha rfl (keyExchange_empty hs hr t eid q hk point) (hw _)⟩
  case chain =>
    intro hk
    refine ⟨becomes_of_spdm ha hs hr rfl (if_pos hk) ?_, becomes_of_spdm ha hs hr rfl (if_pos hk) ?_⟩
    · rw [answer_work, chainOf_work, ha.2.2]
    · rw [answer_work]; exact ha.2.2
  case busy =>
    intro hk hup
    exact becomes_of_running ha rfl (keyExchange_busy hs hr t eid q hk hup point) (hw _)
  case exchange =>
    intro i d b sid hk hi hfree hbelow hsid hb hd
    refine ⟨fun hp => becomes_of_running ha rfl (keyExchange_opens hs hr t eid q hk hi hfree hbelow hsid hb hd hp) ?_,
      fun hp => becomes_of_running ha rfl (keyExchange_offCurve hs hr t eid q hk hi hfree hbelow hp) (hw _)⟩
    rw [answer_work, raise_work, hb]
    exact ha.2.2

end

section
/-!
The interrupt enables of a page, written plainly and through the aliases of their register (R96, R98, R99).
-/

namespace Sys2Proof.Machine

/-- PAGE_IRQ_EN is a control register of every kind of page, and every bit of it is RW. -/
theorem regRow_irqEn (kind : Nat) : regRow kind 0x01C = some ⟨kind, 0x01C, 1, 7, headerWr kind, all32⟩ := rfl

theorem regValue_irqEn (b : Block) (m : Master) (p : Nat) : regValue b m p 0x01C = (pageAt b (errKey m p)).irqEn := rfl

theorem doWrite_irqEn (m : Master) (p : Nat) (v : Word) (b : Block) :
    doWrite m p 0x01C v b = modPage (errKey m p) (fun x => { x with irqEn := v }) b := rfl

/-- The mask of a register whose every bit is RW hides nothing. -/
theorem and_all32 (v : Word) : v &&& w32 all32 = v := BitVec.and_allOnes

/-- Where every bit is RW the SET alias sets the bits written 1 (R98). -/
theorem aliasValue_set (cur v : Word) : aliasValue true (w32 all32) cur v = cur ||| v := by
  simp only [aliasValue, and_all32, if_true]

/-- Where every bit is RW the CLR alias clears the bits written 1 (R98). -/
theorem aliasValue_clear (cur v : Word) : aliasValue false (w32 all32) cur v = cur &&& ~~~v := by
  simp only [aliasValue, and_all32, Bool.false_eq_true, if_false]

/-- A write at an alias of PAGE_IRQ_EN leaves what the alias makes of the enables as they stand. -/
theorem writeWord_irqEn_alias {b : Block} {m : Master} {off p : Nat} {set : Bool}
    (e : gate (fresh b) m off true = .pass p 0x01C (some set)) (v : Word) :
    writeWord m off v b =
      modPage (errKey m p) (fun x => { x with irqEn := aliasValue set (w32 all32) (pageAt b (errKey m p)).irqEn v }) (fresh b) := by
  rw [writeWord_alias e, regRow_irqEn, regValue_irqEn, doWrite_irqEn]
  rfl

end Sys2Proof.Machine
end

section
/-!
What the ROM's enables change: each page with a present unit is ON, and the cores are kicked (R52, R92).
-/

namespace Sys2Proof.Machine

/-- A page whose unit the ROM has enabled. -/
def Page.enabled (x : Page) : Page := { x with unit := .on, ctrl := 1, lastStatus := cOk }

theorem Page.enabled_ne (x : Page) : x.enabled ≠ {} := fun h => UnitState.noConfusion (congrArg Page.unit h)

@[simp] theorem Page.enabled_enabled (x : Page) : x.enabled.enabled = x.enabled := rfl

/-- The enable of a unit signals nothing: the page's events and their enables stay. -/
theorem modPage_enabled (p : Nat) (b : Block) :
    modPage p Page.enabled b = { b with pages := tset {} b.pages p (pageAt b p).enabled } := by
  have hpending : irqPending (pageAt b p).enabled = irqPending (pageAt b p) := rfl
  exact modPage_quiet p _ b (by rw [hpending, Bool.and_not_self])

theorem pageAt_modPage_enabled (p q : Nat) (b : Block) :
    pageAt (modPage p Page.enabled b) q = if q = p then (pageAt b q).enabled else pageAt b q := by
  split
  case isTrue h => rw [h, pageAt_modPage_self _ _ _ (Page.enabled_ne _)]
  case isFalse h => rw [modPage_enabled]; exact tget_tset_ne _ _ _ h

/-- Enabling a list of pages is a matter of those pages alone. -/
theorem enablePages_frame (l : List Nat) (b : Block) :
    ∃ ps, l.foldl (fun b p => modPage p Page.enabled b) b = { b with pages := ps } ∧
      ∀ q, tget {} ps q = if q ∈ l then (pageAt b q).enabled else pageAt b q := by
  induction l generalizing b with
  | nil => exact ⟨b.pages, rfl, fun q => (if_neg List.not_mem_nil).symm⟩
  | cons p l ih =>
    obtain ⟨ps, e, hps⟩ := ih (modPage p Page.enabled b)
    refine ⟨ps, e.trans (by rw [modPage_enabled]), fun q => ?_⟩
    rw [hps, pageAt_modPage_enabled]
    by_cases hq : q = p
    · simp [hq]
    · simp [hq]

/-- Changing cores in turn is a matter of RECV alone. -/
theorem foldl_modCore_frame (f : Block → Core → Core) (l : List Nat) (b : Block) :
    ∃ v, l.foldl (fun b c => modCore c (f b) b) b = { b with recv := v } := by
  induction l generalizing b with
  | nil => exact ⟨b.recv, rfl⟩
  | cons c l ih => exact ih (modCore c (f b) b)

/-- The ROM's enables change the pages of present units and RECV. -/
theorem enableUnits_frame (b : Block) : ∃ ps v, enableUnits b = { b with pages := ps, recv := v } ∧
    ∀ p ∈ mapPages, hasEnable p = true → present b.build p = true → tget {} ps p = (pageAt b p).enabled := by
  obtain ⟨ps, e, hps⟩ := enablePages_frame (mapPages.filter fun p => hasEnable p && present b.build p) b
  obtain ⟨v, e'⟩ := foldl_modCore_frame (fun b x => { x with kick := now b }) (List.range 4) { b with pages := ps }
  refine ⟨ps, v, ?_, fun p hp he hb => ?_⟩
  · exact (congrArg ((List.range 4).foldl fun b c => modCore c (fun x => { x with kick := now b }) b) e).trans e'
  · rw [hps, if_pos (List.mem_filter.mpr ⟨hp, by rw [he, hb]; rfl⟩)]

@[simp] theorem enableUnits_pins (b : Block) : (enableUnits b).pins = b.pins := by
  obtain ⟨_, _, e, -⟩ := enableUnits_frame b; rw [e]

/-- `tst_freeze` halts only a block that runs (R73). -/
theorem frozen_starting {b : Block} (h : b.phase = .starting) : frozen b = false := by
  simp [frozen, h]

/-- The end of the ROM's start publishes the window with the units enabled; then the test inputs count and a move goes on (R52). -/
theorem startDone_starting {b : Block} (h : b.phase = .starting) (follow : OtpFollow) :
    startDone follow b = resumeMove follow (testEntry (b.pins.tstScanEn || b.pins.tstFreeze || b.pins.tstMbist)
      (enableUnits { b with phase := .running, pins := { b.pins with cdcReady := true } })) := by
  rw [startDone, if_neg (not_not_intro h)]
  simp only [enableUnits_pins]

end Sys2Proof.Machine
end

section
/-! The statements of the interrupt enables and of the start's end. -/

open Sys2Proof Sys2Proof.Machine

/-- Settles O12: the start's end is written out by its own lemma, and the block it publishes is read off the frame of the ROM's enables. -/
theorem startCompleteEnablesEveryUnit : Obligations.StartCompleteEnablesEveryUnit := by
  rintro s b hphase rfl
  refine ⟨begins_of_act rfl ?publishes, ?_⟩
  case publishes => rw [thawed, frozen_starting hphase, startDone_starting hphase]; rfl
  obtain ⟨ps, v, e, hps⟩ := enableUnits_frame { s.blk with phase := .running, pins := { s.blk.pins with cdcReady := true } }
  rw [e]
  refine ⟨rfl, rfl, fun p hp he hb => ?units, rfl, rfl, rfl, rfl, rfl⟩
  case units =>
    have hpage : tget {} ps p = (pageAt s.blk p).enabled := hps p hp he hb
    rw [pageAt, hpage]
    exact ⟨rfl, rfl, rfl⟩

/-- Settles O4: a plain write is the register's own write, and each alias writes what it makes of the enables as they stand. -/
theorem aliasWritesSetAndClear : Obligations.AliasWritesSetAndClear := by
  intro s m p off v ha h4
  refine ⟨fun hg => ?plain, fun hg => ?set, fun hg => ?clear⟩
  case plain =>
    have e : writeAccess m off 4 v.toNat s.blk = modPage (errKey m p) (fun x => { x with irqEn := v }) (fresh s.blk) := by
      rw [writeAccess_word h4, w32, BitVec.ofNat_toNat, BitVec.setWidth_eq, writeWord_pass hg, doWrite_irqEn]
    exact becomes_of_thawed ha rfl e (modPage_fresh_work ha ..)
  case set =>
    exact becomes_of_thawed ha rfl (by rw [writeWord_irqEn_alias hg, aliasValue_set]) (modPage_fresh_work ha ..)
  case clear =>
    exact becomes_of_thawed ha rfl (by rw [writeWord_irqEn_alias hg, aliasValue_clear]) (modPage_fresh_work ha ..)

end

section
/-!
What every step keeps: each command's meaning is one of the kept operations under its guards (R113, R63).
-/

namespace Sys2Proof.Machine

/-- A command whose effect is an operation that keeps the Hold's form and OTP's bits keeps them, with what it brings about. -/
theorem keeps_of_act {f : Block → Block} {s t : State} (e : act f s = .next t) (hf : ∀ {a b}, Keeps a b → Keeps a (f b)) :
    Keeps s.blk t.blk :=
  keeps_act (fun _ => hf (.refl _)) e

theorem keeps_of_thawed {f : Block → Block} {s t : State} (e : act (thawed f) s = .next t)
    (hf : ∀ {a b}, Keeps a b → Keeps a (f b)) : Keeps s.blk t.blk :=
  keeps_of_act e (keeps_thawed f fun _ => hf)

theorem keeps_of_running {f : Block → Block} {s t : State} (e : act (running f) s = .next t)
    (hf : ∀ {a b}, Keeps a b → Keeps a (f b)) : Keeps s.blk t.blk :=
  keeps_of_act e (keeps_running f fun _ => hf)

theorem keeps_of_powered {f : Block → Block} {s t : State} (e : act (powered f) s = .next t)
    (hf : ∀ {a b}, Keeps a b → Keeps a (f b)) : Keeps s.blk t.blk :=
  keeps_of_act e (keeps_powered f fun _ => hf)

theorem keeps_of_level {level f : Block → Block} {s t : State} (e : act (atLevel level f) s = .next t)
    (hl : ∀ {a b}, Keeps a b → Keeps a (level b)) (hf : ∀ {a b}, Keeps a b → Keeps a (f b)) : Keeps s.blk t.blk :=
  keeps_of_act e (keeps_atLevel level f (fun _ => hl) fun _ => hf)

/-- Every command keeps the Hold's form and OTP's bits. -/
theorem keeps_exec (c : Instr) {s t : State} (e : exec c s = .next t) : Keeps s.blk t.blk := by
  cases c with
  | registerWrite => exact keeps_of_thawed e (keeps_writeAccess _ _ _ _)
  | setAliasWrite | clrAliasWrite => exact keeps_of_thawed e (keeps_writeWord _ _ _)
  | pageErrClear => exact keeps_of_thawed e (keeps_errClear _ _ _)
  | pageIrqClrWrite => exact keeps_of_thawed e (keeps_irqClear _ _ _ _)
  | glbTickLoRead | lcsNonceRead | gseCplPop | eccLogPop | recvRecPop | dbgMemDataRead => exact keeps_of_act e (keeps_regPop _ _ _ _)
  | unitEnable | unitDrain | unitSquash => exact keeps_of_act e (keeps_ctrlCmd _ _ _)
  | unitDrainComplete => exact keeps_of_running e (keeps_drainComplete _)
  | unitScrubComplete => exact keeps_of_running e (keeps_scrubUnitDone _)
  | powerOnReset => exact keeps_of_act e keeps_powerOn
  | warmReset => exact keeps_of_act e keeps_warmReset
  | resetRelease => exact keeps_of_act e keeps_release
  | startComplete => exact keeps_of_thawed e (keeps_startDone _ (fun _ _ => keeps_otpFollow _))
  | portReset => exact keeps_of_level e (keeps_portLevel _ _) (keeps_portDownInput _)
  | portResetRelease => exact keeps_of_level e (keeps_portLevel _ _) (keeps_portUpInput _)
  | phyDown => exact keeps_of_level e (keeps_phyLow _) (keeps_phyFalls _)
  | testInput => exact keeps_of_act e (keeps_testInput _ _)
  | slipPfFall => exact keeps_of_act e keeps_slipFalls
  | slipPulse => exact keeps_of_act e keeps_slipPulse
  | slipAccept => exact keeps_of_thawed e keeps_slipAccept
  | slipStopComplete => exact keeps_of_thawed e keeps_slipStopped
  | slipDrainComplete => exact keeps_of_thawed e keeps_slipDrained
  | slipClearComplete => exact keeps_of_thawed e keeps_slipCleared
  | hbmFabricRequest => exact keeps_of_running e (keeps_fabricRequest _ _ _ _ _ _)
  | hbmMcResponse => exact keeps_of_running e (keeps_mcResponse _ _ _ _ _ _)
  | ceCommandIssue => exact keeps_of_running e (keeps_ceIssue _)
  | ceCompletion => exact keeps_of_running e (keeps_ceComplete _ _ _ _)
  | operandTransfer => exact keeps_of_running e (fun h => keeps_operandTransfer _ _ _ _ _ (keeps_addUpsets _ h))
  | ceScrubAckChange => exact keeps_of_level e (keeps_scrubAckLevel _ _) (keeps_scrubAck _ _)
  | wakeAckChange => exact keeps_of_act e (keeps_wakeAck _ _)
  | cxlDrsResponse => exact keeps_of_running e (keeps_drsArrives _ _ _ _ _ _)
  | cxlNdrResponse => exact keeps_of_running e (keeps_ndrArrives _ _ _)
  | otpProgramDone => exact keeps_of_thawed e (keeps_otpEnds _ _ _ (fun _ _ => keeps_otpFails _) (fun _ _ => keeps_otpFollow _))
  | lcsClearComplete => exact keeps_of_thawed e (keeps_clearEnds _ (fun _ _ => keeps_otpFollow _))
  | lcsRequest | lcsDataWrite | keyRangeCmd | kstgKeyWrite | kstgBlobWrite | kstgSetupWrite | gseSubmit | holdRangeCmd
    | memsRegionWrite | memaRegionCreate | memaRegionDestroy | memaRoll | memaWayCmd | debugRead | create | load | resize | reclaim
    | syncArm | syncDisarm | syncWireWrite | sueLaneCmd | commit | clear | eccDmaHaltWrite | eccRetireCmd | eccInjCtrl | recvKick
    | slotBind | slotRelease | dbgOpenWrite | halt | resume | step | assign | unassign => exact keeps_of_act e (keeps_regCmd _ _ _ _)
  | keyRangeComplete => exact keeps_of_running e keeps_keyRangeDone
  | tideSlotStart => exact keeps_of_powered e (keeps_tideSlot _)
  | derivationComplete => exact keeps_of_running e (keeps_derivationDone _)
  | retireDrainComplete => exact keeps_of_running e (keeps_retireDone _)
  | kstgClaim => exact keeps_of_thawed e (keeps_guarded _ _ _ _ _ (fun _ => keeps_kstgClaim _))
  | kstgUnwrap => exact keeps_of_thawed e (keeps_guarded _ _ _ _ _ (fun _ => keeps_kstgUnwrap _))
  | kstgUnwrapComplete => exact keeps_of_running e keeps_kstgUnwrapDone
  | kstgVerify => exact keeps_of_thawed e (keeps_guarded _ _ _ _ _ (fun _ => keeps_kstgVerify _))
  | kstgVerifyComplete => exact keeps_of_running e keeps_kstgVerifyDone
  | kstgCommit => exact keeps_of_thawed e (keeps_guarded _ _ _ _ _ (fun _ => keeps_kstgCommit _))
  | kstgAbort => exact keeps_of_thawed e (keeps_guarded _ _ _ _ _ (fun _ => keeps_kstgAbort _))
  | kstgRelease => exact keeps_of_thawed e (keeps_guarded _ _ _ _ _ (fun _ => keeps_kstgRelease _))
  | kstgIdleTimeout => exact keeps_of_running e keeps_kstgIdleTimeout
  | sealOpen => exact keeps_of_running e (keeps_sealOpen _)
  | sealSectors => exact keeps_of_running e (keeps_sealSectors _)
  | sealClose => exact keeps_of_running e (keeps_sealClose _)
  | unsealOpen => exact keeps_of_running e (keeps_unsealOpen _ _)
  | unsealSectors => exact keeps_of_running e keeps_unsealSectors
  | unsealClose => exact keeps_of_running e keeps_unsealClose
  | rewrap => exact keeps_of_running e (keeps_rewrap _ _ _)
  | restoreStageTimeout => exact keeps_of_running e keeps_restoreTimeout
  | gseSectorDone => exact keeps_of_running e (keeps_sectorDone _ _ _ _ _)
  | gseKeyOpComplete => exact keeps_of_running e (keeps_keyOpDone _)
  | drbgReseed => exact keeps_of_running e (keeps_drbgReseed _)
  | roundStart => exact keeps_of_running e (keeps_startRound _)
  | markerReceive => exact keeps_of_running e (keeps_takeMarker _ _)
  | frameTransmit => exact keeps_of_running e (fun h => keeps_transmitSlot _ _ _ (keeps_addUpsets _ h))
  | frameReceive => exact keeps_of_running e (keeps_receiveFrame _ _ _ _)
  | dataFrame | gradFrame | syncFrame | hello | prove => exact keeps_of_running e (keeps_receiveType _ _ _ _)
  | ack => exact keeps_of_running e (keeps_receiveControl _ _ _ _ _ (fun _ _ => keeps_takeAck _ _))
  | nak => exact keeps_of_running e (keeps_receiveControl _ _ _ _ _ (fun _ _ => keeps_nakArrives _ _))
  | toll => exact keeps_of_running e (keeps_receiveControl _ _ _ _ _ (fun _ _ => keeps_takeToll _ _))
  | fail => exact keeps_of_running e (keeps_receiveControl _ _ _ _ _ (fun _ _ => keeps_takeFail _ _))
  | idle => exact keeps_of_running e (keeps_receiveControl _ _ _ _ _ (fun _ _ h => h))
  | retransmitTimeout => exact keeps_of_powered e (keeps_resendTimeout _ _)
  | landingEnterFord => exact keeps_of_powered e (keeps_enterFord _)
  | fordTimeout => exact keeps_of_powered e (keeps_fordTimeout _)
  | proveTimeout => exact keeps_of_powered e (keeps_proveTimeout _ _)
  | landingDrainComplete => exact keeps_of_running e (keeps_landingDrained _)
  | landingDrainTimeout => exact keeps_of_running e (keeps_landingDrainTimeout _)
  | bankSetComplete => exact keeps_of_running e (keeps_bankSetEnds _)
  | holdReadResume => exact keeps_of_running e (keeps_resumeRead _)
  | pinWaitResume => exact keeps_of_running e (keeps_pinResume _ _)
  | recycleDeferredComplete => exact keeps_of_running e (keeps_resumeRecycle _)
  | mixKeyLoaded => exact keeps_of_running e (keeps_mixKeyLoaded _)
  | mixKeyUnload => exact keeps_of_running e (keeps_mixUnload _)
  | rollComplete => exact keeps_of_running e (keeps_rollDone _)
  | memaWayComplete => exact keeps_of_running e keeps_wayDone
  | queueScan => exact keeps_of_powered e (keeps_scanQueue _ _ _ _ _ _)
  | commandStart => exact keeps_of_powered e (keeps_startCmd _)
  | commandRetire => exact keeps_of_powered e (keeps_retireCmd _ _)
  | nop => exact keeps_of_running e (keeps_nopCmd _ _)
  | fenceNew => exact keeps_of_running e (keeps_fenceNew _ _)
  | fenceReset => exact keeps_of_running e (keeps_fenceReset _ _)
  | bufferNew => exact keeps_of_running e (keeps_bufferNew _ _)
  | objFree => exact keeps_of_running e (keeps_objFree _ _)
  | objFreeDeferredComplete => exact keeps_of_running e (keeps_deferredFree _ _)
  | recycle => exact keeps_of_running e (keeps_recycleCmd _ _)
  | copy => exact keeps_of_running e (fun h => keeps_copyCmd _ _ _ (keeps_addUpsets _ h))
  | send => exact keeps_of_running e (keeps_sendCmd _ _)
  | loadComplete => exact keeps_of_running e (keeps_loadComplete _ _ _)
  | sealMsExpiry => exact keeps_of_running e (keeps_sealExpiry _)
  | berthQuiesced => exact keeps_of_running e (keeps_berthQuiesced _)
  | berthScrubComplete => exact keeps_of_running e (keeps_scrubComplete _)
  | sliceEnd => exact keeps_of_running e (keeps_sliceEnded _)
  | contextSwapComplete => exact keeps_of_running e (keeps_swapDone _)
  | npCapExpiry => exact keeps_of_powered e (keeps_npExpired _)
  | arrive | release | abort => exact keeps_of_powered e (keeps_takeKind _ _ _ _)
  | sueLaneComplete => exact keeps_of_running e keeps_laneDone
  | wait => exact keeps_of_running e (keeps_waitOp _ _)
  | signal => exact keeps_of_running e (keeps_signalOp _ _)
  | sendGrad => exact keeps_of_running e (keeps_sendGradOp _ _)
  | reduce => exact keeps_of_running e (fun h => keeps_reduceOp _ _ (keeps_addUpsets _ h))
  | programArrive => exact keeps_of_running e (keeps_arriveOp _ _)
  | apply => exact keeps_of_running e (keeps_applyOp _ _)
  | programRecycle => exact keeps_of_running e (keeps_recycleOp _ _)
  | sueOpComplete => exact keeps_of_running e (keeps_completeOp _ _)
  | layerScale => exact keeps_of_running e (keeps_layerScale _ _)
  | stepInfo => exact keeps_of_running e (keeps_stepInfo _ _)
  | patrolRead => exact keeps_of_running e (keeps_patrol _ _ _ _)
  | eccInjComplete => exact keeps_of_running e keeps_injComplete
  | portWatchExpiry => exact keeps_of_running e (keeps_portWatch _)
  | attachWatchExpiry => exact keeps_of_running e (keeps_onWatch _ _ (fun _ => keeps_watchAttach _))
  | holdWatchExpiry => exact keeps_of_running e (keeps_onWatch _ _ (fun _ => keeps_watchHold _))
  | xingWatchExpiry => exact keeps_of_running e (keeps_onWatch _ _ (fun _ => keeps_watchXingDue _ _))
  | barrierWatchExpiry => exact keeps_of_running e (keeps_onWatch _ _ (fun _ => keeps_watchBarrier _))
  | quiesceWatchExpiry => exact keeps_of_running e (keeps_onWatch _ _ (fun _ => keeps_watchQuiesce _))
  | cescrubWatchExpiry => exact keeps_of_running e (keeps_onWatch _ _ (fun _ => keeps_watchCeScrub _))
  | drainWatchExpiry => exact keeps_of_running e (keeps_onWatch _ _ (fun _ => keeps_watchDrain _))
  | coreWatchExpiry => exact keeps_of_running e (keeps_onWatch _ _ (fun _ => keeps_watchCore _ _))
  | coreFault => exact keeps_of_powered e (keeps_coreFaults _ _ _ _)
  | coreRestartComplete => exact keeps_of_powered e (keeps_coreRestarted _ _)
  | recoveryNotice => exact keeps_of_running e keeps_sendNotice
  | getVersion => exact keeps_of_running e (keeps_getVersion _)
  | getCapabilities => exact keeps_of_running e (keeps_getCapabilities _)
  | negotiateAlgorithms => exact keeps_of_running e (keeps_negotiate _ _)
  | getDigests => exact keeps_of_running e (keeps_getDigests _)
  | getCertificate => exact keeps_of_running e (keeps_getCertificate _ _)
  | challenge => exact keeps_of_running e (keeps_challenge _ _)
  | getMeasurements => exact keeps_of_running e (keeps_getMeasurements _ _)
  | keyExchange => exact keeps_of_running e (keeps_keyExchange _ _ _ _ _)
  | finish => exact keeps_of_running e (keeps_finish _ _ _)
  | keyUpdate => exact keeps_of_running e (keeps_keyUpdate _)
  | heartbeat => exact keeps_of_running e (keeps_heartbeat _)
  | endSession => exact keeps_of_running e (keeps_spdmEnd _)
  | ideKm => exact keeps_of_running e (keeps_ideKm _ _ _ _)
  | lockInterface => exact keeps_of_running e (keeps_lockInterface _ _)
  | realmAuth => exact keeps_of_running e (keeps_realmAuth _ _ _ _)
  | regRead => exact keeps_of_running e (keeps_regReads _ _ _ _)
  | regWrite => exact keeps_of_running e (keeps_regWrites _ _ _ _)
  | enroll => exact keeps_of_running e (keeps_enroll _ _ _ _ _ (fun _ _ => keeps_otpFollow _))
  | revoke => exact keeps_of_running e (keeps_revoke _ _ _ _ (fun _ _ => keeps_otpFollow _))
  | patchBegin => exact keeps_of_running e (keeps_patchBegin _ _ _)
  | patchData => exact keeps_of_running e (keeps_patchData _ _ _ _)
  | patchEnd => exact keeps_of_running e (keeps_patchEnd _ _ _ _)
  | patchActivate => exact keeps_of_running e (keeps_patchActivate _ (fun _ _ => keeps_otpFollow _))
  | denkanRewrap => exact keeps_of_running e (keeps_denkanRewrap _ _ _ _ _ _)
  | breakpointHit => exact keeps_of_running e (keeps_breakpointHit _ _)
  | counterWindowEnd => exact keeps_of_running e (keeps_windowEnd _)
  | traceDrain => exact keeps_of_running e (keeps_traceDrain _)
  | entdaa | setdasa => exact keeps_of_thawed e (keeps_takeI3c _)
  | interfaceReport => exact keeps_of_running e (keeps_interfaceReport _ _)

/-- Every step keeps them: a command in front, or the tick of an empty queue. -/
theorem keeps_step {s t : State} (e : step s = .next t) : Keeps s.blk t.blk := by
  unfold step at e
  split at e
  case h_1 =>
    cases e
    exact (Keeps.refl _).same rfl rfl
  case h_2 c rest _ => exact keeps_exec (s := { s with pending := rest }) c e

end Sys2Proof.Machine
end

section
/-! The statement of OTP's fuses. -/

open Sys2Proof Sys2Proof.Machine

/-- Settles O59: a step is the front command's meaning or a tick, and both keep every bit of OTP. -/
theorem otpBitsStaySet : Obligations.OtpBitsStaySet :=
  fun _ _ e => (keeps_step e).otp

end

section
/-!
The key stage's commands and writes, said once: what its guards let through, what an access of the holder leaves as it was, and what
each command makes of a stage in the state it needs (R128 to R130, R139).
-/

namespace Sys2Proof.Machine

/-! ### The guards -/

/-- A write that reaches its register acts on the block that the access found. -/
theorem guarded_writable {b : Block} {m : Master} {p o : Nat} (hw : writable b m p o) (h : Block → Block) :
    guarded m p o true h b = h (fresh b) := by
  obtain ⟨-, al, e⟩ := hw
  exact guarded_pass e

theorem becomes_of_guarded {c : Instr} {h : Block → Block} {s : State} {b : Block} {m : Master} {p o : Nat}
    (hw : writable s.blk m p o) (hc : exec c s = act (thawed (guarded m p o true h)) s) (e : h (fresh s.blk) = b) (hwork : b.work = []) :
    becomes c s b :=
  becomes_of_thawed hw.1 hc ((guarded_writable hw h).trans e) hwork

theorem begins_of_guarded {c : Instr} {h : Block → Block} {s : State} {b : Block} {m : Master} {p o : Nat}
    (hw : writable s.blk m p o) (hc : exec c s = act (thawed (guarded m p o true h)) s) (e : h (fresh s.blk) = b) : begins c s b :=
  begins_of_act hc ((thawed_awake hw.1 _).trans ((guarded_writable hw h).trans e))

theorem begins_of_running {c : Instr} {f : Block → Block} {s : State} {b : Block} (ha : awake s.blk)
    (hc : exec c s = act (running f) s) (e : f s.blk = b) : begins c s b :=
  begins_of_act hc ((running_awake ha f).trans e)

theorem becomes_of_regCmd {c : Instr} {s : State} {b : Block} {m : Master} {p o : Nat} {v : Word} (hw : writable s.blk m p o)
    (hc : exec c s = act (regCmd m p o v) s) (e : doWrite m p o v (fresh s.blk) = b) (hwork : b.work = []) : becomes c s b :=
  becomes_of_act hc ((regCmd_writable hw v).trans e) hwork

/-! ### The holder's access -/

/-- The holder's access restarts the 100 ms and is nothing else to the block (R128). -/
theorem touchStage_holder {b : Block} {m : Master} (h : isHolder b m = true) :
    touchStage m b = modKstg (fun k => { k with tick := now b }) b := if_pos h

/-- Anybody's access is a matter of the stage alone. -/
theorem touchStage_frame (m : Master) (b : Block) : ∃ k, touchStage m b = { b with kstg := k } := by
  by_cases h : isHolder b m = true
  · exact ⟨_, touchStage_holder h⟩
  · exact ⟨b.kstg, if_neg h⟩

theorem touchStage_work (m : Master) (b : Block) : (touchStage m b).work = b.work := by
  obtain ⟨_, e⟩ := touchStage_frame m b; rw [e]

theorem allCommitted_fresh (b : Block) : allCommitted (fresh b) = allCommitted b := rfl

theorem allCommitted_touchStage (m : Master) (b : Block) : allCommitted (touchStage m b) = allCommitted b := by
  obtain ⟨_, e⟩ := touchStage_frame m b; rw [e]; rfl

/-- Nobody but the holder commands the stage. -/
theorem asHolder_stranger {b : Block} {m : Master} (h : isHolder b m = false) (f : Block → Block) :
    asHolder m f b = recordErr 0x03 cDenied none b :=
  if_pos (congrArg not h)

/-- The holder of a stage in which no step runs. -/
theorem asHolder_holder {b : Block} {m : Master} (h : isHolder b m = true) (hr : stageRuns b = false) (f : Block → Block) :
    asHolder m f b = f (touchStage m b) :=
  (if_neg (ne_true_of_eq_false (congrArg not h))).trans (if_neg (ne_true_of_eq_false hr))

/-! ### Commands -/

/-- An idle stage takes its claimer as its holder. -/
theorem kstgClaim_idle {b : Block} {m : Master} {h : Nat} (hm : holderOf m = some h) (hst : b.kstg.st = 0) :
    kstgClaim m b = modKstg (fun k => { clearStage k with st := 1, holder := h, last := cOk, tick := now b }) b := by
  simp only [kstgClaim, hm, hst, if_true]

section
variable {b : Block} {m : Master} (hh : isHolder b m = true) (hr : stageRuns b = false)
include hh hr

/-- An unwrap starts from CLAIMED with the blob whole and its wrapping key admitted (R128, R139). -/
theorem kstgUnwrap_claimed (hst : b.kstg.st = 1) (hform : kstgForm b = true) (hblob : b.kstg.blobSet = 0x3FF)
    (hwrap : wrapAdmitted b = true) :
    kstgUnwrap m b = modKstg (fun k => { k with run := some .unwrap, last := cBusy }) (touchStage m b) := by
  rw [kstgUnwrap, asHolder_holder hh hr, touchStage_holder hh]
  have hready : ¬(b.kstg.st ≠ 1 ∨ (!kstgForm b) = true ∨ b.kstg.blobSet ≠ 0x3FF) := by simp [hst, hform, hblob]
  exact (if_neg hready).trans (if_pos hwrap)

/-- A verification starts from LOADED. -/
theorem kstgVerify_loaded (hst : b.kstg.st = 2) :
    kstgVerify m b = modKstg (fun k => { k with run := some .verify, last := cBusy }) (touchStage m b) := by
  rw [kstgVerify, asHolder_holder hh hr, touchStage_holder hh]
  exact if_neg (not_not_intro hst)

end

theorem firstFail_cons_ok {c : Byte} (h : c = cOk) (cs : List Byte) : firstFail (c :: cs) = firstFail cs := if_pos h

/-- The staged record imported: for no berth, or for one whose last import lets its first derivations start (R127, R130). -/
def importStaged : Option Nat → Block → Block
  | none, b => importKey (kstgKid b) (kstgPurpose b) (kstgOwner b) none (stagedKey b.kstg) b
  | some w, b => later (.berthCheck w) ((if allCommitted b w then id else deriveFirst w)
      (importKey (kstgKid b) (kstgPurpose b) (kstgOwner b) (some w) (stagedKey b.kstg) b))

theorem importStaged_berth (w : Nat) (b : Block) :
    importStaged (some w) b = later (.berthCheck w) ((if allCommitted b w then id else deriveFirst w)
      (importKey (kstgKid b) (kstgPurpose b) (kstgOwner b) (some w) (stagedKey b.kstg) b)) := rfl

/-- The berth that a record's entry belongs to (R129). -/
def recordBerth (b : Block) : Option Nat := if firmwareRecord b then none else some (kstgBerth b)

theorem recordBerth_firmware {b : Block} (h : firmwareRecord b = true) : recordBerth b = none := if_pos h

theorem recordBerth_owner {b : Block} (h : firmwareRecord b = false) : recordBerth b = some (kstgBerth b) :=
  if_neg (ne_true_of_eq_false h)

/-- A commit of a verified stage that passes its rechecks (R130) imports the record and leaves the stage empty. -/
theorem kstgCommit_verified {b : Block} {m : Master} (hh : isHolder b m = true) (hr : stageRuns b = false) (hst : b.kstg.st = 3)
    (hstate : importState b = cOk) (hberth : importBerth b = cOk) (htarget : importTarget b = cOk) {w : Option Nat} (hw : recordBerth b = w) :
    kstgCommit m b = raise 0x03 1 (modKstg (fun k => { clearStage k with st := 1, last := cOk }) (importStaged w (touchStage m b))) := by
  have hverified : (touchStage m b).kstg.st = 3 := by rw [touchStage_holder hh]; exact hst
  have hcode : firstFail [importState (touchStage m b), importBerth (touchStage m b), importTarget (touchStage m b)] = cOk := by
    rw [touchStage_holder hh]
    exact (firstFail_cons_ok hstate _).trans ((firstFail_cons_ok hberth _).trans (firstFail_cons_ok htarget []))
  have hrecord : (if firmwareRecord (touchStage m b) then none else some (kstgBerth (touchStage m b))) = w := by
    rw [touchStage_holder hh]; exact hw
  simp only [kstgCommit, asHolder_holder hh hr, hverified, hcode, hrecord, ne_eq, not_true_eq_false, if_false, if_true]
  cases w with
  | none => rfl
  | some w => by_cases hall : allCommitted b w = true <;> simp [importStaged_berth, allCommitted_touchStage, hall]

/-! ### The engines' ends -/

/-- The end of a step of the stage and its interrupt bring nothing about in other units. -/
theorem stageEvent_work {b : Block} (ha : awake b) (f : Kstg → Kstg) : (raise 0x03 1 (modKstg f b)).work = [] := by
  rw [raise_work, modKstg_work, ha.2.2]

/-- What an unwrap's answer makes of the stage: the key loaded, or the stage cleared (R128). -/
def unwrapped : Option Bytes → Kstg → Kstg
  | some key, k => { k with st := 2, run := none, key := keyWords key, keySet := 0xFF, last := cOk }
  | none, k => { clearStage k with st := 1, last := cTagFail }

/-- The end of an unwrap whose wrapping key is still there. The proof hides the cipher behind a variable, for the kernel would run it on
an unknown key. -/
theorem kstgUnwrapDone_unwraps {b : Block} (hrun : b.kstg.run = some .unwrap) (hrest : b.kstg.rest = none) {w : BitVec 256}
    (hw : startedKey b (kstgWrapKid b) = some w) {r : Option Bytes} (hr : kwUnwrap (keyBytes w) (blobBytes b.kstg) = r) :
    kstgUnwrapDone b = raise 0x03 1 (modKstg (unwrapped r) b) := by
  unfold kstgUnwrapDone
  obtain ⟨unwrap, hunwrap⟩ : ∃ f, f = kwUnwrap := ⟨_, rfl⟩
  rw [← hunwrap] at hr ⊢
  simp only [hrun, hrest, hw, hr, ne_eq, not_true_eq_false, if_false]
  cases r <;> rfl

/-- A record that passes all five checks of R129 leaves the stage VERIFIED. -/
theorem kstgVerifyDone_good {b : Block} (hrun : b.kstg.run = some .verify) (hrest : b.kstg.rest = none) (hstate : importState b = cOk)
    (hberth : importBerth b = cOk) (hholder : importHolder b = cOk) (htarget : importTarget b = cOk) (hkcv : importKcv b = cOk) :
    kstgVerifyDone b = raise 0x03 1 (modKstg (fun k => { k with st := 3, run := none, last := cOk }) b) := by
  have hcode : firstFail [importState b, importBerth b, importHolder b, importTarget b, importKcv b] = cOk := by
    rw [hstate, hberth, hholder, htarget, hkcv]; rfl
  simp only [kstgVerifyDone, hrun, hrest, hcode, ne_eq, not_true_eq_false, if_false, if_true]

/-- 100 ms without an access of the holder empty the stage. -/
theorem kstgIdleTimeout_due {b : Block} (hst : b.kstg.st ≠ 0) (h : b.kstg.tick + msTicks b 100 ≤ now b) :
    kstgIdleTimeout b = stageIdle b := if_pos ⟨hst, h⟩

/-! ### Written words -/

/-- The block with the holder's write taken: its 100 ms begin again, and a verification is void (R128). -/
def stageTouched (b : Block) : Block :=
  modKstg (fun k => { k with tick := now b, st := if k.st = 3 then 2 else k.st }) b

theorem stageTouched_st (b : Block) : (stageTouched b).kstg.st ≠ 3 := by
  simp only [stageTouched, modKstg]
  split <;> omega

theorem doWrite_kstg {o : Nat} (ho : 0x40 ≤ o) (m : Master) (v : Word) (b : Block) : doWrite m 0x03 o v b = kstgWrite m o v b :=
  if_neg (by omega)

/-- The three setup registers are neighbours of KSTG_CMD (R139). -/
theorem stageRegAddr_setup (r : StageReg) : 0x048 ≤ stageRegAddr r - 0x03000 ∧ stageRegAddr r - 0x03000 < 0x054 := by
  cases r <;> decide +kernel

/-- They reset to 0. -/
theorem regReset_stageRegAddr (r : StageReg) : regReset (stageRegAddr r) = 0 := by
  cases r <;> decide +kernel

theorem kstgWrite_setup {o : Nat} (ho : 0x048 ≤ o ∧ o < 0x054) (m : Master) (v : Word) (b : Block) :
    kstgWrite m o v b = kstgSetup m (0x03000 + o) v b :=
  (if_neg (by omega)).trans (if_pos ho)

theorem kstgWrite_keys {o : Nat} (ho : 0x060 ≤ o ∧ o < 0x080) (m : Master) (v : Word) (b : Block) :
    kstgWrite m o v b = kstgKeyWrite m ((o - 0x060) / 4) v b :=
  (if_neg (by omega)).trans ((if_neg (by omega)).trans (if_pos ho))

theorem kstgWrite_blob {o : Nat} (ho : 0x080 ≤ o ∧ o < 0x0A8) (m : Master) (v : Word) (b : Block) :
    kstgWrite m o v b = kstgBlobWrite m ((o - 0x080) / 4) v b :=
  (if_neg (by omega)).trans ((if_neg (by omega)).trans ((if_neg (by omega)).trans (if_pos ho)))

theorem doWrite_keyWord (m : Master) (i : Fin 8) (v : Word) (b : Block) :
    doWrite m 0x03 (0x060 + 4 * i) v b = kstgKeyWrite m i v b := by
  have hi : (0x060 + 4 * i.val - 0x060) / 4 = i := by omega
  rw [doWrite_kstg (by omega), kstgWrite_keys (by omega), hi]

theorem doWrite_blobWord (m : Master) (i : Fin 10) (v : Word) (b : Block) :
    doWrite m 0x03 (0x080 + 4 * i) v b = kstgBlobWrite m i v b := by
  have hi : (0x080 + 4 * i.val - 0x080) / 4 = i := by omega
  rw [doWrite_kstg (by omega), kstgWrite_blob (by omega), hi]

theorem doWrite_setup (m : Master) (r : StageReg) (v : Word) (b : Block) :
    doWrite m 0x03 (stageRegAddr r - 0x03000) v b = kstgSetup m (stageRegAddr r) v b := by
  have hr := stageRegAddr_setup r
  rw [doWrite_kstg (by omega), kstgWrite_setup hr, Nat.add_sub_cancel' (by omega)]

section
variable {b : Block} {m : Master} (hh : isHolder b m = true) (hr : stageRuns b = false)
include hh hr

/-- A write of the holder acts on the stage that it has touched. -/
theorem stageWrite_holder (f : Block → Block) : stageWrite m f b = f (stageTouched b) := by
  rw [stageWrite, hh, hr, touchStage_holder hh]; rfl

/-- A key word is kept; the eighth may load the stage, and none leaves it verified. -/
theorem kstgKeyWrite_holder (i : Nat) (v : Word) : ∃ st, st ≠ 3 ∧ kstgKeyWrite m i v b =
    { b with kstg := { b.kstg with tick := now b, st := st, key := tset 0 b.kstg.key i v, keySet := b.kstg.keySet ||| 1 <<< i } } := by
  rw [kstgKeyWrite, stageWrite_holder hh hr]
  extract_lets c
  split
  · exact ⟨2, by decide, rfl⟩
  · exact ⟨_, stageTouched_st b, rfl⟩

theorem kstgBlobWrite_holder (i : Nat) (v : Word) : ∃ st, st ≠ 3 ∧ kstgBlobWrite m i v b =
    { b with kstg := { b.kstg with tick := now b, st := st, blob := tset 0 b.kstg.blob i v, blobSet := b.kstg.blobSet ||| 1 <<< i } } := by
  rw [kstgBlobWrite, stageWrite_holder hh hr]
  exact ⟨_, stageTouched_st b, rfl⟩

theorem kstgSetup_holder (r : StageReg) (v : Word) : ∃ st, st ≠ 3 ∧ kstgSetup m (stageRegAddr r) v b =
    { b with kstg := { b.kstg with tick := now b, st := st }, regs := tset 0 b.regs (stageRegAddr r) v } := by
  rw [kstgSetup, stageWrite_holder hh hr, setReg, regReset_stageRegAddr]
  exact ⟨_, stageTouched_st b, rfl⟩

end

end Sys2Proof.Machine
end

section
/-! The statements of the key stage. -/

open Sys2Proof Sys2Proof.Machine

/-- Settles O19: the claim of an idle stage, and what the holder's guard makes of the other commands. -/
theorem stageClaimAbortRelease : Obligations.StageClaimAbortRelease := by
  intro s m hw
  have hwork : (fresh s.blk).work = [] := fresh_work_awake hw.1
  have hholder := asHolder_holder (b := fresh s.blk) (m := m)
  have hstranger := asHolder_stranger (b := fresh s.blk) (m := m)
  refine ⟨fun h hm hst => ?claim, fun hh hr => ?abort, fun hh hr => ?release, fun hn => ⟨?strangerAbort, ?strangerCommit⟩⟩
  case claim => exact becomes_of_guarded hw rfl (kstgClaim_idle hm hst) hwork
  case abort => exact becomes_of_guarded hw rfl (hholder hh hr _) (by rw [modKstg_work, touchStage_work, hwork])
  case release => exact begins_of_guarded hw rfl (hholder hh hr _)
  case strangerAbort => exact becomes_of_guarded hw rfl (hstranger hn _) (recordErr_fresh_work hw.1 ..)
  case strangerCommit => exact becomes_of_guarded hw rfl (hstranger hn _) (recordErr_fresh_work hw.1 ..)

/-- Settles O20: the holder's commands on a stage in the state each needs; a commit's record is the firmware's or an owner's. -/
theorem stageUnwrapVerifyCommit : Obligations.StageUnwrapVerifyCommit := by
  rintro s m b hw hh hr rfl
  have hwork : (touchStage m (fresh s.blk)).work = [] := by rw [touchStage_work, fresh_work_awake hw.1]
  refine ⟨fun hst hform hblob hwrap => ?unwrap, fun hst => ?verify, fun hst hstate hberth htarget => ?commit⟩
  case unwrap => exact becomes_of_guarded hw rfl (kstgUnwrap_claimed hh hr hst hform hblob hwrap) hwork
  case verify => exact becomes_of_guarded hw rfl (kstgVerify_loaded hh hr hst) hwork
  case commit =>
    have hcommit (w : Option Nat) := kstgCommit_verified (b := fresh s.blk) (w := w) hh hr hst hstate hberth htarget
    refine ⟨fun hfw => begins_of_guarded hw rfl ?firmware, fun hfw => begins_of_guarded hw rfl ?owner⟩
    case firmware =>
      rw [hcommit none (recordBerth_firmware hfw), touchStage_holder (b := fresh s.blk) hh]
      rfl
    case owner =>
      rw [hcommit _ (recordBerth_owner hfw), importStaged_berth, allCommitted_touchStage, allCommitted_fresh,
        touchStage_holder (b := fresh s.blk) hh]
      rfl

/-- Settles O21: the ends of the stage's engines, and the holder's writes word by word. -/
theorem stageEndsAndWrites : Obligations.StageEndsAndWrites := by
  refine ⟨fun s ha => ⟨fun hrun hrest w hw => ⟨fun key hkey => ?good, fun hkey => ?bad⟩, ?verified, fun hst hdue => ?timeout, ?emptied⟩,
    fun s m v hh hr => ⟨fun i hw => ?key, fun i hw => ?blob, fun r hw => ?setup⟩⟩
  case good =>
    have e := kstgUnwrapDone_unwraps hrun hrest hw hkey
    exact becomes_of_running ha rfl e (stageEvent_work ha _)
  case bad =>
    have e := kstgUnwrapDone_unwraps hrun hrest hw hkey
    exact becomes_of_running ha rfl e (stageEvent_work ha _)
  case verified =>
    intro hrun hrest hstate hberth hholder htarget hkcv
    exact becomes_of_running ha rfl (kstgVerifyDone_good hrun hrest hstate hberth hholder htarget hkcv) (stageEvent_work ha _)
  case timeout => exact begins_of_running ha rfl (kstgIdleTimeout_due hst hdue)
  case emptied => exact ⟨rfl, rfl, rfl, rfl⟩
  case key =>
    obtain ⟨st, hst, e⟩ := kstgKeyWrite_holder (b := fresh s.blk) hh hr i v
    exact ⟨_, becomes_of_regCmd hw rfl ((doWrite_keyWord m i v _).trans e) (fresh_work_awake hw.1), rfl, rfl, hst, rfl⟩
  case blob =>
    obtain ⟨st, hst, e⟩ := kstgBlobWrite_holder (b := fresh s.blk) hh hr i v
    exact ⟨_, becomes_of_regCmd hw rfl ((doWrite_blobWord m i v _).trans e) (fresh_work_awake hw.1), rfl, rfl, hst, rfl⟩
  case setup =>
    obtain ⟨st, hst, e⟩ := kstgSetup_holder (b := fresh s.blk) hh hr r v
    exact ⟨_, becomes_of_regCmd hw rfl ((doWrite_setup m r v _).trans e) (fresh_work_awake hw.1), rfl, hst, rfl⟩

end

section
/-!
The life-cycle unit's registers, said once: what its nonce, data and request registers do (R145, R146, R156).
-/

namespace Sys2Proof.Machine

/-! ### Nonce and data -/

theorem doRead_lcsNonce (m : Master) (b : Block) :
    doRead m 0x01 0x060 b = ((Config.draw b.draws).setWidth 128 |>.setWidth 32,
      { b with draws := b.draws + 1, lcs := { b.lcs with nonce := (Config.draw b.draws).setWidth 128, nonceOk := true } }) := rfl

/-- A read of LCS_NONCE0 puts the low word of the nonce it draws on the path (R145). -/
theorem regPop_lcsNonce {b : Block} {m : Master} (hr : readable b m 0x01 0x060) :
    regPop m 0x01 0x060 4 b = emit (.readData ((Config.draw b.draws).setWidth 128 |>.setWidth 32))
      { fresh b with draws := b.draws + 1, lcs := { b.lcs with nonce := (Config.draw b.draws).setWidth 128, nonceOk := true } } := by
  rw [regPop_readable hr rfl, doRead_lcsNonce, fresh_draws, fresh_lcs]

theorem doWrite_lcs {o : Nat} (ho : 0x40 ≤ o) (m : Master) (v : Word) (b : Block) : doWrite m 0x01 o v b = lcsWrite m o v b :=
  if_neg (by omega)

theorem lcsWrite_data {o : Nat} (ho : 0x0A0 ≤ o ∧ o < 0x0C0) (m : Master) (v : Word) (b : Block) :
    lcsWrite m o v b = lcsData ((o - 0x0A0) / 4) v b :=
  (if_neg (by omega)).trans ((if_neg (by omega)).trans (if_pos ho))

theorem doWrite_lcsData (m : Master) (i : Fin 8) (v : Word) (b : Block) :
    doWrite m 0x01 (0x0A0 + 4 * i) v b = lcsData i v b := by
  have hi : (0x0A0 + 4 * i.val - 0x0A0) / 4 = i := by omega
  rw [doWrite_lcs (by omega), lcsWrite_data (by omega), hi]

/-- In BLANK a data word is kept (R156). -/
theorem lcsData_blank {b : Block} (h : b.lcs.st = .blank) (i : Nat) (v : Word) :
    lcsData i v b = { b with lcs := { b.lcs with data := tset 0 b.lcs.data i v } } := if_pos h

/-! ### Requests -/

theorem doWrite_lcsRequest {v : Word} (h : v.getLsbD 31 = true) (m : Master) (b : Block) :
    doWrite m 0x01 0x070 v b = otpAdvance 16 otpFollow (lcsRequest m v b) :=
  (doWrite_lcs (by decide) m v b).trans (if_pos h)

/-- What a GO leaves of the unit: the nonce, the token and the data are used up, and the code is shown (R146, R156). -/
def Lcs.used (l : Lcs) (c : Byte) : Lcs := { l with nonceOk := false, token := [], data := [], res := c }

/-- The move that an accepted request starts: with no record left it goes straight to its clear (R146, R147). -/
def acceptedMove (v : Word) (b : Block) : Move :=
  { target := (lcOfNum (fld v 2 0)).getD .terminated, source := b.lcs.st, record := unusedRecord b, resumed := false,
    clearing := (unusedRecord b).isNone, data := testData b.lcs }

theorem lcsCheck_fresh (b : Block) : lcsCheck (fresh b) = lcsCheck b := rfl

section
variable {b : Block} {m : Master} {v : Word}

theorem lcsRequest_refused (h : lcsCheck b m (fld v 2 0) ≠ cPending) :
    lcsRequest m v b = raise 0x01 1 { b with lcs := b.lcs.used (lcsCheck b m (fld v 2 0)) } := if_pos h

/-- An accepted request is a matter of the unit and of the OTP runs. -/
theorem lcsRequest_accepted (h : lcsCheck b m (fld v 2 0) = cPending) : ∃ runs, lcsRequest m v b =
    { b with otpRuns := runs, lcs := { b.lcs.used (lcsCheck b m (fld v 2 0)) with move := some (acceptedMove v b) } } := by
  have hr (l : Lcs) : unusedRecord { b with lcs := l } = unusedRecord b := rfl
  simp only [lcsRequest, h, ne_eq, not_true_eq_false, if_false, acceptedMove, hr]
  cases unusedRecord b with
  | none => exact ⟨b.otpRuns, rfl⟩
  | some k => exact ⟨_, rfl⟩

/-- Whatever its code, a request uses up what it was checked against; it moves no state and programs no word itself. -/
theorem lcsRequest_frame : (lcsRequest m v b).otp = b.otp ∧
    ∃ mv, (lcsRequest m v b).lcs = { b.lcs.used (lcsCheck b m (fld v 2 0)) with move := mv } := by
  by_cases h : lcsCheck b m (fld v 2 0) = cPending
  · obtain ⟨runs, e⟩ := lcsRequest_accepted h
    rw [e]
    exact ⟨rfl, _, rfl⟩
  · rw [lcsRequest_refused h, raise_otp, raise_lcs]
    exact ⟨rfl, _, rfl⟩

/-- A request for a number that is no state is refused. -/
theorem lcOfNum_of_pending {n : Nat} (h : lcsCheck b m n = cPending) : ∃ t, lcOfNum n = some t := by
  unfold lcsCheck at h
  split at h
  · exact absurd h (by decide)
  · exact ⟨_, ‹_›⟩

end

end Sys2Proof.Machine
end

section
/-! The statement of the life-cycle requests. -/

open Sys2Proof Sys2Proof.Machine

/-- The first half of O16: the nonce register and the data registers. -/
theorem lcsNonce_lcsData_act : lcsNonceAndData := by
  refine fun s m => ⟨fun hr => ?nonce, fun i v hw hst => ?data⟩
  case nonce => exact becomes_of_act rfl (regPop_lcsNonce hr) (fresh_work_awake hr.1)
  case data =>
    exact becomes_of_regCmd hw rfl ((doWrite_lcsData m i v _).trans (lcsData_blank (b := fresh s.blk) hst _ _)) (fresh_work_awake hw.1)

/-- The second half of O16: a request's frame, and its two outcomes. -/
theorem lcsRequest_starts_move : lcsRequestStartsMove := by
  intro s m v hw hgo
  obtain ⟨hotp, mv, hlcs⟩ := lcsRequest_frame (b := fresh s.blk) (m := m) (v := v)
  rw [lcsCheck_fresh] at hlcs
  refine ⟨?begins, by rw [hlcs]; rfl, by rw [hlcs]; rfl, by rw [hlcs]; rfl, hotp, by rw [hlcs]; rfl,
    fun h => ?accepted, fun h => ?refused⟩
  case begins => exact begins_of_act rfl ((regCmd_writable hw v).trans (doWrite_lcsRequest hgo m _))
  case accepted =>
    obtain ⟨t, ht⟩ := lcOfNum_of_pending h
    obtain ⟨runs, e⟩ := lcsRequest_accepted (b := fresh s.blk) h
    refine ⟨acceptedMove v (fresh s.blk), by rw [e], rfl, ?_⟩
    rw [acceptedMove, ht]
    rfl
  case refused => rw [lcsRequest_refused (b := fresh s.blk) h, raise_lcs]; rfl

/-- Settles O16: the unit's registers, and its requests. -/
theorem lifeCycleRequests : Obligations.LifeCycleRequests := ⟨lcsNonce_lcsData_act, lcsRequest_starts_move⟩

end

section
/-!
The end of an OTP word and the clear of a move, said once (R63, R148 to R150).
-/

namespace Sys2Proof.Machine

section
variable {b : Block} {r : OtpRun} {rs : List OtpRun} {a : Nat} {w : BitVec 39} {ws : List (Nat × BitVec 39)}
  (hruns : b.otpRuns = r :: rs) (hwords : r.words = (a, w) :: ws) (hbusy : r.busy = true)
include hruns hwords hbusy

/-- A word that reads back as it was asked for is written, and its run goes on to the next word. -/
theorem otpDone_verified (fail : OtpJob → Block → Block) : otpDone (otpWord b a ||| w) fail b =
    { b with otp := tset 0 b.otp a (otpWord b a ||| w), pins := { b.pins with otpVppEn := false },
             otpRuns := { r with words := ws, tries := 0, busy := false } :: rs } := by
  have hword : otpWord b a ||| (otpWord b a ||| w) = otpWord b a ||| w := by rw [← BitVec.or_assoc, BitVec.or_self]
  simp only [otpDone, hruns, hwords, hbusy, hword, Bool.not_true, Bool.false_eq_true, if_false, if_true]

theorem otpWord_otpDone_other (fail : OtpJob → Block → Block) {k : Nat} (hk : k ≠ a) :
    otpWord (otpDone (otpWord b a ||| w) fail b) k = otpWord b k := by
  rw [otpDone_verified hruns hwords hbusy]
  exact tget_tset_ne _ _ _ hk

/-- The word holds what was asked for, where OTP is a table in canonical form. -/
theorem otpWord_otpDone_self (hotp : tcanon 0 b.otp = true) (fail : OtpJob → Block → Block) :
    otpWord (otpDone (otpWord b a ||| w) fail b) a = otpWord b a ||| w := by
  rw [otpDone_verified hruns hwords hbusy]
  exact tget_tset_canon _ _ hotp

end

theorem otpGrows_otpDone (rb : BitVec 39) (b : Block) : otpGrows b (otpDone rb otpFails b) :=
  (keeps_otpDone rb otpFails (fun _ _ => keeps_otpFails _) (Keeps.refl b)).otp

/-- The end of the clear of a move on a block whose window is published and that seals nothing (R150, R153). -/
theorem clearEnds_clearing {b : Block} {mv : Move} (hp : b.phase = .running) (hs : b.slip.st = .idle) (hm : b.lcs.move = some mv)
    (hc : mv.clearing = true) (follow : OtpFollow) : clearEnds follow b = settleMove (otpAdvance 16 follow
      (startStep { lcsClear b with lcs := { b.lcs with move := some { mv with clearing := false } } })) := by
  simp only [clearEnds, lcsClearDone, hp, hs, hm, hc, ne_eq, not_true_eq_false, or_self, if_false, if_true]

/-- The clear empties the keys, the root shadow, the Hold and engine A's cache; beyond them it is a matter of the cores (R150). -/
theorem lcsClear_frame (b : Block) : ∃ v, lcsClear b = { b with
    keys := { b.keys with cache := [], root := none, engine := [] }, hold := { b.hold with mem := [], tags := [], upsets := [] },
    mema := { b.mema with cache := [] }, recv := v } :=
  foldl_modCore_frame (fun _ => clearSram) (List.range 4) _

/-- A block whose OTP lists word 5 twice, first as 0, and whose run asks no bit of that word. No run makes such a
table: OTP begins empty, and `tset` alone writes it. -/
def wordListedTwice : Block := { otp := [(5, 0), (5, 1)], otpRuns := [{ words := [(5, 0)], busy := true, job := .lcsStep }] }

end Sys2Proof.Machine
end

section
/-! The statement of OTP words and of the clear: it fails of a table out of canonical form, and of no other. -/

open Sys2Proof Sys2Proof.Machine

/-- Refutes O17: it asks of every block that the word under way reads what was written, also where OTP lists a word twice. There the
write of 0 drops the first entry of word 5, and the word reads as the second. -/
theorem not_otpWordAndClear : ¬ Obligations.OtpWordAndClear := by
  intro h
  obtain ⟨-, hword, -⟩ := h State.reset (by decide)
  obtain ⟨-, -, -, hself⟩ := hword wordListedTwice _ [] 5 0 [] rfl rfl rfl
  rw [otpDone_verified (b := wordListedTwice) rfl rfl rfl] at hself
  exact absurd hself (by decide)

/-- What O17 says holds of every block whose OTP is in canonical form, the form in which every write leaves it (`tcanon_tset`). -/
theorem otpWordAndClear_of_canonical (s : State) (hfrozen : frozen s.blk = false) :
    (∀ rb : BitVec 39, begins (.otpProgramDone rb) s (afterWord otpFollow (otpDone rb otpFails s.blk))) ∧
    (∀ (b : Block) (r : OtpRun) (rs : List OtpRun) (a : Nat) (w : BitVec 39) (ws : List (Nat × BitVec 39)), tcanon 0 b.otp = true →
      b.otpRuns = r :: rs → r.words = (a, w) :: ws → r.busy = true →
      (otpDone (otpWord b a ||| w) otpFails b).otpRuns = { r with words := ws, tries := 0, busy := false } :: rs ∧
      otpGrows b (otpDone (otpWord b a ||| w) otpFails b) ∧
      (∀ k, k ≠ a → otpWord (otpDone (otpWord b a ||| w) otpFails b) k = otpWord b k) ∧
      otpWord (otpDone (otpWord b a ||| w) otpFails b) a = otpWord b a ||| w) ∧
    (∀ mv, s.blk.phase = .running → s.blk.slip.st = .idle → s.blk.lcs.move = some mv → mv.clearing = true →
      begins .lcsClearComplete s (settleMove (otpAdvance 16 otpFollow
        (startStep { lcsClear s.blk with lcs := { s.blk.lcs with move := some { mv with clearing := false } } })))) ∧
    (lcsClear s.blk).hold.mem = [] ∧ (lcsClear s.blk).keys.cache = [] ∧ (lcsClear s.blk).keys.root = none := by
  have hthawed (f : Block → Block) : thawed f s.blk = f s.blk := if_neg (ne_true_of_eq_false hfrozen)
  refine ⟨fun rb => ?program, fun b r rs a w ws hotp hruns hwords hbusy => ?word, fun mv hp hs hm hc => ?clear, ?lost⟩
  case program => exact begins_of_act rfl (hthawed _)
  case word =>
    exact ⟨by rw [otpDone_verified hruns hwords hbusy], otpGrows_otpDone _ _,
      fun k hk => otpWord_otpDone_other hruns hwords hbusy _ hk, otpWord_otpDone_self hruns hwords hbusy hotp _⟩
  case clear => exact begins_of_act rfl ((hthawed _).trans (clearEnds_clearing hp hs hm hc _))
  case lost =>
    obtain ⟨_, e⟩ := lcsClear_frame s.blk
    rw [e]
    exact ⟨rfl, rfl, rfl⟩

end

section
/-!
A write of PAGE_CTRL, said once: what reaches the page, what a unit that is held on answers, and how a drain begins (R92, R180, R324).
-/

namespace Sys2Proof.Machine

/-- A change that leaves the page's events and their enables signals nothing. -/
theorem modPage_silent {f : Page → Page} (h : ∀ x, irqPending (f x) = irqPending x) (k : Nat) (b : Block) :
    modPage k f b = { b with pages := tset {} b.pages k (f (pageAt b k)) } :=
  modPage_quiet k f b (by rw [h, Bool.and_not_self])

/-- A page whose unit is not OFF is no page that an unlisted key reads as. -/
theorem page_ne_of_unit {p : Page} (h : p.unit ≠ .off) : p ≠ {} := fun e => h (congrArg Page.unit e)

/-- A page whose unit the change does not leave OFF reads as changed. -/
theorem pageAt_modPage_unit {k : Nat} {f : Page → Page} {b : Block} {u : UnitState} (h : (f (pageAt b k)).unit = u) (hu : u ≠ .off) :
    pageAt (modPage k f b) k = f (pageAt b k) :=
  pageAt_modPage_self k f b (page_ne_of_unit (h.trans_ne hu))

theorem doWrite_ctrl {m : Master} {p : Nat} (hv : inView m p = false) (hp : p ≠ 0x19) (v : Word) (b : Block) :
    doWrite m p 0x00C v b = pageCtrlWrite p v b :=
  (if_neg (ne_true_of_eq_false hv)).trans (if_neg hp)

/-- A write of ENABLE and SQUASH that reaches PAGE_CTRL leaves the register's other bits as they are. -/
theorem ctrlCmd_writable {b : Block} {m : Master} {p : Nat} (hw : writable b m p 0x00C) (hv : inView m p = false) (hp : p ≠ 0x19)
    (bits : Word) : ctrlCmd m p bits b = pageCtrlWrite p ((pageCtrl b p &&& 0xFFFFFFFC) ||| bits) (fresh b) := by
  rw [ctrlCmd, thawed_awake hw.1, guarded_writable hw]
  exact doWrite_ctrl hv hp _ _

/-- ENABLE and SQUASH written 0 beside any other bits. -/
theorem clearedCtrl_bits (v : Word) :
    ((v &&& 0xFFFFFFFC) ||| 0).getLsbD 0 = false ∧ ((v &&& 0xFFFFFFFC) ||| 0).getLsbD 1 = false := by
  constructor <;> simp

/-- A page that refuses a shutdown: ENABLE stays 1 and LAST_STATUS reads BUSY. -/
def Page.heldOn (v : Word) (x : Page) : Page := { x with ctrl := v ||| 1, lastStatus := cBusy }

/-- A page whose PAGE_CTRL holds v. -/
def Page.withCtrl (v : Word) (x : Page) : Page := { x with ctrl := v }

/-- A page whose unit drains since the time t. -/
def Page.drains (t : Nat) (x : Page) : Page := { x with unit := .draining, lastStatus := cPending, since := t }

section
variable {b : Block} {p : Nat} (hp : present b.build p = true) (he : hasEnable p = true)
include hp he

theorem pageCtrl_enable : pageCtrl b p = (pageAt b p).ctrl := by
  simp only [pageCtrl, hp, he, Bool.not_true, Bool.false_eq_true, if_false, if_true]

variable {v : Word} (hon : (pageAt b p).unit = .on) (h0 : v.getLsbD 0 = false)
include hon h0

/-- A shutdown that the unit's chapter refuses is a matter of the page alone. -/
theorem pageCtrlWrite_held (hheld : shutdownHeld b p = true) : pageCtrlWrite p v b = modPage p (Page.heldOn v) b := by
  simp only [pageCtrlWrite, hp, he, h0, hon, hheld, Bool.not_true, Bool.false_eq_true, and_self, if_false, if_true]
  rfl

/-- One that nothing refuses begins the drain of a unit that is ON, where the unit is no Landing. -/
theorem pageCtrlWrite_drains (h1 : v.getLsbD 1 = false) (hheld : shutdownHeld b p = false) (hl : ¬(0x40 ≤ p ∧ p < 0x80)) :
    pageCtrlWrite p v b = modPage p (Page.drains (now b)) (modPage p (Page.withCtrl v) b) := by
  have hunit : (pageAt (modPage p (Page.withCtrl v) b) p).unit = .on := by
    rw [pageAt_modPage_unit (f := Page.withCtrl v) hon (by decide)]; exact hon
  have hdrain : drainUnit p (modPage p (Page.withCtrl v) b) = modPage p (Page.drains (now b)) (modPage p (Page.withCtrl v) b) := by
    simp only [drainUnit, hunit, hl, if_false, now, modPage_tick]
    rfl
  simp only [pageCtrlWrite, hp, he, h0, h1, hheld, Bool.not_true, Bool.false_eq_true, and_false, if_false]
  exact hdrain

end

theorem gseHeld_iff (b : Block) : gseHeld b = true ↔ ∃ e ∈ b.gse.sess, e.2.st = .sealSt ∨ e.2.st = .unsealSt := by
  simp [gseHeld]

/-- The sealing engine's page is present on every build, and its unit has an enable. -/
theorem gsePage_enables (bd : Build) : present bd 0x04 = true ∧ hasEnable 0x04 = true := ⟨rfl, rfl⟩

end Sys2Proof.Machine
end

section
/-! The statement of the sealing engine's enable. -/

open Sys2Proof Sys2Proof.Machine

/-- Settles O8: the write reaches PAGE_CTRL, where an open session holds the engine on and nothing else keeps it from its drain; no
change of the page signals. -/
theorem sealingSessionHoldsTheEngineOn : Obligations.SealingSessionHoldsTheEngineOn := by
  intro s m hw hon hv
  obtain ⟨hp, he⟩ := gsePage_enables (fresh s.blk).build
  obtain ⟨h0, h1⟩ := clearedCtrl_bits (pageCtrl s.blk 0x04)
  have hctrl := ctrlCmd_writable hw hv (by decide) 0
  generalize (pageCtrl s.blk 0x04 &&& 0xFFFFFFFC) ||| 0 = v at h0 h1 hctrl
  have hheld := gseHeld_iff (fresh s.blk)
  refine ⟨fun hopen => ?held, fun hnone => ?drains⟩
  case held =>
    have e := hctrl.trans (pageCtrlWrite_held hp he hon h0 (hheld.mpr hopen))
    have hpage := pageAt_modPage_unit (k := 0x04) (b := fresh s.blk) (f := Page.heldOn v) hon (by decide)
    refine ⟨_, becomes_of_act rfl e (modPage_fresh_work hw.1 ..), ?unit, ?enable, ?status, ?frame⟩
    case unit => rw [hpage]; exact hon
    case enable => rw [pageCtrl_enable (gsePage_enables _).1 he, hpage]; simp [Page.heldOn]
    case status => rw [hpage]; rfl
    case frame => rw [modPage_silent (f := Page.heldOn v) (fun _ => rfl)]
  case drains =>
    have hfree : gseHeld (fresh s.blk) = false := by
      rw [Bool.eq_false_iff, Ne, hheld]
      rintro ⟨e, hmem, hst⟩
      exact hst.elim (hnone e hmem).1 (hnone e hmem).2
    have e := hctrl.trans (pageCtrlWrite_drains hp he hon h0 h1 hfree (by decide))
    have hpage := pageAt_modPage_unit (k := 0x04) (b := modPage 0x04 (Page.withCtrl v) (fresh s.blk))
      (f := Page.drains (now (fresh s.blk))) (u := .draining) rfl (by decide)
    refine ⟨_, becomes_of_act rfl e (by rw [modPage_work, modPage_fresh_work hw.1]), ?unit, ?status, ?frame⟩
    case unit => rw [hpage]; rfl
    case status => rw [hpage]; rfl
    case frame =>
      rw [modPage_silent (f := Page.drains (now (fresh s.blk))) (fun _ => rfl), modPage_silent (f := Page.withCtrl v) (fun _ => rfl)]

end

section
/-!
The General Symmetric Engine's queues, said once: what a submission, a completion's pop and a reseed make of them, what a change of them
leaves to the checks of a command, and how a command that passes starts (R159, R167 to R179, R328).
-/

namespace Sys2Proof.Machine

/-! ### Queues and the DRBG -/

theorem doWrite_gseSubmit {v : Word} (h : v.getLsbD 0 = true) (m : Master) (b : Block) : doWrite m 0x04 0x0C0 v b = gseSubmit b :=
  if_pos h

theorem doRead_gseCpl (m : Master) (b : Block) : doRead m 0x04 0x0C8 b = gsePop b := rfl

/-- The 64 bytes staged in GSE_CMD0 to GSE_CMD15. -/
def stagedBytes (b : Block) : Bytes := ((tgets 0 b.gse.desc 0 16).map fun w => leBytes 4 w.toNat).flatten

/-- The command that a submission of them queues. -/
def stagedCmd (b : Block) : GseCmd :=
  { d := parseGse (stagedBytes b), fw := false, rawOp := fieldLE (stagedBytes b) 0 1 % 16, since := now b }

/-- A submission that finds room in the queue takes the staged descriptor. -/
theorem gseSubmit_queues {b : Block} (hd : b.gse.drbgFail = false) (hq : b.gse.opq.length < 8) (hs : b.slip.st = .idle) :
    gseSubmit b = gsePump (modGse (fun g => { g with opq := g.opq ++ [stagedCmd b], desc := [], submitRes := cOk }) b) := by
  have hroom : ¬(b.gse.opq.length ≥ 8 ∨ b.slip.st ≠ .idle) := by simp [hs, hq]
  exact (if_neg (ne_true_of_eq_false hd)).trans (if_neg hroom)

/-- The oldest completion is taken, and one that was held back takes the room. -/
theorem gsePop_oldest {b : Block} {e : GseCpl} {es : List GseCpl} (h : b.gse.cplq = e :: es) : gsePop b =
    (BitVec.ofNat 32 (2 ^ 31 + e.code.toNat + 256 * e.op + 4096 * e.berth),
     gsePump (modGse (fun g => { g with cplq := es ++ g.held.take 1, held := g.held.drop 1, lastTag := e.tag }) b)) := by
  rw [gsePop, h]

theorem regPop_gseCpl {b : Block} {m : Master} {e : GseCpl} {es : List GseCpl} (hr : readable b m 0x04 0x0C8)
    (h : b.gse.cplq = e :: es) : regPop m 0x04 0x0C8 4 b =
    emit (.readData (BitVec.ofNat 32 (2 ^ 31 + e.code.toNat + 256 * e.op + 4096 * e.berth)))
      (gsePump (modGse (fun g => { g with cplq := es ++ g.held.take 1, held := g.held.drop 1, lastTag := e.tag }) (fresh b))) := by
  rw [regPop_readable hr rfl, doRead_gseCpl, gsePop_oldest (b := fresh b) h]

section
variable {b : Block} (hd : b.gse.drbgFail = false) (hdue : 2 ^ 20 ≤ b.gse.drbgUses)
include hd hdue

theorem drbgReseed_due : ¬(b.gse.drbgFail = true ∨ b.gse.drbgUses < 2 ^ 20) :=
  not_or.mpr ⟨ne_true_of_eq_false hd, Nat.not_lt.mpr hdue⟩

theorem drbgReseed_healthy : drbgReseed true b = modGse (fun g => { g with reseeds := inc32 g.reseeds, drbgUses := 0, drbgTries := 0 }) b :=
  (if_neg (drbgReseed_due hd hdue)).trans (if_pos rfl)

/-- A failure before the sixteenth in a row is counted. -/
theorem drbgReseed_fails (ht : b.gse.drbgTries + 1 < 16) :
    drbgReseed false b = modGse (fun g => { g with drbgTries := g.drbgTries + 1 }) b :=
  (if_neg (drbgReseed_due hd hdue)).trans ((if_neg Bool.false_ne_true).trans (if_pos ht))

end

end Sys2Proof.Machine
end

section
/-! The statement of the sealing engine's queues. -/

open Sys2Proof Sys2Proof.Machine

/-- Settles O22: a submission and a pop are register accesses that reach their registers; a reseed that is due is counted by its outcome. -/
theorem gseQueues : Obligations.GseQueues := by
  refine fun s m => ⟨fun v hw hgo hd hq hs => ?submit, fun e es hr hcpl => ?pop, fun ha hd hdue => ⟨?healthy, fun ht => ?fails⟩⟩
  case submit =>
    refine ⟨stagedCmd (fresh s.blk), rfl, rfl, begins_of_act rfl ((regCmd_writable hw v).trans ?_)⟩
    exact (doWrite_gseSubmit hgo m _).trans (gseSubmit_queues (b := fresh s.blk) hd hq hs)
  case pop => exact begins_of_act rfl (regPop_gseCpl hr hcpl)
  case healthy => exact becomes_of_running ha rfl (drbgReseed_healthy hd hdue) ha.2.2
  case fails => exact becomes_of_running ha rfl (drbgReseed_fails hd hdue ht) ha.2.2

end

section
/-!
The sealing engine's commands, said once: what a change of its queues leaves to the checks of a command, and how a command that passes
them starts (R162, R167, R170, R173 to R177, R328).
-/

namespace Sys2Proof.Machine

/-! ### What a change of the engine leaves -/

section
variable (f : Gse → Gse) (b : Block) (w k : Nat)

@[simp] theorem berthAt_modGse : berthAt (modGse f b) w = berthAt b w := rfl
@[simp] theorem tideOf_modGse : tideOf (modGse f b) w = tideOf b w := rfl
@[simp] theorem keyAt_modGse : keyAt (modGse f b) k = keyAt b k := rfl
@[simp] theorem cipherKey_modGse : cipherKey (modGse f b) w k = cipherKey b w k := rfl
@[simp] theorem ckptKid_modGse : ckptKid (modGse f b) w = ckptKid b w := rfl
@[simp] theorem wrapKey_modGse : wrapKey (modGse f b) w = wrapKey b w := rfl
@[simp] theorem maskedCode_modGse (d : GseDesc) : maskedCode (modGse f b) d = maskedCode b d := rfl
@[simp] theorem rawTarget_modGse (h : Word) (off len : Nat) : rawTarget (modGse f b) w h off len = rawTarget b w h off len := rfl

/-- A change of the queues leaves the sessions. -/
@[simp] theorem sessAt_modGse (hf : (f b.gse).sess = b.gse.sess) : sessAt (modGse f b) w = sessAt b w := by
  rw [sessAt, modGse, hf]; rfl

end

/-! ### The checks -/

/-- Checks that all pass find nothing. -/
theorem firstFail_ok {cs : List Byte} (h : ∀ c ∈ cs, c = cOk) : firstFail cs = cOk := by
  induction cs with
  | nil => rfl
  | cons c cs ih => rw [firstFail_cons_ok (h c List.mem_cons_self), ih fun x hx => h x (List.mem_cons_of_mem c hx)]

/-- A command that nothing denies completes with what its other checks find, which is nothing where they pass. -/
theorem gseChecks_pass {p : Bool} {cs : List Byte} (hp : p = false) (h : ∀ c ∈ cs, c = cOk) : firstFail (denyIf p :: cs) = cOk :=
  (firstFail_cons_ok (if_neg (ne_true_of_eq_false hp)) cs).trans (firstFail_ok h)

/-- A guard that holds lets the command on. -/
theorem pass_of_true {p : Bool} (h : p = true) : ¬(!p) = true := by simp [h]

/-- A sector command that passes its checks, of a berth whose checkpoint pair serves, joins the commands in work (R167). -/
theorem startSectors_runs {b : Block} {c : GseCmd} {x : SessState} {live : Bool} (hcheck : sectorCheck b c.d x live = cOk)
    (hpair : ckptServes b c.d.berth = true) :
    startSectors c x live b = fillCores 64 (modGse (fun g => { g with run := g.run ++ [c] }) b) := by
  simp only [startSectors, hcheck, hpair, ne_eq, not_true_eq_false, Bool.not_true, Bool.false_eq_true, if_false]

/-! ### Sealing commands -/

section
variable {b : Block} {d : GseDesc} (hmay : gseMayStart b = true) (hbusy : gseBusy b d.berth = false) (hclean : d.clean = true)
  (hready : sealReady b d.berth = true)
include hmay hbusy hclean hready

theorem sealOpen_queues (hop : d.op = .sealOpen) (hst : (berthAt b d.berth).st = .sealSt) (hwrap : (wrapKey b d.berth).isSome = true)
    (hsess : (sessAt b d.berth).st = .none) (hpair : (ckptKid b d.berth).isSome = true)
    (hrec : (rawTarget b d.berth d.record d.recOff 192).1 = cOk) (hmask : maskedCode b d = cOk) :
    sealOpen d b = queueKeyOp (fwSubmit d b) (fwRead d.berth b) := by
  have hact : ¬(d.op ≠ .sealOpen ∨ gseBusy b d.berth = true) := by simp [hop, hbusy]
  have hstate : ¬(berthAt (fwRead d.berth b) d.berth).st ≠ .sealSt := not_not_intro hst
  have hkey : ¬(wrapKey (fwRead d.berth b) d.berth).isNone = true := by simp [fwRead, Option.isSome_iff_ne_none.mp hwrap]
  refine (if_neg hact).trans ((if_neg (pass_of_true hmay)).trans ((if_neg hstate).trans ((if_neg (pass_of_true hready)).trans
    ((if_neg hkey).trans (if_neg (not_not_intro (gseChecks_pass ?_ ?_)))))))
  · simp [fwRead, hsess, hclean, hpair]
  · simp [fwRead, hrec, hmask]

theorem sealSectors_runs (hop : d.op = .sealRun) (hst : (berthAt b d.berth).st = .sealSt) (hover : (berthAt b d.berth).sealOver = false)
    (hcheck : sectorCheck (fwRead d.berth b) d .sealSt true = cOk) (hpair : ckptServes b d.berth = true) :
    sealSectors d b = fillCores 64 (modGse (fun g => { g with run := g.run ++ [fwSubmit d b] }) (fwRead d.berth b)) := by
  have hact : ¬(d.op ≠ .sealRun ∨ (!gseMayStart b) = true ∨ gseBusy b d.berth = true ∨
      ((berthAt b d.berth).st = .sealSt ∧ ((!sealReady b d.berth) = true ∨ (berthAt b d.berth).sealOver = true))) := by
    simp [hop, hmay, hbusy, hready, hover]
  have hlive : (d.clean && (berthAt b d.berth).st = .sealSt) = true := by simp [hclean, hst]
  refine (if_neg hact).trans ?_
  rw [hlive]
  exact startSectors_runs (c := fwSubmit d b) hcheck hpair

theorem sealClose_queues (hop : d.op = .sealClose) (hsess : (sessAt b d.berth).st = .sealSt)
    (hrec : (rawTarget b d.berth d.record d.recOff 192).1 = cOk) (hmask : maskedCode b d = cOk) :
    sealClose d b = queueKeyOp (fwSubmit d b) (fwRead d.berth b) := by
  have hact : ¬(d.op ≠ .sealClose ∨ gseBusy b d.berth = true ∨ ((berthAt b d.berth).st = .sealSt ∧ (!sealReady b d.berth) = true)) := by
    simp [hop, hbusy, hready]
  refine (if_neg hact).trans ((if_neg (pass_of_true hmay)).trans (if_neg (not_not_intro (gseChecks_pass ?_ ?_))))
  · simp [fwRead, hsess, hclean]
  · simp [fwRead, hrec, hmask]

end

/-! ### Restoring commands -/

section
variable {b : Block} {c : GseCmd}

/-- The first command of its kind that may start is taken off the operator's queue (R178). -/
theorem gseTake_first {op : GseOp} {h : GseCmd → Block → Block} (hmay : gseMayStart b = true) (hroom : b.gse.cplq.length < 8)
    (hs : b.slip.st = .idle) (hc : (b.gse.opq.find? fun c => c.d.clean && c.d.op = op && gseFirst b c) = some c) :
    gseTake op h b = gsePump (h c (modGse (fun g => { g with opq := g.opq.erase c }) b)) := by
  have hact : ¬((!gseMayStart b) = true ∨ b.gse.cplq.length ≥ 8 ∨ b.slip.st ≠ .idle) := by simp [hmay, hroom, hs]
  simp only [gseTake, hact, hc, if_false]

/-- With no record to be read for one, UNSEAL_OPEN starts the next of the queue. -/
theorem unsealOpen_next (h : (b.gse.keyOps.find? fun c => c.reading && c.d.op = .unsealOpen && isWindow b (fld c.d.record 15 0)) = none)
    (gen : BitVec 12) (r : Bytes) : unsealOpen gen r b = unsealStart b := by
  rw [unsealOpen, h]

end

end Sys2Proof.Machine
end

section
/-! The statement of the commands that seal and restore. -/

open Sys2Proof Sys2Proof.Machine

/-- The first half of O23: each sealing command that passes goes on from its own checks. -/
theorem sealCommands_start : sealCommandsStart := by
  intro s d ha hmay hbusy hclean hst hready hmask
  refine ⟨fun hop hwrap hsess hpair hrec => ?opens, fun hop hover hcheck hpair => ?runs, fun hop hsess hrec => ?closes⟩
  case opens => exact begins_of_running ha rfl (sealOpen_queues hmay hbusy hclean hready hop hst hwrap hsess hpair hrec hmask)
  case runs => exact begins_of_running ha rfl (sealSectors_runs hmay hbusy hclean hready hop hst hover hcheck hpair)
  case closes => exact begins_of_running ha rfl (sealClose_queues hmay hbusy hclean hready hop hsess hrec hmask)

/-- The second half of O23: the first command of the queue is taken off it, and its checks are those of the block without it. -/
theorem unsealCommands_start : unsealCommandsStart := by
  rintro s c b ha hmay hs hroom rfl
  have take {op : GseOp} {h : GseCmd → Block → Block} := gseTake_first (op := op) (h := h) (c := c) hmay hroom hs
  refine ⟨fun gen r hc hread hsess hst htide hpair hrec => ?opens, fun hc hcheck hpair => ?runs, fun hc hmask hsess hlast hrec => ?closes⟩
  case opens =>
    refine begins_of_running ha rfl ((unsealOpen_next hread gen r).trans ((take hc).trans (congrArg gsePump ?_)))
    refine if_neg (not_not_intro (gseChecks_pass ?_ ?_))
    · simp [hsess, hst, htide, hpair]
    · simp [hrec]
  case runs => exact begins_of_running ha rfl ((take hc).trans (congrArg gsePump (startSectors_runs hcheck hpair)))
  case closes =>
    refine begins_of_running ha rfl ((take hc).trans (congrArg gsePump ?_))
    refine if_neg (not_not_intro (gseChecks_pass ?_ ?_))
    · simp [hsess, hlast]
    · simp [hrec, hmask]

/-- Settles O23: the firmware's commands and the operator's. -/
theorem sealAndUnsealStart : Obligations.SealAndUnsealStart := ⟨sealCommands_start, unsealCommands_start⟩

end

section
/-!
How work of the sealing engine ends, said once: a rewrap's start, a sector sealed in its core, the end of a key operation and the end
of a restore's wait for the stage (R161, R162, R166, R170, R174, R175).
-/

namespace Sys2Proof.Machine

/-! ### Re-wrap -/

/-- A list that holds one command, however often, finds it. -/
theorem find_only {l : List GseCmd} {c : GseCmd} {p : GseCmd → Bool} (hmem : c ∈ l) (honly : ∀ x ∈ l, x = c) (hp : p c = true) :
    l.find? p = some c := by
  obtain ⟨x, hx⟩ := Option.isSome_iff_exists.mp (List.find?_isSome.mpr ⟨c, hmem, hp⟩)
  rw [hx, honly x (List.mem_of_find?_eq_some hx)]

/-- With no record to be read for the berth, REWRAP starts the firmware's request. -/
theorem rewrap_next {b : Block} {d : GseDesc} (h : recReader b d.berth = none) (gen : BitVec 12) (r : Bytes) :
    rewrap d gen r b = rewrapStart d b := by
  rw [rewrap, h]

/-- A request that passes its checks leaves the firmware's queue and reads its record (R175). -/
theorem rewrapStart_reads {b : Block} {d : GseDesc} {c : GseCmd} (hop : d.op = .rewrap) (hmay : gseMayStart b = true)
    (hs : b.slip.st = .idle) (hc : c.d = d) (hmem : c ∈ b.gse.fwq) (honly : ∀ x ∈ b.gse.fwq, x = c) (hoff : d.recOff % 64 = 0)
    (hA : (keyAt b d.kidA).purpose = 6) (hB : (keyAt b d.kidB).purpose = 6) (hcA : (cipherKey b d.berth d.kidA).isSome = true)
    (hcB : (cipherKey b d.berth d.kidB).isSome = true) (hrec : (rawTarget b d.berth d.record d.recOff 192).1 = cOk) :
    rewrapStart d b = readRecord c (fwRead d.berth (modGse (fun g => { g with fwq := g.fwq.erase c }) b)) := by
  subst hc
  have hact : ¬(c.d.op ≠ .rewrap ∨ (!gseMayStart b) = true ∨ b.slip.st ≠ .idle) := by simp [hop, hmay, hs]
  have hfind := find_only (p := fun x => x.d.berth = c.d.berth && x.d.record = c.d.record && x.d.recOff = c.d.recOff &&
    x.d.kidA = c.d.kidA && x.d.kidB = c.d.kidB) hmem honly (by simp)
  have hcipher : ((cipherKey b c.d.berth c.d.kidA).isSome && (cipherKey b c.d.berth c.d.kidB).isSome) = true := by rw [hcA, hcB]; rfl
  have hcode : firstFail [denyIf (c.d.recOff % 64 ≠ 0 || (keyAt b c.d.kidA).purpose ≠ 6 || (keyAt b c.d.kidB).purpose ≠ 6 || !true),
      (rawTarget b c.d.berth c.d.record c.d.recOff 192).1] = cOk :=
    gseChecks_pass (by simp [hoff, hA, hB]) (by simp [hrec])
  simp only [rewrapStart, hact, hfind, if_false, if_true, fwRead, cipherKey_modGse, keyAt_modGse, rawTarget_modGse, hcipher]
  exact if_neg (not_not_intro hcode)

/-! ### Sectors -/

/-- A core that holds every line of a sector works on it. -/
theorem sectorDone_lines {b : Block} {w i : Nat} {s : GseSec} {c : GseCmd}
    (hsec : (b.gse.secs.find? fun x => x.berth = w && x.sector = i && !x.out) = some s) (hrun : runOf b w = some c)
    (hsrc : (secSource b c i).any (fun p => isWindow b p.1) = false) (hlines : ∀ l, l < 64 → s.lines.any (fun e => e.1 = l) = true)
    (gen : BitVec 12) (data : Bytes) (err : Option Byte) : sectorDone w i gen data err b = cryptSector s c (secBytes s) b := by
  have hall : ((List.range 64).all fun l => s.lines.any fun e => e.1 = l) = true :=
    List.all_eq_true.mpr fun l hl => hlines l (List.mem_range.mp hl)
  simp only [sectorDone, hsec, hrun, hsrc, hall, Bool.false_eq_true, if_false, if_true]

/-- A sector of a SEAL is encrypted under the pair that the berth holds, its digest is added to the command's, and its ciphertext is on its
way to the buffer (R162, R166). -/
theorem cryptSector_seals {b : Block} {s : GseSec} {c : GseCmd} {k o off : Nat} {a t : BitVec 256} {data ct : Bytes}
    (hop : c.d.op = .sealRun) (hk : ckptKid b s.berth = some k) (ha : heldKey b s.berth k = some a) (ht : heldKey b s.berth (k + 1) = some t)
    (hdest : secDest b c s.sector = some (o, off)) (hct : ct = xtsEnc (keyBytes a) (keyBytes t) (leBytes 16 s.sector) data) :
    cryptSector s c data b = fillCores 64 (objWrite s.berth o off ct (.gseOut s.berth s.id)
      (modGse (fun g => { g with run := g.run.map fun x => if x.d.berth = c.d.berth then
          { x with data := if x.data.isEmpty then sectorDigest (sessAt b s.berth).h s.sector ct
                           else xorBytes x.data (sectorDigest (sessAt b s.berth).h s.sector ct) } else x })
        (modSec s.id (fun x => { x with out := true, left := 64, lines := [] }) (drawPiece (count 11 (some s.berth) 1 b))))) := by
  subst hct
  simp only [cryptSector, hk, ha, ht, hdest, hop, Option.bind_some, Option.map_some, if_true]

/-! ### Key operations -/

section
variable {b : Block} {w : Nat} {c : GseCmd} (hc : ((keyCores b).find? fun c => c.d.berth.val = w && c.left = 0 && gseServes b c) = some c)
include hc

theorem keyOpDone_sealOpen (hop : c.d.op = .sealOpen) : keyOpDone w b =
    later .stageFree (doSealOpen c (drawPiece (modGse (fun g => { g with keyOps := g.keyOps.erase c }) b))) := by
  simp only [keyOpDone, hc, hop]

theorem keyOpDone_sealClose (hop : c.d.op = .sealClose) : keyOpDone w b = doSealClose c (drawPiece b) := by
  simp only [keyOpDone, hc, hop]

/-- The end of a restore whose checked pair is in the stage. -/
theorem keyOpDone_unsealOpen (hop : c.d.op = .unsealOpen) (hrest : b.kstg.rest = some w) (hst : b.kstg.st = 3) :
    keyOpDone w b = doUnsealOpen c b := by
  simp only [keyOpDone, hc, hop, hrest, hst, and_self, if_true]

theorem keyOpDone_unsealClose (hop : c.d.op = .unsealClose) : keyOpDone w b =
    later .stageFree (gsePump (doUnsealClose c (drawPiece (modGse (fun g => { g with keyOps := g.keyOps.erase c }) b)))) := by
  simp only [keyOpDone, hc, hop]

theorem keyOpDone_rewrap (hop : c.d.op = .rewrap) : keyOpDone w b = doRewrap c (drawPiece b) := by
  simp only [keyOpDone, hc, hop]

end

/-- A restore that has waited 100 ms for a stage that another holds completes BUSY (R174). -/
theorem restoreTimeout_busy {b : Block} {c : GseCmd}
    (hc : (b.gse.keyOps.find? fun c => c.d.op = .unsealOpen && !c.reading && c.since + msTicks b 100 ≤ now b) = some c)
    (hst : b.kstg.st ≠ 0) (hrest : b.kstg.rest ≠ some c.d.berth.val) (hserves : gseServes b c = true) :
    restoreTimeout b = keyOpEnds c cBusy b := by
  simp only [restoreTimeout, hc, hst, hrest, hserves, Bool.not_true, Bool.false_eq_true, or_self, if_false]

end Sys2Proof.Machine
end

section
/-! The statement of the sealing engine's work. -/

open Sys2Proof Sys2Proof.Machine

/-- Settles O24: a rewrap's start, a sealed sector, the five key operations and the restore's wait, each from its own lemma. -/
theorem gseWorkEnds : Obligations.GseWorkEnds := by
  refine fun s w c ha => ⟨?rewrap, ?sector, fun hc => ?keyOps, fun hc hst hrest hserves => ?timeout⟩
  case rewrap =>
    rintro gen d r b hop hmay hs hread hc hmem honly hoff hA hB hcA hcB hrec rfl
    exact begins_of_running ha rfl ((rewrap_next hread gen r).trans
      (rewrapStart_reads hop hmay hs hc hmem honly hoff hA hB hcA hcB hrec))
  case sector =>
    rintro sec gen i k o off a t data ct b hsec hw rfl hrun hop hsrc hlines hk ha' ht hdest hct rfl
    rw [← hw] at hk ha' ht
    have e := (sectorDone_lines hsec hrun hsrc hlines gen data none).trans (cryptSector_seals hop hk ha' ht hdest hct)
    rw [hw] at e
    exact begins_of_running ha rfl e
  case keyOps =>
    exact ⟨fun hop => begins_of_running ha rfl (keyOpDone_sealOpen hc hop),
      fun hop => begins_of_running ha rfl (keyOpDone_sealClose hc hop),
      fun hop hrest hst => begins_of_running ha rfl (keyOpDone_unsealOpen hc hop hrest hst),
      fun hop => begins_of_running ha rfl (keyOpDone_unsealClose hc hop),
      fun hop => begins_of_running ha rfl (keyOpDone_rewrap hc hop)⟩
  case timeout => exact begins_of_running ha rfl (restoreTimeout_busy hc hst hrest hserves)

end

section
/-!
What a Landing reads as after a change of its record, what the words of a slot leave of the rest of the block, and how a command of the
link's timers acts (R434).
-/

namespace Sys2Proof.Machine

/-- Only what a change makes of the record as it stands is seen in the block. -/
theorem modLnd_congr {n : Nat} {f g : Landing → Landing} {b : Block} (h : f (lndAt b n) = g (lndAt b n)) : modLnd n f b = modLnd n g b :=
  congrArg (fun l => { b with lnds := tset {} b.lnds n l }) h

/-- A changed record that is not the unlisted one is read back. -/
theorem lndAt_modLnd_self {n : Nat} {f : Landing → Landing} {b : Block} (h : f (lndAt b n) ≠ {}) :
    lndAt (modLnd n f b) n = f (lndAt b n) :=
  tget_tset_self _ b.lnds n h

/-- The words of a slot that is reached change the Landing's record and nothing else. -/
theorem reachSlot_frame (n slot : Nat) (b : Block) : ∃ ls, reachSlot n slot b = { b with lnds := ls } := by
  by_cases h : (lndAt b n).rxSlot < slot
  · exact ⟨_, if_pos h⟩
  · exact ⟨_, if_neg h⟩

@[simp] theorem xingBerth_reachSlot (n slot m x : Nat) (b : Block) : xingBerth (reachSlot n slot b) m x = xingBerth b m x := by
  obtain ⟨_, e⟩ := reachSlot_frame n slot b; rw [e]; rfl

theorem begins_of_powered {c : Instr} {f : Block → Block} {s : State} {b : Block} (ha : awake s.blk) (hs : s.blk.slip.st = .idle)
    (hc : exec c s = act (powered f) s) (e : f s.blk = b) : begins c s b :=
  begins_of_act hc ((powered_awake ha hs f).trans e)

theorem becomes_of_powered {c : Instr} {f : Block → Block} {s : State} {b : Block} (ha : awake s.blk) (hs : s.blk.slip.st = .idle)
    (hc : exec c s = act (powered f) s) (e : f s.blk = b) (h : b.work = []) : becomes c s b :=
  becomes_of_act hc ((powered_awake ha hs f).trans e) h

end Sys2Proof.Machine
end

section
/-! A transmitted round's start, and the markers of a received one (R187, R188, R191). -/

namespace Sys2Proof.Machine

/-- What a Landing's record holds of a good marker of round r, aligned or not (R188). -/
def noteMark (aligned : Bool) (r : Nat) (l : Landing) : Landing :=
  { l with aligned := aligned, goodMark := (r + 1) % 2 ^ 64, badMark := 0, roundRx := r }

theorem noteMark_listed (r : Nat) (l : Landing) : noteMark true r l ≠ {} :=
  fun h => Bool.noConfusion (congrArg Landing.aligned h)

@[simp] theorem beginReceived_work (n : Nat) (b : Block) : (beginReceived n b).work = b.work := rfl

/-- A slot map that takes effect brings nothing about in other units. -/
@[simp] theorem applyMaps_work (n : Nat) (rx : Bool) (r : Nat) (b : Block) : (applyMaps n rx r b).work = b.work :=
  (apply_ite Block.work _ _ _).trans (ite_self _)

section
variable {n : Nat} {b : Block} (hup : (lndAt b n).st ≠ .down) (hs : b.slip.st = .idle)
include hup hs

/-- The round that starts once the last slot of the one before has gone (R187). -/
theorem startRound_next {r : Nat} {b' : Block} (hrst : (lndAt b n).inRst = false) (hlast : 62 ≤ (lndAt b n).txSlot)
    (hr : r = if (lndAt b n).started then (lndAt b n).roundTx + 1 else 0)
    (hb : b' = modLnd n (fun l => { l with
      roundTx := r, started := true, txSlot := 0, txTokens := min 32240 (l.txTokens + 16120) }) b) :
    startRound n b = (List.range 32).foldl (fun b x => roundXing n r x b)
      (helloDueNow n r (applyMaps n false r (emit (.marker n r ((List.range 8).map (markerWord n b' r))) b'))) := by
  have hact : ¬((lndAt b n).st = .down ∨ (lndAt b n).inRst = true ∨ (lndAt b n).txSlot < 62) :=
    not_or.mpr ⟨hup, not_or.mpr ⟨Bool.eq_false_iff.mp hrst, Nat.not_lt.mpr hlast⟩⟩
  have hgoes : b'.slip.st = .idle := by rw [hb, modLnd_slip, hs]
  subst hr hb
  exact (if_neg hact).trans (congrArg (fun b => (List.range 32).foldl (fun b x => roundXing n _ x b)
    (helloDueNow n _ (applyMaps n false _ b))) (if_pos hgoes))

/-- The second good marker in sequence aligns the Landing, and its round is received. -/
theorem takeMarker_inSequence {ws : List Bytes} (hgood : markersGood ws = true) (hnext : (lndAt b n).goodMark = roundOfMarker ws)
    (hpos : roundOfMarker ws ≠ 0) (hlt : roundOfMarker ws < 2 ^ 64) :
    takeMarker n ws b = applyMaps n true (roundOfMarker ws) (beginReceived n (modLnd n (noteMark true (roundOfMarker ws)) b)) := by
  have hact : ¬((lndAt b n).st = .down ∨ b.slip.st ≠ .idle) := not_or.mpr ⟨hup, not_not_intro hs⟩
  have hfollows : ((lndAt b n).aligned || (lndAt b n).goodMark = roundOfMarker ws % 2 ^ 64 && (lndAt b n).goodMark ≠ 0) = true :=
    Bool.or_eq_true_iff.mpr (.inr (Bool.and_eq_true_iff.mpr
      ⟨decide_eq_true (hnext.trans (Nat.mod_eq_of_lt hlt).symm), decide_eq_true (hnext.trans_ne hpos)⟩))
  have hnoted : modLnd n (fun l => noteMark (l.aligned || l.goodMark = roundOfMarker ws % 2 ^ 64 && l.goodMark ≠ 0)
      (roundOfMarker ws) l) b = modLnd n (noteMark true (roundOfMarker ws)) b :=
    modLnd_congr (congrArg (fun a => noteMark a (roundOfMarker ws) (lndAt b n)) hfollows)
  have haligned : (lndAt (modLnd n (noteMark true (roundOfMarker ws)) b) n).aligned = true :=
    congrArg Landing.aligned (lndAt_modLnd_self (noteMark_listed _ _))
  calc takeMarker n ws b
    _ = _ := (if_neg hact).trans (if_pos hgood)
    _ = _ := congrArg (fun b => if (lndAt b n).aligned then applyMaps n true (roundOfMarker ws) (beginReceived n b) else b) hnoted
    _ = _ := if_pos haligned

variable {ws : List Bytes} (hbad : markersGood ws = false) (hal : (lndAt b n).aligned = true)
include hbad hal

theorem takeMarker_bad : takeMarker n ws b = if (lndAt b n).badMark ≥ 1 then resetLanding n b
    else beginReceived n (modLnd n (fun l => { l with badMark := l.badMark + 1 }) b) := by
  have hact : ¬((lndAt b n).st = .down ∨ b.slip.st ≠ .idle) := not_or.mpr ⟨hup, not_not_intro hs⟩
  exact (if_neg hact).trans ((if_neg (Bool.eq_false_iff.mp hbad)).trans (if_neg (pass_of_true hal)))

/-- One bad marker is borne. -/
theorem takeMarker_bad_first (hfirst : (lndAt b n).badMark = 0) :
    takeMarker n ws b = beginReceived n (modLnd n (fun l => { l with badMark := 1 }) b) := by
  rw [takeMarker_bad hup hs hbad hal, if_neg (by omega)]
  exact congrArg (beginReceived n) (modLnd_congr (by simp only [hfirst]))

end

end Sys2Proof.Machine
end

section
/-! The statement of rounds and markers. -/

open Sys2Proof Sys2Proof.Machine

/-- Settles O25: the round's start, and the three markers of an aligned or aligning Landing. -/
theorem roundsAndMarkers : Obligations.RoundsAndMarkers := by
  refine fun s n ws ha hs hup => ⟨fun r b hrst hlast hr hb => ?starts, fun hgood hnext hpos hlt => ?aligns,
    fun hbad hal => ⟨fun hfirst => ?borne, fun hsecond => ?resets⟩⟩
  case starts => exact begins_of_running ha rfl (startRound_next hup hs hrst hlast hr hb)
  case aligns => exact becomes_of_running ha rfl (takeMarker_inSequence hup hs hgood hnext hpos hlt) ((applyMaps_work ..).trans ha.2.2)
  case borne => exact becomes_of_running ha rfl (takeMarker_bad_first hup hs hbad hal hfirst) ha.2.2
  case resets => exact begins_of_running ha rfl ((takeMarker_bad hup hs hbad hal).trans (if_pos hsecond))

end

section
/-! A slot that is transmitted, and a whole frame that arrives: it is counted and goes by its CRC (R190, R192, R202, R225). -/

namespace Sys2Proof.Machine

/-- The next slot of a Landing that transmits carries its control words, then its frames (R192). -/
theorem transmitSlot_next {n slot : Nat} {errs : List WordErr} {b : Block} (hup : (lndAt b n).st ≠ .down)
    (hrst : (lndAt b n).inRst = false) (hslot : (lndAt b n).txSlot = slot) (hs : b.slip.st = .idle) :
    transmitSlot n slot errs b =
      fillSlot n slot (if (lndAt b n).st = .opened then slotX (lndAt b n).txMap slot else none) 43 130 errs
        (sendControls n slot (modLnd n (fun l => { l with txSlot := slot + 1 }) b)) := by
  have hact : ¬((lndAt b n).st = .down ∨ (lndAt b n).inRst = true ∨ (lndAt b n).txSlot ≠ slot) :=
    not_or.mpr ⟨hup, not_or.mpr ⟨Bool.eq_false_iff.mp hrst, not_not_intro hslot⟩⟩
  exact (if_neg hact).trans (if_neg (not_not_intro hs))

/-- The block that has counted a frame of the slot as received, for the berth of the slot's crossing or of the one it names (R455). -/
def countArrival (n slot : Nat) (raw : Bytes) (b : Block) : Block :=
  count 1 (if (hdrOf raw).type = 8 then none else some (xingBerth b n ((rxOwn (lndAt b n) slot).getD (hdrOf raw).x))) 1
    (modLnd n (fun l => { l with rxUsed := l.rxUsed + ((hdrOf raw).lenw + 3) }) b)

/-- The counted frame is given up: the lines it has written are spoiled, and the rest of its slot is dropped (R225). -/
def dropArrival (n slot : Nat) (raw : Bytes) (b : Block) : Block :=
  dropArea n slot (spoilFrame n (hdrOf raw).x (earlyLines b n slot raw) (countArrival n slot raw b))

section
variable {n slot : Nat} {raw : Bytes} {b : Block} (hword : fieldLE raw 0 1 ≠ 0) (hlen : raw.length = 32 * ((hdrOf raw).lenw + 3))
include hword hlen

/-- A whole frame with a good CRC goes on to the checks of its header. -/
theorem takeWords_good (hfits : (lndAt b n).rxUsed + ((hdrOf raw).lenw + 3) ≤ 130) (hcrc : crcGood raw = true) :
    takeWords n slot raw [] b = checkFrame n slot raw (countArrival n slot raw b) := by
  have hpass : ¬(false = true ∨ 130 < (lndAt b n).rxUsed + ((hdrOf raw).lenw + 3) ∨ raw.length ≠ 32 * ((hdrOf raw).lenw + 3) ∨
      (!crcGood raw) = true) :=
    not_or.mpr ⟨Bool.false_ne_true, not_or.mpr ⟨Nat.not_lt.mpr hfits, not_or.mpr ⟨not_not_intro hlen, pass_of_true hcrc⟩⟩⟩
  exact (if_neg hword).trans ((if_neg fun h => h.1.ne hlen).trans (if_neg hpass))

/-- A whole frame with a bad CRC in a slot of no crossing is a line error, and the rest of the slot is dropped. -/
theorem takeWords_bad (hcrc : crcGood raw = false) (hown : rxOwn (lndAt b n) slot = none) :
    takeWords n slot raw [] b = lineError n (dropArrival n slot raw b) := by
  have hfail : false = true ∨ 130 < (lndAt b n).rxUsed + ((hdrOf raw).lenw + 3) ∨ raw.length ≠ 32 * ((hdrOf raw).lenw + 3) ∨
      (!crcGood raw) = true := .inr (.inr (.inr ((Bool.not_eq_true' _).mpr hcrc)))
  have hnak : (match rxOwn (lndAt b n) slot with
      | some x => sendNak n x 5 (dropArrival n slot raw b)
      | none => dropArrival n slot raw b) = dropArrival n slot raw b := by rw [hown]
  exact (if_neg hword).trans ((if_neg fun h => h.1.ne hlen).trans ((if_pos hfail).trans (congrArg (lineError n) hnak)))

end

/-- The words of a slot that is not past and not dropped are taken. -/
theorem receiveFrame_takes {n slot : Nat} {raw : Bytes} {errs : List WordErr} {b : Block} (hl : listens b n = true)
    (hslot : (lndAt b n).rxSlot ≤ slot) (hdrop : (lndAt (reachSlot n slot b) n).dropSlot ≠ some slot) :
    receiveFrame n slot raw errs b = takeWords n slot raw errs (reachSlot n slot b) := by
  have hact : ¬((!listens b n) = true ∨ slot < (lndAt b n).rxSlot) :=
    not_or.mpr ⟨pass_of_true hl, Nat.not_lt.mpr hslot⟩
  exact (if_neg hact).trans (if_neg hdrop)

theorem receiveType_same {t n slot : Nat} {raw : Bytes} {b : Block} (h : (hdrOf raw).type = t) :
    receiveType t n slot raw b = receiveFrame n slot raw [] b :=
  if_pos h

end Sys2Proof.Machine
end

section
/-! The statement of the slots' frames. -/

open Sys2Proof Sys2Proof.Machine

/-- Settles O26: a slot goes out; a whole frame, whatever row it comes by, is taken as FRAME_RECEIVE takes it. -/
theorem framesReachTheChecks : Obligations.FramesReachTheChecks := by
  rintro s n slot raw b0 b ha hs
  refine ⟨fun hup hrst hslot => begins_of_running ha rfl (transmitSlot_next hup hrst hslot hs), ?_⟩
  rintro hl hslot rfl hdrop hword hlen hfits hb
  have hcount : b = countArrival n slot raw (reachSlot n slot s.blk) := by rw [hb, ← xingBerth_reachSlot n slot n _ s.blk]; rfl
  have htakes := receiveFrame_takes (raw := raw) (errs := []) hl hslot hdrop
  subst hcount
  refine ⟨fun hcrc => ?checks, fun hcrc hown => ?dropped⟩
  case checks =>
    have e := htakes.trans (takeWords_good hword hlen hfits hcrc)
    have typed {k : Nat} (hk : (hdrOf raw).type = k) := (receiveType_same hk).trans e
    exact ⟨begins_of_running ha rfl e, fun hk => begins_of_running ha rfl (typed hk), fun hk => begins_of_running ha rfl (typed hk),
      fun hk => begins_of_running ha rfl (typed hk), fun hk => begins_of_running ha rfl (typed hk),
      fun hk => begins_of_running ha rfl (typed hk)⟩
  case dropped => exact begins_of_running ha rfl (htakes.trans (takeWords_bad hword hlen hcrc hown))

end

section
/-! Steps 2 to 5 of R202 for a frame whose header is good: its generations, its slot and the Toll (R193, R208, R209). -/

namespace Sys2Proof.Machine

theorem tollPays_free {n : Nat} {h : FrameHdr} (ht : h.type < 8) (b : Block) : tollPays n h b = (true, b) :=
  if_pos ht

theorem tollPays_paid {n : Nat} {h : FrameHdr} {b : Block} (ht : 8 ≤ h.type) (hfull : 128 ≤ (lndAt b n).tokens) :
    tollPays n h b = (true, modLnd n (fun l => { l with tokens := l.tokens - 128 }) b) :=
  (if_neg (by omega)).trans (if_pos hfull)

section
variable {n slot : Nat} {raw : Bytes} {b : Block} (hgood : headerGood raw = true)
include hgood

/-- A frame of the link's two generations, or a HELLO, that its slot admits and the Toll pays for is taken: a HELLO by the Landing, another
by its crossing. -/
theorem checkFrame_paid {b' : Block}
    (hgens : (hdrOf raw).type = 8 ∨
      (hdrOf raw).echo = (lndGen b n).toNat ∧ (lndAt b n).peerOk = true ∧ (hdrOf raw).gen = (lndAt b n).peerGen.toNat)
    (hslot : slotTakes b n slot (hdrOf raw) = true) (htoll : tollPays n (hdrOf raw) b = (true, b')) :
    checkFrame n slot raw b = if (hdrOf raw).type = 8 then takeHello n (framePayload raw) b' else takeFrame n raw b' := by
  have hlate : ¬((hdrOf raw).type ≠ 8 ∧ ((hdrOf raw).echo ≠ (lndGen b n).toNat ∨ (!(lndAt b n).peerOk) = true ∨
      (hdrOf raw).gen ≠ (lndAt b n).peerGen.toNat)) := by
    rintro ⟨hne, hold⟩
    obtain ⟨hecho, hpeer, hgen⟩ := hgens.resolve_left hne
    exact hold.elim (· hecho) fun h => h.elim (pass_of_true hpeer) (· hgen)
  exact (if_neg (pass_of_true hgood)).trans ((if_neg hlate).trans ((if_neg (pass_of_true hslot)).trans
    (congrArg (fun t : Bool × Block => if (!t.1) = true then t.2
      else if (hdrOf raw).type = 8 then takeHello n (framePayload raw) t.2 else takeFrame n raw t.2) htoll)))

/-- A frame of an earlier generation is dropped (R58). -/
theorem checkFrame_stale (ht : (hdrOf raw).type ≠ 8) (hecho : (hdrOf raw).echo ≠ (lndGen b n).toNat) :
    checkFrame n slot raw b = lateDrop n b :=
  (if_neg (pass_of_true hgood)).trans (if_pos ⟨ht, .inl hecho⟩)

end

end Sys2Proof.Machine
end

section
/-! The statement of frames with good headers. -/

open Sys2Proof Sys2Proof.Machine

/-- Settles O27: what the Toll takes, then who takes the frame. -/
theorem goodFramesReachTheirCrossing : Obligations.GoodFramesReachTheirCrossing := by
  refine fun b n slot raw hgood => ⟨fun hne hecho hpeer hgen hslot => ?crossing, fun ht hslot hfull => ?hello, fun hne hecho => ?stale⟩
  case crossing =>
    have hpaid {b'} := checkFrame_paid (b' := b') hgood (.inr ⟨hecho, hpeer, hgen⟩) hslot
    exact ⟨fun ht => (hpaid (tollPays_free ht b)).trans (if_neg hne), fun ht hfull => (hpaid (tollPays_paid ht hfull)).trans (if_neg hne)⟩
  case hello => exact (checkFrame_paid hgood (.inl ht) hslot (tollPays_paid ht.ge hfull)).trans (if_pos ht)
  case stale => exact checkFrame_stale hgood hne hecho

end

section
/-! The timers of a link that are due, and the end of a Landing's drain (R204, R207, R214, R219, R324). -/

namespace Sys2Proof.Machine

theorem resendTimeout_due {n x : Nat} {b : Block} (hst : (xingAt b n x).st = .opened) (hsome : (xingAt b n x).unacked ≠ [])
    (hdue : (xingAt b n x).progress + 64 ≤ (lndAt b n).roundTx) :
    resendTimeout n x b = startResend n x (modXing n x (fun i => { i with progress := (lndAt b n).roundTx }) b) :=
  if_pos ⟨hst, (Bool.not_eq_true' _).mpr (List.isEmpty_eq_false_iff.mpr hsome), hdue⟩

/-- A new HELLO exchange brings nothing about in other units. -/
@[simp] theorem beginFord_work (n : Nat) (b : Block) : (beginFord n b).work = b.work := rfl

/-- A Landing that is DOWN, out of reset and ON begins its HELLO exchange when `phy_up` is high (R207). -/
theorem enterFord_down {n : Nat} {b : Block} (hst : (lndAt b n).st = .down) (hrst : (lndAt b n).inRst = false)
    (hon : (pageAt b (0x40 + n)).unit = .on) (hs : b.slip.st = .idle) :
    enterFord n b = raise (0x40 + n) 1 (beginFord n (modLnd n (fun l => { l with phyUp := true }) b)) := by
  have hread : lndAt (modLnd n (fun l => { l with phyUp := true }) b) n = { lndAt b n with phyUp := true } :=
    lndAt_modLnd_self fun h => Bool.noConfusion (congrArg Landing.phyUp h)
  refine if_pos ⟨?_, ?_, hon, hs⟩
  · rw [hread]; exact hst
  · rw [hread]; exact (Bool.not_eq_true' _).mpr hrst

theorem fordTimeout_due {n : Nat} {b : Block} (hst : (lndAt b n).st = .ford) (hlink : (lndAt b n).linked = false)
    (hstall : (lndAt b n).fordStall = false) (hdue : (lndAt b n).fordTick + msTicks b (fld (reg b 0x8044) 15 0) ≤ now b) :
    fordTimeout n b = raise (0x40 + n) 5 (modLnd n (fun l => { l with fordStall := true }) b) :=
  if_pos ⟨hst, (Bool.not_eq_true' _).mpr hlink, (Bool.not_eq_true' _).mpr hstall, hdue⟩

theorem proveTimeout_due {n x : Nat} {b : Block} (hst : (xingAt b n x).st = .proving) (hstall : (xingAt b n x).stalled = false)
    (hdue : (xingAt b n x).since + msTicks b (fld (reg b 0x8044) 31 16) ≤ now b) :
    proveTimeout n x b = raise (0x40 + n) 7 (modXing n x (fun i => { i with stalled := true }) b) :=
  if_pos ⟨hst, (Bool.not_eq_true' _).mpr hstall, hdue⟩

section
variable {n r : Nat} {b : Block} (hunit : (pageAt b (0x40 + n)).unit = .draining) (hr : (lndAt b n).drainRound = some r)
include hunit hr

theorem isDraining_since : isDraining b n = true :=
  Bool.and_eq_true_iff.mpr ⟨Bool.or_eq_true_iff.mpr (.inl (decide_eq_true hunit)), Option.isSome_iff_exists.mpr ⟨r, hr⟩⟩

theorem landingDrained_clear (hclear : holdsUnacked b n = false) : landingDrained n b = drainedLanding n b :=
  if_pos ⟨isDraining_since hunit hr, .inr ((Bool.not_eq_true' _).mpr hclear)⟩

theorem landingDrainTimeout_due (hdue : r + 64 ≤ (lndAt b n).roundTx) : landingDrainTimeout n b = drainedLanding n b :=
  calc landingDrainTimeout n b
    _ = if isDraining b n = true ∧ r + 64 ≤ (lndAt b n).roundTx then drainedLanding n b else b :=
      congrArg (fun round : Option Nat => match round with
        | some r => if isDraining b n = true ∧ r + 64 ≤ (lndAt b n).roundTx then drainedLanding n b else b
        | none => b) hr
    _ = drainedLanding n b := if_pos ⟨isDraining_since hunit hr, hdue⟩

end

end Sys2Proof.Machine
end

section
/-! The statement of the link's timers and the Landing's drains. -/

open Sys2Proof Sys2Proof.Machine

/-- The first half of O29: what each timer of a link does when it is due. -/
theorem linkTimers_act : linkTimers := by
  refine fun s n x ha hs => ⟨fun hst hsome hdue => ?resend, fun hst hrst hon => ?enter, fun hst hlink hstall hdue => ?ford,
    fun hst hstall hdue => ?prove⟩
  case resend => exact begins_of_powered ha hs rfl (resendTimeout_due hst hsome hdue)
  case enter =>
    exact becomes_of_powered ha hs rfl (enterFord_down hst hrst hon hs) ((raise_work ..).trans ((beginFord_work ..).trans ha.2.2))
  case ford => exact becomes_of_powered ha hs rfl (fordTimeout_due hst hlink hstall hdue) ((raise_work ..).trans ha.2.2)
  case prove => exact becomes_of_powered ha hs rfl (proveTimeout_due hst hstall hdue) ((raise_work ..).trans ha.2.2)

/-- The second half of O29: a drain ends when nothing is left to acknowledge, and after 64 rounds. -/
theorem landingDrains_end : landingDrains :=
  fun _ _ _ ha hunit hr => ⟨fun hclear => begins_of_running ha rfl (landingDrained_clear hunit hr hclear),
    fun hdue => begins_of_running ha rfl (landingDrainTimeout_due hunit hr hdue)⟩

/-- Settles O29: the timers of links, and the drains of Landings. -/
theorem linkTimersAndDrains : Obligations.LinkTimersAndDrains := ⟨linkTimers_act, landingDrains_end⟩

end

section
/-!
Byte strings put together and read again (R7): the numbers of a header, the parts of a frame, and the CRC at the end of a frame or a
control word (R189, R193 to R196).
-/

namespace Sys2Proof.Machine

/-! ### Byte strings -/

theorem leBytes_zero (v : Nat) : leBytes 0 v = [] := rfl
theorem leBytes_succ (n v : Nat) : leBytes (n + 1) v = BitVec.ofNat 8 v :: leBytes n (v / 256) := rfl
theorem leNat_nil : leNat [] = 0 := rfl
theorem leNat_cons (b : Byte) (bs : Bytes) : leNat (b :: bs) = b.toNat + 256 * leNat bs := rfl
theorem slice_eq (bs : Bytes) (o n : Nat) :
    slice bs o n = (bs.drop o).take n ++ List.replicate (n - ((bs.drop o).take n).length) 0 := rfl
theorem fieldLE_eq (bs : Bytes) (o n : Nat) : fieldLE bs o n = leNat (slice bs o n) := rfl

@[simp] theorem length_leBytes (n v : Nat) : (leBytes n v).length = n := by
  induction n generalizing v with
  | zero => rfl
  | succ n ih => rw [leBytes_succ, List.length_cons, ih]

/-- The bytes of a number spell what n bytes hold of it. -/
theorem leNat_leBytes (n v : Nat) : leNat (leBytes n v) = v % 256 ^ n := by
  induction n generalizing v with
  | zero => rw [leBytes_zero, leNat_nil, Nat.pow_zero, Nat.mod_one]
  | succ n ih =>
    have hpow : 256 ^ (n + 1) = 256 * 256 ^ n := Nat.pow_succ'
    rw [leBytes_succ, leNat_cons, ih, BitVec.toNat_ofNat, hpow, Nat.mod_mul]

@[simp] theorem length_slice (bs : Bytes) (o n : Nat) : (slice bs o n).length = n := by
  rw [slice_eq, List.length_append, List.length_replicate, List.length_take]
  omega

/-- A slice as long as the bytes in front is those bytes. -/
theorem slice_append_left {as : Bytes} {n : Nat} (h : as.length = n) (bs : Bytes) : slice (as ++ bs) 0 n = as := by
  rw [slice_eq, List.drop_zero, List.take_left' h, h, Nat.sub_self, List.replicate_zero, List.append_nil]

theorem slice_append_right {as : Bytes} {o : Nat} (h : as.length ≤ o) (bs : Bytes) (n : Nat) :
    slice (as ++ bs) o n = slice bs (o - as.length) n := by
  rw [slice_eq, slice_eq, List.drop_append, List.drop_eq_nil_of_le h, List.nil_append]

/-- The number at the front is read back. -/
theorem fieldLE_first (n v : Nat) (bs : Bytes) : fieldLE (leBytes n v ++ bs) 0 n = v % 256 ^ n := by
  rw [fieldLE_eq, slice_append_left (length_leBytes n v), leNat_leBytes]

/-- A field past the number at the front is a field of what follows it. -/
theorem fieldLE_past {k o : Nat} (h : k ≤ o) (v : Nat) (bs : Bytes) (n : Nat) :
    fieldLE (leBytes k v ++ bs) o n = fieldLE bs (o - k) n := by
  rw [fieldLE_eq, slice_append_right ((length_leBytes k v).trans_le h), length_leBytes, fieldLE_eq]

/-! ### The header -/

theorem b2n_le_one (p : Bool) : b2n p ≤ 1 := by cases p <;> decide

theorem bit_of_b2n {v i : Nat} {p : Bool} (h : v / 2 ^ i % 2 = b2n p) : bit v i = p := by
  refine Nat.testBit_eq_decide_div_mod_eq.trans ?_
  rw [h]
  cases p <;> rfl

/-- Byte 0 of a header holds the TYPE and the version (R193). -/
theorem typeByte_reads {t v : Nat} (ht : t < 16) (hv : v < 16) :
    (t + 16 * v) % 256 = t + 16 * v ∧ (t + 16 * v) % 16 = t ∧ (t + 16 * v) / 16 = v := by omega

/-- Byte 1 of a header holds the crossing and the two phases (R193). -/
theorem phaseByte_reads {x : Nat} (hx : x < 32) (k g : Bool) :
    (x + 32 * b2n k + 64 * b2n g) % 256 = x + 32 * b2n k + 64 * b2n g ∧ (x + 32 * b2n k + 64 * b2n g) % 32 = x ∧
    bit (x + 32 * b2n k + 64 * b2n g) 5 = k ∧ bit (x + 32 * b2n k + 64 * b2n g) 6 = g := by
  have hk := b2n_le_one k
  have hg := b2n_le_one g
  exact ⟨by omega, by omega, bit_of_b2n (by omega), bit_of_b2n (by omega)⟩

/-- The ten numbers of a header are read where they were put. -/
theorem hdrOf_hdrBytes (h : FrameHdr) (rest : Bytes) (htype : h.type < 16) (hver : h.ver < 16) (hx : h.x < 32) (hlenw : h.lenw < 256)
    (howner : h.owner < 64) (hcid : h.cid < 2 ^ 32) (hv : h.v < 2 ^ 64) (hgen : h.gen < 4096) (hecho : h.echo < 4096)
    (hhandle : h.handle < 2 ^ 32) (hline : h.line < 2 ^ 24) : hdrOf (hdrBytes h ++ rest) = h := by
  obtain ⟨hbyte0, htype', hver'⟩ := typeByte_reads htype hver
  obtain ⟨hbyte1, hx', hk, hg⟩ := phaseByte_reads hx h.kph h.gph
  have small {v m n : Nat} (hv : v < m) (hmn : m ≤ n) : v % n = v := Nat.mod_eq_of_lt (hv.trans_le hmn)
  simp only [hdrOf, hdrBytes, List.append_assoc, fieldLE_past, fieldLE_first, Nat.reduceLeDiff, Nat.reduceSub, le_refl, Nat.sub_self,
    Nat.one_le_ofNat]
  simp only [pow_one, hbyte0, htype', hver', hbyte1, hx', hk, hg, small hlenw, small howner, small hcid, small hv, small hgen,
    small hecho, small hhandle, small hline, Nat.reducePow, Nat.reduceLeDiff]

/-! ### The CRC and the parts of a frame -/

/-- Bytes with their own CRC behind them pass. -/
theorem crcGood_append (w : Bytes) : crcGood (w ++ leBytes 4 (crc32c w).toNat) = true := by
  have hlen : (w ++ leBytes 4 (crc32c w).toNat).length - 4 = w.length := by simp
  have hcrc : fieldLE (w ++ leBytes 4 (crc32c w).toNat) w.length 4 = (crc32c w).toNat := by
    rw [fieldLE_eq, slice_append_right le_rfl, Nat.sub_self, ← List.append_nil (leBytes 4 _), ← fieldLE_eq, fieldLE_first]
    exact Nat.mod_eq_of_lt (crc32c w).isLt
  refine decide_eq_true ?_
  rw [hlen, hcrc, List.take_left]

@[simp] theorem length_hdrBytes (h : FrameHdr) : (hdrBytes h).length = 32 := rfl

/-- A built frame is its header word, its payload and a tag word that begins with the tag (R195). -/
theorem frameBytes_parts (h : FrameHdr) (ct tag : Bytes) (replay : Bool) :
    ∃ t : Bytes, t.length = 32 ∧ slice t 0 16 = slice tag 0 16 ∧ frameBytes h ct tag replay = hdrBytes h ++ ct ++ t := by
  refine ⟨slice tag 0 16 ++ (leBytes 1 (b2n replay) ++ (List.replicate 11 0 ++ leBytes 4 (crc32c
    (hdrBytes h ++ ct ++ slice tag 0 16 ++ leBytes 1 (b2n replay) ++ List.replicate 11 0)).toNat)), by simp, slice_append_left (by simp) _, ?_⟩
  simp only [frameBytes, List.append_assoc]

theorem crcGood_frameBytes (h : FrameHdr) (ct tag : Bytes) (replay : Bool) : crcGood (frameBytes h ct tag replay) = true :=
  crcGood_append _

theorem framePayload_frameBytes (h : FrameHdr) (ct tag : Bytes) (replay : Bool) : framePayload (frameBytes h ct tag replay) = ct := by
  obtain ⟨t, ht, -, e⟩ := frameBytes_parts h ct tag replay
  have hlen : (hdrBytes h ++ ct ++ t).length - 64 = ct.length := by
    simp only [List.length_append, length_hdrBytes, ht]
    omega
  rw [e, framePayload, hlen, List.append_assoc, List.drop_left' (length_hdrBytes h), List.take_left]

theorem frameTail_frameBytes (h : FrameHdr) (ct tag : Bytes) (replay : Bool) :
    slice (frameTail (frameBytes h ct tag replay)) 0 16 = slice tag 0 16 := by
  obtain ⟨t, ht, htag, e⟩ := frameBytes_parts h ct tag replay
  have hlen : (hdrBytes h ++ ct ++ t).length - 32 = (hdrBytes h ++ ct).length := by
    rw [List.length_append, ht, Nat.add_sub_cancel]
  have htail := slice_append_left ht []
  rw [List.append_nil] at htail
  rw [e, frameTail, hlen, slice_append_right le_rfl, Nat.sub_self, htail, htag]

theorem crcGood_ctlWord (b : Block) (n : Nat) (c : Bytes) : crcGood (ctlWord b n c) = true :=
  crcGood_append _

end Sys2Proof.Machine
end

section
/-! The statement of built frames. -/

open Sys2Proof Sys2Proof.Machine

/-- Settles O30: a header reads back as it was built, and what is built with its CRC passes. -/
theorem builtFramesReadBack : Obligations.BuiltFramesReadBack :=
  ⟨hdrOf_hdrBytes, fun h ct tag replay b n c => ⟨crcGood_frameBytes h ct tag replay, framePayload_frameBytes h ct tag replay,
    frameTail_frameBytes h ct tag replay, crcGood_ctlWord b n c⟩⟩

end

section
/-! The statements of the Hold's canonical form. -/

open Sys2Proof Sys2Proof.Machine

/-- Settles O58: a step is the front command's meaning or a tick, and both keep the Hold's memory canonical. -/
theorem holdMemoryStaysCanonical : Obligations.HoldMemoryStaysCanonical :=
  fun _ _ hs e => (keeps_step e).mem hs

/-- Settles O60: at reset the Hold's memory lists no byte. -/
theorem resetMemoryIsCanonical : Obligations.ResetMemoryIsCanonical :=
  show Memory.wf [] = true from rfl

end

section
/-!
How what waits on a line of the Hold goes on, said once: a read, a crossing's frame, a recycle (R204, R227, R229).
-/

namespace Sys2Proof.Machine

section
variable {b : Block} {id : Nat} {r : WaitRead} (hfind : (b.hold.waits.find? fun r => r.id = id) = some r)
include hfind

theorem resumeRead_waiting (hready : r.ready = false) : resumeRead id b = b := by
  simp [resumeRead, hfind, hready]

/-- A command's read that may go on waits no longer. -/
theorem resumeRead_command {c i : Nat} (hop : r.op = .cmd c i) (hready : r.ready = true) :
    resumeRead id b = cmdResume c i (modHold (fun h => { h with waits := h.waits.erase r }) b) := by
  simp [resumeRead, hfind, hop, hready]

end

/-- A recycle of no program empties its lines, then performs its signal. -/
theorem resumeRecycle_ready {b : Block} {id : Nat} {r : Recycle} (hfind : (b.hold.recycles.find? fun r => r.id = id) = some r)
    (hready : recycleReady b r.lines = true) (hop : r.op = .none) : resumeRecycle id b =
      deferredSignal r.sig (r.lines.foldl (fun b l => emptyLine l b)
        (modHold (fun h => { h with recycles := h.recycles.erase r }) b)) := by
  simp [resumeRecycle, hfind, hready, hop]

@[simp] theorem pinLines_work (ls : List Nat) (b : Block) : (pinLines ls b).work = b.work := by
  induction ls generalizing b with
  | nil => rfl
  | cons l ls ih => exact ih _

/-- The crossing that waits longest waits behind no other. -/
theorem pinResume_oldest {b : Block} {n x : Nat} {rest : List (Nat × Nat)} {t : TxItem} (hwaits : b.hold.pinWaits = (n, x) :: rest)
    (hitem : (xingAt b n x).pinItem = some t) (hpin : canPin b t.lines = true) : pinResume n x b =
      pinLines t.lines (modXing n x (fun i => { i with
          pinItem := none, sendq := i.sendq.map fun u => if u = t then { u with pinned := true } else u })
        (modHold (fun h => { h with pinWaits := rest }) b)) := by
  have hpopped : modHold (fun h => { h with pinWaits := h.pinWaits.erase (n, x) }) b = modHold (fun h => { h with pinWaits := rest }) b := by
    simp [modHold, hwaits]
  simp [pinResume, hitem, hwaits, hpin, hpopped]

end Sys2Proof.Machine
end

section
/-! The statement of the Hold's waits. -/

open Sys2Proof Sys2Proof.Machine

/-- Settles O33: each of the three rows finds what waits and, where it may go on, takes it from those that wait before it acts. -/
theorem holdWaitsResume : Obligations.HoldWaitsResume := by
  intro s ha
  refine ⟨fun id c i r hfind hop => ⟨fun hready => ?goes, fun hready => ?stays⟩, fun n x rest t hwaits hitem hpin => ?pins,
    fun id r hfind hready hop => ?recycles⟩
  case goes => exact begins_of_act rfl ((running_awake ha _).trans (resumeRead_command hfind hop hready))
  case stays => exact becomes_of_running ha rfl (resumeRead_waiting hfind hready) ha.2.2
  case pins =>
    exact becomes_of_running ha rfl (pinResume_oldest hwaits hitem hpin) (by rw [pinLines_work, modXing_work, modHold_work, ha.2.2])
  case recycles => exact begins_of_act rfl ((running_awake ha _).trans (resumeRecycle_ready hfind hready hop))

end

section
/-!
How banks of the Hold move and clear, said once: a run of writes of one value, a table that loses keys, and the Hold as a range command
and the end of its bank set leave it (R230, R231, R234).
-/

namespace Sys2Proof.Machine

/-- One value written at some keys, other than what an unlisted key reads as, is what they read as; every other key reads as before. -/
theorem tget_foldl_tset {α : Type} [DecidableEq α] {d v : α} (hv : v ≠ d) (ks : List Nat) (t : Table α) (j : Nat) :
    tget d (ks.foldl (fun t k => tset d t k v) t) j = if j ∈ ks then v else tget d t j := by
  induction ks generalizing t with
  | nil => rfl
  | cons k ks ih =>
    rw [List.foldl_cons, ih]
    by_cases hk : j = k
    · simp [hk, tget_tset_self d t k hv]
    · simp [hk, tget_tset_ne d t v hk]

/-- A table that loses keys reads as before at those that stay, and as unlisted at the others. -/
theorem tget_filter {α : Type} (d : α) (p : Nat → Bool) (t : Table α) (k : Nat) :
    tget d (t.filter fun e => p e.1) k = if p k then tget d t k else d := by
  induction t with
  | nil => simp
  | cons e t ih =>
    obtain ⟨j, a⟩ := e
    by_cases hj : j = k
    · subst hj
      cases hp : p j <;> simp [hp, tget, ih]
    · cases hp : p j <;> simp [hp, tget, ih, hj]

/-- A run of changes of banks is one change of their table. -/
theorem foldl_setBank (st : Nat → BankState) (ks : List Nat) (b : Block) : ks.foldl (fun b k => setBank k (st k) b) b =
    modHold (fun h => { h with banks := ks.foldl (fun t k => tset .free t k (st k)) h.banks }) b := by
  induction ks generalizing b with
  | nil => rfl
  | cons k ks ih => exact ih _

/-- The Hold while a range command runs that takes berth w from the banks `old` to the banks `new`, with `ks` on the move. -/
def Hold.moves (w : Nat) (old new : Nat × Nat) (ks : List Nat) (h : Hold) : Hold :=
  { h with
    banks := ks.foldl (fun t k => tset .free t k .transit) h.banks
    cmd := some { base := new.1, count := new.2, berth := w, old := old }
    ranges := tset (0, 0) h.ranges w (meetRange old new)
    sets := h.sets ++ [⟨ks, .range⟩] }

theorem doWrite_holdRange {v : Word} (hgo : v.getLsbD 31 = true) {b : Block} (hon : (pageAt b 0x10).unit = .on) (m : Master) :
    doWrite m 0x10 0x044 v b = holdRangeCmd m v b :=
  (if_pos hgo).trans (if_pos hon)

/-- A range command that passes its checks and moves banks changes the Hold alone. -/
theorem holdRangeCmd_moves {b : Block} {v : Word} {new : Nat × Nat} {all : List Nat} (hcmd : b.hold.cmd = none)
    (hcheck : holdRangeCheck b (fld v 10 0) (fld v 21 11) (fld v 26 22) = cOk)
    (hnew : new = if fld v 21 11 = 0 then (0, 0) else (fld v 10 0, fld v 21 11))
    (hall : all = (movedBanks (holdRange b (fld v 26 22)) new).1 ++ (movedBanks (holdRange b (fld v 26 22)) new).2) (hsome : all ≠ [])
    (m : Master) : holdRangeCmd m v b = modHold (Hold.moves (fld v 26 22) (holdRange b (fld v 26 22)) new all) b := by
  subst hnew
  have hne : all.isEmpty = false := by simpa using hsome
  simp only [holdRangeCmd, hcmd, hcheck, ← hall, hne, foldl_setBank, Option.isSome_none, ne_eq, not_true, Bool.false_eq_true, if_false]
  rfl

theorem holdRangeCommand_moves_banks : holdRangeCommandMovesBanks := by
  intro s m v new all hw hgo hon hcmd hcheck hnew hall hsome
  have e := (doWrite_holdRange (b := fresh s.blk) hgo hon m).trans
    (holdRangeCmd_moves (b := fresh s.blk) hcmd hcheck hnew hall hsome m)
  have hbank : ∀ k, bankState (modHold (Hold.moves (fld v 26 22) (holdRange s.blk (fld v 26 22)) new all) (fresh s.blk)) k =
      if k ∈ all then .transit else bankState s.blk k := tget_foldl_tset (by decide) all s.blk.hold.banks
  exact ⟨_, becomes_of_regCmd hw rfl e (fresh_work_awake hw.1), rfl, rfl, fun k hk => (hbank k).trans (if_pos hk),
    fun k hk => (hbank k).trans (if_neg hk), rfl, rfl, rfl, rfl⟩

/-! ### The end of a bank set -/

section
variable (ks : List Nat) (b : Block)

/-- Clearing banks is a matter of the Hold alone. -/
theorem clearBanks_frame : ∃ f, clearBanks ks b = modHold f b := ⟨fun _ => (clearBanks ks b).hold, rfl⟩

@[simp] theorem clearBanks_work : (clearBanks ks b).work = b.work := by obtain ⟨_, e⟩ := clearBanks_frame ks b; rw [e, modHold_work]
@[simp] theorem clearBanks_keys : (clearBanks ks b).keys = b.keys := by obtain ⟨_, e⟩ := clearBanks_frame ks b; rw [e, modHold_keys]
@[simp] theorem clearBanks_regs : (clearBanks ks b).regs = b.regs := by obtain ⟨_, e⟩ := clearBanks_frame ks b; rw [e, modHold_regs]
@[simp] theorem clearBanks_berths : (clearBanks ks b).berths = b.berths := by obtain ⟨_, e⟩ := clearBanks_frame ks b; rw [e, modHold_berths]

theorem tagAt_clearBanks (l : Nat) : tagAt (clearBanks ks b) l = if lineBank l ∈ ks then {} else tagAt b l := by
  refine (tget_filter {} (fun k => !ks.contains (lineBank k)) b.hold.tags l).trans ?_
  by_cases hl : lineBank l ∈ ks <;> simp [hl, tagAt]

/-- A line lies in one bank with all its bytes, so it is cleared whole or not at all. -/
theorem lineBytes_clearBanks (l : Nat) : lineBytes (clearBanks ks b) l = if lineBank l ∈ ks then List.replicate 64 0 else lineBytes b l := by
  have hbyte : ∀ i ∈ List.range 64, tget 0 (clearBanks ks b).hold.mem (64 * l + i) =
      if lineBank l ∈ ks then 0 else tget 0 b.hold.mem (64 * l + i) := by
    intro i hi
    have hbank : (64 * l + i) / 32768 = lineBank l := by have := List.mem_range.mp hi; unfold lineBank; omega
    refine (tget_filter 0 (fun k => !ks.contains (k / 32768)) b.hold.mem (64 * l + i)).trans ?_
    by_cases hl : lineBank l ∈ ks <;> simp [hbank, hl]
  refine (List.map_congr_left hbyte).trans ?_
  by_cases hl : lineBank l ∈ ks <;> simp [hl, lineBytes, tgets]

end

/-- The Hold when a range command ends OK whose set were the banks `ks`. -/
def Hold.rangeEnds (ks : List Nat) (c : RangeCmd) (h : Hold) : Hold :=
  { h with
    banks := ks.foldl (fun t k => tset .free t k (if (banksOf (c.base, c.count)).contains k then .owned c.berth else .free)) h.banks
    ranges := tset (0, 0) h.ranges c.berth (c.base, c.count)
    cmd := none
    status := cOk }

theorem rangeSetDone_good {b : Block} {c : RangeCmd} (hcmd : b.hold.cmd = some c) (ks : List Nat) :
    rangeSetDone ks [] b = raise 0x10 1 (modHold (Hold.rangeEnds ks c) b) := by
  have hgood : ks.filter (fun k => !([] : List Nat).contains k) = ks := List.filter_true ks
  simp only [rangeSetDone, hcmd, List.isEmpty_nil, Bool.not_true, Bool.false_and, Bool.false_eq_true, if_false, if_true, hgood, foldl_setBank,
    endRange]
  exact congrArg (raise 0x10 1) rfl

/-- A range command's set that ends with no bad bank clears its banks, ends the command and raises the page's two events. -/
theorem setFinished_range {b : Block} {ks : List Nat} {rest : List BankSet} {c : RangeCmd} (hsets : b.hold.sets = ⟨ks, .range⟩ :: rest)
    (hcmd : b.hold.cmd = some c) : setFinished [] b = raise 0x10 2 (raise 0x10 1 (modHold (Hold.rangeEnds ks c)
      (clearBanks ks (modHold (fun h => { h with sets := rest }) b)))) := by
  simp only [setFinished, bankSetDone, hsets, List.filter_nil, List.foldl_nil]
  rw [rangeSetDone_good (b := clearBanks ks (modHold (fun h => { h with sets := rest }) b)) hcmd]

theorem bankSetEnds_untested {b : Block} (h : b.ecc.test = none) (bad : List Nat) : bankSetEnds bad b = setFinished bad b :=
  if_neg (by simp [setBlocked, h])

theorem bankSet_clears_every_line : bankSetClearsEveryLine := by
  intro s ks rest c ha htest hsets hcmd
  have e := (bankSetEnds_untested htest []).trans (setFinished_range hsets hcmd)
  have htag := tagAt_clearBanks ks (modHold (fun h => { h with sets := rest }) s.blk)
  have hline := lineBytes_clearBanks ks (modHold (fun h => { h with sets := rest }) s.blk)
  refine ⟨_, becomes_of_running ha rfl e (by simp [ha.2.2]), ?_⟩
  simp only [tagAt, lineBytes, raise_hold, modHold_hold] at htag hline ⊢
  refine ⟨rfl, rfl, rfl, rfl, fun l hl => ⟨(hline l).trans (if_pos hl), (htag l).trans (if_pos hl)⟩,
    fun l hl => ⟨(hline l).trans (if_neg hl), (htag l).trans (if_neg hl)⟩, ?_⟩
  simp

end Sys2Proof.Machine
end

section
/-! The statement of the Hold's banks. -/

open Sys2Proof Sys2Proof.Machine

/-- Settles O32: a range command is a change of the Hold that leaves its lines, and the end of its set drops the lines of its banks. -/
theorem holdBanksMoveAndClear : Obligations.HoldBanksMoveAndClear := ⟨holdRangeCommand_moves_banks, bankSet_clears_every_line⟩

end

section
/-!
The two ways in which a line is stored and read back (R238, R246): its bytes and the number they spell, the length of an AES block
(FIPS 197), and a keystream that meets a line twice.
-/

namespace Sys2Proof.Machine

/-! ### A line as a number -/

theorem leNat_lt (bs : Bytes) : leNat bs < 256 ^ bs.length := by
  induction bs with
  | nil => exact Nat.one_pos
  | cons b bs ih =>
    have hb := b.isLt
    rw [leNat_cons, List.length_cons, Nat.pow_succ]
    omega

/-- The number that some bytes spell gives those bytes back. -/
theorem leBytes_leNat (bs : Bytes) : leBytes bs.length (leNat bs) = bs := by
  induction bs with
  | nil => rfl
  | cons b bs ih =>
    have hb := b.isLt
    have hrest : (b.toNat + 256 * leNat bs) / 256 = leNat bs := by omega
    have hfirst : BitVec.ofNat 8 (b.toNat + 256 * leNat bs) = b := by
      apply BitVec.eq_of_toNat_eq
      rw [BitVec.toNat_ofNat]
      omega
    rw [List.length_cons, leNat_cons, leBytes_succ, hrest, hfirst, ih]

theorem leNat_lt_two_pow {n : Nat} {bs : Bytes} (h : bs.length = n) : leNat bs < 2 ^ (8 * n) := by
  rw [Nat.pow_mul, ← h]
  exact leNat_lt bs

/-- A number of n bytes is what its bytes spell. -/
theorem ofNat_leNat_leBytes (n : Nat) (v : BitVec (8 * n)) : BitVec.ofNat (8 * n) (leNat (leBytes n v.toNat)) = v := by
  have hv : v.toNat < 256 ^ n := (Nat.pow_mul 2 8 n) ▸ v.isLt
  rw [leNat_leBytes, Nat.mod_eq_of_lt hv, BitVec.ofNat_toNat, BitVec.setWidth_eq]

theorem leBytes_ofNat_leNat {n : Nat} {bs : Bytes} (h : bs.length = n) : leBytes n (BitVec.ofNat (8 * n) (leNat bs)).toNat = bs := by
  rw [BitVec.toNat_ofNat, Nat.mod_eq_of_lt (leNat_lt_two_pow h), ← h, leBytes_leNat]

theorem lineNat_leBytes (v : BitVec 512) : lineNat (leBytes 64 v.toNat) = v := ofNat_leNat_leBytes 64 v

theorem leBytes_lineNat {d : Bytes} (h : d.length = 64) : leBytes 64 (lineNat d).toNat = d := leBytes_ofNat_leNat h

/-- The mix is a permutation of the lines, so its inverse undoes it. -/
theorem unmixLine_mixLine (g addr : Nat) (key : BitVec 256) {d : Bytes} (h : d.length = 64) :
    unmixLine g addr key (mixLine g addr key d) = d := by
  rw [unmixLine, mixLine, lineNat_leBytes, Equiv.symm_apply_apply, leBytes_lineNat h]

/-! ### Byte strings of one length -/

/-- k byte strings of n bytes each. -/
def Pieces (n k : Nat) (l : List Bytes) : Prop := l.length = k ∧ ∀ p ∈ l, p.length = n

section
variable {n k : Nat} {l : List Bytes} (h : Pieces n k l)
include h

theorem Pieces.cons {p : Bytes} (hp : p.length = n) : Pieces n (k + 1) (p :: l) :=
  ⟨congrArg (· + 1) h.1, List.forall_mem_cons.mpr ⟨hp, h.2⟩⟩

theorem Pieces.reverse : Pieces n k l.reverse :=
  ⟨l.length_reverse.trans h.1, fun p hp => h.2 p (List.mem_reverse.mp hp)⟩

theorem Pieces.length_flatten : l.flatten.length = n * k := by
  have hlens : l.map List.length = List.replicate k n := List.eq_replicate_iff.mpr ⟨by simp [h.1], by simpa using h.2⟩
  rw [List.length_flatten, hlens, List.sum_replicate, smul_eq_mul, Nat.mul_comm]

theorem Pieces.length_getD {i : Nat} (hi : i < k) : (l.getD i []).length = n := by
  rw [← h.1] at hi
  rw [List.getD_eq_getElem l [] hi]
  exact h.2 _ (List.getElem_mem hi)

end

theorem pieces_chunksGo {n : Nat} (hn : 0 < n) {k f : Nat} {bs : Bytes} (hlen : bs.length = n * k) (hf : k ≤ f) :
    Pieces n k (chunksGo n f bs) := by
  induction k generalizing f bs with
  | zero =>
    obtain rfl : bs = [] := List.length_eq_zero_iff.mp hlen
    cases f <;> exact ⟨rfl, by simp [chunksGo]⟩
  | succ k ih =>
    obtain ⟨f, rfl⟩ : ∃ f', f = f' + 1 := ⟨f - 1, by omega⟩
    rw [Nat.mul_succ] at hlen
    obtain ⟨b, rest, rfl⟩ : ∃ b rest, bs = b :: rest := List.exists_cons_of_length_pos (by omega)
    exact (ih (by rw [List.length_drop]; omega) (by omega)).cons (by rw [List.length_take]; omega)

theorem pieces_chunks {n k : Nat} (hn : 0 < n) {bs : Bytes} (hlen : bs.length = n * k) : Pieces n k (chunks n bs) :=
  pieces_chunksGo hn hlen (hlen ▸ Nat.le_mul_of_pos_left k hn)

/-! ### AES blocks -/

@[simp] theorem length_xorBytes (a b : Bytes) : (xorBytes a b).length = min a.length b.length := List.length_zipWith

@[simp] theorem length_mixColumns (m : List Nat) (s : Bytes) : (mixColumns m s).length = 16 := by simp [mixColumns, beBytes]

@[simp] theorem length_shiftRows (s : Bytes) : (shiftRows s).length = 16 := by simp [shiftRows]

theorem length_aesNextWord {k : Nat} {ws : List Bytes} (h : Pieces 4 k ws) (hk : 8 ≤ k) (i : Nat) (rcon : Byte) :
    (aesNextWord i rcon ws).length = 4 := by
  have hlast : (ws.headD []).length = 4 := by
    rw [List.headD_eq_getD]
    exact h.length_getD (by omega)
  have hold := h.length_getD (i := 7) (by omega)
  simp only [aesNextWord]
  split_ifs <;> simp only [length_xorBytes, List.length_map, List.length_append, List.length_drop, List.length_take, hlast, hold] <;> rfl

/-- The key schedule makes whole words. -/
theorem pieces_aesSchedule {k : Nat} {ws : List Bytes} (h : Pieces 4 k ws) (hk : 8 ≤ k) (n i : Nat) (rcon : Byte) :
    Pieces 4 (k + n) (aesSchedule n i rcon ws) := by
  induction n generalizing k ws i rcon with
  | zero => exact h
  | succ n ih =>
    have hcount : k + (n + 1) = k + 1 + n := by omega
    rw [hcount]
    exact ih (h.cons (length_aesNextWord h hk i rcon)) (by omega) ..

/-- AES-256 has 15 round keys of 16 bytes. -/
theorem pieces_aesRoundKeys (key : Bytes) : Pieces 16 15 (aesRoundKeys key) := by
  have hkey : Pieces 4 8 (chunks 4 (slice key 0 32)) := pieces_chunks (by decide) (length_slice ..)
  exact pieces_chunks (by decide) (pieces_aesSchedule hkey.reverse le_rfl 52 8 1).reverse.length_flatten

theorem length_aesRounds {ks : List Bytes} {s : Bytes} (hks : ∀ k ∈ ks, k.length = 16) (hs : s.length = 16) :
    (aesRounds ks s).length = 16 := by
  induction ks, s using aesRounds.induct with
  | case1 s => exact hs
  | case2 k s => simp [aesRounds, hks k]
  | case3 k k' ks s ih =>
    obtain ⟨hk, hrest⟩ := List.forall_mem_cons.mp hks
    exact ih hrest (by simp [hk])

theorem length_aesEnc (key block : Bytes) : (aesEnc key block).length = 16 := by
  obtain ⟨hcount, hlen⟩ := pieces_aesRoundKeys key
  simp only [aesEnc]
  split
  next e => simp [e] at hcount
  next k ks e =>
    rw [e] at hlen
    obtain ⟨hk, hks⟩ := List.forall_mem_cons.mp hlen
    exact length_aesRounds hks (by simp [hk])

/-! ### The keystream of a line -/

/-- The keystream of line i under counter c (R246). -/
def lineStream (enc : BitVec 256) (i c : Nat) : Bytes := (List.range 4).flatMap fun k => aesEnc (keyBytes enc) (ctrBlock i c 0 k)

theorem length_lineStream (enc : BitVec 256) (i c : Nat) : (lineStream enc i c).length = 64 := by
  simp [lineStream, List.length_flatMap, length_aesEnc]

theorem slice_all {d : Bytes} {n : Nat} (h : d.length = n) : slice d 0 n = d := by
  simpa using slice_append_left h []

theorem lineCrypt_line {d : Bytes} (h : d.length = 64) (enc : BitVec 256) (i c : Nat) :
    lineCrypt enc i c d = xorBytes d (lineStream enc i c) := by
  rw [lineCrypt, slice_all h, lineStream]

/-- A keystream as long as the bytes, put on twice, leaves the bytes. -/
theorem xorBytes_xorBytes {a k : Bytes} (h : a.length ≤ k.length) : xorBytes (xorBytes a k) k = a := by
  refine List.ext_getElem (by simp [h]) fun i _ _ => ?_
  simp [xorBytes]

theorem lineCrypt_lineCrypt (enc : BitVec 256) (i c : Nat) {d : Bytes} (h : d.length = 64) :
    lineCrypt enc i c (lineCrypt enc i c d) = d := by
  have hstream := length_lineStream enc i c
  have hlen : (xorBytes d (lineStream enc i c)).length = 64 := by rw [length_xorBytes, h, hstream, Nat.min_self]
  rw [lineCrypt_line h, lineCrypt_line hlen, xorBytes_xorBytes (h.trans hstream.symm).le]

end Sys2Proof.Machine
end

section
/-! The statement of lines that are stored and read back. -/

open Sys2Proof Sys2Proof.Machine

/-- Settles O34: engine S applies a permutation and its inverse, and engine A puts one keystream of 64 bytes on the line twice. -/
theorem storedLinesReadBack : Obligations.StoredLinesReadBack :=
  ⟨fun g addr key _ h => unmixLine_mixLine g addr key h, fun enc i c _ h => lineCrypt_lineCrypt enc i c h⟩

end

section
/-!
What engine S does with a request of the fabric, with the answer of its controller, with a berth's key and with a region entry (R48, R49,
R238 to R240, R271).
-/

namespace Sys2Proof.Machine

/-! ### The fabric path -/

section
variable {b : Block} {g addr w : Nat} (hs : b.slip.st = .idle) (hadm : admitted b g addr w true = true)
include hs hadm

/-- An admitted write goes to the controller mixed. -/
theorem fabricRequest_write (hpatch : patching b g addr = false) (k tid : Nat) (d : Bytes) : fabricRequest g k addr w tid (some d) b =
    sliceWrite g k addr w (if (usedTids b g k).contains tid then freeTid b g k else tid) d b := by
  simp [fabricRequest, hs, hadm, hpatch]

/-- An admitted read goes to the controller, and keeps the tag of the fabric for its answer. -/
theorem fabricRequest_read (k tid : Nat) : fabricRequest g k addr w tid none b =
    sliceRead { group := g, slice := k, tid := if (usedTids b g k).contains tid then freeTid b g k else tid, addr := addr, berth := w,
                fabric := true, write := false, ftid := tid } b := by
  simp [fabricRequest, hs, hadm]

end

/-- A denied write is dropped with no answer (R49). -/
theorem fabricRequest_deniedWrite {b : Block} {g addr w : Nat} (hs : b.slip.st = .idle) (hdeny : admitted b g addr w true = false)
    (k tid : Nat) (d : Bytes) : fabricRequest g k addr w tid (some d) b = denyMems w b := by
  have hsent : (denyMems w b).out ++ deniedAnswer g k tid (some d) = (denyMems w b).out := List.append_nil _
  rw [fabricRequest_denied hs hdeny, hsent]

/-- A denied request brings nothing about in other units. -/
@[simp] theorem denyMems_work (w : Nat) (b : Block) : (denyMems w b).work = b.work := by
  obtain ⟨_, _, _, e⟩ := denyMems_frame w b
  rw [e]

/-- A clean answer ends the fabric's read and goes to it unmixed. -/
theorem mcResponse_fabric {b : Block} {g k tid : Nat} {r : SReq}
    (hfind : (b.mems.reqs.find? fun r => r.group = g && r.slice = k && r.tid = tid) = some r) (hfabric : r.fabric = true) (d : Bytes) :
    mcResponse g k tid d false [] b = answerFabric r d false (modMems (fun m => { m with reqs := m.reqs.erase r }) b) := by
  simp [mcResponse, hfind, hfabric, poisonError, pathRead]

/-! ### The berth's key -/

section
variable {b : Block} {w : Nat}

/-- The LIVE MIX entry of a berth whose key is not in the slices is loaded (R239). -/
theorem mixLoaded_live (hrange : (keyRange b w).2 ≠ 0) (hlive : (keyAt b (keyRange b w).1).st = .live)
    (hmix : (keyAt b (keyRange b w).1).purpose = 3) (hberth : (keyAt b (keyRange b w).1).berth = some w)
    (hnew : (skeyAt b w).loaded = false) : mixLoaded w b =
      (true, modMems (fun m => { m with keys := tset {} m.keys w ⟨(keyRange b w).1, (keyAt b (keyRange b w).1).key, true⟩ }) b) :=
  if_pos ⟨hrange, hlive, hmix, hberth, by simp [hnew]⟩

/-- A key that is loaded while no command of the scheduler runs ends none. -/
theorem mixKeyLoaded_alone (hcmd : (mixLoaded w b).2.sched.cmd = none) : mixKeyLoaded w b = (mixLoaded w b).2 := by
  simp [mixKeyLoaded, hcmd]

/-- A retiring key that no request of its berth uses leaves the slices (R239). -/
theorem mixUnload_unused (hloaded : (skeyAt b w).loaded = true) (hretiring : (keyAt b (skeyAt b w).kid).st = .retiring)
    (hreqs : ∀ r ∈ b.mems.reqs, r.berth ≠ w) (hwrites : ∀ x ∈ b.mems.wq, x.berth ≠ w) :
    mixUnload w b = later (.berthCheck w) (modMems (fun m => { m with keys := tset {} m.keys w {} }) b) :=
  if_pos ⟨hloaded, hretiring, by simpa using hreqs, by simpa using hwrites⟩

end

/-! ### Region entries -/

theorem doWrite_srgnCfg (m : Master) (v : Word) (b : Block) : doWrite m 0x11 0x054 v b = srgnWrite 0x054 v b := rfl

/-- An entry that is not valid takes its configuration, and is valid where VALID is written and it meets no other (R240). -/
theorem srgnWrite_valid {b c : Block} {v : Word} (hgroup : srgnSel b / 32 < b.build.groups) (hnew : (srgnAt b (srgnSel b)).valid = false)
    (hv : v.getLsbD 31 = true) (hc : c = modSrgn (srgnSel b) (fun e => { e with cfg := v &&& 0x7FFFFFFF }) b)
    (hok : srgnOk c (srgnSel b) (srgnAt c (srgnSel b)) = true) :
    srgnWrite 0x054 v b = modSrgn (srgnSel b) (fun e => { e with valid := true }) c := by
  subst hc
  simp only [srgnWrite, ge_iff_le, Nat.not_le.mpr hgroup, hnew, hv, hok, Nat.reduceEqDiff, Bool.not_true, Bool.false_eq_true, if_false,
    if_true]

end Sys2Proof.Machine
end

section
/-! The statements of the fabric's requests and of engine S's keys and regions. -/

open Sys2Proof Sys2Proof.Machine

/-- Settles O35: an admitted request is the slice's write or read, a refused one is a denial with its answer, and a clean answer leaves by
the fabric's tag. -/
theorem fabricRequestsAreMixedAndChecked : Obligations.FabricRequestsAreMixedAndChecked := by
  rintro s g slice addr w tid d t ha hs rfl
  refine ⟨fun hadm => ⟨fun hpatch _ => ?write, ?read⟩, fun hadm => ⟨?deniedRead, ?deniedWrite⟩, fun r hfind hfabric => ?answer⟩
  case write => exact becomes_of_running ha rfl (fabricRequest_write hs hadm hpatch slice tid.toNat d) ha.2.2
  case read => exact becomes_of_running ha rfl (fabricRequest_read hs hadm slice tid.toNat) ha.2.2
  case deniedRead =>
    exact becomes_of_running ha rfl (fabricRequest_denied hs hadm slice tid.toNat none) ((denyMems_work w s.blk).trans ha.2.2)
  case deniedWrite =>
    exact becomes_of_running ha rfl (fabricRequest_deniedWrite hs hadm slice tid.toNat d) ((denyMems_work w s.blk).trans ha.2.2)
  case answer => exact becomes_of_running ha rfl (mcResponse_fabric hfind hfabric d) ha.2.2

/-- Settles O37: under its conditions each of the three rows takes its one way. -/
theorem engineSKeysAndRegions : Obligations.EngineSKeysAndRegions := by
  intro s m w v
  refine ⟨fun ha hrange hlive hmix hberth hnew hcmd => ?load, fun ha hloaded hretiring hreqs hwrites => ?unload,
    fun hw hgroup hnew hv hok => ?region⟩
  case load =>
    have e := mixLoaded_live hrange hlive hmix hberth hnew
    have ealone := mixKeyLoaded_alone (w := w.val) (b := s.blk) (by rw [e]; exact hcmd)
    exact becomes_of_running ha rfl (ealone.trans (congrArg Prod.snd e)) ha.2.2
  case unload => exact begins_of_act rfl ((running_awake ha _).trans (mixUnload_unused hloaded hretiring hreqs hwrites))
  case region =>
    exact becomes_of_regCmd hw rfl ((doWrite_srgnCfg m v _).trans (srgnWrite_valid (b := fresh s.blk) hgroup hnew hv rfl hok))
      (fresh_work_awake hw.1)

end

section
/-!
How a queue scan goes on, said once: a stale reply, the read of the descriptor, the activation, and the fetch (R58, R286, R288, R289, R411).
-/

namespace Sys2Proof.Machine

/-- Only what a change makes of the context as it stands is seen in the block. -/
theorem modCtx_congr {c : Nat} {f g : Ctx → Ctx} {b : Block} (h : f (ctxAt b c) = g (ctxAt b c)) : modCtx c f b = modCtx c g b :=
  congrArg (fun x => { b with ctxs := tset {} b.ctxs c x }) h

/-! ### A read of queue memory -/

section
variable {w o : Nat} {r : RgnEnt} {b d : Block} (hd : d = (if r.kind = 0 then count 6 (some w) 1 else id) b)
include hd

/-- A read of an HBM queue is counted, whatever it meets. -/
theorem queueFetch_counted (bad : Bool) : queueFetch w r o bad b =
    if queueRefused d w r o then (true, denyMems w d)
    else if bad then (true, eccEvent 8 true (some w) 0 r.port (queueFetch.queueAddr d r o) d)
    else (false, d) := by
  obtain rfl : d = if r.kind = 0 then count 6 (some w) 1 b else b := hd.trans (ite_apply ..)
  rfl

theorem queueFetch_refused (href : queueRefused d w r o = true) (bad : Bool) : queueFetch w r o bad b = (true, denyMems w d) :=
  (queueFetch_counted hd bad).trans (if_pos href)

theorem queueFetch_bad (href : queueRefused d w r o = false) :
    queueFetch w r o true b = (true, eccEvent 8 true (some w) 0 r.port (queueFetch.queueAddr d r o) d) :=
  (queueFetch_counted hd true).trans (if_neg (ne_true_of_eq_false href))

theorem queueFetch_good (href : queueRefused d w r o = false) : queueFetch w r o false b = (false, d) :=
  (queueFetch_counted hd false).trans (if_neg (ne_true_of_eq_false href))

end

/-! ### The counts of a descriptor -/

section
variable {w c : Nat} {r : RgnEnt} {d : Bytes} {b : Block} {x : Ctx} {pend : Nat} (hx : x = ctxAt b c)
  (hpend : pend = (cWord d 8 - x.head).toNat)
include hx hpend

theorem scanFetch_outOfRange (h : 2 ^ x.k < pend ∨ 2 ^ x.k < (x.cplTail - cWord d 0x0C).toNat) (cmds : List FetchedCmd) :
    scanFetch w c r d cmds b = loseCtx c cDenied 0x14 0 0 b := by
  subst hx hpend
  exact if_pos h

/-- What is pending is fetched as far as the ring of completions and the command store hold it, and HEAD is written where it moved. -/
theorem scanFetch_inRange {n : Nat} {e : Block} (hpending : pend ≤ 2 ^ x.k) (hissued : (x.cplTail - cWord d 0x0C).toNat ≤ 2 ^ x.k)
    {cmds : List FetchedCmd}
    (hn : n = min (min pend (BitVec.ofNat 32 (2 ^ x.k) - (x.head - cWord d 0x0C)).toNat) ((berthAt b w).cmdq * 16 - storeUse b w))
    (he : e = fetchCmds w c r (cmds.take n) b) :
    scanFetch w c r d cmds b = later (.sched w) (modCtx c (fun y => { y with waiting := ((y.head - x.head).toNat < pend) })
      (if (ctxAt e c).head = x.head then e else descWrite c 0x10 (leBytes 4 (ctxAt e c).head.toNat) e)) := by
  subst hx hpend hn he
  exact if_neg (not_or.mpr ⟨Nat.not_lt.mpr hpending, Nat.not_lt.mpr hissued⟩)

end

/-! ### The scan -/

/-- The scan as it is marked on its context: its window, and no cause left. -/
def scanMarked (w c : Nat) (cause : ScanCause) (b : Block) : Block :=
  modCtx c (fun x => { x with
    lastScan := if cause = .window then
        (if (ctxAt b c).scan = 0 then none else some ((now b - (berthAt b w).loadTick) / (ctxAt b c).scan)) else x.lastScan
    rescan := false, room := false }) b

section
variable {w c off : Nat} {r : RgnEnt} {cause : ScanCause} {d : Bytes} {bad p : Bool} {b e a : Block}

/-- A scan that could not read its descriptor loses an ACTIVE context; one that read it activates a DISABLED context, and fetches for one
that is not DISABLED then. -/
theorem scanNow_fetched (hfetch : queueFetch w r off bad (scanMarked w c cause b) = (p, e))
    (ha : a = if (ctxAt b c).st = .disabled then activateCtx w c d e else e) (cmds : List FetchedCmd) :
    scanNow w c r off cause d bad cmds b =
      if p then (if (ctxAt b c).st = .active then loseCtx c cFetchTrap 0x14 0 0 e else e)
      else if (ctxAt a c).st = .disabled then a else scanFetch w c r d cmds a := by
  subst ha
  rw [scanMarked] at hfetch
  simp only [scanNow, hfetch]

theorem scanNow_unread (hfetch : queueFetch w r off bad (scanMarked w c cause b) = (true, e)) (hst : (ctxAt b c).st = .active)
    (cmds : List FetchedCmd) : scanNow w c r off cause d bad cmds b = loseCtx c cFetchTrap 0x14 0 0 e :=
  ((scanNow_fetched hfetch rfl cmds).trans (if_pos rfl)).trans (if_pos hst)

theorem scanNow_read (hfetch : queueFetch w r off bad (scanMarked w c cause b) = (false, e))
    (ha : a = if (ctxAt b c).st = .disabled then activateCtx w c d e else e) (cmds : List FetchedCmd) :
    scanNow w c r off cause d bad cmds b = if (ctxAt a c).st = .disabled then a else scanFetch w c r d cmds a :=
  (scanNow_fetched hfetch ha cmds).trans (if_neg Bool.false_ne_true)

end

/-! The conditions of R288: the scan's cause applies, its berth is in a job state, and the scheduler is ON. -/
section
variable {b : Block} {w c q off : Nat} {r : RgnEnt} {cause : ScanCause} {gen : BitVec 12} (hberth : (ctxAt b c).berth = some w)
  (hqueue : (ctxAt b c).queue = some (q, off)) (hregion : rgnEnt b w q = some r)
  (hjob : (berthAt b w).st = .joined ∨ (berthAt b w).st = .running) (hdue : scanDue b w c cause = true) (hon : (pageAt b 0x14).unit = .on)
include hberth hqueue hregion hjob hdue hon

/-- A scan that runs drops a reply of an earlier generation of the port, and goes on where the queue's memory answers (R58, R264). -/
theorem scanQueue_runs (d : Bytes) (bad : Bool) (cmds : List FetchedCmd) : scanQueue c cause gen d bad cmds b =
    if queueStale b r gen then recordErr 0x12 cStale none b
    else if !queueAnswers b r gen then b
    else scanNow w c r off cause d bad cmds b := by
  have hruns : ¬(((berthAt b w).st ≠ .joined ∧ (berthAt b w).st ≠ .running) ∨ (!scanDue b w c cause) = true ∨
      (pageAt b 0x14).unit ≠ .on) := by
    rintro (⟨hjoined, hrunning⟩ | hundue | hoff)
    · exact hjob.elim hjoined hrunning
    · exact absurd hundue (by rw [hdue]; decide)
    · exact hoff hon
  simp only [scanQueue, hberth, hqueue, hregion, if_neg hruns]

theorem scanQueue_stale (hstale : queueStale b r gen = true) (d : Bytes) (bad : Bool) (cmds : List FetchedCmd) :
    scanQueue c cause gen d bad cmds b = recordErr 0x12 cStale none b :=
  (scanQueue_runs hberth hqueue hregion hjob hdue hon d bad cmds).trans (if_pos hstale)

theorem scanQueue_answered (hstale : queueStale b r gen = false) (hanswers : queueAnswers b r gen = true) (d : Bytes) (bad : Bool)
    (cmds : List FetchedCmd) : scanQueue c cause gen d bad cmds b = scanNow w c r off cause d bad cmds b := by
  rw [scanQueue_runs hberth hqueue hregion hjob hdue hon, hstale, hanswers]
  rfl

end

end Sys2Proof.Machine
end

section
/-! The statement of queue scans. -/

open Sys2Proof Sys2Proof.Machine

/-- Settles O39: a scan that runs is a stale reply, or the read of the descriptor with what follows from it. -/
theorem queueScanFetchesPending : Obligations.QueueScanFetchesPending := by
  intro s c cause gen d cmds w q off r b0 b1 b2 x n pend ha hs hberth hqueue hregion hjob hdue hon
  refine ⟨fun hstale bad => ?stale, fun hstale hanswers hb0 => ?answered⟩
  case stale =>
    have e := scanQueue_stale hberth hqueue hregion hjob hdue hon hstale d bad cmds
    exact becomes_of_powered ha hs rfl e (by rw [recordErr_work, ha.2.2])
  case answered =>
    have hb0 : b0 = (if r.kind = 0 then count 6 (some w) 1 else id) (scanMarked w c cause s.blk) :=
      hb0.trans (congrArg _ (modCtx_congr rfl))
    have hscan {b : Block} {bad : Bool} (e : scanNow w c r off cause d bad cmds s.blk = b) :
        begins (.queueScan c cause gen d bad cmds) s b :=
      begins_of_powered ha hs rfl ((scanQueue_answered hberth hqueue hregion hjob hdue hon hstale hanswers d bad cmds).trans e)
    refine ⟨fun href hb1 hx hpend => ?read, fun href hst => ?bad, fun href hst bad => ?refused⟩
    case read =>
      have hread := scanNow_read (queueFetch_good hb0 href) hb1 cmds
      rw [← hx] at hread
      refine ⟨fun hst => hscan (hread.trans (if_pos hst)), fun hst hpending hissued hn hb2 => ?fetches, fun hst hrange => ?outOfRange⟩
      case fetches => exact hscan (hread.trans ((if_neg hst).trans (scanFetch_inRange hx hpend hpending hissued hn hb2)))
      case outOfRange => exact hscan (hread.trans ((if_neg hst).trans (scanFetch_outOfRange hx hpend hrange cmds)))
    case bad => exact hscan (scanNow_unread (queueFetch_bad hb0 href) hst cmds)
    case refused => exact hscan (scanNow_unread (queueFetch_refused hb0 href bad) hst cmds)

end

section
/-!
How the oldest command of a context starts and how a finished one retires, said once (R294, R296, R301, R316, R324).
-/

namespace Sys2Proof.Machine

/-- A slice that is not over does not end. -/
theorem sliceEnded_within {c : Nat} {b : Block} (h : (ctxAt b c).resident = true → now b < (ctxAt b c).stop) : sliceEnded c b = b := by
  have hstays : (!(ctxAt b c).resident) = true ∨ now b < (ctxAt b c).stop ∨ pinned (ctxAt b c) = true := by
    cases hres : (ctxAt b c).resident
    · exact .inl rfl
    · exact .inr (.inl (h hres))
  cases hberth : (ctxAt b c).berth <;> simp only [sliceEnded, hberth, if_pos hstays]

section
variable {c w : Nat} {b : Block} {m : Cmd} (hberth : (ctxAt b c).berth = some w) (hold : oldest (ctxAt b c) = some m)
  (hact : (ctxAt b c).st = .active) (hslice : (ctxAt b c).resident = true → now b < (ctxAt b c).stop)
include hberth hold hact hslice

/-- What the start comes to within a slice: POISON behind a fence in ERROR, BUSY at a unit that is OFF, else a start where R294 lets it. -/
theorem startCmd_oldest : startCmd c b =
    if waitFailed b m then later (.sched w) (finishCmd c m.idx cPoison 0 b)
    else if unitOff b m.raw then later (.sched w) (finishCmd c m.idx cBusy 0 b)
    else if !(ctxAt b c).resident ∨ !couldStart b (ctxAt b c) m ∨ (pinned (ctxAt b c) ∧ (ctxAt b c).stop ≤ now b) then b
    else later (.sched w) (trace w
      { kind := 1, ctx := c, layer := cLayer m.raw, op := cOper m.raw, index := m.idx, tag := cTag m.raw }
      (modCmd c m.idx (fun m => { m with started := true, tick := now b }) b)) := by
  simp only [startCmd, sliceEnded_within hslice, hberth, hold, hact, ne_eq, not_true, if_false]

theorem startCmd_waitFailed (hwait : waitFailed b m = true) : startCmd c b = later (.sched w) (finishCmd c m.idx cPoison 0 b) :=
  (startCmd_oldest hberth hold hact hslice).trans (if_pos hwait)

theorem startCmd_unitOff (hwait : waitFailed b m = false) (hunit : unitOff b m.raw = true) :
    startCmd c b = later (.sched w) (finishCmd c m.idx cBusy 0 b) :=
  ((startCmd_oldest hberth hold hact hslice).trans (if_neg (ne_true_of_eq_false hwait))).trans (if_pos hunit)

theorem startCmd_starts (hwait : waitFailed b m = false) (hunit : unitOff b m.raw = false) (hres : (ctxAt b c).resident = true)
    (hcould : couldStart b (ctxAt b c) m = true) : startCmd c b =
      later (.sched w) (trace w { kind := 1, ctx := c, layer := cLayer m.raw, op := cOper m.raw, index := m.idx, tag := cTag m.raw }
        (modCmd c m.idx (fun m => { m with started := true, tick := now b }) b)) := by
  have hgoes : ¬((!(ctxAt b c).resident) = true ∨ (!couldStart b (ctxAt b c) m) = true ∨
      (pinned (ctxAt b c) = true ∧ (ctxAt b c).stop ≤ now b)) := by
    rw [hres, hcould]
    rintro (hout | hheld | ⟨-, hover⟩)
    · exact absurd hout (by decide)
    · exact absurd hheld (by decide)
    · exact absurd (hslice hres) (Nat.not_lt.mpr hover)
  rw [startCmd_oldest hberth hold hact hslice, if_neg (ne_true_of_eq_false hwait), if_neg (ne_true_of_eq_false hunit), if_neg hgoes]

end

theorem retireSignal_none {m : Cmd} (hsig : m.sig = none) (c : Nat) (code : Byte) (b : Block) :
    retireSignal c m code b = (code, false, false, b) := by
  simp only [retireSignal, hsig]

section
variable {c i w : Nat} {b d : Block} {m : Cmd} {code : Byte} (hs : b.slip.st = .idle) (hberth : (ctxAt b c).berth = some w)
  (hcmd : cmdAt b c i = some m) (hdone : m.done = some code) (hsig : m.sig = none) (hnp : fNp m.raw = false)
  (hact : (ctxAt b c).st = .active)
  (hd : d = modCtx c (fun x => { x with cplTail := x.cplTail + 1, cmds := x.cmds.filter fun k => k.idx ≠ i, room := x.waiting })
    (cplWrite c (leBytes 4 (cTag m.raw) ++ leBytes 4 m.idx ++ [code] ++ leBytes 1 0 ++ leBytes 2 (cOper m.raw) ++
      leBytes 4 m.detail.toNat) b))
include hs hberth hcmd hdone hsig hnp hact hd

/-- A preemptible command without a signal writes its record and moves CPL_TAIL on; no overrun is charged (R296, R319). -/
theorem retireNow_record : retireNow c i b = (false, later (.sched w) (trace w
    { kind := 2, status := code, ctx := c, layer := cLayer m.raw, op := cOper m.raw, index := m.idx, tag := cTag m.raw }
    (count 8 (some w) 1 (descWrite c 0x14 (leBytes 4 (ctxAt d c).cplTail.toNat) d)))) := by
  subst hd
  have hcode : (if (decide ((ctxAt b c).st = .lost) && m.started && !m.fault) = true then cLost else code) = code := by simp [hact]
  simp only [retireNow, hberth, hcmd, hdone, hs, hcode, retireSignal_none hsig, hnp, b2n, ne_eq, not_true, Bool.false_and,
    Bool.false_eq_true, if_false]

theorem retireCmd_record : retireCmd c i b = later (.sched w) (trace w
    { kind := 2, status := code, ctx := c, layer := cLayer m.raw, op := cOper m.raw, index := m.idx, tag := cTag m.raw }
    (count 8 (some w) 1 (descWrite c 0x14 (leBytes 4 (ctxAt d c).cplTail.toNat) d))) := by
  simp only [retireCmd, retireNow_record hs hberth hcmd hdone hsig hnp hact hd, Bool.false_eq_true, if_false]

end

theorem objFree_retires {c i : Nat} {b : Block} {m : Cmd} (hcmd : cmdAt b c i = some m) (hfree : isFree m.raw = true) :
    objFree c i b = retireCmd c i b := by
  simp only [objFree, hcmd, hfree, if_true]

end Sys2Proof.Machine
end

section
/-! The statement of commands that start and retire. -/

open Sys2Proof Sys2Proof.Machine

/-- Settles O40: the oldest command's three ways within its slice, and the record of a finished one. -/
theorem commandsStartAndRetire : Obligations.CommandsStartAndRetire := by
  intro s c w i m ha hs hberth
  refine ⟨fun hold hact hslice => ⟨fun hwait => ?poison, fun hwait hunit => ?busy, fun hres hwait hunit hcould => ?starts⟩,
    fun code b1 b2 hcmd hdone hsig hnp hact hb1 hb2 => ?retires⟩
  case poison => exact begins_of_powered ha hs rfl (startCmd_waitFailed hberth hold hact hslice hwait)
  case busy => exact begins_of_powered ha hs rfl (startCmd_unitOff hberth hold hact hslice hwait hunit)
  case starts => exact begins_of_powered ha hs rfl (startCmd_starts hberth hold hact hslice hwait hunit hres hcould)
  case retires =>
    have hretire : retireCmd c i s.blk = b2 := (retireCmd_record hs hberth hcmd hdone hsig hnp hact hb1).trans hb2.symm
    exact ⟨begins_of_powered ha hs rfl hretire, fun hfree => begins_of_running ha rfl ((objFree_retires hcmd hfree).trans hretire)⟩

end

section
/-!
What the CTRL commands make of a command that waits to be run, said once (R229, R281, R282, R292, R297, R298), and what an OBJ_FREE makes
of its entry (R281, R283).
-/

namespace Sys2Proof.Machine

/-! ### Work that commands leave -/

@[simp] theorem finishCmd_work (c i : Nat) (code : Byte) (detail : Word) (b : Block) : (finishCmd c i code detail b).work = b.work := rfl

theorem newObj_work {w k : Nat} {kind : ObjKind} {b d : Block} (h : newObj w kind b = some (k, d)) : d.work = b.work := by
  by_cases hroom : lowestFree (usedObjs b) < 65536
  · exact congrArg (fun p : Nat × Block => p.2.work) (Option.some.inj (h.symm.trans (if_pos hroom)))
  · exact nomatch h.symm.trans (if_neg hroom)

@[simp] theorem emptyLine_work (l : Nat) (b : Block) : (emptyLine l b).work = b.work := by
  rw [emptyLine, modTag, modHold_work, zeroLine, putLine, modHold_work]

@[simp] theorem emptyLines_work (ls : List Nat) (b : Block) : (ls.foldl (fun b l => emptyLine l b) b).work = b.work := by
  induction ls generalizing b with
  | nil => rfl
  | cons l ls ih => rw [List.foldl_cons, ih, emptyLine_work]

/-! ### Commands that wait to be run -/

section
variable {s : State} {c i op w : Nat} {m : Cmd}

theorem runCmd_waits (hw : ctrlWaits s c i op w m) (h : Nat → Cmd → Block → Block) : runCmd c i 0 op h s.blk = h w m s.blk := by
  obtain ⟨-, hs, hberth, hcmd, hstarted, hdone, hissued, hunit, hop⟩ := hw
  have hwaits : m.started = true ∧ m.done.isNone = true ∧ (!m.issued) = true ∧ cUnit m.raw = 0 ∧ cOper m.raw = op ∧
      s.blk.slip.st = .idle :=
    ⟨hstarted, by rw [hdone]; rfl, by rw [hissued]; rfl, hunit, hop, hs⟩
  simp only [runCmd, hberth, hcmd, if_pos hwaits]

theorem nopCmd_waits (hw : ctrlWaits s c i 0 w m) : nopCmd c i s.blk = finishCmd c i cOk 0 s.blk := runCmd_waits hw _

/-- A fence without a mirror answers its handle (R292, R304). -/
theorem fenceNew_waits (hw : ctrlWaits s c i 1 w m) (hmirror : cWord m.raw 0x28 = 0) {f : Nat} {b : Block}
    (hnew : newFence w (BitVec.ofNat 64 (fieldLE m.raw 0x30 8)) none s.blk = some (f, b)) :
    fenceNew c i s.blk = finishCmd c i cOk (handleOf (fenceAt b f).gen f) b :=
  (runCmd_waits hw _).trans (by simp only [hmirror, if_true, hnew])

theorem resetFence_sound {k : Nat} {b : Block} (h : (fenceAt b k).state ≠ .error) :
    resetFence k b = (cOk, changeFence k (fun f => { f with state := .unsignalled }) b) :=
  if_neg h

theorem fenceReset_waits (hw : ctrlWaits s c i 2 w m) (hsound : (fenceAt s.blk (fieldLE m.raw 0x28 2)).state ≠ .error) :
    fenceReset c i s.blk =
      finishCmd c i cOk 0 (changeFence (fieldLE m.raw 0x28 2) (fun f => { f with state := .unsignalled }) s.blk) :=
  (runCmd_waits hw _).trans (by simp only [resetFence_sound hsound])

/-- A buffer that fits takes an entry and answers its handle (R281, R292). -/
theorem bufferNew_fits (hw : ctrlWaits s c i 3 w m) (hfits : bufferFits s.blk w (fieldLE m.raw 0x30 2) (fieldLE m.raw 0x32 2)
      (fieldLE m.raw 0x34 2) (fieldLE m.raw 0x38 4) = true) {k : Nat} {b : Block}
    (hnew : newObj w (.buffer (fieldLE m.raw 0x30 2) (fieldLE m.raw 0x32 2) (fieldLE m.raw 0x34 2) (fieldLE m.raw 0x38 4)) s.blk =
      some (k, b)) :
    bufferNew c i s.blk = finishCmd c i cOk (handleOf (objAt b k).gen k) b :=
  (runCmd_waits hw _).trans (by simp only [hfits, hnew, Bool.not_true, Bool.false_eq_true, if_false])

theorem bufferNew_misfits (hw : ctrlWaits s c i 3 w m) (hfits : bufferFits s.blk w (fieldLE m.raw 0x30 2) (fieldLE m.raw 0x32 2)
      (fieldLE m.raw 0x34 2) (fieldLE m.raw 0x38 4) = false) : bufferNew c i s.blk = finishCmd c i cDenied 0 s.blk :=
  (runCmd_waits hw _).trans (by simp only [hfits, Bool.not_false, if_true])

theorem recycle_now {ls : List Nat} {b : Block} (hready : recycleReady b ls = true) (sig : Option Deferred) (op : OpRef) :
    recycle ls sig op b = (cOk, ls.foldl (fun b l => emptyLine l b) b) :=
  if_pos hready

theorem recycleCmd_waits (hw : ctrlWaits s c i 5 w m) {ls : List Nat}
    (hls : ls = objLines s.blk (fieldLE m.raw 0x28 2) (fieldLE m.raw 0x30 4) (fieldLE m.raw 0x34 4))
    (hready : recycleReady s.blk ls = true) :
    recycleCmd c i s.blk = finishCmd c i cOk 0 (ls.foldl (fun b l => emptyLine l b) s.blk) := by
  subst hls
  exact (runCmd_waits hw _).trans (by simp only [recycle_now hready])

/-- A COPY takes the lowest channel that is free, and goes as far as its lines let it (R292, R412). -/
theorem copyCmd_waits (hw : ctrlWaits s c i 6 w m) {k : Nat} (hfree : freeChannel s.blk = some k) (errs : List LineErr) :
    copyCmd c i errs s.blk = copyGo c i { modCmd c i (fun m => { m with issued := true }) s.blk with
      copies := s.blk.copies ++ [{ chan := k, ctx := c, idx := i, count := fieldLE m.raw 0x38 4, errs := errs }] } :=
  (runCmd_waits hw _).trans (by simp only [hfree]; rfl)

/-- A SEND whose lines are ready is queued on its crossing, which has not failed (R227, R292). -/
theorem sendCmd_waits (hw : ctrlWaits s c i 7 w m) {n x : Nat} {ls : List Nat} {ts : List TxItem}
    (hxing : xingOfObj s.blk (fieldLE m.raw 0x2C 2) = some (n, x)) (hst : (xingAt s.blk n x).st ≠ .failed)
    (hls : ls = objLines s.blk (fieldLE m.raw 0x28 2) (fieldLE m.raw 0x30 4) (fieldLE m.raw 0x3C 4))
    (hready : readState s.blk ls = .ready)
    (hts : ts = lineItems 1 0 (fieldLE m.raw 0x34 4) (.cmd c i) ls.length ls (fieldLE m.raw 0x38 4)) :
    sendCmd c i s.blk = enqueue n x ts (modCmd c i (fun m => { m with issued := true, need := ts.length }) s.blk) := by
  subst hls hts
  exact (runCmd_waits hw _).trans (by simp only [hxing, hst, hready, if_false])

end

/-! ### Freeing an entry -/

section
variable {b : Block} {k : Nat}

theorem deferredFree_fence (href : referenced b true k = false) (hst : (fenceAt b k).st = .freeing) :
    deferredFree true k b = deferredSignal (fenceAt b k).sig (finishFree true k b) := by
  simp [deferredFree, href, hst]

theorem deferredFree_buffer (href : referenced b false k = false) (hst : (objAt b k).st = .freeing)
    (hready : recycleReady b (freedLines b k) = true) :
    deferredFree false k b = deferredSignal (objAt b k).sig (finishFree false k b) := by
  simp [deferredFree, href, hst, hready]

/-- A fence whose free has been accepted: FREEING under its next generation, with the signal that its end performs (R281, R283). -/
def fenceFreeing (k : Nat) (sig : Option Deferred) (b : Block) : Block :=
  later (.fenceFreed k) (modFence k (fun f => { f with st := .freeing, gen := nextGen f.gen, sig := sig }) b)

theorem acceptFree_fence (k : Nat) (sig : Option Deferred) (b : Block) : acceptFree true k sig b =
    if referenced b true k then (cPending, fenceFreeing k sig b) else (cOk, finishFree true k (fenceFreeing k sig b)) := by
  simp only [acceptFree, fenceFreeing, Bool.not_true, Bool.false_and, Bool.or_false, if_true]

theorem acceptFree_unusedFence (href : referenced b true k = false) (sig : Option Deferred) :
    acceptFree true k sig b = (cOk, finishFree true k (fenceFreeing k sig b)) :=
  (acceptFree_fence k sig b).trans (if_neg (ne_true_of_eq_false href))

theorem acceptFree_usedFence (href : referenced b true k = true) (sig : Option Deferred) :
    acceptFree true k sig b = (cPending, fenceFreeing k sig b) :=
  (acceptFree_fence k sig b).trans (if_pos href)

/-- A buffer that a command names, or with a line pinned or without its verdict, waits FREEING with its lines (R281, R283). -/
theorem acceptFree_usedBuffer (hused : referenced b false k = true ∨ recycleReady b (allLines b k) = false) (sig : Option Deferred) :
    acceptFree false k sig b =
      (cPending, modObj k (fun o => { o with st := .freeing, gen := nextGen o.gen, sig := sig, lines := allLines b k }) b) := by
  have hbusy : (referenced b false k || (!false && !recycleReady b (allLines b k))) = true := by
    rcases hused with h | h <;> simp [h]
  exact if_pos hbusy

/-- In a canonical table a changed fence is read back. -/
theorem fenceAt_modFence_canon (h : tcanon {} b.fences = true) (f : Fence → Fence) : fenceAt (modFence k f b) k = f (fenceAt b k) :=
  tget_tset_canon k _ h

/-- A fence freed at its acceptance keeps its next generation and nothing else. -/
theorem fenceAt_finishFree_fenceFreeing (h : tcanon {} b.fences = true) (sig : Option Deferred) :
    fenceAt (finishFree true k (fenceFreeing k sig b)) k = { gen := nextGen (fenceAt b k).gen } := by
  have hfreeing : tcanon {} (fenceFreeing k sig b).fences = true := tcanon_tset k _ h
  have hgen : (fenceAt (fenceFreeing k sig b) k).gen = nextGen (fenceAt b k).gen := congrArg Fence.gen (tget_tset_canon k _ h)
  exact (fenceAt_modFence_canon hfreeing _).trans (by rw [hgen])

end

/-- A block whose fence table lists entry 0 twice, both LIVE, the first in its last generation. No run makes such a table: it begins empty,
and `tset` alone writes it. -/
def fenceListedTwice : Block := { fences := [(0, { st := .live, gen := 0xFFFF }), (0, { st := .live })] }

end Sys2Proof.Machine
end

section
/-! The statement of the CTRL commands: it fails, and only of a fence table out of canonical form. -/

open Sys2Proof Sys2Proof.Machine

/-- Refutes O41: it asks of every block that a freed fence reads FREE, also where the table lists it twice. There the generation after the
last is that of an unlisted fence, so the write drops the first entry, and the fence reads as the second, which is LIVE. -/
theorem not_objectCommandsAct : ¬ Obligations.ObjectCommandsAct := by
  rintro ⟨-, hfree, -⟩
  obtain ⟨-, -, -, hst, -⟩ := hfree fenceListedTwice _ 0 none rfl
  exact absurd hst (by decide)

/-- The first part of O41. -/
theorem objectCommands_complete : objectCommandsComplete := by
  intro s c i w m
  refine ⟨fun hw => ?nop, fun f b hw hmirror hnew => ?fenceNew, fun hw hsound => ?fenceReset, fun k b hw hfits hnew => ?fits,
    fun hw hfits => ?misfits⟩
  case nop => exact becomes_of_running hw.1 rfl (nopCmd_waits hw) hw.1.2.2
  case fenceNew => exact begins_of_running hw.1 rfl (fenceNew_waits hw hmirror hnew)
  case fenceReset => exact begins_of_running hw.1 rfl (fenceReset_waits hw hsound)
  case fits => exact becomes_of_running hw.1 rfl (bufferNew_fits hw hfits hnew) ((newObj_work hnew).trans hw.1.2.2)
  case misfits => exact becomes_of_running hw.1 rfl (bufferNew_misfits hw hfits) hw.1.2.2

/-- The second part of O41, of every block whose fence table is in canonical form, the form in which every write leaves it
(`tcanon_tset`). -/
theorem objFree_acts_of_canonical (b f : Block) (k : Nat) (sig : Option Deferred) (hcanon : tcanon {} b.fences = true)
    (hf : f = later (.fenceFreed k) (modFence k (fun f => { f with st := .freeing, gen := nextGen f.gen, sig := sig }) b)) :
    (referenced b true k = false → acceptFree true k sig b = (cOk, finishFree true k f)) ∧
    (referenced b true k = true → acceptFree true k sig b = (cPending, f)) ∧
    (referenced b false k = true ∨ recycleReady b (allLines b k) = false → acceptFree false k sig b =
      (cPending, modObj k (fun o => { o with st := .freeing, gen := nextGen o.gen, sig := sig, lines := allLines b k }) b)) ∧
    (fenceAt (finishFree true k f) k).st = .free ∧ (fenceAt (finishFree true k f) k).gen = nextGen (fenceAt b k).gen := by
  obtain rfl : f = fenceFreeing k sig b := hf
  have hfreed := fenceAt_finishFree_fenceFreeing (k := k) hcanon sig
  exact ⟨fun href => acceptFree_unusedFence href sig, fun href => acceptFree_usedFence href sig,
    fun hused => acceptFree_usedBuffer hused sig, congrArg Fence.st hfreed, congrArg Fence.gen hfreed⟩

/-- The third part of O41. -/
theorem freeRecycleCopySend_act : freeRecycleCopySend := by
  intro s c i w m
  refine ⟨fun k ha href hst => ?fence, fun k ha href hst hready => ?buffer, fun ls hw hls hready => ?recycle,
    fun k hw hfree errs => ?copy, fun n x ls ts hw hxing hst hls hready hts => ?send⟩
  case fence => exact begins_of_running ha rfl (deferredFree_fence href hst)
  case buffer => exact begins_of_running ha rfl (deferredFree_buffer href hst hready)
  case recycle =>
    exact becomes_of_running hw.1 rfl (recycleCmd_waits hw hls hready) ((emptyLines_work ls s.blk).trans hw.1.2.2)
  case copy => exact begins_of_running hw.1 rfl (copyCmd_waits hw hfree errs)
  case send => exact begins_of_running hw.1 rfl (sendCmd_waits hw hxing hst hls hready hts)

end
